-- ==== Sys2Proof/Word.lean ====
section
/-!
DEFINITION. The word types of the model and their plainest arithmetic.
-/

namespace Sys2Proof

/-- A 32-bit word: an engine scalar or one vector lane (R153). -/
abbrev W32 := BitVec 32

/-- A 64-bit word: the width of a register-file slot, a memory word and a descriptor word. -/
abbrev W64 := BitVec 64

/-- One byte of memory. -/
abbrev Byte := BitVec 8

/-- A truth value as a number, for a one-bit register field. -/
def bit (b : Bool) : Nat := if b then 1 else 0

/-- Lane values of one engine vector register: eight 32-bit lanes, lane 0 least significant (R153). -/
abbrev Lanes := Vector W32 8

/-- Lane values of one engine accumulator: eight 72-bit lanes (R153). -/
abbrev AccLanes := Vector (BitVec 72) 8

end Sys2Proof
end

