-- ==== Sys2Proof/Machine/Bits.lean ====
section
/-!
DEFINITION. Bit fields of words, sign extension and byte order (R12: bit 0 least significant, memory and
descriptors little-endian).
-/

namespace Sys2Proof.Machine

/-- Field [hi:lo] of a word, as a number. -/
def fieldOf {w : Nat} (x : BitVec w) (hi lo : Nat) : Nat := x.toNat / 2 ^ lo % 2 ^ (hi + 1 - lo)

/-- A word with field [hi:lo] set to `v` modulo the field's range and every other bit unchanged. -/
def setField {w : Nat} (x : BitVec w) (hi lo v : Nat) : BitVec w :=
  BitVec.ofNat w (x.toNat / 2 ^ (hi + 1) * 2 ^ (hi + 1) + v % 2 ^ (hi + 1 - lo) * 2 ^ lo + x.toNat % 2 ^ lo)

/-- Bit `n` of a number. -/
def nbit (x n : Nat) : Bool := x / 2 ^ n % 2 == 1

/-- Field [hi:lo] of a number. -/
def nfield (x hi lo : Nat) : Nat := x / 2 ^ lo % 2 ^ (hi + 1 - lo)

/-- A `w`-bit field of a number read as two's complement. -/
def signedOf (w x : Nat) : Int := if x / 2 ^ (w - 1) % 2 = 1 then (x % 2 ^ w : Nat) - (2 ^ w : Nat) else (x % 2 ^ w : Nat)

/-- A number from little-endian bytes. -/
def ofBytes : List Byte → Nat
  | [] => 0
  | b :: bs => b.toNat + 256 * ofBytes bs

/-- The low `n` bytes of a number, least significant first. -/
def toBytes : Nat → Nat → List Byte
  | 0, _ => []
  | n + 1, x => BitVec.ofNat 8 x :: toBytes n (x / 256)

/-- A little-endian field of a list of bytes. -/
def leAt (l : List Byte) (off n : Nat) : Nat := ofBytes ((l.drop off).take n)

/-- The number with bit `n` set to `b`. -/
def setBit (x n : Nat) (b : Bool) : Nat :=
  x - (x / 2 ^ n % 2) * 2 ^ n + (if b then 2 ^ n else 0)

/-- How many of the low `n` bits of a number are 1. -/
def popCount : Nat → Nat → Nat
  | 0, _ => 0
  | n + 1, x => x % 2 + popCount n (x / 2)

/-- Addition that stops at the greatest value of a `w`-bit counter. -/
def satAdd (w a b : Nat) : Nat := min (a + b) (2 ^ w - 1)

end Sys2Proof.Machine
end

