-- ==== Sys2Proof/Machine/Table.lean ====
section
/-!
DEFINITION. Sparse tables: the canonical form of every keyed store of the state. A table is a list of (key, value)
pairs with strictly rising keys, none of whose values is the one an unlisted key holds.
-/

namespace Sys2Proof.Machine

/-- A sparse table. -/
abbrev Table (α : Type) := List (Nat × α)

/-- What a table holds at a key; an unlisted key holds `dflt` of the key. -/
def Table.peek {α : Type} (dflt : Nat → α) : Table α → Nat → α
  | [], k => dflt k
  | (j, v) :: t, k => if k < j then dflt k else if k = j then v else Table.peek dflt t k

/-- The table with one key changed, kept in canonical form: a value equal to the default leaves no entry. -/
def Table.poke {α : Type} [DecidableEq α] (dflt : Nat → α) : Table α → Nat → α → Table α
  | [], k, v => if v = dflt k then [] else [(k, v)]
  | (j, u) :: t, k, v =>
    if k < j then (if v = dflt k then (j, u) :: t else (k, v) :: (j, u) :: t)
    else if k = j then (if v = dflt k then t else (k, v) :: t)
    else (j, u) :: Table.poke dflt t k v

/-- Every key of a table is above a bound. -/
def Table.above {α : Type} (b : Nat) : Table α → Bool
  | [] => true
  | (j, _) :: t => decide (b < j) && Table.above b t

/-- The canonical form: keys strictly rising, no listed value equal to the default of its key. -/
def Table.wf {α : Type} [DecidableEq α] (dflt : Nat → α) : Table α → Bool
  | [] => true
  | (j, v) :: t => Table.above j t && decide (v ≠ dflt j) && Table.wf dflt t

/-- The table with every key that `p` names back at its default. -/
def Table.clearIf {α : Type} (p : Nat → Bool) : Table α → Table α
  | [] => []
  | (j, v) :: t => if p j then Table.clearIf p t else (j, v) :: Table.clearIf p t

/-- `poke` over a list of pairs, in order. -/
def Table.pokes {α : Type} [DecidableEq α] (dflt : Nat → α) (t : Table α) : List (Nat × α) → Table α
  | [] => t
  | (k, v) :: kvs => Table.pokes dflt (Table.poke dflt t k v) kvs

end Sys2Proof.Machine
end

