-- ==== Sys2Proof/Machine/Types.lean ====
section
/-!
DEFINITION. The plain data that commands carry and the state holds: messages, descriptors, fabric and engine
configuration, context images.
-/

namespace Sys2Proof.Machine

/-! ### Network messages and descriptors -/

/-- A message of the package network with the header fields of R210. `len1` is LEN_M1, `rsv` the reserved header
bits, `prov` and `poison` the sideband marks of its flits (R198). -/
structure Msg where
  op : BitVec 8
  trail : BitVec 12
  tag : BitVec 16
  len1 : BitVec 8 := 0
  addr : BitVec 48 := 0
  ctx : BitVec 10 := 0x3FF
  obs : Bool := false
  ord : Bool := false
  status : BitVec 8 := 0
  tcrc : BitVec 32 := 0
  operand : BitVec 96 := 0
  rsv : BitVec 16 := 0
  data : List Byte := []
  prov : Bool := false
  poison : Bool := false
  deriving DecidableEq, Repr

/-- Bytes a message names (LEN of R210). -/
def Msg.len (m : Msg) : Nat := m.len1.toNat + 1

/-- A descriptor of a ring (R307): the ring, its index modulo 2N, and its eight words. -/
structure Desc where
  ring : Fin 256
  index : BitVec 17
  w0 : W64
  w1 : W64
  w2 : W64 := 0
  w3 : W64 := 0
  w4 : W64 := 0
  w5 : W64 := 0
  w6 : W64 := 0
  w7 : W64 := 0
  deriving DecidableEq, Repr

/-- Who issued a request and receives its completion. -/
inductive Requester where
  | port (i port : Nat)          -- island port, for the fabric
  | dm (i chan : Nat)            -- data-mover channel
  | unit (vpid : Nat)            -- another endpoint, by its VPID
  deriving DecidableEq, Repr

/-- Where an operation comes from: a descriptor of the host, or the message under a tag. -/
inductive Origin where
  | host (d : Desc)
  | msg (tag : BitVec 16)
  deriving DecidableEq, Repr

/-- An outstanding request, kept by its requester under the tag (R216). -/
structure Txn where
  trail : Nat
  op : Nat
  addr : Nat
  len : Nat
  who : Requester
  no : Nat := 0             -- place in the order of issue
  start : Nat := 0          -- timebase at the header's handshake
  prov : Bool := false      -- provisional data presented, verdict outstanding (R277)
  deriving DecidableEq, Repr

/-- A trail of the trail table: descriptor fields of R204 and the route of R201. -/
structure Trail where
  state : Nat := 0
  dst : Nat := 0
  src : Nat := 0
  owner : Nat := 0
  reserved : Bool := false
  crcEn : Bool := false
  assign : Bool := false    -- the device chose the ID (ASSIGN)
  bePrio : Nat := 0
  demoted : Bool := false
  fu : Nat := 0
  ru : Nat := 0
  fb : Nat := 0
  rb : Nat := 0
  srcBrg : Nat := 0
  dstBrg : Nat := 0
  cred : Nat := 0
  winBase : Nat := 0
  winLog2 : Nat := 0
  bound : Nat := 0
  nr : Nat := 0
  nh : Nat := 0
  nb : Nat := 0
  bmax : Nat := 0
  sbUsed : Nat := 0
  dbUsed : Nat := 0
  fwd : List Nat := []      -- links of the request route
  ret : List Nat := []      -- links of the response route
  seq : Nat := 0            -- place in the admission order
  used : Nat := 0           -- credits in use
  tok : Nat := 0            -- token bucket, in 1/32 flit
  tokAt : Nat := 0          -- timebase of the bucket's last update
  closers : List Desc := []      -- the TRAIL_CLOSE descriptors that wait
  deriving DecidableEq, Repr

/-! ### Engine slots (chapter 6) -/

/-- The modifier of a move (R187): an XM or YM register, or a signed immediate. -/
inductive Modifier where
  | reg (n : Fin 4)
  | imm (v : BitVec 12)
  deriving DecidableEq, Repr

/-- Two-source scalar operations of the control slot (R183). -/
inductive Alu where
  | add | sub | and | or | xor | shl | shr | sar | mul | mulh | slt | sltu | min | max
  deriving DecidableEq, Repr

/-- Scalar operations with an immediate. -/
inductive AluI where
  | addi | andi | ori | shli | shri | sari
  deriving DecidableEq, Repr

/-- A decoded control slot. Register pairs are named by their even register divided by two. -/
inductive Ctl where
  | nop
  | alu (f : Alu) (d a b : Fin 16)
  | alui (f : AluI) (d a : Fin 16) (imm : BitVec 18)
  | li (d : Fin 16) (imm : BitVec 22)
  | lui (d : Fin 16) (imm : BitVec 16)
  | movtc (sreg : Fin 16) (creg : Fin 57)
  | movfc (sreg : Fin 16) (creg : Fin 57)
  | vext (d a : Fin 16) (lane : Fin 8)
  | vins (d a : Fin 16) (lane : Fin 8)
  | br (cond : Fin 7) (a : Fin 16) (target : BitVec 11)
  | call (target : BitVec 11)
  | ret | rti | brk | wdk
  | loopi (count : BitVec 16) (len : BitVec 10)
  | loop (a : Fin 16) (len : BitVec 10)
  | lexit | lock | unlk
  | dmpush (a b : Fin 8) (ch : Fin 4) (wait : Bool)
  | dmstat (d : Fin 16) (ch : Fin 4)
  | sin (d : Fin 8) (port : Fin 2)
  | sout (a : Fin 8) (port : Fin 2)
  | vsin (d : Fin 16) (port : Fin 2)
  | vsout (a : Fin 16) (port : Fin 2)
  | bfopen (guard : Fin 8)
  | bfclose
  deriving DecidableEq, Repr

/-- Operations of a move slot (R188). -/
inductive MoveOp where
  | ldv | stv | lds | sts | ldvb | staq | moda
  deriving DecidableEq, Repr

/-- A decoded move slot. -/
inductive Move where
  | mnop
  | op (f : MoveOp) (reg : Fin 16) (an : Fin 8) (m : Modifier)
  deriving DecidableEq, Repr

/-- Operations of the vector slot (R190). -/
inductive VecOp where
  | vnop | vmov | vaddq | vsubq | vmulq | vshq | vabsq | vminq | vmaxq | vand | vor | vxor | vaddi | vaddk | vbc
  | vrot | vidx | mpyq | macq | msuq | aldq | aadd | aclr | amov | aredq | vaddf | vsubf | vmulf | vfmaf | vfnmf
  | vminf | vmaxf | vabsf | vnegf | vredf | vcvtqf | vcvtfq | srinit | vsrch | vsred
  deriving DecidableEq, Repr

/-- A decoded vector slot; fields an operation does not use are 0. -/
structure Vec where
  op : VecOp := .vnop
  d : Fin 16 := 0
  a : Fin 16 := 0
  b : Fin 16 := 0
  c : Fin 16 := 0
  wm : BitVec 8 := 0
  imm : BitVec 18 := 0
  deriving DecidableEq, Repr

/-- A decoded bundle (R176). -/
structure Bundle where
  c : Ctl := .nop
  x : Move := .mnop
  y : Move := .mnop
  v : Vec := {}
  deriving DecidableEq, Repr

/-- Who accesses a memory word (R139). -/
inductive MemUser where
  | fabric (portB : Bool) (i : Fin 256) (bm : Fin 96)   -- a port of a block memory
  | fetch                     -- engine instruction fetch
  | operand                   -- engine operand read
  | mover (chan : Fin 4)      -- data-mover channel
  | hostDma (ring : Fin 256)  -- host engine's channel of a ring
  | lookoutFetch
  | lookoutData
  | network                   -- requester on the package network
  | switchback
  deriving DecidableEq, Repr

/-- An access to a memory: a DPA, or for the fabric the entry number of the port. -/
inductive MemAccess where
  | read (who : MemUser) (addr : BitVec 48)
  | write (who : MemUser) (addr : BitVec 48) (data : BitVec 72) (en : BitVec 8)
  deriving DecidableEq, Repr

/-- A read of a number of bytes or a write of bytes. -/
inductive Access where
  | read (len : Nat)
  | write (data : List Byte)
  deriving DecidableEq, Repr

/-! ### Fabric configuration (chapter 2) -/

/-- What drives an input or a wire of the fabric (R68–R70): a constant, an output of a cell (0 X, 1 Y, 2 XQ, 3 YQ; cells are
numbered 16·tile + n, tiles u + 48·v), a macrocell output, a tile-to-tile wire by its number (`wireTaps`), a bit of a MAC slice's
SUM, a border cell's input (512·side + cell), WR_READY or RD_VALID of a border group (16·side + group), or input `n` of the island
from a pin, a block memory, a port or the engine. -/
inductive Sig where
  | const (b : Bool)
  | cell (c : Nat) (out : Fin 4)
  | mo (tile : Nat) (m : Fin 4)
  | wire (n : Nat)
  | mac (k : Nat) (bit : Nat)
  | border (cell : Nat)
  | flow (group : Nat)
  | inp (n : Nat)
  deriving DecidableEq, Repr

/-- Settings of one flip-flop (R50). -/
structure FfCfg where
  latch : Bool := false
  ceuse : Bool := false
  sruse : Bool := false
  srval : Bool := false
  init : Bool := false
  deriving DecidableEq, Repr

/-- Settings of one cell (R50) with the drivers of its eight inputs. TMODE 0 T6, 1 SPLIT, 2 CARRY; YSEL 0 LOW,
1 SEL, 2 COUT; GSEL 0 TAB, 1 AX, 2 F; CINSEL 0 ZERO, 1 ONE, 2 AY, 3 CHAIN; SEL0C and SEL1C 0 LIVE, 1 ZERO, 2 ONE. -/
structure CellCfg where
  table : W64 := 0
  tmode : Fin 3 := 0
  xsum : Bool := false
  ysel : Fin 3 := 0
  gsel : Fin 3 := 0
  cinsel : Fin 4 := 0
  xaux : Bool := false
  yaux : Bool := false
  sel0 : Fin 3 := 0
  sel1 : Fin 3 := 0
  xff : FfCfg := {}
  yff : FfCfg := {}
  a : Sig := .const false
  b : Sig := .const false
  c : Sig := .const false
  d : Sig := .const false
  e : Sig := .const false
  f : Sig := .const false
  ax : Sig := .const false
  ay : Sig := .const false
  deriving DecidableEq, Repr

/-- A control set (R58): CLK none = OFF; CE none = constant 1; SR none = constant 0. -/
structure CtlSet where
  clk : Option (Fin 4) := none
  inv : Bool := false
  ce : Option Sig := none
  sr : Option Sig := none
  async : Bool := false
  deriving DecidableEq, Repr

/-- A macrocell (R65). MCMODE 0 D, 1 T, 2 LATCH; `cs` false CS0, true CS1. -/
structure McCfg where
  ptsr : Bool := false
  ptce : Bool := false
  casc : Bool := false
  xpt : Bool := false
  pol : Bool := false
  reg : Bool := false
  mode : Fin 3 := 0
  cs : Bool := false
  sumEn : BitVec 8 := 0
  fbsel : Bool := false
  ff : FfCfg := {}
  deriving DecidableEq, Repr

/-- A tile's control sets and term strip (R58, R64): S0–S23, the 32 product terms as sets of 48 literals (bits 0–23
the inputs, 24–47 their complements), and the four macrocells. -/
structure TileCfg where
  cs0 : CtlSet := {}
  cs1 : CtlSet := {}
  strip : List Sig := []
  terms : List (BitVec 48) := []
  mc : List McCfg := []
  deriving DecidableEq, Repr

/-- A MAC slice (R72–R74). PRE 0 OFF, 1 ADD, 2 SUB. -/
structure MacCfg where
  clk : Fin 4 := 0
  pre : Fin 3 := 0
  sat : Bool := false
  eU : Bool := false
  eV : Bool := false
  eM : Bool := false
  eK : Bool := false
  ePre : Bool := false
  eProd : Bool := false
  eSum : Bool := false
  u : List Sig := []
  v : List Sig := []
  m : List Sig := []
  k : List Sig := []
  op : List Sig := []
  ce : Sig := .const true
  rst : Sig := .const false
  deriving DecidableEq, Repr

/-- Stage registers of a MAC slice (R74). -/
structure MacRegs where
  u : BitVec 27 := 0
  v : BitVec 27 := 0
  m : BitVec 27 := 0
  k : W64 := 0
  pre : BitVec 27 := 0
  mbal : BitVec 27 := 0
  prod : W64 := 0
  op : BitVec 3 := 0
  sum : W64 := 0
  ovf : Bool := false
  deriving DecidableEq, Repr

/-- A block memory's settings (R112–R117). `fam72`: the 72 family; port widths are 2^wA and 2^wB lanes or bits; `clkA` and `clkB`
name the ports' clocks; write mode 0 WRITE_FIRST, 1 READ_FIRST, 2 NO_CHANGE; `prioB`: PRIORITY names port B. -/
structure BmCfg where
  fam72 : Bool := false
  ecc : Bool := false
  window : Bool := false
  wA : Fin 7 := 6
  wB : Fin 7 := 6
  clkA : Fin 4 := 0
  clkB : Fin 4 := 0
  modeA : Fin 3 := 0
  modeB : Fin 3 := 0
  prioB : Bool := false
  deriving DecidableEq, Repr

/-- A border port group (R83–R88). Mode 0 unused, 1 joined, 2 handshake sending, 3 handshake receiving; policy
0 HOLD, 1 ZERO, 2 ONE; in joined mode bit n of `outs` makes cell n an output. `sigs` drive the cells that send, `valid` drives
WR_VALID of a sending handshake group or RD_READY of a receiving one. -/
structure GroupCfg where
  mode : Fin 4 := 0
  policy : Fin 3 := 0
  clk : Fin 4 := 0
  outs : BitVec 32 := 0
  sigs : List Sig := []
  valid : Sig := .const false
  deriving DecidableEq, Repr

/-- What the fabric drives on a pin (R363): up to four output bits of one cycle of an island clock, 2^`ser` of them in use, and the
output enable; `pll`: the bank PLL clocks it. -/
structure PadCfg where
  out : List Sig := []
  enable : Sig := .const false
  ser : Fin 3 := 0
  clk : Fin 4 := 0
  pll : Bool := false
  deriving DecidableEq, Repr

/-- Image values of a signal engine (R145, R175). -/
structure EngImage where
  autoStart : Bool := false
  merrTrap : Bool := false
  trapEn : Bool := false
  startPc : BitVec 11 := 0
  vec : BitVec 11 := 0
  wdogEn : Bool := false
  wdogLoad : W32 := 0
  sema : BitVec 56 := 0
  deriving DecidableEq, Repr

/-- The configuration of one island: what its frames and memory segment set. The frames' bit layout is not in the
manual, so the model carries what they configure (assumption log 7). -/
structure IslandCfg where
  cells : Table CellCfg := []
  tiles : Table TileCfg := []
  macs : Table MacCfg := []
  bms : Table BmCfg := []
  groups : Table GroupCfg := []          -- 16·side + group
  wires : Table Sig := []                -- the driver of each tile-to-tile wire (R69, R70); undriven ones are 0
  eng : EngImage := {}
  mem : List (Nat × W64) := []           -- initial words: island-window offset, data
  memHi : List (Nat × Byte) := []        -- initial bits [71:64] of rows of the 72 family: offset of the row's word, byte
  safe : Option (BitVec 96) := none      -- safe states of the attached GPIO bank (R364)
  pins : Option Nat := none              -- VCCIO class the bank's standards need (R365)
  pads : Table PadCfg := []              -- what drives the pins of the attached bank, by pin (R363)
  crc : W32 := 0                         -- CRC of the configuration frames
  bits : Nat := 0                        -- frame bits (R247)
  deriving DecidableEq, Repr

/-- A declared channel of a context image (R231). -/
structure Channel where
  valid : Bool := false
  required : Bool := false
  ord : Nat := 0
  side : Nat := 0
  group : Nat := 0
  partner : Nat := 0
  pord : Nat := 0
  rsv : Nat := 0
  deriving DecidableEq, Repr

/-- A context image as CTX_REGISTER decodes it (`imageOf`, R231): the header fields, the lists they point to, and the verdicts
of the hash and the signature check. -/
structure Image where
  magic : W32 := 0x5846434D
  fmtVer : BitVec 16 := 1
  hdrLen : BitVec 16 := 512
  deviceId : W32 := 0
  shape : BitVec 8 := 0
  rowClass : BitVec 8 := 0
  dieMask : BitVec 8 := 0
  xMask : BitVec 8 := 0
  yMask : BitVec 8 := 0
  prio : BitVec 8 := 0
  restore : BitVec 8 := 0
  flags : BitVec 8 := 0
  reqCap : W32 := 0
  quantumUs : W32 := 0
  quiesceTmoUs : W32 := 0
  deepQuota : W32 := 0
  imageLen : W32 := 512
  segEnd : Nat := 512                    -- greatest end of a segment the header names
  trlN : BitVec 16 := 0
  chnN : BitVec 16 := 0
  stateBits : W32 := 0
  rsv : Bool := false                    -- a reserved header field is non-zero
  clocks : List W64 := []                -- CLOCK[0–15]
  channels : List Channel := []
  trails : List (W64 × W64 × W64 × W64) := []
  saveMap : List (BitVec 96) := []       -- per island, block memories to save
  islands : List IslandCfg := []         -- per ordinal
  hash : BitVec 384 := 0                 -- IMAGE_HASH
  hashOk : Bool := true
  sigOk : Bool := true
  deriving DecidableEq, Repr

/-! ### Signal engines (chapters 5, 6, 17) -/

/-- A data-mover channel (R163–R165). The head of the queue is the current command. -/
structure Chan where
  queue : List (W64 × W64) := []
  held : W64 := 0             -- W0 written, waiting for W1
  trapEn : Bool := false
  tag : BitVec 16 := 0
  wordsDone : Nat := 0
  netCode : BitVec 8 := 0
  err : Nat := 0
  rej : Bool := false
  rejWhy : Nat := 0
  doneCnt : BitVec 4 := 0
  state : Nat := 0            -- 0 IDLE, 1 ACTIVE, 2 HALTED
  flying : Nat := 0           -- words of the message in flight
  sent : W64 × W64 := (0, 0)  -- command of the message in flight
  first : Nat := 0            -- place of the message's first word in its command
  aborted : Bool := false     -- the message's command was aborted (R165)
  prov : List W32 := []       -- provisional words that wait for their settle verdict
  deriving DecidableEq, Repr

/-- A write of a locked sequence that waits for UNLK: memory (true: Y), word index, value. -/
structure LockWrite where
  memY : Bool
  word : Nat
  value : W32
  deriving DecidableEq, Repr

/-- A signal engine: the registers of R153, the ENG_ registers of R175 and R475, stream FIFOs, channels and the lock
buffer. STATE: 0 OFF, 1 STOPPED, 2 RUNNING, 3 HALTED, 4 STOPPING. -/
structure Engine where
  v : Vector Lanes 16 := Vector.replicate 16 (Vector.replicate 8 0)
  a : Vector AccLanes 4 := Vector.replicate 4 (Vector.replicate 8 0)
  s : Vector W32 16 := Vector.replicate 16 0
  xa : Vector (BitVec 14) 8 := Vector.replicate 8 0
  ya : Vector (BitVec 14) 8 := Vector.replicate 8 0
  xm : Vector (BitVec 16) 4 := Vector.replicate 4 0
  ym : Vector (BitVec 16) 4 := Vector.replicate 4 0
  xb : Vector (BitVec 14) 4 := Vector.replicate 4 0
  yb : Vector (BitVec 14) 4 := Vector.replicate 4 0
  xl : Vector (BitVec 14) 4 := Vector.replicate 4 0
  yl : Vector (BitVec 14) 4 := Vector.replicate 4 0
  amode : W32 := 0
  sc : BitVec 5 := 0
  bexp : BitVec 16 := 0
  esr : W32 := 0
  lc : Vector (BitVec 16) 4 := Vector.replicate 4 0
  ls : Vector (BitVec 11) 4 := Vector.replicate 4 0
  le : Vector (BitVec 11) 4 := Vector.replicate 4 0
  ldepth : BitVec 3 := 0
  pc : BitVec 11 := 0
  state : Nat := 0
  autoStart : Bool := false
  merrTrap : Bool := false
  trapEn : Bool := false
  fault : Bool := false
  cause : BitVec 8 := 0
  issueCap : Nat := 8
  inTrap : Bool := false
  startPc : BitVec 11 := 0
  tpc : BitVec 11 := 0
  trapCause : BitVec 8 := 0
  vec : BitVec 11 := 0
  wdogEn : Bool := false
  expired : Bool := false
  load : W32 := 0
  count : W32 := 0
  sema : BitVec 56 := 0
  semaNext : Option (BitVec 56) := none
  dm : Vector Chan 4 := Vector.replicate 4 {}
  si : Vector (List W64) 2 := Vector.replicate 2 []
  so : Vector (List W64) 2 := Vector.replicate 2 []
  soOut : Vector W64 2 := Vector.replicate 2 0   -- words the fabric took last
  lockBuf : List LockWrite := []
  lockUsed : Nat := 0         -- lock-buffer entries used
  lockPc : BitVec 11 := 0
  lockBundles : Nat := 0
  dmPend : Nat := 0           -- DM_HALT: 0 none, 1 raised, 2 lost a coincidence and still pending (R167)
  forced : Nat := 0           -- service cycles forced under R151
  wdogMin : W32 := 0
  brkHalt : Bool := false
  haltPc : BitVec 11 := 0
  why : Nat := 0
  hit : Nat := 0
  haltPend : Nat := 0         -- WHY of a deferred halt, 0 none (R465)
  lockBrk : Bool := false
  stopAfter : Bool := false   -- a STOP deferred by a halt
  skipHit : Bool := false     -- instruction comparators skip the next bundle (R464)
  fencedAs : Nat := 0         -- STATE at the fence, for the control record (R245)
  busData : List Byte := []   -- data of the last read through the bus interface (R109)
  comp : Vector W64 6 := Vector.replicate 6 0
  term : W64 := 0             -- ENG_DBG_TERM [63:34]: EN, STIM, TX_WORD, RX_WORD
  txOvf : BitVec 8 := 0
  txFifo : List W32 := []
  deriving DecidableEq, Repr

/-- Saved state of an island: its part of the state slot in the layout of R245, by 64-bit word, those that are 0 unlisted. -/
structure SavedIsland where
  words : Table W64 := []
  deriving DecidableEq, Repr

structure SavedState where
  variant : Nat
  islands : List SavedIsland
  quiesced : Bool := true                -- taken at a quiesce point; not so a checkpoint with QUIESCE = 0 (R429, R431)
  deriving DecidableEq, Repr

/-! ### What the flash and the partner send (chapters 11, 14, 15) -/

/-- The trailer of an image as the device reads it (R335) and the verdicts of its checks (R336): TRL_MAGIC and CRC,
SHA-384 of PUBKEY against KEY_HASH with the signature, the GCM tag. -/
structure TrailerView where
  crcOk : Bool := true
  sigOk : Bool := true
  gcmOk : Bool := true
  digest : List Byte := []               -- the signed digest
  deriving DecidableEq, Repr

/-- What the flash answers at the start of an attempt (R327, R328): whether it answers with its quad parameters, whether
8D-8D-8D reads agree, the two slot-table copies, and the header of the slot that is tried (or shifted in). -/
structure FlashView where
  answers : Bool := true
  octalOk : Bool := true
  tableA : List Byte := []
  tableB : List Byte := []
  header : List Byte := []
  deriving DecidableEq, Repr

/-- A firmware slot as the boot ROM reads it (R393): header, the LKO segment's header and payload (decrypted), the END
header, the trailer, and the version that the code reports. -/
structure FwView where
  header : List Byte := []
  seg : List Byte := []
  payload : List W32 := []
  last : List Byte := []
  trailer : TrailerView := {}
  version : W32 := 0
  deriving DecidableEq, Repr

/-- A message that reaches Lookout over SMBus or PCIe VDM (R400). -/
inductive Mctp where
  | setEid (eid : Byte)                  -- the bus owner assigns the EID
  | discover                             -- PLDM type 0
  | sensors (vals : Vector W32 85)       -- PLDM type 2: every sensor but FLT_STAT and the rung
  | log (first : W32)                    -- PLDM: the log
  | update (request : List Byte)         -- PLDM type 5: a step of R397, its fields laid out as in R402
  | spdm (request : List Byte)           -- an SPDM message, as the SPDM command carries it
  | wake                                 -- an out-of-band request that wakes the device
  deriving DecidableEq, Repr

/-- A part of a checkpoint (R429): the context, its variant and IMAGE_HASH, whether it was taken under QUIESCE, the
timebase, the sequence number, the part's number and the number of parts, and what its bytes complete. -/
structure CkptPart where
  ctx : BitVec 10
  variant : Fin 8 := 0
  hash : BitVec 384 := 0
  quiesce : Bool := false
  time : W64 := 0
  no : Nat := 0
  part : Nat := 0
  parts : Nat := 1
  islands : List (Nat × SavedIsland) := []
  deriving DecidableEq, Repr

/-- What the receiver of an Arête frame takes from its header and its tag (R285, R421): KEY_ID, SEQ, and whether the tag
verifies under the key of that KEY_ID. -/
structure ArlHead where
  key : Bool := false
  seq : Nat := 0
  ok : Bool := true
  deriving DecidableEq, Repr

/-- What the receiver of a frame whose SEQ is named apart takes from its KEY_ID and its tag (R285). -/
structure ArlTag where
  key : Bool := false
  ok : Bool := true
  deriving DecidableEq, Repr

/-- What a Selective IDE stream is associated with (R286): a requester ID range and two address ranges, each first and last. -/
structure IdeAssoc where
  rid : BitVec 16 × BitVec 16 := (0, 0)
  addr0 : W64 × W64 := (0, 0)
  addr1 : W64 × W64 := (0, 0)
  deriving DecidableEq, Repr

/-- A sub-stream of an IDE stream (R286). -/
structure IdeSub where
  stream : Fin 2
  sub : Fin 6
  deriving DecidableEq, Repr

/-- A key set that IDE_KM switches to, and the stream's associations as the host has set them (R286). -/
structure IdeSet where
  kset : Bool
  assoc : IdeAssoc := {}
  deriving DecidableEq, Repr

/-- What is fused at manufacture and read at power-up (R21, R22): the identity records of Saddle and F0–F3, the golden signatures
by unit code and of the Saddle's partitions. -/
structure Fused where
  records : Vector W64 5
  gold : List (BitVec 16 × W32) := []
  part : Vector W32 16 := Vector.replicate 16 0
  deriving DecidableEq, Repr

/-- A lane of a group, and the greatest eye margins of its last 1 ms, in 1/1,000 UI [15:0] and mV [31:16] (R31). -/
structure LaneSeen where
  lane : Fin 34
  eye : W32
  deriving DecidableEq, Repr

/-- An eye-margin check of a spare lane: its greatest margins, at bridge training or over 1 ms while monitored (R31). -/
structure EyeCheck where
  training : Bool
  eye : W32
  deriving DecidableEq, Repr

/-- The lanes of one direction of a group (R402): the direction, their eye margins as measured. -/
structure LaneEyes where
  dir : Fin 2
  eyes : Vector W32 34
  deriving DecidableEq, Repr

/-- What a bridge that goes down cuts off, by tag: the flits lost on it, and the responses and writes that the Saddle had accepted
(R36, R221). -/
structure Cut where
  lost : List (BitVec 16) := []
  kept : List (BitVec 16) := []
  deriving DecidableEq, Repr

/-- A context image as it was read (R231, R232): its bytes, what its frames and memory segment set by ordinal, the verdicts on
IMAGE_HASH and SIGNATURE. -/
structure ImageRead where
  bytes : List Byte
  cfgs : List IslandCfg := []
  hashOk : Bool := true
  sigOk : Bool := true
  deriving DecidableEq, Repr

/-- A pseudo-channel whose next request is issued, and whether the stack's on-die ECC reports an uncorrected severity for its read
(R264, R269). -/
structure PcIssue where
  pc : Fin 32
  odecc : Bool := false
  deriving DecidableEq, Repr

/-- A read by the host of BAR0, or of BAR2: offset and bytes. -/
structure BarRead where
  bar2 : Bool := false
  off : BitVec 20
  n : Fin 17
  deriving DecidableEq, Repr

/-- A register of the part: a set-up register by its BAR0 offset, or an engine's by island and offset. -/
inductive RegAt where
  | setup (off : BitVec 24)
  | engine (i : Fin 256) (off : BitVec 12)
  deriving DecidableEq, Repr

/-- What the write of a register needs from outside besides its value: the descriptors from HEAD to TAIL for a FLUSH (R306),
SHA-384 of the key and of the password in DBG_BUF and the verdict on its signature (R457, R458), Lookout's next instruction
for a halt (R469). -/
structure WriteAux where
  rest : List Desc := []
  keyHash : List Byte := []
  sigOk : Bool := false
  pwHash : List Byte := []
  pc : W32 := 0
  deriving DecidableEq, Repr

end Sys2Proof.Machine
end

