-- ==== Sys2Proof/Syntax.lean ====
section
/-!
DEFINITION. The commands of the part: one constructor for each row of spec/opcode_table.json.
-/

namespace Sys2Proof

open Sys2Proof.Machine

/-- A command: a register write or read, a descriptor, a message, an engine bundle issued for one of its slots,
or an event (95_what_each_step_holds.md). -/
inductive Instr where
  /-- IDENTITY_CHECK (R22): At power-up the Saddle checks every die identity record, DIE_POS uniqueness and the stepping combination before configuration may start. Operands: what is fused (R21, R22), the grades, the straps. -/
  | identityCheck (records : Fused) (grades : BitVec 4) (mode : BitVec 3) (pullN : Bool)
  /-- TEST_LOGIC_RESET (R27): Test-logic reset or TRST_N sets all four chain select bits to 1. Operands: Test-logic reset or TRST_N (R27). -/
  | testLogicReset
  /-- CHAINSEL (R27): The Saddle's CHAINSEL instruction loads the chain select register that bypasses or includes each Ridge die. Operands: The chain select bits (R27). -/
  | chainsel (sel : BitVec 4)
  /-- LANE_DEGRADING (R31): A lane's eye margin or error count meets a degrading criterion and the receiver requests a remap to a spare over the paired group. Operands: bridge 2·die + (0 north, 1 south), group, direction; the lane with its eye margins; what is cut off if the bridge goes down. -/
  | laneDegrading (br : Fin 8) (k : Fin 16) (dir : Fin 2) (lane : LaneSeen) (lost : Cut)
  /-- LANE_REPAIR_COMPLETE (R33): The lane switch to the spare and the group retraining end, unacknowledged flits are replayed and the repair counter advances. Operands: as for LANE_DEGRADING; what is cut off if the bridge goes down. -/
  | laneRepairComplete (br : Fin 8) (k : Fin 16) (dir : Fin 2) (lost : Cut)
  /-- SPARE_UNUSABLE (R31): An idle spare fails its eye-margin check at training or under continuous monitoring and is marked used. Operands: as for LANE_DEGRADING; the spare and its eye-margin check. -/
  | spareUnusable (br : Fin 8) (k : Fin 16) (dir : Fin 2) (spare : Fin 2) (training : EyeCheck)
  /-- FORWARDED_CLOCK_FAIL (R34): The forwarded clock of a lane group fails and the group pair is retired at once. Operands: as for LANE_DEGRADING; what is cut off if the bridge goes down. -/
  | forwardedClockFail (br : Fin 8) (k : Fin 16) (dir : Fin 2) (lost : Cut)
  /-- REPLAY_LIMIT (R34): Sixteen consecutive replays of one flit fail on a group and the group pair is retired. Operands: as for LANE_DEGRADING; what is cut off if the bridge goes down. -/
  | replayLimit (br : Fin 8) (k : Fin 16) (dir : Fin 2) (lost : Cut)
  /-- BRIDGE_FLIT_CRC_ERROR (R34): A bridge flit fails its CRC; the receiver replays it and compares lanes to charge lane error counters. Operands: A flit fails its CRC; the lanes whose bits differ from the replayed copy (R28, R34). -/
  | bridgeFlitCrcError (br : Fin 8) (k : Fin 16) (dir : Fin 2) (lanes : BitVec 34)
  /-- BRIDGE_REROUTE_COMPLETE (R221): The trails of a downed bridge have been re-routed and re-admitted in original order on the other bridge, demoted where they do not fit, and their held messages are released. Operands: The trails of a downed bridge are routed again (R221). -/
  | bridgeRerouteComplete (br : Fin 8)
  /-- BASE_CLOCK_COPY_FAIL (R92): The north-bridge copy of a forwarded base clock fails and the die switches to the south-bridge copy within one cycle. Operands: die, base clock. -/
  | baseClockCopyFail (d : Fin 4) (n : Fin 4)
  /-- DIE_RESET (R36): A Ridge die resets or loses both forwarded clock copies and stops answering on its bridges. Operands: A die resets, or with `clock` loses both forwarded clock copies (R36). -/
  | dieReset (d : Fin 4) (clock : Bool)
  /-- MISSED_HEARTBEATS (R36): The Saddle misses four consecutive bridge heartbeats, declares the die lost, fences both bridges, completes in-flight transactions with die-absent and suspends the die's trails. Operands: Four heartbeats are missed; tags of the responses and writes the Saddle had accepted from the die (R36). -/
  | missedHeartbeats (d : Fin 4) (kept : List (BitVec 16))
  /-- DIE_REJOIN (R39): A die's reset is released or its forwarded clocks return, bridges retrain, and its identity record is compared with the power-up record. Operands: Reset is released or the clocks return; the identity record the die reports (R39). -/
  | dieRejoin (d : Fin 4) (record : W64)
  /-- DIE_READMIT (R39): After clearing or deep-memory zeroing, the die is re-admitted, suspended trails to absent contexts return CTX_ABSENT, granules and deep pages on it are resolved. Operands: A die is re-admitted (R39). -/
  | dieReadmit (d : Fin 4)
  /-- HANDSHAKE_WORD_WRITE (R86): The sending fabric writes a word into a handshake border group FIFO. Operands: sending island, its side (0 north, 1 east, 2 south, 3 west), group, the word that its border cells carry. -/
  | handshakeWordWrite (i : Fin 256) (side : Fin 4) (g : Fin 16) (w : W32)
  /-- HANDSHAKE_WORD_ARRIVE (R86): A written word becomes visible to the receiving side, raising RD_VALID. Operands: receiving island. -/
  | handshakeWordArrive (i : Fin 256) (side : Fin 4) (g : Fin 16)
  /-- HANDSHAKE_WORD_READ (R86): The receiving fabric reads a word from a handshake group FIFO, freeing space for the sender. Operands: receiving island. -/
  | handshakeWordRead (i : Fin 256) (side : Fin 4) (g : Fin 16)
  /-- REF_LOST (R91): The reference clock is lost; the synthesiser enters holdover, privileged PLLs report loss of lock and Cairn receives REF_LOST. Operands: The reference is lost (R91). -/
  | refLost
  /-- HOLDOVER_SLEW (R91): After 1 ms of holdover the synthesiser slews each base clock below its set frequency. -/
  | holdoverSlew
  /-- REF_RETURN (R91): The reference returns and the synthesiser slews back to lock. Operands: PPM_ERR as the synthesiser then measures it. -/
  | refReturn (ppm : BitVec 16)
  /-- CLK_BASE_WRITE (R93): A write of CLK_BASEn is rejected for RANGE or IN_USE or accepted, stopping and relocking the base clock. Operands: base clock, FMUL written. -/
  | clkBaseWrite (n : Fin 4) (fmul : BitVec 9)
  /-- BASE_CLOCK_LOCKED (R93): A reprogrammed base clock relocks and sets LOCKED. Operands: base clock. -/
  | baseClockLocked (n : Fin 4)
  /-- PLL_LOSS_OF_LOCK (R94): A privileged PCIe or HBM PHY PLL loses lock and reports to Cairn. Operands: The PCIe PLL (0) or an HBM PHY PLL (1, 2) loses lock (R94). -/
  | pllLossOfLock (k : Fin 3)
  /-- CLOCK_RAMP_STEP (R98): After 64 output cycles at an intermediate ratio the island clock unit takes its next ramp step toward the target ratio. Operands: island, clock (4 KE). -/
  | clockRampStep (i : Fin 256) (k : Fin 5)
  /-- DROOP_FIRE (R102): An island droop detector fires and every island clock of the join group is stretched to 1.25 times. Operands: island whose detector fires. -/
  | droopFire (i : Fin 256)
  /-- DROOP_STRETCH_RELEASE (R102): After the detector has been clear for 32 cycles the period returns to 1.125 times. Operands: an island of the join group. -/
  | droopStretchRelease (i : Fin 256)
  /-- DROOP_STRETCH_END (R102): After 64 cycles at 1.125 times the period returns to normal. Operands: an island of the join group. -/
  | droopStretchEnd (i : Fin 256)
  /-- CLOCK_STOP_IDLE (R104): Gating stops a clock once every handshake and island port interface on it is idle. Operands: island, clock (4 KE). -/
  | clockStopIdle (i : Fin 256) (k : Fin 5)
  /-- CLOCK_STOP_FORCED (R104): After 256 cycles without an idle boundary the clock is stopped regardless and STOP_FORCED is set. Operands: island, clock (4 KE). -/
  | clockStopForced (i : Fin 256) (k : Fin 5)
  /-- CLK_MTR_START (R108): A host START on a clock meter begins a measurement or waits while Lookout holds the meter. Operands: meter. -/
  | clkMtrStart (m : Fin 5)
  /-- CLK_MTR_DONE (R107): A clock meter window of 2^WIN_LOG2 timebase edges ends and COUNT and DONE are set. Operands: meter, edges counted. -/
  | clkMtrDone (m : Fin 5) (count : W32)
  /-- CLK_MTR_ABORT (R108): Lookout, having waited 1 ms for a host measurement, aborts it and takes the meter. Operands: meter. -/
  | clkMtrAbort (m : Fin 5)
  /-- LOOKOUT_CLOCK_SUPERVISION (R108): Every 10 ms Lookout measures every base clock and privileged PLL with the meters. Operands: meter; Lookout takes it, or gives it back. -/
  | lookoutClockSupervision (m : Fin 5) (hold : Bool)
  /-- MEMORY_READ (R123): A read of a coded memory word computes syndrome and parity, corrects, or hands an uncorrectable word to the page guard. Operands: requester; its DPA, or the entry number of a fabric port. -/
  | memoryRead (who : MemUser) (addr : BitVec 48)
  /-- MEMORY_WRITE (R127): A full-word write stores the word with check bits and updates its set's guard words. Operands: requester, address or entry, data, enables per byte or lane; an access of the other port on the same edge. -/
  | memoryWrite (who : MemUser) (addr : BitVec 48) (data : BitVec 72) (en : Byte) (other : Option MemAccess)
  /-- PAGE_REBUILD_COMPLETE (R129): A page guard rebuild of up to two erasures ends, rewriting rebuilt words and releasing waiting accesses. Operands: first word of the page (DPA / 8). -/
  | pageRebuildComplete (page : BitVec 45)
  /-- NARROW_WRITE (R131): A write of fewer than 8 bytes allocates or merges into a merge buffer entry, flushing when the mask fills or the buffer is full. Operands: requester, DPA of the word, data, byte mask. -/
  | narrowWrite (who : MemUser) (addr : BitVec 48) (data : W64) (mask : Byte)
  /-- MERGE_FLUSH_AGE (R131): A merge buffer entry reaches 64 controller cycles and is flushed as a read-merge-write, or dropped with MEM_WR_LOST if the old word is uncorrectable. Operands: DPA of the entry's word. -/
  | mergeFlushAge (addr : BitVec 48)
  /-- SCRUB_WORD (R133): The patrol scrubber performs an atomic read-correct-write of its next word and recomputes guard words at a page end. Operands: class; die, HBM stack, or 0. -/
  | scrubWord (cls : Fin 6) (unit : Fin 4)
  /-- MEM_CNT_CLR (R141): A MEM_CNT_CLR bit clears the three counters of a class. Operands: a bit per class. -/
  | memCntClr (clr : BitVec 6)
  /-- MEM_LOG_CLEAR (R141): A MEM_LOG_CTL.CLEAR bit empties a log table and clears its overflow count. Operands: a bit per table. -/
  | memLogClear (clr : BitVec 5)
  /-- ENG_CTL_START (R175): ENG_CTL.START moves a STOPPED engine without FAULT to RUNNING at PC. -/
  | engCtlStart (i : Fin 256)
  /-- ENG_CTL_STOP (R171): ENG_CTL.STOP stops the engine, or enters STOPPING during a locked sequence. -/
  | engCtlStop (i : Fin 256)
  /-- CLR_FAULT (R175): ENG_CTL.CLR_FAULT clears ENG_STAT.FAULT and CAUSE. -/
  | clrFault (i : Fin 256)
  /-- ENG_START_WRITE (R175): A write to ENG_START sets the release PC and, while STOPPED, also PC. -/
  | engStartWrite (i : Fin 256) (pc : BitVec 11)
  /-- ENG_SEMA_WRITE (R175): A write to ENG_SEMA sets the semaphore regions, deferred to the end of an active locked sequence. -/
  | engSemaWrite (i : Fin 256) (v : BitVec 56)
  /-- ENG_STATE_AREA_ACCESS (R174): An access to the engine state area reads or writes registers, or ends with ADDR_ERR while the engine runs. Operands: byte offset in the area; the access. -/
  | engStateAreaAccess (i : Fin 256) (off : Fin 0x4C0) (a : Access)
  /-- SERVICE_PORT_FORCE (R151): A service request that has waited 15 cycles takes its bank in the 16th, stalling the pipeline one cycle. -/
  | servicePortForce (i : Fin 256)
  /-- STREAM_IN_WORD (R162): The fabric writes a 64-bit word into stream input port SI0 or SI1. -/
  | streamInWord (i : Fin 256) (port : Fin 2) (w : W64)
  /-- STREAM_OUT_WORD (R162): The fabric takes a 64-bit word from stream output port SO0 or SO1. -/
  | streamOutWord (i : Fin 256) (port : Fin 2)
  /-- ENG_DM_CMD_WRITE (R164): A write of ENG_DM_CMDc word W1 pushes a data-mover command or rejects it with REJ_WHY. -/
  | engDmCmdWrite (i : Fin 256) (ch : Fin 4) (w1 : W64)
  /-- DM_COMMAND_START (R163): A data-mover channel begins the next queued command, issuing RD, WR or MSG messages. Operands: island, channel. -/
  | dmCommandStart (i : Fin 256) (ch : Fin 4)
  /-- DM_COMMAND_COMPLETE (R163): A data-mover command finishes its last word and advances DONE_CNT when SIG = 1. Operands: island, channel. -/
  | dmCommandComplete (i : Fin 256) (ch : Fin 4)
  /-- DM_RESUME (R165): ENG_DM_CTL.RESUME restarts a halted channel at its first word not done. -/
  | dmResume (i : Fin 256) (ch : Fin 4)
  /-- DM_ABORT (R165): ENG_DM_CTL.ABORT empties the queue and returns the channel to IDLE after in-flight words complete. -/
  | dmAbort (i : Fin 256) (ch : Fin 4)
  /-- WATCHDOG_FIRST_EXPIRY (R168): The engine watchdog count reaches 0 with EXPIRED = 0; the engine traps WATCHDOG and reloads. -/
  | watchdogFirstExpiry (i : Fin 256)
  /-- WATCHDOG_HARD_STOP (R168): The watchdog reaches 0 with EXPIRED = 1; the engine stops with FAULT and Cairn receives ENG_WDOG. -/
  | watchdogHardStop (i : Fin 256)
  /-- ENG_WDOG_KICK (R168): ENG_WDOG_CTL.KICK reloads COUNT and clears EXPIRED. -/
  | engWdogKick (i : Fin 256)
  /-- LOCK_BREAK (R170): A locked sequence exceeds 64 bundles, 256 cycles or 16 buffered writes; its buffer is discarded and LOCK_LIMIT is trapped. -/
  | lockBreak (i : Fin 256)
  /-- NOP (R183): Control-slot no-op. -/
  | nop (i : Fin 256)
  /-- ADD (R183): Scalar add modulo 2^32. -/
  | add (i : Fin 256) (d a b : Fin 16)
  /-- SUB (R183): Scalar subtract modulo 2^32. -/
  | sub (i : Fin 256) (d a b : Fin 16)
  /-- AND (R183): Scalar bitwise AND. -/
  | and (i : Fin 256) (d a b : Fin 16)
  /-- OR (R183): Scalar bitwise OR. -/
  | or (i : Fin 256) (d a b : Fin 16)
  /-- XOR (R183): Scalar bitwise XOR. -/
  | xor (i : Fin 256) (d a b : Fin 16)
  /-- SHL (R183): Scalar shift left by Sb[4:0]. -/
  | shl (i : Fin 256) (d a b : Fin 16)
  /-- SHR (R183): Scalar logical shift right by Sb[4:0]. -/
  | shr (i : Fin 256) (d a b : Fin 16)
  /-- SAR (R183): Scalar arithmetic shift right by Sb[4:0]. -/
  | sar (i : Fin 256) (d a b : Fin 16)
  /-- MUL (R183): Scalar multiply modulo 2^32. -/
  | mul (i : Fin 256) (d a b : Fin 16)
  /-- MULH (R183): High 32 bits of the signed 64-bit scalar product. -/
  | mulh (i : Fin 256) (d a b : Fin 16)
  /-- SLT (R183): Signed set-less-than. -/
  | slt (i : Fin 256) (d a b : Fin 16)
  /-- SLTU (R183): Unsigned set-less-than. -/
  | sltu (i : Fin 256) (d a b : Fin 16)
  /-- MIN (R183): Signed scalar minimum. -/
  | min (i : Fin 256) (d a b : Fin 16)
  /-- MAX (R183): Signed scalar maximum. -/
  | max (i : Fin 256) (d a b : Fin 16)
  /-- ADDI (R183): Scalar add of a sign-extended immediate. -/
  | addi (i : Fin 256) (d a : Fin 16) (imm : BitVec 18)
  /-- ANDI (R183): Scalar AND with a zero-extended immediate. -/
  | andi (i : Fin 256) (d a : Fin 16) (imm : BitVec 18)
  /-- ORI (R183): Scalar OR with a zero-extended immediate. -/
  | ori (i : Fin 256) (d a : Fin 16) (imm : BitVec 18)
  /-- SHLI (R183): Scalar shift left by an immediate. -/
  | shli (i : Fin 256) (d a : Fin 16) (imm : BitVec 5)
  /-- SHRI (R183): Scalar logical shift right by an immediate. -/
  | shri (i : Fin 256) (d a : Fin 16) (imm : BitVec 5)
  /-- SARI (R183): Scalar arithmetic shift right by an immediate. -/
  | sari (i : Fin 256) (d a : Fin 16) (imm : BitVec 5)
  /-- LI (R183): Loads a sign-extended 22-bit immediate into a scalar. -/
  | li (i : Fin 256) (d : Fin 16) (imm : BitVec 22)
  /-- LUI (R183): Loads the upper 16 bits of a scalar, keeping the lower half. -/
  | lui (i : Fin 256) (d : Fin 16) (imm : BitVec 16)
  /-- MOVTC (R185): Writes a control register from a scalar with its special cases. -/
  | movtc (i : Fin 256) (sreg : Fin 16) (creg : Fin 57)
  /-- MOVFC (R185): Reads a control register into a scalar, zero- or sign-extended. -/
  | movfc (i : Fin 256) (sreg : Fin 16) (creg : Fin 57)
  /-- VEXT (R183): Extracts one vector lane into a scalar. -/
  | vext (i : Fin 256) (d a : Fin 16) (lane : Fin 8)
  /-- VINS (R183): Inserts a scalar into one vector lane. -/
  | vins (i : Fin 256) (d a : Fin 16) (lane : Fin 8)
  /-- BR (R186): Conditional branch on a signed scalar. -/
  | br (i : Fin 256) (cond : Fin 7) (a : Fin 16) (target : BitVec 11)
  /-- CALL (R183): Saves the return address in S15 and jumps. -/
  | call (i : Fin 256) (target : BitVec 11)
  /-- RET (R183): Jumps to S15[10:0]. -/
  | ret (i : Fin 256)
  /-- RTI (R183): Returns from a trap handler to TPC and clears IN_TRAP. -/
  | rti (i : Fin 256)
  /-- BREAK (R196): Breakpoint: traps BREAK, or halts the engine when BRK_HALT is set at debug level 1 or above. -/
  | brk (i : Fin 256)
  /-- WDK (R168): Kicks the engine watchdog. -/
  | wdk (i : Fin 256)
  /-- LOOPI (R194): Pushes a hardware loop with an immediate count, or traps LOOP_OVF at depth 4. -/
  | loopi (i : Fin 256) (count : BitVec 16) (len : BitVec 10)
  /-- LOOP (R194): Pushes a hardware loop with the count from a scalar. -/
  | loop (i : Fin 256) (a : Fin 16) (len : BitVec 10)
  /-- LEXIT (R183): Pops the innermost loop. -/
  | lexit (i : Fin 256)
  /-- LOCK (R169): Opens a locked sequence on the semaphore regions. -/
  | lock (i : Fin 256)
  /-- UNLK (R169): Commits all buffered semaphore writes in one step and closes the locked sequence. -/
  | unlk (i : Fin 256)
  /-- DMPUSH (R163): Pushes a data-mover command from scalar pairs, waiting or rejecting when the queue is full. -/
  | dmpush (i : Fin 256) (a b : Fin 8) (ch : Fin 4) (wait : Bool)
  /-- DMSTAT (R183): Reads a channel's status into a scalar. -/
  | dmstat (i : Fin 256) (d : Fin 16) (ch : Fin 4)
  /-- SIN (R183): Pops one word from a stream input into a scalar pair. -/
  | sin (i : Fin 256) (d : Fin 8) (port : Fin 2)
  /-- SOUT (R183): Pushes a scalar pair to a stream output. -/
  | sout (i : Fin 256) (a : Fin 8) (port : Fin 2)
  /-- VSIN (R183): Pops four stream words into a vector register. -/
  | vsin (i : Fin 256) (d : Fin 16) (port : Fin 2)
  /-- VSOUT (R183): Pushes a vector register as four stream words. -/
  | vsout (i : Fin 256) (a : Fin 16) (port : Fin 2)
  /-- BFOPEN (R183): Opens a block-floating block with a guard count. -/
  | bfopen (i : Fin 256) (guard : Fin 8)
  /-- BFCLOSE (R161): Closes a block-floating block, setting SC and BEXP from LSB_MIN. -/
  | bfclose (i : Fin 256)
  /-- MNOP (R188): Move-slot no-op. -/
  | mnop (i : Fin 256) (y : Bool)
  /-- LDV (R188): Loads 8 words into a vector register and updates the address register. -/
  | ldv (i : Fin 256) (y : Bool) (reg : Fin 16) (an : Fin 8) (m : Modifier)
  /-- STV (R188): Stores a vector register as 8 words. -/
  | stv (i : Fin 256) (y : Bool) (reg : Fin 16) (an : Fin 8) (m : Modifier)
  /-- LDS (R188): Loads one word into a scalar. -/
  | lds (i : Fin 256) (y : Bool) (reg : Fin 16) (an : Fin 8) (m : Modifier)
  /-- STS (R188): Stores a scalar as one word. -/
  | sts (i : Fin 256) (y : Bool) (reg : Fin 16) (an : Fin 8) (m : Modifier)
  /-- LDVB (R188): Loads one word into every lane of a vector register. -/
  | ldvb (i : Fin 256) (y : Bool) (reg : Fin 16) (an : Fin 8) (m : Modifier)
  /-- STAQ (R159): Stores the rounded, saturated move-out of an accumulator as 8 words, measured for block floating. -/
  | staq (i : Fin 256) (y : Bool) (acc : Fin 4) (an : Fin 8) (m : Modifier)
  /-- MODA (R188): Updates an address register without access. -/
  | moda (i : Fin 256) (y : Bool) (an : Fin 8) (m : Modifier)
  /-- VNOP (R190): Vector-slot no-op. -/
  | vnop (i : Fin 256)
  /-- VMOV (R190): Vector copy. -/
  | vmov (i : Fin 256) (d a : Fin 16) (wm : BitVec 8)
  /-- VADDQ (R190): Saturating Q1.31 vector add. -/
  | vaddq (i : Fin 256) (d a b : Fin 16) (wm : BitVec 8)
  /-- VSUBQ (R190): Saturating Q1.31 vector subtract. -/
  | vsubq (i : Fin 256) (d a b : Fin 16) (wm : BitVec 8)
  /-- VMULQ (R190): Rounded, saturating Q1.31 vector multiply. -/
  | vmulq (i : Fin 256) (d a b : Fin 16) (wm : BitVec 8)
  /-- VSHQ (R190): Q1.31 vector shift by an immediate. -/
  | vshq (i : Fin 256) (d a : Fin 16) (n : BitVec 6) (wm : BitVec 8)
  /-- VABSQ (R190): Saturating Q1.31 absolute value. -/
  | vabsq (i : Fin 256) (d a : Fin 16) (wm : BitVec 8)
  /-- VMINQ (R190): Signed vector minimum. -/
  | vminq (i : Fin 256) (d a b : Fin 16) (wm : BitVec 8)
  /-- VMAXQ (R190): Signed vector maximum. -/
  | vmaxq (i : Fin 256) (d a b : Fin 16) (wm : BitVec 8)
  /-- VAND (R190): Vector bitwise AND. -/
  | vand (i : Fin 256) (d a b : Fin 16) (wm : BitVec 8)
  /-- VOR (R190): Vector bitwise OR. -/
  | vor (i : Fin 256) (d a b : Fin 16) (wm : BitVec 8)
  /-- VXOR (R190): Vector bitwise XOR. -/
  | vxor (i : Fin 256) (d a b : Fin 16) (wm : BitVec 8)
  /-- VADDI (R190): Vector integer add modulo 2^32. -/
  | vaddi (i : Fin 256) (d a b : Fin 16) (wm : BitVec 8)
  /-- VADDK (R190): Vector add of a sign-extended immediate. -/
  | vaddk (i : Fin 256) (d a : Fin 16) (imm : BitVec 18) (wm : BitVec 8)
  /-- VBC (R190): Broadcasts one lane to all lanes. -/
  | vbc (i : Fin 256) (d a : Fin 16) (n : BitVec 3) (wm : BitVec 8)
  /-- VROT (R190): Rotates vector lanes. -/
  | vrot (i : Fin 256) (d a : Fin 16) (n : BitVec 3) (wm : BitVec 8)
  /-- VIDX (R190): Writes lane indices offset by an immediate. -/
  | vidx (i : Fin 256) (d : Fin 16) (imm : BitVec 16) (wm : BitVec 8)
  /-- MPYQ (R190): Writes the exact Q1.31 product into an accumulator. -/
  | mpyq (i : Fin 256) (d : Fin 4) (a b : Fin 16) (wm : BitVec 8)
  /-- MACQ (R190): Accumulates a product modulo 2^72, setting AOV on wrap. -/
  | macq (i : Fin 256) (d : Fin 4) (a b : Fin 16) (wm : BitVec 8)
  /-- MSUQ (R190): Subtracts a product from an accumulator modulo 2^72. -/
  | msuq (i : Fin 256) (d : Fin 4) (a b : Fin 16) (wm : BitVec 8)
  /-- ALDQ (R158): Loads Q1.31 lanes into an accumulator scaled by 2^31. -/
  | aldq (i : Fin 256) (d : Fin 4) (a : Fin 16) (wm : BitVec 8)
  /-- AADD (R190): Adds two accumulators modulo 2^72. -/
  | aadd (i : Fin 256) (d a : Fin 4) (wm : BitVec 8)
  /-- ACLR (R190): Clears an accumulator. -/
  | aclr (i : Fin 256) (d : Fin 4) (wm : BitVec 8)
  /-- AMOV (R159): Moves an accumulator out to Q1.31 lanes with shift, rounding and saturation. -/
  | amov (i : Fin 256) (d : Fin 16) (a : Fin 4) (wm : BitVec 8)
  /-- AREDQ (R190): Sums the selected accumulator lanes into every lane. -/
  | aredq (i : Fin 256) (d a : Fin 4) (wm : BitVec 8)
  /-- VADDF (R160): Binary32 vector add. -/
  | vaddf (i : Fin 256) (d a b : Fin 16) (wm : BitVec 8)
  /-- VSUBF (R160): Binary32 vector subtract. -/
  | vsubf (i : Fin 256) (d a b : Fin 16) (wm : BitVec 8)
  /-- VMULF (R160): Binary32 vector multiply. -/
  | vmulf (i : Fin 256) (d a b : Fin 16) (wm : BitVec 8)
  /-- VFMAF (R160): Binary32 fused multiply-add. -/
  | vfmaf (i : Fin 256) (d a b c : Fin 16) (wm : BitVec 8)
  /-- VFNMF (R160): Binary32 fused negated multiply-add. -/
  | vfnmf (i : Fin 256) (d a b c : Fin 16) (wm : BitVec 8)
  /-- VMINF (R190): Binary32 minimumNumber. -/
  | vminf (i : Fin 256) (d a b : Fin 16) (wm : BitVec 8)
  /-- VMAXF (R190): Binary32 maximumNumber. -/
  | vmaxf (i : Fin 256) (d a b : Fin 16) (wm : BitVec 8)
  /-- VABSF (R190): Clears the binary32 sign bit. -/
  | vabsf (i : Fin 256) (d a : Fin 16) (wm : BitVec 8)
  /-- VNEGF (R190): Inverts the binary32 sign bit. -/
  | vnegf (i : Fin 256) (d a : Fin 16) (wm : BitVec 8)
  /-- VREDF (R190): Binary32 tree sum of selected lanes into every lane. -/
  | vredf (i : Fin 256) (d a : Fin 16) (wm : BitVec 8)
  /-- VCVTQF (R190): Converts Q1.31 to binary32. -/
  | vcvtqf (i : Fin 256) (d a : Fin 16) (wm : BitVec 8)
  /-- VCVTFQ (R190): Converts binary32 to saturated Q1.31. -/
  | vcvtfq (i : Fin 256) (d a : Fin 16) (wm : BitVec 8)
  /-- SRINIT (R190): Initialises a search register pair to empty. -/
  | srinit (i : Fin 256) (d : Fin 8) (k : BitVec 2) (wm : BitVec 8)
  /-- VSRCH (R191): One minimum or maximum search step per lane. -/
  | vsrch (i : Fin 256) (d : Fin 8) (a b : Fin 16) (k : BitVec 2) (wm : BitVec 8)
  /-- VSRED (R192): Reduces a search pair across lanes to the winning value and index. -/
  | vsred (i : Fin 256) (d : Fin 8) (k : BitVec 2) (wm : BitVec 8)
  /-- FLIT_FORWARD (R198): A router input checks a flit's CRC and forwards it on the output its trail selects, poisoning it on failure. Operands: fault source of the router's unit, the message's tag, whether it is the response, flit number, the 304 bits as they arrive. -/
  | flitForward (at_ : BitVec 12) (tag : BitVec 16) (rsp : Bool) (k : Fin 9) (data : BitVec 256) (side : W32) (check : BitVec 16)
  /-- ISLAND_PORT_TX_MESSAGE (R202): The fabric hands a message to an island port, which fills the tag and sends it to the ingress. Operands: island, port, message. -/
  | islandPortTxMessage (i : Fin 256) (port : Fin 2) (m : Msg)
  /-- MESSAGE_RELEASE (R213): An ingress releases a held message once it has a credit and, on a reserved trail, enough tokens. Operands: trail. -/
  | messageRelease (t : BitVec 12)
  /-- CREDIT_RETURN (R208): A destination consumes a message and returns its credit to the trail's ingress. Operands: trail. -/
  | creditReturn (t : BitVec 12)
  /-- RD (R211): A read request is checked and performed at its destination, which answers with RDRSP or ERR. Operands: The read request under a tag; `walked`: the gateway walks the page tables, no translation being cached (R259). -/
  | rd (tag : BitVec 16) (walked : Bool)
  /-- WR (R211): A write request is checked and performed at its destination, answered with WRACK or ERR. Operands: The write request under a tag, `walked` as for RD, and what a write of a register needs. -/
  | wr (tag : BitVec 16) (walked : Bool) (x : WriteAux)
  /-- MSG (R211): A message is delivered to a port, endpoint or allocator and answered with MSGACK or ERR. Operands: The message under a tag; an Ethernet port's transmit timestamp and correction (R359). -/
  | msg (tag : BitVec 16) (ts : W64) (corr : W64)
  /-- RDRSP (R211): Read data arrives at the requester, provisional if PROV = 1. Operands: tag of the response. -/
  | rdrsp (tag : BitVec 16)
  /-- WRACK (R211): Write acceptance completes a write at the requester. Operands: tag of the response. -/
  | wrack (tag : BitVec 16)
  /-- MSGACK (R211): Message acceptance completes a message at the requester. Operands: tag of the response. -/
  | msgack (tag : BitVec 16)
  /-- ALLOCRSP (R253): Allocator result completes an ALLOC at the requester. Operands: tag of the response. -/
  | allocrsp (tag : BitVec 16)
  /-- FREERSP (R253): Allocator result completes a FREE at the requester. Operands: tag of the response. -/
  | freersp (tag : BitVec 16)
  /-- SETTLE (R277): A settle verdict completes a speculative read and is presented as a settle pulse or releases held commits. Operands: tag of the response. -/
  | settle (tag : BitVec 16)
  /-- ERR (R217): An error response completes a request at its requester with its STATUS code. Operands: tag of the response. -/
  | err (tag : BitVec 16)
  /-- TRAIL_OPEN (R207): Opens a trail, checking fields, permissions, IDs, admission and credits, or sets it aside while its context is MOVING. Operands: the descriptor. -/
  | trailOpen (d : Desc)
  /-- TRAIL_OPEN_RESUME (R223): An open set aside for a MOVING context takes its turn when the move ends. Operands: the descriptor set aside. -/
  | trailOpenResume (d : Desc)
  /-- TRAIL_CLOSE (R209): Moves a trail to CLOSING; new messages end with TRAIL_CLOSED. Operands: the descriptor. -/
  | trailClose (d : Desc)
  /-- TRAIL_CLOSE_COMPLETE (R209): A CLOSING trail's last transaction completes and its ID, units and credits are released. Operands: trail. -/
  | trailCloseComplete (t : BitVec 12)
  /-- TRAIL_CLOSE_TIMEOUT (R209): After 4 × TMO_US a CLOSING trail returns to CLOSED regardless. Operands: trail. -/
  | trailCloseTimeout (t : BitVec 12)
  /-- REQUEST_TIMEOUT (R216): A request reaches TMO_US without completion and completes locally with TIMEOUT; its tag is quarantined. Operands: tag of the request. -/
  | requestTimeout (tag : BitVec 16)
  /-- TAG_QUARANTINE_END (R216): A quarantined tag is freed after 4 × TMO_US. Operands: tag. -/
  | tagQuarantineEnd (tag : BitVec 16)
  /-- DRAIN_COMPLETE (R218): Released messages of a moving context have drained and Switchback fences its islands. Operands: context. -/
  | drainComplete (c : BitVec 10)
  /-- DRAIN_TIMEOUT (R218): TRL_DRAIN.US expires; Switchback fences and undelivered messages complete with CTX_ABSENT. Operands: context. -/
  | drainTimeout (c : BitVec 10)
  /-- TRL_TQ_SEL_WRITE (R225): A write of TRL_TQ_SEL captures the selected trail descriptor into TRL_TQ_W0–W3. Operands: value written. -/
  | trlTqSelWrite (v : W32)
  /-- TRL_LQ_SEL_WRITE (R225): A write of the link query selection captures the link's cap, units and burst. Operands: value written. -/
  | trlLqSelWrite (v : W32)
  /-- TRL_PMAP_Q_WRITE (R225): A write of TRL_PMAP_Q captures the port map entry of the VPID. Operands: value written. -/
  | trlPmapQWrite (v : W32)
  /-- TRL_CNT_CLR (R224): Clears the trail error and late counters. Operands: value written. -/
  | trlCntClr (v : W32)
  /-- CTX_REGISTER (R232): Copies and checks a context image into the image store, sets policy at first registration and opens its trail request list. Operands: the descriptor, the image as read, STATUS of the read. -/
  | ctxRegister (d : Desc) (img : ImageRead) (rd : BitVec 8)
  /-- CTX_UNREGISTER (R235): Evicts a context without saving, closes its trails, frees its allocations and space, and removes its images. Operands: the descriptor. -/
  | ctxUnregister (d : Desc)
  /-- CTX_LOAD (R240): Places and loads a context on a chosen site, pre-empting victims, queueing or failing. Operands: a CTX_REQUEST descriptor with OP 1. -/
  | ctxLoad (d : Desc)
  /-- CTX_EVICT (R235): Quiesces, saves and empties a context's islands, cancels a queued load or withdraws a lost context's restore policy. Operands: a CTX_REQUEST descriptor with OP 2. -/
  | ctxEvict (d : Desc)
  /-- CTX_PIN (R235): Pins a context, loading it if not resident. Operands: a CTX_REQUEST descriptor with OP 3. -/
  | ctxPin (d : Desc)
  /-- CTX_UNPIN (R235): Clears a context's pin. Operands: a CTX_REQUEST descriptor with OP 4. -/
  | ctxUnpin (d : Desc)
  /-- CTX_POLICY (R235): Overrides a registered context's class, restore policy, quantum, quiesce time-out or quota. Operands: the descriptor. -/
  | ctxPolicy (d : Desc)
  /-- CTX_CLOCK (R251): Replaces a resident context's clock settings, ramping running clocks. Operands: the descriptor, its clock table as read, STATUS of the read. -/
  | ctxClock (d : Desc) (table : List W64) (rd : BitVec 8)
  /-- QUEUED_LOAD_START (R242): When islands become empty or placeable Switchback retries its queue and starts loads that now fit. -/
  | queuedLoadStart
  /-- QACK (R243): The context raises QACK at a quiesce point and Switchback proceeds to move its port entries and fence. Operands: context. -/
  | qack (c : BitVec 10)
  /-- QUIESCE_TIMEOUT (R244): QACK has not risen within QUIESCE_TMO_US; Switchback withdraws, fails the eviction, or fences without saving under FORCE. Operands: context. -/
  | quiesceTimeout (c : BitVec 10)
  /-- READBACK_COMPLETE (R246): The saved-state readback of every island ends; the context becomes SAVED or IDLE, or SAVE_FAIL on an uncorrectable word. Operands: context. -/
  | readbackComplete (c : BitVec 10)
  /-- ISLAND_LOAD_COMPLETE (R246): An island has received its frames, memory contents and restored state and is HELD. Operands: context, ordinal; lines (DPA / 64) of the image and of the state slot that the stacks' on-die ECC reports as uncorrected while they are read (R264). -/
  | islandLoadComplete (c : BitVec 10) (k : Fin 16) (imgBad slotBad : List (BitVec 42))
  /-- CONTEXT_RELEASE (R249): With every island HELD, clocks are checked and started, set/reset is released, port entries bind, trails are admitted and QREQ is lowered for a restore. Operands: context. -/
  | contextRelease (c : BitVec 10)
  /-- CONFIG_PORT_JOB_START (R250): A die configuration port starts its highest-ranked waiting job at an island boundary. Operands: die. -/
  | configPortJobStart (die : Fin 4)
  /-- REJOIN_WAIT_EXPIRY (R252): REJOIN_WAIT expires for a lost context with FRESH or SAVED policy and its load is queued. Operands: context. -/
  | rejoinWaitExpiry (c : BitVec 10)
  /-- ALLOC (R254): Allocates contiguous zeroed deep memory granules within quota, or fails with QUOTA. Operands: the CTRL descriptor, or the tag of the message. -/
  | alloc (o : Origin)
  /-- FREE (R254): Frees owned deep memory granules, or fails with QUOTA. Operands: the CTRL descriptor, or the tag of the message. -/
  | free (o : Origin)
  /-- MAP (R256): Maps a DVA range of a space with page size, class and backing. Operands: the descriptor. -/
  | map (d : Desc)
  /-- UNMAP (R313): Waits for faults on its pages, writes back dirty pages unless DISCARD, and unmaps them. Operands: the descriptor. -/
  | unmap (d : Desc)
  /-- PAGE_POLICY (R313): Sets the pin or residency class of mapped pages. Operands: the descriptor. -/
  | pagePolicy (d : Desc)
  /-- PAGE_MIGRATION_COMPLETE (R259): A page copy ends; translations are updated and held requests are released, or the migration is abandoned. Operands: The copy of a page; `ok`: the host's side succeeded; `feed`: what the link read. -/
  | pageMigrationComplete (space : BitVec 10) (dva : BitVec 48) (ok : Bool) (feed : List Byte)
  /-- SWB_CTX_SEL_WRITE (R262): A write of SWB_CTX_SEL captures SWB_CTX_INFO for the context. Operands: value written. -/
  | swbCtxSelWrite (v : W32)
  /-- SWB_CNT_CLR (R262): Clears the five Switchback counters. Operands: value written. -/
  | swbCntClr (v : W32)
  /-- HBM_REQUEST_ISSUE (R266): A pseudo-channel controller issues its next request by promotion, row hit and age. Operands: stack, pseudo-channel with the report of the stack's on-die ECC. -/
  | hbmRequestIssue (st : Fin 2) (pc : PcIssue)
  /-- REQUEST_PROMOTION (R266): A request older than 2 µs is promoted. Operands: The oldest request that is not promoted has waited 2 µs (R266). -/
  | requestPromotion (st : Fin 2) (pc : Fin 32)
  /-- WRITE_BATCH_START (R266): A write drain batch begins at 48 queued writes or no queued read. Operands: A batch of writes starts (R266). -/
  | writeBatchStart (st : Fin 2) (pc : Fin 32)
  /-- PER_BANK_REFRESH (R268): A bank's refresh falls due and is issued, forcing it closed at the postponement limit. Operands: A bank is refreshed (R268). -/
  | perBankRefresh (st : Fin 2) (pc : Fin 32) (bank : BitVec 10)
  /-- HBM_TEMP_READ (R268): Every 1 ms the stack temperature is read, doubling refresh above 85 °C and starting a training rotation on a large change. Operands: The stack's temperature, °C, two's complement (R268). -/
  | hbmTempRead (st : Fin 2) (t : BitVec 8)
  /-- PERIODIC_TRAINING_STEP (R268): The next pseudo-channel of the rotation pauses and retrains. Operands: The next pseudo-channel retrains: 0 passes, 1 with a lane remapped, 2 fails (R268). -/
  | periodicTrainingStep (st : Fin 2) (result : Fin 3)
  /-- HBM_TRAINING_COMPLETE (R268): Initial training of the stacks ends, repairing lanes or retiring pseudo-channels that fail. Operands: Initial training ends, with a result for each pseudo-channel (R268). -/
  | hbmTrainingComplete (st : Fin 2) (results : Vector (Fin 3) 32)
  /-- HBM_CA_PARITY_ERROR (R269): A command/address parity error ends the window's requests with HBM_ERR and recomputes guard words. Operands: A parity error; for each request of the window, whether a write took effect (R269). -/
  | hbmCaParityError (st : Fin 2) (pc : Fin 32) (took : List Bool)
  /-- HBM_WRITE_PARITY_ERROR (R269): A write data parity error retries the write up to twice, then ends it with HBM_ERR. Operands: A write data parity error; whether the write took effect (R269). -/
  | hbmWriteParityError (st : Fin 2) (pc : Fin 32) (took : Bool)
  /-- HBM_READ_PARITY_ERROR (R269): A read data parity error retries up to twice, then treats the line as uncorrectable. Operands: A read data parity error (R269). -/
  | hbmReadParityError (st : Fin 2) (pc : Fin 32)
  /-- HBM_LOG_CLEAR (R288): HBM_LOG_CTL.CLEAR empties the HBM log. Operands: HBM_LOG_CTL.CLEAR (R288). -/
  | hbmLogClear
  /-- HBM_PC_REQ (R271): Software requests retirement of a pseudo-channel, which becomes RETIRING. Operands: A write of HBM_PC_REQ (R271). -/
  | hbmPcReq (st : Fin 2) (v : W32)
  /-- PC_RETIRE_COMPLETE (R271): Switchback has relocated the pseudo-channel's frames; it becomes RETIRED and is logged. Operands: stack, pseudo-channel; lines (DPA / 64) of images, of state slots, and of page tables and pages that the stack's on-die ECC reports as uncorrected while they are moved (R264, R272). -/
  | pcRetireComplete (st : Fin 2) (pc : Fin 32) (badImages badStates badTables : List (BitVec 42))
  /-- KEY_LOAD (R275): Unwraps a key blob into a key slot. Operands: the descriptor, the blob as read, STATUS of the read. -/
  | keyLoad (d : Desc) (blob : List Byte) (rd : BitVec 8)
  /-- KEY_ZERO (R275): Overwrites a key slot with zeros. Operands: the descriptor. -/
  | keyZero (d : Desc)
  /-- RANGE_ENABLE (R281): Defines an encrypted range and queues its initial conversion. Operands: the descriptor. -/
  | rangeEnable (d : Desc)
  /-- REKEY (R281): Queues a conversion of an active range to a new slot and epoch. Operands: the descriptor. -/
  | rekey (d : Desc)
  /-- RANGE_DISABLE (R281): Queues a conversion of a range to plaintext or zeros. Operands: the descriptor. -/
  | rangeDisable (d : Desc)
  /-- RANGE_MODE (R284): Changes the delivery mode of an active range. Operands: the descriptor. -/
  | rangeMode (d : Desc)
  /-- CONVERSION_START (R282): The rekey engine begins the next queued conversion. -/
  | conversionStart
  /-- CONVERSION_COMPLETE (R281): The treeline reaches the range end and the range takes its final state. -/
  | conversionComplete
  /-- TAG_VERDICT (R277): The encryption stage finishes verifying the tags of a speculative read and sends SETTLE, raising the security alarm on failure. Operands: tag of the read. -/
  | tagVerdict (tag : BitVec 16)
  /-- ARETE_KEY_UPDATE (R285): After 2^40 frames or at the pair's request new directional keys are taken. -/
  | areteKeyUpdate
  /-- ARETE_OLD_KEY_EXPIRY (R285): 1 ms after a key update the old key is no longer accepted. -/
  | areteOldKeyExpiry
  /-- IDE_CHECK_FAIL (R286): An IDE integrity failure makes the stream Insecure and reports AER and Cairn IDE_FAIL. Operands: stream. -/
  | ideCheckFail (k : Fin 2)
  /-- KEY_SET_GO (R286): IDE_KM switches a sub-stream to its other key set. Operands: stream and sub-stream, key set and associations. -/
  | keySetGo (k : IdeSub) (kset : IdeSet)
  /-- PERST_N (R294): PERST_N resets the device fully and reconfigures from flash. Operands: PERST_N goes low (R294). -/
  | perstN
  /-- HOT_RESET (R294): Hot reset or FLR resets host-interface registers and abandons in-flight DATA descriptors, keeping fabric and timebase. Operands: Hot reset or FLR (R294). -/
  | hotReset
  /-- D3HOT (R294): Entry to D3hot stops ring fetching, holds records and requests the D3 rung. Operands: Entry to D3hot (R294). -/
  | d3hot
  /-- D3COLD (R294): Entry to D3cold acts as removal of power. Operands: Entry to D3cold (R294). -/
  | d3cold
  /-- RETURN_TO_D0 (R383): Return to D0 resumes the host interface and requests Run. Operands: Return to D0 (R383). -/
  | returnToD0
  /-- PCIE_LINK_DOWN (R322): The host link goes down; host-window requests fail, fetching stops, records are held and Cairn receives PCIE_LINK. Operands: The host link goes down (R322). -/
  | pcieLinkDown
  /-- PCIE_LINK_UP (R322): The host link trains and held records are written. -/
  | pcieLinkUp
  /-- PCIE_COMPLETION (R300): A PCIe completion for a host-window or host read arrives and completes its request or ends it with HOST_ERR. Operands: The host's answer for the next read of a request: its tag, success and bytes (R300). -/
  | pcieCompletion (tag : BitVec 16) (ok : Bool) (feed : List Byte)
  /-- PCIE_COMPLETION_TIMEOUT (R476): A host read reaches the completion time-out and ends as an error. Operands: A request's host reads time out. -/
  | pcieCompletionTimeout (tag : BitVec 16)
  /-- BAR4_READ (R299): A BAR4 read becomes a system-trail read of the DPA window. Operands: A read of n + 1 bytes. -/
  | bar4Read (off : BitVec 36) (n : Fin 4096)
  /-- BAR4_WRITE (R299): A BAR4 write becomes a system-trail write when permitted. Operands: A write of 1 to 4,096 bytes. -/
  | bar4Write (off : BitVec 36) (data : List Byte)
  /-- RING_DOORBELL (R303): A doorbell write sets a ring's TAIL, is ignored, or puts the ring in ERROR. Operands: A doorbell write; `whole`: one aligned 32-bit access (R303). -/
  | ringDoorbell (r : Fin 256) (v : W32) (whole : Bool)
  /-- RING_ENABLE (R301): Setting ENABLE resets HEAD and TAIL and starts the ring, or errors on a misaligned base. Operands: ENABLE of a ring is set (R301). -/
  | ringEnable (r : Fin 256)
  /-- RING_DISABLE (R322): Clearing ENABLE moves the ring to STOPPING and drops unstarted descriptors. Operands: ENABLE of a ring is cleared (R322). -/
  | ringDisable (r : Fin 256)
  /-- RING_STOP_COMPLETE (R322): The in-flight descriptors of a STOPPING ring complete and it becomes OFF. Operands: The descriptors in flight of a STOPPING ring have completed (R322). -/
  | ringStopComplete (r : Fin 256)
  /-- RING_RESUME (R306): RESUME restarts a HALTED ring at its first unstarted descriptor. Operands: RESUME of a ring (R306). -/
  | ringResume (r : Fin 256)
  /-- RING_FLUSH (R306): FLUSH completes unstarted descriptors with FLUSHED and runs the ring on. Operands: FLUSH of a ring; `rest` are the descriptors from HEAD to TAIL as read (R306). -/
  | ringFlush (r : Fin 256) (rest : List Desc)
  /-- DESCRIPTOR_FETCH (R305): The host engine reads the next pending descriptor of a ring within its fetch window. Operands: The host engine reads a ring's next descriptor (R305). -/
  | descriptorFetch (r : Fin 256)
  /-- DESCRIPTOR_READ_COMPLETE (R304): A descriptor read returns; HEAD advances and the descriptor is dispatched, or the ring enters ERROR on failure. Operands: A descriptor read returns (R304). -/
  | descriptorReadComplete (d : Desc) (ok : Bool)
  /-- NOP_DESCRIPTOR (R308): A NOP descriptor completes OK. Operands: A NOP descriptor (R308). -/
  | nopDescriptor (d : Desc)
  /-- COPY (R309): Copies bytes from a source trail to a destination trail. Operands: the descriptor. -/
  | copy (d : Desc)
  /-- FILL (R309): Writes a pattern through the destination trail. Operands: the descriptor. -/
  | fill (d : Desc)
  /-- GATHER (R309): Reads a gather list and copies its entries into one destination range. Operands: the descriptor; the gather list as read, and whether the read succeeded. -/
  | gather (d : Desc) (list : List (BitVec 128)) (ok : Bool)
  /-- STREAM_OUT (R309): Reads data and sends it as MSG messages of SEG bytes. Operands: the descriptor. -/
  | streamOut (d : Desc)
  /-- STREAM_IN (R309): Issues RD of SEG bytes on a context trail and writes the data through the destination trail. Operands: the descriptor. -/
  | streamIn (d : Desc)
  /-- DATA_DESCRIPTOR_COMPLETE (R312): A DATA descriptor's last message completes; its record is posted and a failure halts the ring. Operands: the descriptor. -/
  | dataDescriptorComplete (d : Desc)
  /-- MBX (R314): A mailbox descriptor carries a request to Lookout and returns its response. Operands: descriptor; status and bytes of the read of its request. -/
  | mbx (d : Desc) (rd : Byte) (body : List Byte)
  /-- EQ_ENABLE (R315): Setting an event queue's ENABLE resets it, or is refused on a misaligned base. Operands: ENABLE of an event queue is set (R315). -/
  | eqEnable (q : Fin 64)
  /-- EQ_DISABLE (R322): Disabling an event queue discards its records. Operands: ENABLE of an event queue is cleared (R322). -/
  | eqDisable (q : Fin 64)
  /-- EQ_HEAD_DOORBELL (R315): A head doorbell advances HEAD and re-arms, or is ignored with BAD_HEAD. Operands: A head doorbell (R315). -/
  | eqHeadDoorbell (q : Fin 64) (v : W32)
  /-- EVENT_RECORD_WRITE (R319): A completion or event record is written when its queue has room, with MSI-X moderation evaluated. Operands: The next record of a queue is written (R319). -/
  | eventRecordWrite (q : Fin 64)
  /-- EQ_MODERATION_TIMER (R317): TIME_US after the first unsignalled record the queue sends its MSI-X message. Operands: TIME_US have passed since a queue's first unannounced record (R317). -/
  | eqModerationTimer (q : Fin 64)
  /-- HIF_TB_SET (R320): A write of HIF_TB_SET steps the timebase forward or is ignored. Operands: A write of HIF_TB_SET: 0 whole, 1 low half, 2 high half (R320, R323). -/
  | hifTbSet (part : Fin 3) (v : W64)
  /-- PTM_REQUEST (R321): Every PTM_INT ms the device issues a PTM request. Operands: PTM_INT ms have passed (R321). -/
  | ptmRequest
  /-- PTM_RESPONSE (R321): A PTM response yields an offset; the timebase steps or slews and may lock. Operands: A PTM response: timebase less master time, and whether the loop is locked (R321). -/
  | ptmResponse (offset : W64) (locks : Bool)
  /-- PTM_RESPONSE_TIMEOUT (R321): Three missed PTM responses clear LOCKED. Operands: A PTM request goes unanswered (R321). -/
  | ptmResponseTimeout
  /-- HIF_CNT_CLR (R323): Clears the doorbell, event-drop and BAR4 error counters. Operands: A write of HIF_CNT_CLR (R323). -/
  | hifCntClr (v : W32)
  /-- REGISTER_WRITE (R14): A write to a set-up or engine register without behaviour of its own sets, clears or ignores fields by access type. Operands: The register, the value, 8 bytes or 4, and what the write needs. -/
  | registerWrite (r : RegAt) (v : W64) (wide : Bool) (x : WriteAux)
  /-- PROG_N_LOW (R343): PROG_N held low for 32 filter cycles starts reconfiguration, pins go high-impedance with pulls. Operands: PROG_N has been low for 32 filter cycles (R343). -/
  | progNLow
  /-- PROG_N_RISE (R326): PROG_N rises; straps are sampled and a configuration attempt starts. Operands: PROG_N rises and the straps are sampled (R326). -/
  | progNRise (mode : BitVec 3) (pullN : Bool)
  /-- CFG_RECONF (R348): A keyed write of CFG_RECONF performs full reconfiguration from the named slot. Operands: A write of CFG_RECONF (R348). -/
  | cfgReconf (v : W32)
  /-- CONFIG_ATTEMPT (R329): The controller discovers the flash, reads the slot table and starts loading an image slot. Operands: A configuration attempt begins, on what the flash answers (R327–R330). -/
  | configAttempt (v : FlashView)
  /-- CONFIG_SEGMENT (R331): A segment is read, decrypted, decompressed and applied to the Saddle, a die or an island. Operands: A segment: header, payload as stored after decryption, and what an ISLAND payload configures (R331). -/
  | configSegment (hdr : List Byte) (payload : List W32) (g : IslandCfg)
  /-- TRAILER_CHECK (R336): The trailer's CRC, signature and GCM tag are checked at the end of the image. Operands: The trailer's checks (R336). -/
  | trailerCheck (v : TrailerView)
  /-- CONFIG_IDLE_TIMEOUT (R336): No byte arrives for 50 ms and the attempt fails with TIMEOUT. Operands: No byte has arrived for 50 ms (R336). -/
  | configIdleTimeout
  /-- STARTUP_LOCK (R340): Base clocks and enabled PLLs report lock and boot context island clocks start. Operands: The LOCK step (R340). -/
  | startupLock
  /-- STARTUP_LOCK_TIMEOUT (R340): Lock is not reached within 10 ms and the attempt fails with LOCK. Operands: Lock is not reached within 10 ms (R340). -/
  | startupLockTimeout
  /-- STARTUP_GSR (R340): Global set/reset is released on boot context islands. Operands: The GSR step (R340). -/
  | startupGsr
  /-- STARTUP_WE (R340): Fabric memory and engine writes are enabled. Operands: The WE step (R340). -/
  | startupWe
  /-- STARTUP_OUT (R340): User pins take their bank configuration, transmitters leave idle and ALIVE passes to Cairn. Operands: The OUT step (R340). -/
  | startupOut
  /-- DONE_RELEASE (R341): With the steps, HBM training, the retired set and boot contexts done, DONE is released and READY becomes 1. Operands: DONE is released, `us` after configuration start (R341). -/
  | doneRelease (us : W32)
  /-- BOOT_CONTEXT_RELOAD (R342): The configuration controller rereads a boot context's memory contents from flash after Park exit or a retained rejoin. Operands: A boot context's memory contents are read again (R342). -/
  | bootContextReload (c : BitVec 10)
  /-- BOOT_RELOAD_COMPLETE (R342): A boot context's memories are written or left zero and it is released. Operands: the context; the signed digest that the read found, none when it failed (R342). -/
  | bootReloadComplete (c : BitVec 10) (digest : Option (List Byte))
  /-- FRAME_SWEEP_CHECK (R347): The frame sweep checks a frame's CRC and reports a mismatch. Operands: The frame sweep checks a frame (R347). -/
  | frameSweepCheck (i : Fin 256) (idx : W32) (bad last : Bool)
  /-- QUAD_PLL_LOSS_OF_LOCK (R353): A quad PLL unlocks; its transmitters idle and its ports lose link. Operands: quad. -/
  | quadPllLossOfLock (q : Fin 16)
  /-- IOB_QPLL_WRITE (R353): A write of IOB_QPLL takes effect only with every lane OFF, and the PLL relocks. Operands: quad, value written. -/
  | iobQpllWrite (q : Fin 16) (v : W32)
  /-- IOB_LANE_CFG_WRITE (R354): A lane setting is applied, or ignored with ERR on an invalid rate or a busy lane. Operands: lane, value written. -/
  | iobLaneCfgWrite (l : Fin 64) (v : W32)
  /-- RAW_UNDERRUN (R355): A RAW lane has no data to send and transmits the IDLE pattern. Operands: lane. -/
  | rawUnderrun (l : Fin 64)
  /-- RAW_RECEIVE (R355): A RAW lane delivers received words as a 256-byte MSG or drops them. Operands: lane, a free tag of the transceivers, the 256 bytes. -/
  | rawReceive (l : Fin 64) (tag : BitVec 16) (data : List Byte)
  /-- ETH_FRAME_RECEIVE (R358): An Ethernet port receives a frame and delivers it with its timestamp, to Lookout for PTP, or drops it. Operands: engine, port, first of a run of free tags, the frame without FCS, whether the FCS is good, whether it is addressed to Lookout's clock, its timestamp. -/
  | ethFrameReceive (e p : Fin 4) (tag : BitVec 16) (frame : List Byte) (fcs mine : Bool) (ts : W64)
  /-- ETH_LINK_STATE_CHANGE (R357): An Ethernet port's link goes up or down. Operands: engine, port, new state. -/
  | ethLinkStateChange (e p : Fin 4) (up : Bool)
  /-- JESD_RECEIVE (R361): A receive JESD204C link delivers blocks after RBD link-clock cycles. Operands: quad, a free tag of the transceivers, 256 bytes of blocks. -/
  | jesdReceive (q : Fin 16) (tag : BitVec 16) (data : List Byte)
  /-- JESD_UNDERRUN (R361): A transmit link has no data and sends scrambled zero blocks. Operands: quad. -/
  | jesdUnderrun (q : Fin 16)
  /-- SYSREF (R361): A SYSREF pulse aligns the links that use the pin. Operands: die of the pin. -/
  | sysref (d : Fin 4)
  /-- EXTENDED_MULTIBLOCK_LOCK_LOSS (R361): A link loses extended multiblock lock or SYSREF alignment. Operands: quad, whether SYSREF alignment was lost. -/
  | extendedMultiblockLockLoss (q : Fin 16) (misaligned : Bool)
  /-- LOSS_OF_SIGNAL (R367): A lane receiver loses or regains signal and its owner reports link down. Operands: lane, lost or regained. -/
  | lossOfSignal (l : Fin 64) (lost : Bool)
  /-- VCCIO_MONITOR (R365): Every 10 µs a bank's VCCIO is measured against VCLASS. Operands: bank, measured mV. -/
  | vccioMonitor (b : Fin 32) (mv : BitVec 12)
  /-- BANK_PLL_LOSS_OF_LOCK (R366): A bank PLL unlocks and its pins drive safe states. Operands: bank. -/
  | bankPllLossOfLock (b : Fin 32)
  /-- BANK_PLL_RELOCK (R366): A bank PLL relocks and outputs return at the first edge. Operands: bank. -/
  | bankPllRelock (b : Fin 32)
  /-- PTP_PORT_CHANGE (R367): A change of IOB_PTP_CTL while SRC = 2 clears LOCKED and resynchronises. Operands: A write of IOB_PTP_CTL (R367). -/
  | ptpPortChange (v : BitVec 4)
  /-- BUDGET_UPDATE (R373): Every 100 µs the governor receives die reports and replies with budgets. Operands: 100 µs averages of the Saddle, HBM and dies in 1/8 W; dies throttled for longer than 1 ms. -/
  | budgetUpdate (saddle hbm p0 p1 p2 p3 : BitVec 12) (late : BitVec 4)
  /-- CURRENT_SAMPLE (R374): Every 1 µs a die power controller measures VCCF current against its budget. Operands: die, last 1 µs sample and 100 µs average in 1/8 W. -/
  | currentSample (d : Fin 4) (sample average : BitVec 12)
  /-- THROTTLE_TIGHTEN (R374): Every 10 µs over budget TF rises by 1/8, then ISSUE_CAP falls. Operands: die. -/
  | throttleTighten (d : Fin 4)
  /-- THROTTLE_RELAX (R374): Every 100 µs under 0.9 times the budget one throttle step is reversed. Operands: die. -/
  | throttleRelax (d : Fin 4)
  /-- TEMPERATURE_SAMPLE (R375): Every 100 µs the hottest die sensor adjusts the budget, reports Cairn or resets the die. Operands: die, hottest sensor and its signed °C, whether a millisecond has passed since the last cut or restoration. -/
  | temperatureSample (d : Fin 4) (sensor : Fin 9) (t : BitVec 8) (ms : Bool)
  /-- CURRENT_CHANGE_ADMIT (R376): A paced current change is admitted at no more than 40 A/µs. -/
  | currentChangeAdmit
  /-- DROOP_PERSISTS (R378): A droop detector fired for 10 µs and Cairn receives PWR_DROOP. Operands: linear island number. -/
  | droopPersists (i : Fin 256)
  /-- RAIL_SAMPLE (R379): Every 10 µs each rail is sampled, reporting after 3 samples out of range. Operands: bit of PWR_RAIL_STAT, mV. -/
  | railSample (r : Fin 11) (mv : BitVec 12)
  /-- BUS_SAMPLE (R380): VSENSE_BUS is sampled and the bus thresholds are evaluated. Operands: converter code. -/
  | busSample (code : BitVec 12)
  /-- BUS_SAG_ENTER (R380): The bus stays below SAG_DV for SAG_US and the sag cap applies. -/
  | busSagEnter
  /-- BUS_SAG_EXIT (R380): The bus stays above SAG_DV + 1 V for 1 ms and CAP_W is restored. -/
  | busSagExit
  /-- BUS_SWELL_TIMER (R380): The bus stays above SWELL_DV for 10 µs. -/
  | busSwellTimer
  /-- BUS_FAIL (R380): The bus stays below FAIL_DV for 20 µs with FAIL_EN and starts the power-fail sequence. -/
  | busFail
  /-- PWRFAIL_N_FALL (R381): PWRFAIL_N low for 1 µs runs the power-fail sequence to Park with safe pins and log tail written. -/
  | pwrfailNFall
  /-- PWR_RUNG_REQUEST (R383): A write of PWR_RUNG.REQ requests a package rung transition, or is refused. Operands: value written to REQ. -/
  | pwrRungRequest (r : BitVec 3)
  /-- PWR_DIE_RUNG_REQUEST (R383): A write of PWR_DIE_RUNG requests a die rung, or is refused. Operands: value written to REQ. -/
  | pwrDieRungRequest (v : BitVec 8)
  /-- RUNG_TRANSITION_START (R385): A pending rung transition starts once the previous one and any running swap end. -/
  | rungTransitionStart
  /-- RUNG_ENTRY_COMPLETE (R385): Entry to Hold, Lull, Park or Dormant completes. Operands: transition time. -/
  | rungEntryComplete (ns : BitVec 32)
  /-- RUNG_EXIT_COMPLETE (R385): Exit to a shallower rung completes; memories are zeroed and Switchback restores contexts. Operands: transition time. -/
  | rungExitComplete (ns : BitVec 32)
  /-- PWR_WAKE_EXPIRY (R386): The PWR_WAKE timer reaches 0 and requests Run. -/
  | pwrWakeExpiry
  /-- BAR0_WAKE_READ (R386): A BAR0 read at Park or Dormant wakes the device and completes after the exit. Operands: what is read. -/
  | bar0WakeRead (off : BarRead)
  /-- PWR_BUS_STAT_CLR (R390): Sets the bus MIN and MAX to NOW. -/
  | pwrBusStatClr
  /-- PWR_CNT_CLR (R390): Clears the droop counters. -/
  | pwrCntClr
  /-- LOOKOUT_FIRMWARE_LOAD (R393): The boot ROM loads and checks the active firmware slot, retries the other, or enters RECOVERY. Operands: the slot-table copies and the two firmware slots as read. -/
  | lookoutFirmwareLoad (ta tb : List Byte) (a b : FwView)
  /-- LKO_WATCHDOG_EXPIRY (R394): The Lookout watchdog expires and Lookout restarts. Operands: PC of the core. -/
  | lkoWatchdogExpiry (pc : W32)
  /-- LOOKOUT_TRAP (R394): A Lookout trap restarts Lookout. Operands: PC of the core. -/
  | lookoutTrap (pc : W32)
  /-- MGT_CTL_RESTART (R394): MGT_CTL.RESTART restarts Lookout from the boot ROM. -/
  | mgtCtlRestart
  /-- LOOKOUT_RESTART_COMPLETE (R394): Lookout finishes restarting and resumes its periodic work. -/
  | lookoutRestartComplete
  /-- LOG_FLASH_COPY (R396): Lookout copies a log entry to flash, rotating and retiring sectors. -/
  | logFlashCopy
  /-- GET_INFO (R402): Returns firmware, slot, anti-rollback and fuse information. -/
  | getInfo
  /-- GET_SENSORS (R402): Returns every sensor record. Operands: the sensors' values in the order of their numbers, FLT_STAT and the rung apart. -/
  | getSensors (vals : Vector W32 85)
  /-- READ_LOG (R402): Returns up to 127 log entries from a sequence number. -/
  | readLog
  /-- LANE_HEALTH (R402): Returns error counters and eye margins of a lane group. Operands: the direction whose lanes are reported (R402 names none) and their eye margins. -/
  | laneHealth (eyes : LaneEyes)
  /-- GET_CFG_ATTEMPTS (R402): Returns the last configuration's attempts and codes. -/
  | getCfgAttempts
  /-- UPDATE_BEGIN (R397): Names an update target and erases the inactive slot. -/
  | updateBegin
  /-- UPDATE_DATA (R397): Writes part of an image into the inactive slot. -/
  | updateData
  /-- UPDATE_END (R397): Reads the slot back and checks it. Operands: code of the walk over the segments, 0 where it passes; verdict of the signature. -/
  | updateEnd (segCode : Fin 32) (sigOk : Bool)
  /-- SLOT_ACTIVATE (R397): Writes both slot-table copies to name the checked slot. -/
  | slotActivate
  /-- ARB_ADVANCE (R398): Raises the anti-rollback counter, or is refused. -/
  | arbAdvance
  /-- LKO_RESTART (R401): Mailbox command that restarts Lookout after its response is sent. -/
  | lkoRestart
  /-- FLT_CLEAR (R414): Mailbox command that clears Cairn status bits as a FLT_STAT write does. -/
  | fltClear
  /-- SPDM (R400): Carries one SPDM message to Lookout's responder. Operands: the responder's answer; whether a session is open afterwards; application data of the open session. -/
  | spdm (reply : List Byte) (opens : Option Bool) (app : Option (List Byte))
  /-- PTP_CFG (R400): Enables the PTP clock and sets its domain. -/
  | ptpCfg
  /-- HBM_PC_CLEAR (R273): Empties the retired pseudo-channel set for the next initialisation. -/
  | hbmPcClear
  /-- FUSE_PROGRAM (R399): Programs a once-only fuse, or is refused with SPENT. -/
  | fuseProgram
  /-- SET_KWK (R401): Establishes the key-wrapping key. -/
  | setKwk
  /-- MGT_MBX_TX_PUSH (R403): A write pushes a request word into the mailbox FIFO or is dropped. Operands: word. -/
  | mgtMbxTxPush (w : W32)
  /-- MGT_MBX_RX_POP (R403): A read of MGT_MBX_RX pops a response word unless OBS = 1. Operands: OBS of the read. -/
  | mgtMbxRxPop (obs : Bool)
  /-- RING_TOKEN_TIMEOUT (R404): A fault ring segment's token fails to return within 2 µs and RING_FAULT is raised. Operands: segment (dies 0–3, 4 the Saddle); whether its token circulates again. -/
  | ringTokenTimeout (g : Fin 5) (back : Bool)
  /-- CAIRN_MESSAGE (R409): Cairn takes a fault message, counts it, latches the first, and applies the kind's reactions. Operands: whether the message passes its parity; the time a park takes. -/
  | cairnMessage (parityOk : Bool) (ns : BitVec 32)
  /-- DIE_RESET_RELEASE (R410): The 100 µs die reset ends and the die rejoins empty. Operands: die. -/
  | dieResetRelease (d : Fin 4)
  /-- SAFE_REQ_N_LOW (R413): SAFE_REQ_N passes its filter and raises SAFE_REQ. -/
  | safeReqNLow
  /-- SAFE_REQ_N_RISE (R413): With REQ_AUTO = 1 the rising edge clears SAFE and LATCHED. -/
  | safeReqNRise
  /-- FLT_STAT_CLEAR (R414): A W1C write of FLT_STAT tests persistent causes, re-latches or clears bits and releases pins. Operands: value written. -/
  | fltStatClear (w : W32)
  /-- FLT_INJ_GO (R415): An injection GO forces a message or inverts check bits, or sets ERR. Operands: value written. -/
  | fltInjGo (w : W64)
  /-- FLT_CNT_CLR (R419): Clears the kind counters and LKO_OVF. -/
  | fltCntClr
  /-- TWN_PAIR (R424): Starts pairing with a partner over the Arête link. Operands: A descriptor naming a partner, the hash of its key as named, and the status of its read (R414). -/
  | twnPair (d : Desc) (hash : List Byte) (rd : BitVec 8)
  /-- HELLO (R424): A HELLO frame carries role, versions and a signed key share; the partner is authenticated and keys derived. Operands: HELLO from the partner: the role it takes, its versions, whether the authentication holds (R414, R415). -/
  | hello (role : Fin 2) (vmin vmax : Byte) (authOk : Bool)
  /-- HELLO_TIMEOUT (R423): No HELLO is answered within 100 ms and pairing fails with NO_PARTNER. Operands: A HELLO goes unanswered (R414). -/
  | helloTimeout
  /-- PAIRING_COMPLETE (R424): The version is negotiated, the role is set and heartbeats start. Operands: The frame keys are made and the links begin (R415, R417). -/
  | pairingComplete
  /-- TWN_UNPAIR (R424): Sends NOTICE, stops mirroring, discards checkpoints and returns to OFF. Operands: A descriptor that ends the pairing (R415). -/
  | twnUnpair (d : Desc)
  /-- MIRROR_ADD (R428): Adds a mirrored region, which enters SYNCING. Operands: A descriptor that adds a mirrored region; whether the backup can hold it (R421). -/
  | mirrorAdd (d : Desc) (peerOk : Bool)
  /-- MIRROR_REMOVE (R422): Removes a mirrored region. Operands: A descriptor that removes a mirrored region (R421). -/
  | mirrorRemove (d : Desc)
  /-- CKPT_SET (R429): Sets a context's checkpoint interval and allocates checkpoint slots. Operands: A descriptor that registers a context for checkpoints (R425). -/
  | ckptSet (d : Desc)
  /-- TAKEOVER (R435): The primary checkpoints its contexts finally, sends NOTICE and becomes BACKUP. Operands: A descriptor that hands the work to the backup (R434). -/
  | takeover (d : Desc)
  /-- VERSION_SET (R425): Pins or unpins the protocol version. Operands: A descriptor that sets the protocol version (R416). -/
  | versionSet (d : Desc)
  /-- PROMOTE (R431): A backup whose partner is down starts promotion. Operands: A descriptor that promotes the backup (R432). -/
  | promote (d : Desc)
  /-- HEARTBEAT (R430): A partner heartbeat frame updates liveness and version, and detects dual primaries. Operands: A heartbeat of the partner: its role, the intervals missed before it, its region settings (R429, R430), its header (R285). -/
  | heartbeat (role : Fin 5) (missed : Fin 5) (regions : List (Fin 16 × W64)) (h : ArlHead)
  /-- PARTNER_HEARTBEAT_TIMEOUT (R430): Five heartbeat intervals pass without a valid heartbeat and the partner is declared lost. Operands: No heartbeat for the limit (R430). -/
  | partnerHeartbeatTimeout
  /-- NOTICE (R430): A NOTICE frame declares the partner lost and may trigger promotion. Operands: the cause (R431), the frame's SEQ, its key and tag (R285). -/
  | notice (cause : Fin 5) (seq : Nat) (ok : ArlTag)
  /-- MIRROR_WR (R427): A forwarded mirrored write is applied at the backup in SEQ order, or answered with NAK. Operands: region, the frame's SEQ, DPA, byte mask, data, its key and tag (R285). -/
  | mirrorWr (region : Fin 16) (seq : Nat) (dpa : BitVec 48) (mask : List Bool) (data : List Byte) (ok : ArlTag)
  /-- ACK (R427): An acknowledgement lets a sync mirrored write return WRACK and frees buffered frames. Operands: An acknowledgement from the partner: the SEQ acknowledged, and its header (R285). -/
  | ack (seq : Nat) (skew : Bool) (h : ArlHead)
  /-- NAK (R420): A NAK makes the sender resend from the requested frame and may restart a region's sweep. Operands: A negative acknowledgement from the partner: the SEQ requested, whether its write failed there (R428), and its header (R285). -/
  | nak (seq : Nat) (failed : Bool) (h : ArlHead)
  /-- CKPT (R429): A checkpoint frame is stored at the backup, completing a checkpoint when all parts have arrived. Operands: a part of a checkpoint (R429), the frame's SEQ, its key and tag (R285). -/
  | ckpt (p : CkptPart) (seq : Nat) (ok : ArlTag)
  /-- KEY (R285): A key update frame switches the link's directional key. Operands: the frame's header (R285). -/
  | key (h : ArlHead)
  /-- MIRROR_SWEEP_COMPLETE (R428): A region's sync sweep ends and it becomes IN_SYNC. Operands: The sweep of a region ends (R423). -/
  | mirrorSweepComplete (n : Fin 16)
  /-- CHECKPOINT_INTERVAL (R429): INTERVAL_MS expires and the primary takes a PAUSE readback of the context. Operands: A context's checkpoint interval ends (R426). -/
  | checkpointInterval (c : BitVec 10)
  /-- CHECKPOINT_READBACK_COMPLETE (R429): The checkpoint readback ends; it is written to a local slot and sent as CKPT frames. Operands: The readback of a checkpoint ends (R426). -/
  | checkpointReadbackComplete (c : BitVec 10)
  /-- PROMOTION_COMPLETE (R431): Regions become writable, the role becomes PRIMARY and checkpointed contexts are queued for load. Operands: A promotion ends (R433). -/
  | promotionComplete
  /-- BST_RUN (R444): Starts a self-test of a unit, queueing it and isolating the unit. Operands: service ring: a self-test of one unit -/
  | bstRun (d : Desc)
  /-- BST_ABORT (R450): Ends a named test ABORTED and re-initialises the unit. Operands: service ring: a unit's test is given up -/
  | bstAbort (d : Desc)
  /-- BST_SADDLE (R448): Starts the maintenance stop that scans the Saddle partitions and reconfigures. Operands: service ring: the maintenance stop -/
  | bstSaddle (d : Desc)
  /-- BST_OFFLINE (R447): Takes a unit out of service without testing it. Operands: service ring: a unit is bypassed -/
  | bstOffline (d : Desc)
  /-- BST_ONLINE (R447): Returns an OFFLINE unit that has not failed to service. Operands: service ring: a bypassed unit returns -/
  | bstOnline (d : Desc)
  /-- BST_ISOLATION_COMPLETE (R445): A unit awaiting isolation leaves service and its test or offline state begins. Operands: unit code; lines as for PC_RETIRE_COMPLETE. -/
  | bstIsolationComplete (u : BitVec 16) (img sav tab : List (BitVec 42))
  /-- BST_TEST_COMPLETE (R446): A test finishes its compare and re-initialisation and places the unit by PASS or FAIL. Operands: a unit's test ends -/
  | bstTestComplete (u : BitVec 16) (sig : W32)
  /-- BST_SADDLE_COMPLETE (R448): The Saddle scan ends, its result is recorded and the device reconfigures. Operands: the Saddle's own test ends: the signature of each partition (R448) -/
  | bstSaddleComplete (sigs : Vector W32 16)
  /-- BST_UNIT_SEL_WRITE (R453): A write of BST_UNIT_SEL captures the unit's info, golden signature and time. Operands: a write of BST_UNIT_SEL -/
  | bstUnitSelWrite (v : W32)
  /-- DBGREG_UPDATE_DR (R454): A JTAG DBGREG update-DR performs an access to the DBG_ block. Operands: The data register, and what a write needs. -/
  | dbgregUpdateDr (v : BitVec 96) (x : WriteAux)
  /-- CHALLENGE (R457): Places a fresh nonce in DBG_NONCE. Operands: DBG_CMD = CHALLENGE (R457). -/
  | challenge
  /-- RESPOND (R457): Checks the debug key and signature and grants the requested level and scope. Operands: DBG_CMD = RESPOND over PCIe or JTAG: SHA-384 of the key in DBG_BUF, the verdict on its signature (R457). -/
  | respond (pcie : Bool) (keyHash : List Byte) (sigOk : Bool)
  /-- PASSWORD (R458): Checks the password hash and grants PW_LEVEL. Operands: DBG_CMD = PASSWORD: SHA-384 of the password in DBG_BUF (R458). -/
  | password (pcie : Bool) (hash : List Byte)
  /-- NONCE_EXPIRY (R457): A challenge nonce expires after 10 s. Operands: 10 s after a CHALLENGE (R457). -/
  | nonceExpiry
  /-- DBG_LOCK (R460): DBG_CMD LOCK returns the debug level to 0, disabling comparators, resuming halts and closing debug trails. Operands: DBG_CMD = LOCK (R460). -/
  | dbgLock
  /-- ATTACH (R461): Setting or clearing DBG_CTL.ATTACH starts or ends ladder emulation. Operands: A write of DBG_CTL.ATTACH (R461). -/
  | attach (on : Bool)
  /-- ACCESS_PORT_GO (R462): DBG_AP_CTL.GO checks the level and sends one access-port request on a debug trail. Operands: GO of DBG_AP_CTL is written. -/
  | accessPortGo
  /-- ACCESS_PORT_COMPLETE (R462): An access-port request completes with data and STATUS. Operands: The answer of the request in flight. -/
  | accessPortComplete
  /-- ENG_DBG_HALT (R464): Halts the engine at the next bundle boundary, deferred inside a locked sequence. -/
  | engDbgHalt (i : Fin 256)
  /-- ENG_DBG_STEP (R464): Issues one bundle from HALTED and halts again. -/
  | engDbgStep (i : Fin 256)
  /-- ENG_DBG_RESUME (R464): Returns a halted engine to RUNNING or STOPPING and raises the watchdog count to WDOG_MIN. -/
  | engDbgResume (i : Fin 256)
  /-- HALT_DEFER_EXPIRY (R465): A deferred halt reaches 64 KE cycles; the locked sequence is broken and the engine halts at LOCK. -/
  | haltDeferExpiry (i : Fin 256)
  /-- LKO_HALT (R469): Halts Lookout at an instruction boundary. Operands: DBG_LKO_CTL.HALT; the instruction that comes next (R469). -/
  | lkoHalt (pc : W32)
  /-- LKO_STEP (R469): Steps Lookout one instruction. Operands: DBG_LKO_CTL.STEP; the instruction after the one stepped (R469). -/
  | lkoStep (pc : W32)
  /-- LKO_RESUME (R469): Resumes Lookout, raising its watchdog time to WDOG_MIN. Operands: DBG_LKO_CTL.RESUME (R469). -/
  | lkoResume
  /-- LKO_BREAKPOINT_HIT (R469): Lookout reaches a matching break address and halts. Operands: Lookout comes to a break address (R469). -/
  | lkoBreakpointHit (n : Fin 2)
  /-- ENG_DBG_RX_POP (R470): A read of ENG_DBG_RX with OBS = 0 pops the oldest terminal word. Operands: OBS of the read. -/
  | engDbgRxPop (i : Fin 256) (obs : Bool)
  /-- ENG_DBG_RXACK (R470): ENG_DBG_RXACK.POP pops one terminal word. -/
  | engDbgRxack (i : Fin 256)
  /-- ENG_DBG_WR (R470): Stores a word into X word RX_WORD if it reads 0, otherwise drops it. -/
  | engDbgWr (i : Fin 256) (w : W32)
  /-- TRACE_ENABLE (R471): Setting DBG_TRC_CTL.EN starts tracing, or is refused with ERR for an invalid region. Operands: A write of DBG_TRC_CTL with EN = 1 (R471). -/
  | traceEnable (v : W32) (jtag : Bool)
  /-- TRACE_PACKET_WRITE (R471): A trace packet is written to the HBM buffer, wrapping, stopping full or dropped. Operands: The oldest trace packet is written (R471). -/
  | tracePacketWrite
  /-- LINE_CONVERSION (R282): The rekey engine finishes converting one line, advances the treeline, releases accesses waiting on that line and, on a failed tag or uncorrectable word, writes the line with an inverted tag and raises the alarm. Operands: for a host range, the line and its tag as read over the link. -/
  | lineConversion (raw tag : List Byte)
  /-- PERST_N_RELEASE (R293): PERST_N rises; the link trains, configuration space answers within 100 ms and a configuration attempt starts once PROG_N is also high. Operands: PERST_N rises (R293). -/
  | perstNRelease
  /-- VAUX_REMOVAL (R459): VAUX is removed, which clears DBG_STAT.FAILS and LOCKOUT and every other VAUX-domain state. Operands: VAUX is removed (R459). -/
  | vauxRemoval
  /-- QUAD_PLL_RELOCK (R353): An unlocked transceiver quad PLL regains lock; its transmitters leave electrical idle and its ports may come up again. Operands: quad. -/
  | quadPllRelock (q : Fin 16)
  /-- PRIVILEGED_PLL_RELOCK (R94): A PCIe or HBM PHY PLL that reported loss of lock regains lock, ending the persistent PLL_UNLOCK cause. Operands: That PLL locks again (R94). -/
  | privilegedPllRelock (k : Fin 3)
  /-- EXTENDED_MULTIBLOCK_LOCK_GAIN (R361): A JESD204C link gains extended multiblock lock and SYSREF alignment, setting IOB_JESD_STAT.SYNC. Operands: quad. -/
  | extendedMultiblockLockGain (q : Fin 16)
  /-- MCTP_MESSAGE (R400): An MCTP message arrives at Lookout over SMBus or PCIe VDM, carrying PLDM or SPDM traffic or an out-of-band request that wakes the device. Operands: message. -/
  | mctpMessage (m : Mctp)
  /-- ISLAND_CLOCK_EDGE (R57): An active edge of an island clock K0–K3 makes cell flip-flops, macrocells and MAC slice registers capture under their control sets. Operands: the islands of one join group, clock, direction, input values. -/
  | islandClockEdge (is : List (Fin 256)) (k : Fin 4) (rising : Bool) (ins : List (Nat × Bool))
  /-- TWN_CKPT_SEL_WRITE (R438): A write of TWN_CKPT_SEL captures TWN_CKPT_INFO for the named context. Operands: A write of TWN_CKPT_SEL (R436). -/
  | twnCkptSelWrite (v : W32)
  /-- TWN_CNT_CLR (R438): TWN_CNT_CLR.CLR clears TWN_LINK and returns to 0. Operands: A write of TWN_CNT_CLR (R436). -/
  | twnCntClr (v : W32)
  deriving DecidableEq, Repr

end Sys2Proof
end

