-- ==== Sys2Proof/Decode.lean ====
section
/-!
DEFINITION. Commands as words. The command table gives no row any bits (a command is an event, a register access or a
message, and spec/06 numbers only the slots of an engine bundle), so no word spells a command of the table.
-/

namespace Sys2Proof

/-- The command that the `nbits` low bits of a word spell by the table's bits: none, since no row has bits. -/
def decodeTableWord (_nbits _w : Nat) : Option Instr := none

end Sys2Proof
end

