-- ==== Sys2Proof/Config.lean ====
section
/-!
DEFINITION. What the manual leaves to the part: the free values, without a body, so that a statement holds
whatever they are.
-/

namespace Sys2Proof

/-- The k-th free value of a run: stands wherever the manual says a value is undefined or states none. A step
that needs one reads the counter of the state and advances it (assumption log 3). -/
opaque Config.freeValue : Nat → BitVec 64

/-- Whether a binary32 result is judged tiny before rounding (IEEE 754-2019 leaves it to the part; R160 does not
say). It matters only for a result that rounds up to the least normal number (assumption log 4). -/
opaque Config.tinyBefore : Bool

/-- Whether fma(0, ∞, quiet NaN) signals invalid operation (IEEE 754-2019 leaves it to the part, assumption log 4). -/
opaque Config.fmaInvalidNan : Bool

/-- DATA of a log entry of a TYPE other than 1, for what the entry reports (R395 gives no layout; assumption log 45). -/
opaque Config.logData : Nat → Nat → BitVec 112

/-- A byte of a FRAME readback (R344), whose layout is not in the manual: by the configuration it reads back and the offset
(assumption log 7). -/
opaque Config.frameByte : Machine.IslandCfg → Nat → BitVec 8

/-- The word that a connected receiving handshake group presents while RD_VALID = 0, which R86 does not state: by the group
(assumption log 59). -/
opaque Config.borderIdle : Nat → BitVec 32

/-- The bank within its bank group, of up to 256 of its pseudo-channel, that holds four consecutive 1 KiB rows of HBM, by their
number (R265 names no bank; assumption log 27). -/
opaque Config.hbmBank : Nat → BitVec 8

/-- Words of the descriptors of system trails, by trail and word, where the manual states no value (R207; assumption log 80). -/
opaque Config.systemWord : Nat → Nat → BitVec 64

/-- Uhlermid's PCI-SIG vendor ID, which the spec does not give in figures (R290; assumption log 82). -/
opaque Config.pciVendor : BitVec 16

end Sys2Proof
end

