-- ==== Sys2Proof/Machine/Regs.lean ====
section
/-!
DEFINITION. The set-up registers of every BAR0 block, from the register tables of the chapters: for each
register its offset, its reset value and its fields with their access types (R14, R15), and one name
`REGISTER.FIELD` for every field. Registers of an array take the index as argument.
-/

namespace Sys2Proof.Machine

/-- Access type of a field under R14, as REGISTER_WRITE applies it. `own`: the write belongs to a command of
its own, so REGISTER_WRITE leaves the field alone. `rwOff`, `rwDis`, `rwIdle`, `rwHalt`: writable only while the
ring is OFF, the event queue disabled, the trace off, Lookout halted. -/
inductive Acc where
  | ro | rw | w1c | own | rwOff | rwDis | rwIdle | rwHalt
  deriving DecidableEq, Repr

/-- A field of a set-up register: BAR0 offset of its register, most and least significant bit. -/
structure Fld where
  addr : Nat
  hi : Nat
  lo : Nat
  deriving DecidableEq, Repr

/-- One line of the register table: `count` registers from `base` on, `stride` bytes apart, all with the same
reset value and fields (hi, lo, access). -/
structure RegRow where
  base : Nat
  stride : Nat
  count : Nat
  reset : Nat
  fields : List (Nat × Nat × Acc)
  deriving DecidableEq, Repr

/-! ### HIF registers (spec/10_host_interface.md, R323) -/

def HIF_ID.DEVICE_ID : Fld := ⟨0, 31, 16⟩
def HIF_ID.HIF_VER : Fld := ⟨0, 7, 0⟩
def HIF_SADDLE_ID.RECORD : Fld := ⟨8, 63, 0⟩
def HIF_DIE_ID.RECORD (d : Nat) : Fld := ⟨0x10 + 8 * d, 63, 0⟩
def HIF_DIE_CAP.RETAIN_REJOIN (d : Nat) : Fld := ⟨0x30 + 4 * d, 1, 1⟩
def HIF_DIE_CAP.SPARE_MON (d : Nat) : Fld := ⟨0x30 + 4 * d, 0, 0⟩
def HIF_DIE_STAT.SOUTH (d : Nat) : Fld := ⟨0x40 + 4 * d, 20, 16⟩
def HIF_DIE_STAT.NORTH (d : Nat) : Fld := ⟨0x40 + 4 * d, 12, 8⟩
def HIF_DIE_STAT.STATE (d : Nat) : Fld := ⟨0x40 + 4 * d, 2, 0⟩
def HIF_CTL.RO_DATA : Fld := ⟨0x50, 3, 3⟩
def HIF_CTL.BAR4_WR : Fld := ⟨0x50, 2, 2⟩
def HIF_CTL.BAR4_EN : Fld := ⟨0x50, 1, 1⟩
def HIF_STAT.RINGS_ON : Fld := ⟨0x54, 24, 16⟩
def HIF_STAT.READY : Fld := ⟨0x54, 0, 0⟩
def HIF_BAR4_BASE.BASE : Fld := ⟨0x58, 11, 0⟩
def HIF_GRADE.TEMP : Fld := ⟨0x5c, 3, 2⟩
def HIF_GRADE.SPEED : Fld := ⟨0x5c, 1, 0⟩
def HIF_EVT_ROUTE.EN (g : Nat) : Fld := ⟨0x60 + 4 * g, 31, 31⟩
def HIF_EVT_ROUTE.EQ (g : Nat) : Fld := ⟨0x60 + 4 * g, 5, 0⟩
def HIF_DB_DROP.COUNT : Fld := ⟨0xa0, 31, 0⟩
def HIF_EVT_DROP.COUNT : Fld := ⟨0xa4, 31, 0⟩
def HIF_BAR4_ERR.COUNT : Fld := ⟨0xa8, 31, 0⟩
def HIF_CNT_CLR.CLR : Fld := ⟨0xac, 0, 0⟩
def HIF_TB.NS : Fld := ⟨0x100, 63, 0⟩
def HIF_TB_CTL.STEP_US : Fld := ⟨0x108, 31, 16⟩
def HIF_TB_CTL.PTM_INT : Fld := ⟨0x108, 15, 8⟩
def HIF_TB_CTL.SRC : Fld := ⟨0x108, 1, 0⟩
def HIF_TB_SET.NS : Fld := ⟨0x110, 63, 0⟩
def HIF_TB_ADJ.PPB : Fld := ⟨0x118, 31, 0⟩
def HIF_TB_STAT.LOCKED : Fld := ⟨0x11c, 31, 31⟩
def HIF_TB_STAT.OFFSET : Fld := ⟨0x11c, 30, 0⟩
def HIF_RING_BASE.BASE (r : Nat) : Fld := ⟨0x1000 + 0x20 * r, 46, 6⟩
def HIF_RING_CFG.PRIO (r : Nat) : Fld := ⟨0x1008 + 0x20 * r, 15, 14⟩
def HIF_RING_CFG.EQ (r : Nat) : Fld := ⟨0x1008 + 0x20 * r, 13, 8⟩
def HIF_RING_CFG.SIZE_LOG2 (r : Nat) : Fld := ⟨0x1008 + 0x20 * r, 6, 2⟩
def HIF_RING_CFG.TYPE (r : Nat) : Fld := ⟨0x1008 + 0x20 * r, 1, 0⟩
def HIF_RING_CTL.FLUSH (r : Nat) : Fld := ⟨0x100c + 0x20 * r, 2, 2⟩
def HIF_RING_CTL.RESUME (r : Nat) : Fld := ⟨0x100c + 0x20 * r, 1, 1⟩
def HIF_RING_CTL.ENABLE (r : Nat) : Fld := ⟨0x100c + 0x20 * r, 0, 0⟩
def HIF_RING_HEAD.INDEX (r : Nat) : Fld := ⟨0x1010 + 0x20 * r, 16, 0⟩
def HIF_RING_TAIL.INDEX (r : Nat) : Fld := ⟨0x1014 + 0x20 * r, 16, 0⟩
def HIF_RING_STAT.ERR_WHY (r : Nat) : Fld := ⟨0x1018 + 0x20 * r, 15, 8⟩
def HIF_RING_STAT.INFLIGHT (r : Nat) : Fld := ⟨0x1018 + 0x20 * r, 7, 4⟩
def HIF_RING_STAT.STATE (r : Nat) : Fld := ⟨0x1018 + 0x20 * r, 2, 0⟩
def HIF_EQ_BASE.BASE (q : Nat) : Fld := ⟨0x3000 + 0x20 * q, 46, 5⟩
def HIF_EQ_CFG.VECTOR (q : Nat) : Fld := ⟨0x3008 + 0x20 * q, 13, 8⟩
def HIF_EQ_CFG.SIZE_LOG2 (q : Nat) : Fld := ⟨0x3008 + 0x20 * q, 5, 1⟩
def HIF_EQ_CFG.ENABLE (q : Nat) : Fld := ⟨0x3008 + 0x20 * q, 0, 0⟩
def HIF_EQ_MOD.TIME_US (q : Nat) : Fld := ⟨0x300c + 0x20 * q, 31, 16⟩
def HIF_EQ_MOD.COUNT (q : Nat) : Fld := ⟨0x300c + 0x20 * q, 15, 0⟩
def HIF_EQ_TAIL.INDEX (q : Nat) : Fld := ⟨0x3010 + 0x20 * q, 16, 0⟩
def HIF_EQ_HEAD.INDEX (q : Nat) : Fld := ⟨0x3014 + 0x20 * q, 16, 0⟩
def HIF_EQ_STAT.LOST (q : Nat) : Fld := ⟨0x3018 + 0x20 * q, 31, 16⟩
def HIF_EQ_STAT.BAD_BASE (q : Nat) : Fld := ⟨0x3018 + 0x20 * q, 3, 3⟩
def HIF_EQ_STAT.BAD_HEAD (q : Nat) : Fld := ⟨0x3018 + 0x20 * q, 2, 2⟩
def HIF_EQ_STAT.FULL (q : Nat) : Fld := ⟨0x3018 + 0x20 * q, 1, 1⟩
def HIF_EQ_STAT.ARMED (q : Nat) : Fld := ⟨0x3018 + 0x20 * q, 0, 0⟩
def HIF_MSIX_ADDR.ADDR (v : Nat) : Fld := ⟨0x8000 + 0x10 * v, 63, 2⟩
def HIF_MSIX_DATA.MASK (v : Nat) : Fld := ⟨0x8008 + 0x10 * v, 32, 32⟩
def HIF_MSIX_DATA.DATA (v : Nat) : Fld := ⟨0x8008 + 0x10 * v, 31, 0⟩
def HIF_MSIX_PBA.PENDING : Fld := ⟨0x9000, 63, 0⟩

/-- The HIF block of the register table. -/
def hifRows : List RegRow := [
  ⟨0, 8, 1, 0x41260001, [(31, 16, .ro), (7, 0, .ro)]⟩,
  ⟨8, 8, 1, 0, [(63, 0, .ro)]⟩,
  ⟨0x10, 8, 4, 0, [(63, 0, .ro)]⟩,
  ⟨0x30, 4, 4, 0, [(1, 1, .ro), (0, 0, .ro)]⟩,
  ⟨0x40, 4, 4, 0x101000, [(20, 16, .ro), (12, 8, .ro), (2, 0, .ro)]⟩,
  ⟨0x50, 8, 1, 8, [(3, 3, .rw), (2, 2, .rw), (1, 1, .rw)]⟩,
  ⟨0x54, 8, 1, 0, [(24, 16, .ro), (0, 0, .ro)]⟩,
  ⟨0x58, 8, 1, 0, [(11, 0, .rw)]⟩,
  ⟨0x5c, 8, 1, 0, [(3, 2, .ro), (1, 0, .ro)]⟩,
  ⟨0x64, 4, 13, 0, [(31, 31, .rw), (5, 0, .rw)]⟩,
  ⟨0xa0, 8, 1, 0, [(31, 0, .ro)]⟩,
  ⟨0xa4, 8, 1, 0, [(31, 0, .ro)]⟩,
  ⟨0xa8, 8, 1, 0, [(31, 0, .ro)]⟩,
  ⟨0xac, 8, 1, 0, [(0, 0, .own)]⟩,
  ⟨0x100, 8, 1, 0, [(63, 0, .ro)]⟩,
  ⟨0x108, 8, 1, 0x3e80a00, [(31, 16, .rw), (15, 8, .rw), (1, 0, .rw)]⟩,
  ⟨0x110, 8, 1, 0, [(63, 0, .own)]⟩,
  ⟨0x118, 8, 1, 0, [(31, 0, .rw)]⟩,
  ⟨0x11c, 8, 1, 0, [(31, 31, .ro), (30, 0, .ro)]⟩,
  ⟨0x1000, 0x20, 256, 0, [(46, 6, .rwOff)]⟩,
  ⟨0x1008, 0x20, 256, 0x10, [(15, 14, .rwOff), (13, 8, .rwOff), (6, 2, .rwOff), (1, 0, .rwOff)]⟩,
  ⟨0x100c, 0x20, 256, 0, [(2, 2, .own), (1, 1, .own), (0, 0, .own)]⟩,
  ⟨0x1010, 0x20, 256, 0, [(16, 0, .ro)]⟩,
  ⟨0x1014, 0x20, 256, 0, [(16, 0, .ro)]⟩,
  ⟨0x1018, 0x20, 256, 0, [(15, 8, .ro), (7, 4, .ro), (2, 0, .ro)]⟩,
  ⟨0x3000, 0x20, 64, 0, [(46, 5, .rwDis)]⟩,
  ⟨0x3008, 0x20, 64, 8, [(13, 8, .rwDis), (5, 1, .rwDis), (0, 0, .own)]⟩,
  ⟨0x300c, 0x20, 64, 1, [(31, 16, .rw), (15, 0, .rw)]⟩,
  ⟨0x3010, 0x20, 64, 0, [(16, 0, .ro)]⟩,
  ⟨0x3014, 0x20, 64, 0, [(16, 0, .ro)]⟩,
  ⟨0x3018, 0x20, 64, 0, [(31, 16, .ro), (3, 3, .w1c), (2, 2, .w1c), (1, 1, .ro), (0, 0, .ro)]⟩,
  ⟨0x8000, 0x10, 64, 0, [(63, 2, .rw)]⟩,
  ⟨0x8008, 0x10, 64, 0x100000000, [(32, 32, .rw), (31, 0, .rw)]⟩,
  ⟨0x9000, 8, 1, 0, [(63, 0, .ro)]⟩]

/-! ### TRL registers (spec/07_trails.md, R224) -/

def TRL_CAP.MAX : Fld := ⟨0x10000, 31, 16⟩
def TRL_CAP.FREE : Fld := ⟨0x10000, 15, 0⟩
def TRL_ADM.HUB_BCAP : Fld := ⟨0x10008, 22, 16⟩
def TRL_ADM.DIE_BCAP : Fld := ⟨0x10008, 14, 8⟩
def TRL_ADM.UNITS_CAP : Fld := ⟨0x10008, 6, 0⟩
def TRL_TMO.TMO_US : Fld := ⟨0x10010, 19, 0⟩
def TRL_DRAIN.US : Fld := ⟨0x10014, 15, 0⟩
def TRL_STAT.RESERVED : Fld := ⟨0x10018, 28, 16⟩
def TRL_STAT.DEMOTED : Fld := ⟨0x10018, 12, 0⟩
def TRL_LQ_SEL.DIE : Fld := ⟨0x10020, 15, 13⟩
def TRL_LQ_SEL.ROUTER : Fld := ⟨0x10020, 12, 7⟩
def TRL_LQ_SEL.OUT : Fld := ⟨0x10020, 6, 3⟩
def TRL_LQ_SEL.LINK : Fld := ⟨0x10020, 2, 0⟩
def TRL_LQ_RES.CAP : Fld := ⟨0x10028, 31, 21⟩
def TRL_LQ_RES.UNITS : Fld := ⟨0x10028, 20, 10⟩
def TRL_LQ_RES.LQ_HI : Fld := ⟨0x10028, 9, 8⟩
def TRL_LQ_RES.BURST : Fld := ⟨0x10028, 6, 0⟩
def TRL_PMAP_Q.PPORT : Fld := ⟨0x10030, 31, 16⟩
def TRL_PMAP_Q.VPID : Fld := ⟨0x10030, 15, 0⟩
def TRL_PMAP_S.VALID : Fld := ⟨0x10034, 2, 2⟩
def TRL_PMAP_S.STATE : Fld := ⟨0x10034, 1, 0⟩
def TRL_TQ_SEL.TRAIL_ID : Fld := ⟨0x10040, 11, 0⟩
def TRL_TQ_W.WORD (n : Nat) : Fld := ⟨0x10048 + 8 * n, 63, 0⟩
def TRL_ERR_CNT.COUNT (k : Nat) : Fld := ⟨0x10100 + 4 * k, 31, 0⟩
def TRL_LATE_CNT.COUNT : Fld := ⟨0x10180, 31, 0⟩
def TRL_CNT_CLR.CLR : Fld := ⟨0x10184, 0, 0⟩

/-- The TRL block of the register table. -/
def trlRows : List RegRow := [
  ⟨0x10000, 8, 1, 0xfe00fe0, [(31, 16, .ro), (15, 0, .ro)]⟩,
  ⟨0x10008, 8, 1, 0x5f2438, [(22, 16, .rw), (14, 8, .rw), (6, 0, .rw)]⟩,
  ⟨0x10010, 8, 1, 0x3e8, [(19, 0, .rw)]⟩,
  ⟨0x10014, 8, 1, 0x14, [(15, 0, .rw)]⟩,
  ⟨0x10018, 8, 1, 0, [(28, 16, .ro), (12, 0, .ro)]⟩,
  ⟨0x10020, 8, 1, 0, [(15, 13, .own), (12, 7, .own), (6, 3, .own), (2, 0, .own)]⟩,
  ⟨0x10028, 8, 1, 0, [(31, 21, .ro), (20, 10, .ro), (9, 8, .rw), (6, 0, .ro)]⟩,
  ⟨0x10030, 8, 1, 0, [(31, 16, .ro), (15, 0, .own)]⟩,
  ⟨0x10034, 8, 1, 0, [(2, 2, .ro), (1, 0, .ro)]⟩,
  ⟨0x10040, 8, 1, 0, [(11, 0, .own)]⟩,
  ⟨0x10048, 8, 4, 0, [(63, 0, .ro)]⟩,
  ⟨0x10104, 4, 16, 0, [(31, 0, .ro)]⟩,
  ⟨0x10180, 8, 1, 0, [(31, 0, .ro)]⟩,
  ⟨0x10184, 8, 1, 0, [(0, 0, .own)]⟩]

/-! ### SWB registers (spec/08_switchback.md, R262) -/

def SWB_CAP.IMG_MAX : Fld := ⟨0x20000, 31, 16⟩
def SWB_CAP.IMG_USED : Fld := ⟨0x20000, 15, 0⟩
def SWB_STAT.IN_USE : Fld := ⟨0x20004, 31, 31⟩
def SWB_STAT.CFG_ERR : Fld := ⟨0x20004, 30, 30⟩
def SWB_STAT.QUEUED : Fld := ⟨0x20004, 29, 21⟩
def SWB_STAT.RESIDENT : Fld := ⟨0x20004, 20, 12⟩
def SWB_POL.MIG_SHARE : Fld := ⟨0x20008, 31, 28⟩
def SWB_POL.PREEMPT : Fld := ⟨0x20008, 24, 24⟩
def SWB_POL.DEEP_PAGE_MAX : Fld := ⟨0x20008, 23, 16⟩
def SWB_POL.REJOIN_WAIT : Fld := ⟨0x20008, 15, 0⟩
def SWB_IMG_BASE.BASE : Fld := ⟨0x20010, 47, 21⟩
def SWB_HBS_BASE.BASE : Fld := ⟨0x20020, 47, 21⟩
def SWB_PT_BASE.BASE : Fld := ⟨0x20030, 47, 21⟩
def SWB_POOL_BASE.BASE : Fld := ⟨0x20040, 47, 21⟩
def SWB_IMG_SIZE.SIZE : Fld := ⟨0x20018, 31, 0⟩
def SWB_HBS_SIZE.SIZE : Fld := ⟨0x20028, 31, 0⟩
def SWB_PT_SIZE.SIZE : Fld := ⟨0x20038, 31, 0⟩
def SWB_POOL_SIZE.SIZE : Fld := ⟨0x20048, 31, 0⟩
def SWB_CTX_SEL.CTX : Fld := ⟨0x20100, 9, 0⟩
def SWB_CTX_INFO.STATE : Fld := ⟨0x20108, 63, 60⟩
def SWB_CTX_INFO.VARIANT : Fld := ⟨0x20108, 59, 57⟩
def SWB_CTX_INFO.PINNED : Fld := ⟨0x20108, 56, 56⟩
def SWB_CTX_INFO.PRIO : Fld := ⟨0x20108, 55, 53⟩
def SWB_CTX_INFO.RESTORE : Fld := ⟨0x20108, 52, 51⟩
def SWB_CTX_INFO.GROUP : Fld := ⟨0x20108, 50, 43⟩
def SWB_CTX_INFO.ANCHOR : Fld := ⟨0x20108, 42, 35⟩
def SWB_CTX_INFO.QUOTA : Fld := ⟨0x20108, 34, 18⟩
def SWB_CTX_INFO.USED : Fld := ⟨0x20108, 17, 1⟩
def SWB_ISL_STAT.STATE (i : Nat) : Fld := ⟨0x21000 + 4 * i, 31, 29⟩
def SWB_ISL_STAT.PLACEABLE (i : Nat) : Fld := ⟨0x21000 + 4 * i, 28, 28⟩
def SWB_ISL_STAT.CTX (i : Nat) : Fld := ⟨0x21000 + 4 * i, 27, 18⟩
def SWB_ISL_STAT.ORDINAL (i : Nat) : Fld := ⟨0x21000 + 4 * i, 17, 14⟩
def SWB_SWAPS.COUNT : Fld := ⟨0x20200, 31, 0⟩
def SWB_QTMO.COUNT : Fld := ⟨0x20204, 31, 0⟩
def SWB_PG_FAULTS.COUNT : Fld := ⟨0x20208, 31, 0⟩
def SWB_PG_MIGS.COUNT : Fld := ⟨0x2020c, 31, 0⟩
def SWB_PG_ERR.COUNT : Fld := ⟨0x20210, 31, 0⟩
def SWB_CNT_CLR.CLR : Fld := ⟨0x20220, 0, 0⟩

/-- The SWB block of the register table. -/
def swbRows : List RegRow := [
  ⟨0x20000, 8, 1, 0x10000000, [(31, 16, .ro), (15, 0, .ro)]⟩,
  ⟨0x20004, 8, 1, 0, [(31, 31, .ro), (30, 30, .w1c), (29, 21, .ro), (20, 12, .ro)]⟩,
  ⟨0x20008, 8, 1, 0x410001f4, [(31, 28, .rw), (24, 24, .rw), (23, 16, .rw), (15, 0, .rw)]⟩,
  ⟨0x20010, 8, 1, 0, [(47, 21, .rw)]⟩,
  ⟨0x20020, 8, 1, 0, [(47, 21, .rw)]⟩,
  ⟨0x20030, 8, 1, 0, [(47, 21, .rw)]⟩,
  ⟨0x20040, 8, 1, 0, [(47, 21, .rw)]⟩,
  ⟨0x20018, 8, 1, 0, [(31, 0, .rw)]⟩,
  ⟨0x20028, 8, 1, 0, [(31, 0, .rw)]⟩,
  ⟨0x20038, 8, 1, 0, [(31, 0, .rw)]⟩,
  ⟨0x20048, 8, 1, 0, [(31, 0, .rw)]⟩,
  ⟨0x20100, 8, 1, 0, [(9, 0, .own)]⟩,
  ⟨0x20108, 8, 1, 0x8000000000000000, [(63, 60, .ro), (59, 57, .ro), (56, 56, .ro), (55, 53, .ro), (52, 51, .ro), (50, 43, .ro), (42, 35, .ro), (34, 18, .ro), (17, 1, .ro)]⟩,
  ⟨0x21000, 4, 256, 0xffc0000, [(31, 29, .ro), (28, 28, .ro), (27, 18, .ro), (17, 14, .ro)]⟩,
  ⟨0x20200, 8, 1, 0, [(31, 0, .ro)]⟩,
  ⟨0x20204, 8, 1, 0, [(31, 0, .ro)]⟩,
  ⟨0x20208, 8, 1, 0, [(31, 0, .ro)]⟩,
  ⟨0x2020c, 8, 1, 0, [(31, 0, .ro)]⟩,
  ⟨0x20210, 8, 1, 0, [(31, 0, .ro)]⟩,
  ⟨0x20220, 8, 1, 0, [(0, 0, .own)]⟩]

/-! ### MEM registers (spec/04_on_chip_memory_and_codes.md, R141) -/

def MEM_CE_THRESH.THRESH : Fld := ⟨0x30000, 15, 0⟩
def MEM_SCRUB_PASS.ACTIVE (c : Nat) : Fld := ⟨0x30010 + 4 * c, 31, 31⟩
def MEM_SCRUB_PASS.PASS_S (c : Nat) : Fld := ⟨0x30010 + 4 * c, 15, 0⟩
def MEM_SCRUB_CNT.PASSES (c : Nat) : Fld := ⟨0x30030 + 4 * c, 31, 0⟩
def MEM_CE_CNT.COUNT (c : Nat) : Fld := ⟨0x30100 + 4 * c, 31, 0⟩
def MEM_PG_CNT.COUNT (c : Nat) : Fld := ⟨0x30120 + 4 * c, 31, 0⟩
def MEM_UE_CNT.COUNT (c : Nat) : Fld := ⟨0x30140 + 4 * c, 31, 0⟩
def MEM_CNT_CLR.CLR : Fld := ⟨0x30160, 5, 0⟩
def MEM_LOG_OVF.OVF (t : Nat) : Fld := ⟨0x30200 + 4 * t, 31, 0⟩
def MEM_LOG_CTL.CLEAR : Fld := ⟨0x30220, 4, 0⟩
def MEM_DEEP_RSV.RSV (d : Nat) : Fld := ⟨0x30240 + 4 * d, 31, 0⟩
def MEM_LOG.ENTRY (t : Nat) (e : Nat) : Fld := ⟨0x31000 + 0x200 * t + 0x10 * e, 63, 0⟩
def MEM_LOG_TIME.ENTRY (t : Nat) (e : Nat) : Fld := ⟨0x31008 + 0x200 * t + 0x10 * e, 63, 0⟩

/-- The MEM block of the register table. -/
def memRows : List RegRow := [
  ⟨0x30000, 8, 1, 0x400, [(15, 0, .rw)]⟩,
  ⟨0x30010, 4, 4, 0x3c, [(31, 31, .ro), (15, 0, .rw)]⟩,
  ⟨0x30020, 4, 1, 0xe10, [(31, 31, .ro), (15, 0, .rw)]⟩,
  ⟨0x30024, 4, 1, 0xa, [(31, 31, .ro), (15, 0, .rw)]⟩,
  ⟨0x30030, 4, 6, 0, [(31, 0, .ro)]⟩,
  ⟨0x30100, 4, 6, 0, [(31, 0, .ro)]⟩,
  ⟨0x30120, 4, 6, 0, [(31, 0, .ro)]⟩,
  ⟨0x30140, 4, 6, 0, [(31, 0, .ro)]⟩,
  ⟨0x30160, 8, 1, 0, [(5, 0, .own)]⟩,
  ⟨0x30200, 4, 5, 0, [(31, 0, .ro)]⟩,
  ⟨0x30220, 8, 1, 0, [(4, 0, .own)]⟩,
  ⟨0x30240, 4, 4, 0, [(31, 0, .ro)]⟩,
  ⟨0x31000, 0x10, 160, 0, [(63, 0, .ro)]⟩,
  ⟨0x31008, 0x10, 160, 0, [(63, 0, .ro)]⟩]

/-! ### HBM registers (spec/09_hbm_and_encryption.md, R288) -/

def HBM_STAT.STATE (s : Nat) : Fld := ⟨0x40000 + 4 * s, 31, 29⟩
def HBM_STAT.RETIRED (s : Nat) : Fld := ⟨0x40000 + 4 * s, 28, 23⟩
def HBM_STAT.TEMP (s : Nat) : Fld := ⟨0x40000 + 4 * s, 22, 15⟩
def HBM_STAT.HOT (s : Nat) : Fld := ⟨0x40000 + 4 * s, 14, 14⟩
def HBM_STAT.TRAIN_FAIL (s : Nat) : Fld := ⟨0x40000 + 4 * s, 13, 13⟩
def HBM_POL.TRAIN_MS : Fld := ⟨0x40010, 31, 24⟩
def HBM_POL.RETRAIN_DC : Fld := ⟨0x40010, 23, 16⟩
def HBM_POL.RET_UE_MAX : Fld := ⟨0x40010, 15, 8⟩
def HBM_POL.AUTO_RETIRE : Fld := ⟨0x40010, 7, 7⟩
def HBM_PC_RET.RETIRED (s : Nat) : Fld := ⟨0x40020 + 4 * s, 31, 0⟩
def HBM_PC_REQ.RETIRE (s : Nat) : Fld := ⟨0x40028 + 4 * s, 31, 0⟩
def HBM_LOG_CTL.CLEAR : Fld := ⟨0x40030, 31, 31⟩
def HBM_LOG_CTL.OVF : Fld := ⟨0x40030, 22, 7⟩
def HBM_LOG_CTL.VALID : Fld := ⟨0x40030, 6, 0⟩
def HBM_LOG.ENTRY (e : Nat) : Fld := ⟨0x41000 + 0x10 * e, 63, 0⟩
def HBM_LOG_TIME.ENTRY (e : Nat) : Fld := ⟨0x41008 + 0x10 * e, 63, 0⟩

/-- The HBM block of the register table. -/
def hbmRows : List RegRow := [
  ⟨0x40000, 4, 2, 0, [(31, 29, .ro), (28, 23, .ro), (22, 15, .ro), (14, 14, .ro), (13, 13, .w1c)]⟩,
  ⟨0x40010, 8, 1, 0x640a0880, [(31, 24, .rw), (23, 16, .rw), (15, 8, .rw), (7, 7, .rw)]⟩,
  ⟨0x40020, 4, 2, 0, [(31, 0, .ro)]⟩,
  ⟨0x40028, 4, 2, 0, [(31, 0, .own)]⟩,
  ⟨0x40030, 8, 1, 0, [(31, 31, .own), (22, 7, .ro), (6, 0, .ro)]⟩,
  ⟨0x41000, 0x10, 64, 0, [(63, 0, .ro)]⟩,
  ⟨0x41008, 0x10, 64, 0, [(63, 0, .ro)]⟩]

/-! ### CRY registers (spec/09_hbm_and_encryption.md, R289) -/

def CRY_SLOT_STAT.LOADED : Fld := ⟨0x50000, 31, 0⟩
def CRY_SLOT_USE.IN_USE : Fld := ⟨0x50004, 31, 0⟩
def CRY_CTL.KWK : Fld := ⟨0x50008, 31, 31⟩
def CRY_CTL.RKY_RANGE : Fld := ⟨0x50008, 19, 16⟩
def CRY_CTL.RKY_BUSY : Fld := ⟨0x50008, 15, 15⟩
def CRY_CTL.RKY_QUEUED : Fld := ⟨0x50008, 12, 8⟩
def CRY_CTL.RKY_SHARE : Fld := ⟨0x50008, 3, 0⟩
def CRY_AUTH_CNT.COUNT : Fld := ⟨0x5000c, 31, 0⟩
def CRY_RNG_BASE.HOST (n : Nat) : Fld := ⟨0x50100 + 0x20 * n, 63, 63⟩
def CRY_RNG_BASE.SIZE (n : Nat) : Fld := ⟨0x50100 + 0x20 * n, 62, 48⟩
def CRY_RNG_BASE.BASE (n : Nat) : Fld := ⟨0x50100 + 0x20 * n, 47, 21⟩
def CRY_RNG_TAG.TAG_BASE (n : Nat) : Fld := ⟨0x50108 + 0x20 * n, 47, 18⟩
def CRY_RNG_CTL.STATE (n : Nat) : Fld := ⟨0x50110 + 0x20 * n, 63, 61⟩
def CRY_RNG_CTL.VERIFY_FIRST (n : Nat) : Fld := ⟨0x50110 + 0x20 * n, 60, 60⟩
def CRY_RNG_CTL.CONV (n : Nat) : Fld := ⟨0x50110 + 0x20 * n, 59, 58⟩
def CRY_RNG_CTL.SLOT (n : Nat) : Fld := ⟨0x50110 + 0x20 * n, 57, 53⟩
def CRY_RNG_CTL.OLD_SLOT (n : Nat) : Fld := ⟨0x50110 + 0x20 * n, 52, 48⟩
def CRY_RNG_CTL.EPOCH (n : Nat) : Fld := ⟨0x50110 + 0x20 * n, 31, 0⟩
def CRY_RNG_TREE.TREELINE (n : Nat) : Fld := ⟨0x50118 + 0x20 * n, 47, 6⟩
def CRY_IDE_STAT.SECURE (k : Nat) : Fld := ⟨0x50300 + 4 * k, 31, 31⟩
def CRY_IDE_STAT.KSET (k : Nat) : Fld := ⟨0x50300 + 4 * k, 30, 30⟩
def CRY_IDE_STAT.CHECK_FAIL (k : Nat) : Fld := ⟨0x50300 + 4 * k, 15, 0⟩
def CRY_ARL_STAT.KEYED : Fld := ⟨0x50310, 31, 31⟩
def CRY_ARL_STAT.KEY_ID : Fld := ⟨0x50310, 30, 30⟩
def CRY_ARL_STAT.REJECTED : Fld := ⟨0x50310, 15, 0⟩

/-- The CRY block of the register table. -/
def cryRows : List RegRow := [
  ⟨0x50000, 8, 1, 0, [(31, 0, .ro)]⟩,
  ⟨0x50004, 8, 1, 0, [(31, 0, .ro)]⟩,
  ⟨0x50008, 8, 1, 4, [(31, 31, .ro), (19, 16, .ro), (15, 15, .ro), (12, 8, .ro), (3, 0, .rw)]⟩,
  ⟨0x5000c, 8, 1, 0, [(31, 0, .ro)]⟩,
  ⟨0x50100, 0x20, 16, 0, [(63, 63, .ro), (62, 48, .ro), (47, 21, .ro)]⟩,
  ⟨0x50108, 0x20, 16, 0, [(47, 18, .ro)]⟩,
  ⟨0x50110, 0x20, 16, 0, [(63, 61, .ro), (60, 60, .ro), (59, 58, .ro), (57, 53, .ro), (52, 48, .ro), (31, 0, .ro)]⟩,
  ⟨0x50118, 0x20, 16, 0, [(47, 6, .ro)]⟩,
  ⟨0x50300, 4, 2, 0, [(31, 31, .ro), (30, 30, .ro), (15, 0, .ro)]⟩,
  ⟨0x50310, 8, 1, 0, [(31, 31, .ro), (30, 30, .ro), (15, 0, .ro)]⟩]

/-! ### CFG registers (spec/11_configuration_and_startup.md, R350) -/

def CFG_STAT.UNSECURED : Fld := ⟨0x60000, 31, 31⟩
def CFG_STAT.BUS_FALLBACK : Fld := ⟨0x60000, 30, 30⟩
def CFG_STAT.RETRIED : Fld := ⟨0x60000, 29, 29⟩
def CFG_STAT.BOOT_SLOT : Fld := ⟨0x60000, 28, 28⟩
def CFG_STAT.BUS : Fld := ⟨0x60000, 27, 26⟩
def CFG_STAT.FIRST_ERR : Fld := ⟨0x60000, 25, 21⟩
def CFG_STAT.MODE : Fld := ⟨0x60000, 15, 13⟩
def CFG_IMG_ID.SEC_VER : Fld := ⟨0x60008, 63, 32⟩
def CFG_IMG_ID.DEVICE_ID : Fld := ⟨0x60008, 31, 0⟩
def CFG_IMG_HASH.HASH (k : Nat) : Fld := ⟨0x60010 + 8 * k, 63, 0⟩
def CFG_KEY_HASH.HASH (k : Nat) : Fld := ⟨0x60040 + 8 * k, 63, 0⟩
def CFG_BOOT_TIME.US : Fld := ⟨0x60070, 31, 0⟩
def CFG_STARTUP.WAIT_US : Fld := ⟨0x60074, 23, 16⟩
def CFG_STARTUP.ORDER : Fld := ⟨0x60074, 7, 0⟩
def CFG_RECONF.KEY : Fld := ⟨0x60078, 15, 8⟩
def CFG_RECONF.SLOT : Fld := ⟨0x60078, 1, 1⟩
def CFG_RECONF.GO : Fld := ⟨0x60078, 0, 0⟩
def CFG_SWEEP.EN : Fld := ⟨0x60080, 31, 31⟩
def CFG_SWEEP.ACTIVE : Fld := ⟨0x60080, 30, 30⟩
def CFG_SWEEP.PASS_S : Fld := ⟨0x60080, 15, 0⟩
def CFG_SWEEP_CNT.COUNT : Fld := ⟨0x60084, 31, 0⟩
def CFG_FRAME_CNT.COUNT : Fld := ⟨0x60088, 31, 0⟩

/-- The CFG block of the register table. -/
def cfgRows : List RegRow := [
  ⟨0x60000, 8, 1, 0, [(31, 31, .ro), (30, 30, .ro), (29, 29, .ro), (28, 28, .ro), (27, 26, .ro), (25, 21, .ro), (15, 13, .ro)]⟩,
  ⟨0x60008, 8, 1, 0, [(63, 32, .ro), (31, 0, .ro)]⟩,
  ⟨0x60010, 8, 6, 0, [(63, 0, .ro)]⟩,
  ⟨0x60040, 8, 6, 0, [(63, 0, .ro)]⟩,
  ⟨0x60070, 8, 1, 0, [(31, 0, .ro)]⟩,
  ⟨0x60074, 8, 1, 0, [(23, 16, .ro), (7, 0, .ro)]⟩,
  ⟨0x60078, 8, 1, 0, [(15, 8, .own), (1, 1, .own), (0, 0, .own)]⟩,
  ⟨0x60080, 8, 1, 0xa, [(31, 31, .rw), (30, 30, .ro), (15, 0, .rw)]⟩,
  ⟨0x60084, 8, 1, 0, [(31, 0, .ro)]⟩,
  ⟨0x60088, 8, 1, 0, [(31, 0, .ro)]⟩]

/-! ### CLK registers (spec/03_islands_and_clocks.md, R110) -/

def CLK_REF_STAT.PPM_ERR : Fld := ⟨0x70000, 31, 16⟩
def CLK_REF_STAT.REF_LOST : Fld := ⟨0x70000, 2, 2⟩
def CLK_REF_STAT.HOLDOVER : Fld := ⟨0x70000, 1, 1⟩
def CLK_REF_STAT.REF_OK : Fld := ⟨0x70000, 0, 0⟩
def CLK_BASE.LOCKED (n : Nat) : Fld := ⟨0x70010 + 4 * n, 31, 31⟩
def CLK_BASE.ERR (n : Nat) : Fld := ⟨0x70010 + 4 * n, 30, 28⟩
def CLK_BASE.FMUL (n : Nat) : Fld := ⟨0x70010 + 4 * n, 8, 0⟩
def CLK_LKO.BUS_DIV : Fld := ⟨0x70020, 7, 4⟩
def CLK_LKO.CORE_DIV : Fld := ⟨0x70020, 3, 0⟩
def CLK_MTR_CTL.START (m : Nat) : Fld := ⟨0x70100 + 0x10 * m, 31, 31⟩
def CLK_MTR_CTL.BUSY (m : Nat) : Fld := ⟨0x70100 + 0x10 * m, 30, 30⟩
def CLK_MTR_CTL.OWNER (m : Nat) : Fld := ⟨0x70100 + 0x10 * m, 29, 29⟩
def CLK_MTR_CTL.ABORTED (m : Nat) : Fld := ⟨0x70100 + 0x10 * m, 28, 28⟩
def CLK_MTR_CTL.DONE (m : Nat) : Fld := ⟨0x70100 + 0x10 * m, 27, 27⟩
def CLK_MTR_CTL.WIN_LOG2 (m : Nat) : Fld := ⟨0x70100 + 0x10 * m, 4, 0⟩
def CLK_MTR_SEL.SEL_B (m : Nat) : Fld := ⟨0x70104 + 0x10 * m, 31, 16⟩
def CLK_MTR_SEL.SEL_A (m : Nat) : Fld := ⟨0x70104 + 0x10 * m, 15, 0⟩
def CLK_MTR_CNT.COUNT (m : Nat) : Fld := ⟨0x70108 + 0x10 * m, 31, 0⟩
def CLK_ISL_CFG.SETTING (i : Nat) : Fld := ⟨0x71000 + 8 * i, 63, 0⟩
def CLK_ISL_STAT.RUNNING (i : Nat) : Fld := ⟨0x72000 + 4 * i, 31, 27⟩
def CLK_ISL_STAT.RAMPING (i : Nat) : Fld := ⟨0x72000 + 4 * i, 26, 22⟩
def CLK_ISL_STAT.STRETCHED (i : Nat) : Fld := ⟨0x72000 + 4 * i, 21, 21⟩
def CLK_ISL_STAT.STOP_FORCED (i : Nat) : Fld := ⟨0x72000 + 4 * i, 20, 20⟩
def CLK_ISL_STAT.THROTTLE (i : Nat) : Fld := ⟨0x72000 + 4 * i, 19, 14⟩

/-- The CLK block of the register table. -/
def clkRows : List RegRow := [
  ⟨0x70000, 8, 1, 0, [(31, 16, .ro), (2, 2, .w1c), (1, 1, .ro), (0, 0, .ro)]⟩,
  ⟨0x70010, 4, 1, 0x140, [(31, 31, .ro), (30, 28, .ro), (8, 0, .own)]⟩,
  ⟨0x70014, 4, 1, 0xf0, [(31, 31, .ro), (30, 28, .ro), (8, 0, .own)]⟩,
  ⟨0x70018, 4, 1, 0xa0, [(31, 31, .ro), (30, 28, .ro), (8, 0, .own)]⟩,
  ⟨0x7001c, 4, 1, 0x40, [(31, 31, .ro), (30, 28, .ro), (8, 0, .own)]⟩,
  ⟨0x70020, 8, 1, 0x41, [(7, 4, .rw), (3, 0, .rw)]⟩,
  ⟨0x70100, 0x10, 5, 4, [(31, 31, .own), (30, 30, .ro), (29, 29, .ro), (28, 28, .w1c), (27, 27, .w1c), (4, 0, .rw)]⟩,
  ⟨0x70104, 0x10, 5, 0, [(31, 16, .rw), (15, 0, .rw)]⟩,
  ⟨0x70108, 0x10, 5, 0, [(31, 0, .ro)]⟩,
  ⟨0x71000, 8, 256, 0, [(63, 0, .ro)]⟩,
  ⟨0x72000, 4, 256, 0x20000, [(31, 27, .ro), (26, 22, .ro), (21, 21, .ro), (20, 20, .w1c), (19, 14, .ro)]⟩]

/-! ### PWR registers (spec/13_power_and_supply.md, R390) -/

def PWR_CAP.CAP_W : Fld := ⟨0x80000, 9, 0⟩
def PWR_CTL.DB_WAKE : Fld := ⟨0x80004, 31, 31⟩
def PWR_CTL.D3_RUNG : Fld := ⟨0x80004, 30, 28⟩
def PWR_CTL.DROOP_PCT : Fld := ⟨0x80004, 3, 0⟩
def PWR_RUNG.PF : Fld := ⟨0x80008, 31, 31⟩
def PWR_RUNG.BUSY : Fld := ⟨0x80008, 30, 30⟩
def PWR_RUNG.EMULATED : Fld := ⟨0x80008, 29, 29⟩
def PWR_RUNG.WHY : Fld := ⟨0x80008, 27, 24⟩
def PWR_RUNG.CUR : Fld := ⟨0x80008, 6, 4⟩
def PWR_RUNG.REQ : Fld := ⟨0x80008, 2, 0⟩
def PWR_DIE_RUNG.CUR : Fld := ⟨0x8000c, 19, 8⟩
def PWR_DIE_RUNG.REQ : Fld := ⟨0x8000c, 7, 0⟩
def PWR_DIE.TEMP_MAX (d : Nat) : Fld := ⟨0x80010 + 4 * d, 31, 24⟩
def PWR_DIE.POWER (d : Nat) : Fld := ⟨0x80010 + 4 * d, 23, 12⟩
def PWR_DIE.BUDGET (d : Nat) : Fld := ⟨0x80010 + 4 * d, 11, 0⟩
def PWR_SHB.HBM_P : Fld := ⟨0x80020, 27, 16⟩
def PWR_SHB.SADDLE_P : Fld := ⟨0x80020, 11, 0⟩
def PWR_THERM.CRIT_C : Fld := ⟨0x80024, 15, 8⟩
def PWR_THERM.HIGH_C : Fld := ⟨0x80024, 7, 0⟩
def PWR_BUS_CFG.FAIL_EN : Fld := ⟨0x80028, 63, 63⟩
def PWR_BUS_CFG.SAG_CAP_W : Fld := ⟨0x80028, 61, 52⟩
def PWR_BUS_CFG.FAIL_DV : Fld := ⟨0x80028, 51, 40⟩
def PWR_BUS_CFG.SAG_DV : Fld := ⟨0x80028, 39, 28⟩
def PWR_BUS_CFG.SWELL_DV : Fld := ⟨0x80028, 27, 16⟩
def PWR_BUS_CFG.SAG_US : Fld := ⟨0x80028, 15, 8⟩
def PWR_BUS_CFG.DIV : Fld := ⟨0x80028, 7, 0⟩
def PWR_BUS_STAT.NOW : Fld := ⟨0x80030, 47, 36⟩
def PWR_BUS_STAT.MIN : Fld := ⟨0x80030, 35, 24⟩
def PWR_BUS_STAT.MAX : Fld := ⟨0x80030, 23, 12⟩
def PWR_BUS_STAT.CLR : Fld := ⟨0x80030, 0, 0⟩
def PWR_RAIL_STAT.OOT : Fld := ⟨0x80038, 16, 16⟩
def PWR_RAIL_STAT.OK : Fld := ⟨0x80038, 10, 0⟩
def PWR_WAKE.MS : Fld := ⟨0x8003c, 31, 0⟩
def PWR_DROOP_CNT.COUNT (d : Nat) : Fld := ⟨0x80040 + 4 * d, 31, 0⟩
def PWR_CNT_CLR.CLR : Fld := ⟨0x80050, 0, 0⟩

/-- The PWR block of the register table. -/
def pwrRows : List RegRow := [
  ⟨0x80000, 8, 1, 0x190, [(9, 0, .rw)]⟩,
  ⟨0x80004, 8, 1, 0xa0000006, [(31, 31, .rw), (30, 28, .rw), (3, 0, .rw)]⟩,
  ⟨0x80008, 8, 1, 0, [(31, 31, .ro), (30, 30, .ro), (29, 29, .ro), (27, 24, .ro), (6, 4, .ro), (2, 0, .own)]⟩,
  ⟨0x8000c, 8, 1, 0, [(19, 8, .ro), (7, 0, .own)]⟩,
  ⟨0x80010, 4, 4, 0x258, [(31, 24, .ro), (23, 12, .ro), (11, 0, .ro)]⟩,
  ⟨0x80020, 8, 1, 0, [(27, 16, .ro), (11, 0, .ro)]⟩,
  ⟨0x80024, 8, 1, 0x6e64, [(15, 8, .rw), (7, 0, .rw)]⟩,
  ⟨0x80028, 8, 1, 0x12c0000000000500, [(63, 63, .rw), (61, 52, .rw), (51, 40, .rw), (39, 28, .rw), (27, 16, .rw), (15, 8, .rw), (7, 0, .rw)]⟩,
  ⟨0x80030, 8, 1, 0, [(47, 36, .ro), (35, 24, .ro), (23, 12, .ro), (0, 0, .own)]⟩,
  ⟨0x80038, 8, 1, 0, [(16, 16, .w1c), (10, 0, .ro)]⟩,
  ⟨0x8003c, 8, 1, 0, [(31, 0, .rw)]⟩,
  ⟨0x80040, 4, 4, 0, [(31, 0, .ro)]⟩,
  ⟨0x80050, 8, 1, 0, [(0, 0, .own)]⟩]

/-! ### MGT registers (spec/14_lookout_and_cairn.md, R418) -/

def MGT_STAT.STATE : Fld := ⟨0x90000, 31, 29⟩
def MGT_STAT.FW_SLOT : Fld := ⟨0x90000, 28, 28⟩
def MGT_STAT.RAM_ONLY : Fld := ⟨0x90000, 27, 27⟩
def MGT_STAT.SECTORS : Fld := ⟨0x90000, 26, 23⟩
def MGT_STAT.SPDM : Fld := ⟨0x90000, 22, 22⟩
def MGT_FW_VER.VERSION : Fld := ⟨0x90004, 31, 0⟩
def MGT_ARB.SPENT : Fld := ⟨0x90008, 7, 7⟩
def MGT_ARB.COUNT : Fld := ⟨0x90008, 6, 0⟩
def MGT_CTL.RESTART : Fld := ⟨0x9000c, 8, 8⟩
def MGT_CTL.SMB_ADDR : Fld := ⟨0x9000c, 6, 0⟩
def MGT_MBX_TX.DATA : Fld := ⟨0x90010, 31, 0⟩
def MGT_MBX_RX.VALID : Fld := ⟨0x90018, 63, 63⟩
def MGT_MBX_RX.DATA : Fld := ⟨0x90018, 31, 0⟩
def MGT_MBX_STAT.TX_FREE : Fld := ⟨0x90020, 31, 21⟩
def MGT_MBX_STAT.TX_DROP : Fld := ⟨0x90020, 20, 20⟩
def MGT_MBX_STAT.RX_WORDS : Fld := ⟨0x90020, 10, 0⟩
def MGT_WDOG.MS : Fld := ⟨0x90024, 15, 0⟩

/-- The MGT block of the register table. -/
def mgtRows : List RegRow := [
  ⟨0x90000, 8, 1, 0, [(31, 29, .ro), (28, 28, .ro), (27, 27, .ro), (26, 23, .ro), (22, 22, .ro)]⟩,
  ⟨0x90004, 8, 1, 0, [(31, 0, .ro)]⟩,
  ⟨0x90008, 8, 1, 0, [(7, 7, .ro), (6, 0, .ro)]⟩,
  ⟨0x9000c, 8, 1, 0x3a, [(8, 8, .own), (6, 0, .rw)]⟩,
  ⟨0x90010, 8, 1, 0, [(31, 0, .own)]⟩,
  ⟨0x90018, 8, 1, 0, [(63, 63, .ro), (31, 0, .ro)]⟩,
  ⟨0x90020, 8, 1, 0x80000000, [(31, 21, .ro), (20, 20, .w1c), (10, 0, .ro)]⟩,
  ⟨0x90024, 8, 1, 0x3e8, [(15, 0, .rw)]⟩]

/-! ### FLT registers (spec/14_lookout_and_cairn.md, R419) -/

def FLT_STAT.LATCHED : Fld := ⟨0xa0000, 31, 31⟩
def FLT_STAT.OVF : Fld := ⟨0xa0000, 30, 30⟩
def FLT_STAT.CRIT : Fld := ⟨0xa0000, 29, 29⟩
def FLT_STAT.SAFE : Fld := ⟨0xa0000, 28, 28⟩
def FLT_STAT.PARKED : Fld := ⟨0xa0000, 27, 27⟩
def FLT_STAT.ALIVE_RUN : Fld := ⟨0xa0000, 26, 26⟩
def FLT_STAT.SAFE_REQ : Fld := ⟨0xa0000, 25, 25⟩
def FLT_STAT.RING_OK : Fld := ⟨0xa0000, 24, 24⟩
def FLT_STAT.LKO_OVF : Fld := ⟨0xa0000, 23, 16⟩
def FLT_CTL.TX_IDLE : Fld := ⟨0xa0004, 1, 1⟩
def FLT_CTL.REQ_AUTO : Fld := ⟨0xa0004, 0, 0⟩
def FLT_FIRST_MSG.SOURCE : Fld := ⟨0xa0008, 63, 52⟩
def FLT_FIRST_MSG.KIND : Fld := ⟨0xa0008, 51, 46⟩
def FLT_FIRST_MSG.SEV : Fld := ⟨0xa0008, 45, 44⟩
def FLT_FIRST_MSG.INJ : Fld := ⟨0xa0008, 43, 43⟩
def FLT_FIRST_MSG.RELATCH : Fld := ⟨0xa0008, 42, 42⟩
def FLT_FIRST_ADDR.VALUE : Fld := ⟨0xa0010, 63, 0⟩
def FLT_FIRST_TIME.VALUE : Fld := ⟨0xa0018, 63, 0⟩
def FLT_INJ.ALLOW : Fld := ⟨0xa0020, 63, 62⟩
def FLT_INJ.MODE : Fld := ⟨0xa0020, 61, 60⟩
def FLT_INJ.GO : Fld := ⟨0xa0020, 59, 59⟩
def FLT_INJ.ERR : Fld := ⟨0xa0020, 58, 58⟩
def FLT_INJ.SOURCE : Fld := ⟨0xa0020, 57, 46⟩
def FLT_INJ.KIND : Fld := ⟨0xa0020, 45, 40⟩
def FLT_INJ.CHK : Fld := ⟨0xa0020, 39, 37⟩
def FLT_INJ.COUNT : Fld := ⟨0xa0020, 36, 29⟩
def FLT_KIND_CFG.MASK (k : Nat) : Fld := ⟨0xa0100 + 4 * k, 31, 31⟩
def FLT_KIND_CFG.SEV_FLOOR (k : Nat) : Fld := ⟨0xa0100 + 4 * k, 27, 26⟩
def FLT_KIND_CFG.REACT (k : Nat) : Fld := ⟨0xa0100 + 4 * k, 5, 0⟩
def FLT_KIND_CNT.COUNT (k : Nat) : Fld := ⟨0xa0200 + 4 * k, 31, 0⟩
def FLT_CNT_CLR.CLR : Fld := ⟨0xa0300, 0, 0⟩

/-- The FLT block of the register table. -/
def fltRows : List RegRow := [
  ⟨0xa0000, 8, 1, 0x1000000, [(31, 31, .own), (30, 30, .own), (29, 29, .own), (28, 28, .own), (27, 27, .own), (26, 26, .ro), (25, 25, .ro), (24, 24, .ro), (23, 16, .ro)]⟩,
  ⟨0xa0004, 8, 1, 2, [(1, 1, .rw), (0, 0, .rw)]⟩,
  ⟨0xa0008, 8, 1, 0, [(63, 52, .ro), (51, 46, .ro), (45, 44, .ro), (43, 43, .ro), (42, 42, .ro)]⟩,
  ⟨0xa0010, 8, 1, 0, [(63, 0, .ro)]⟩,
  ⟨0xa0018, 8, 1, 0, [(63, 0, .ro)]⟩,
  ⟨0xa0020, 8, 1, 0, [(63, 62, .ro), (61, 60, .rw), (59, 59, .own), (58, 58, .w1c), (57, 46, .rw), (45, 40, .rw), (39, 37, .rw), (36, 29, .rw)]⟩,
  ⟨0xa0100, 4, 1, 0, [(31, 31, .rw), (27, 26, .rw), (5, 0, .rw)]⟩,
  ⟨0xa0104, 4, 1, 0xb, [(31, 31, .rw), (27, 26, .rw), (5, 0, .rw)]⟩,
  ⟨0xa0108, 4, 1, 3, [(31, 31, .rw), (27, 26, .rw), (5, 0, .rw)]⟩,
  ⟨0xa010c, 4, 1, 0xf, [(31, 31, .rw), (27, 26, .rw), (5, 0, .rw)]⟩,
  ⟨0xa0110, 4, 1, 7, [(31, 31, .rw), (27, 26, .rw), (5, 0, .rw)]⟩,
  ⟨0xa0114, 4, 1, 1, [(31, 31, .rw), (27, 26, .rw), (5, 0, .rw)]⟩,
  ⟨0xa0118, 4, 1, 3, [(31, 31, .rw), (27, 26, .rw), (5, 0, .rw)]⟩,
  ⟨0xa011c, 4, 1, 7, [(31, 31, .rw), (27, 26, .rw), (5, 0, .rw)]⟩,
  ⟨0xa0120, 4, 4, 3, [(31, 31, .rw), (27, 26, .rw), (5, 0, .rw)]⟩,
  ⟨0xa0130, 4, 1, 7, [(31, 31, .rw), (27, 26, .rw), (5, 0, .rw)]⟩,
  ⟨0xa0134, 4, 3, 3, [(31, 31, .rw), (27, 26, .rw), (5, 0, .rw)]⟩,
  ⟨0xa0140, 4, 1, 7, [(31, 31, .rw), (27, 26, .rw), (5, 0, .rw)]⟩,
  ⟨0xa0144, 4, 3, 3, [(31, 31, .rw), (27, 26, .rw), (5, 0, .rw)]⟩,
  ⟨0xa0150, 4, 1, 0xb, [(31, 31, .rw), (27, 26, .rw), (5, 0, .rw)]⟩,
  ⟨0xa0154, 4, 1, 3, [(31, 31, .rw), (27, 26, .rw), (5, 0, .rw)]⟩,
  ⟨0xa0158, 4, 1, 7, [(31, 31, .rw), (27, 26, .rw), (5, 0, .rw)]⟩,
  ⟨0xa015c, 4, 1, 3, [(31, 31, .rw), (27, 26, .rw), (5, 0, .rw)]⟩,
  ⟨0xa0160, 4, 2, 7, [(31, 31, .rw), (27, 26, .rw), (5, 0, .rw)]⟩,
  ⟨0xa0168, 4, 3, 3, [(31, 31, .rw), (27, 26, .rw), (5, 0, .rw)]⟩,
  ⟨0xa0174, 4, 1, 0xb, [(31, 31, .rw), (27, 26, .rw), (5, 0, .rw)]⟩,
  ⟨0xa0178, 4, 2, 0, [(31, 31, .rw), (27, 26, .rw), (5, 0, .rw)]⟩,
  ⟨0xa0180, 4, 3, 7, [(31, 31, .rw), (27, 26, .rw), (5, 0, .rw)]⟩,
  ⟨0xa018c, 4, 1, 0, [(31, 31, .rw), (27, 26, .rw), (5, 0, .rw)]⟩,
  ⟨0xa0190, 4, 2, 3, [(31, 31, .rw), (27, 26, .rw), (5, 0, .rw)]⟩,
  ⟨0xa0198, 4, 26, 0, [(31, 31, .rw), (27, 26, .rw), (5, 0, .rw)]⟩,
  ⟨0xa0200, 4, 64, 0, [(31, 0, .ro)]⟩,
  ⟨0xa0300, 8, 1, 0, [(0, 0, .own)]⟩]

/-! ### TWN registers (spec/15_twin_mode.md, R438) -/

def TWN_STAT.ROLE : Fld := ⟨0xb0000, 31, 29⟩
def TWN_STAT.PARTNER_UP : Fld := ⟨0xb0000, 28, 28⟩
def TWN_STAT.DUAL : Fld := ⟨0xb0000, 27, 27⟩
def TWN_STAT.LINK_HALF : Fld := ⟨0xb0000, 26, 26⟩
def TWN_STAT.IN_SYNC : Fld := ⟨0xb0000, 15, 0⟩
def TWN_CTL.AUTO_PROMOTE : Fld := ⟨0xb0004, 0, 0⟩
def TWN_VER.PINNED : Fld := ⟨0xb0008, 63, 56⟩
def TWN_VER.ACTIVE : Fld := ⟨0xb0008, 55, 48⟩
def TWN_VER.PEER_MAX : Fld := ⟨0xb0008, 31, 24⟩
def TWN_VER.PEER_MIN : Fld := ⟨0xb0008, 23, 16⟩
def TWN_VER.LOCAL_MAX : Fld := ⟨0xb0008, 15, 8⟩
def TWN_VER.LOCAL_MIN : Fld := ⟨0xb0008, 7, 0⟩
def TWN_LINK.MISSED : Fld := ⟨0xb0010, 31, 16⟩
def TWN_LINK.RETX : Fld := ⟨0xb0010, 15, 0⟩
def TWN_CNT_CLR.CLR : Fld := ⟨0xb0014, 0, 0⟩
def TWN_REG.STATE (n : Nat) : Fld := ⟨0xb0100 + 8 * n, 63, 62⟩
def TWN_REG.SYNC (n : Nat) : Fld := ⟨0xb0100 + 8 * n, 61, 61⟩
def TWN_REG.SIZE (n : Nat) : Fld := ⟨0xb0100 + 8 * n, 60, 46⟩
def TWN_REG.BASE (n : Nat) : Fld := ⟨0xb0100 + 8 * n, 45, 31⟩
def TWN_REG.LAG_US (n : Nat) : Fld := ⟨0xb0100 + 8 * n, 30, 15⟩
def TWN_CKPT_SEL.CTX : Fld := ⟨0xb0200, 9, 0⟩
def TWN_CKPT_INFO.INTERVAL_MS : Fld := ⟨0xb0208, 63, 48⟩
def TWN_CKPT_INFO.LOCAL_OK : Fld := ⟨0xb0208, 47, 47⟩
def TWN_CKPT_INFO.PEER_OK : Fld := ⟨0xb0208, 46, 46⟩
def TWN_CKPT_INFO.SKEW : Fld := ⟨0xb0208, 45, 45⟩
def TWN_CKPT_INFO.QUIESCE : Fld := ⟨0xb0208, 44, 44⟩
def TWN_CKPT_INFO.AGE_MS : Fld := ⟨0xb0208, 31, 0⟩

/-- The TWN block of the register table. -/
def twnRows : List RegRow := [
  ⟨0xb0000, 8, 1, 0, [(31, 29, .ro), (28, 28, .ro), (27, 27, .w1c), (26, 26, .ro), (15, 0, .ro)]⟩,
  ⟨0xb0004, 8, 1, 1, [(0, 0, .rw)]⟩,
  ⟨0xb0008, 8, 1, 0x201, [(63, 56, .ro), (55, 48, .ro), (31, 24, .ro), (23, 16, .ro), (15, 8, .ro), (7, 0, .ro)]⟩,
  ⟨0xb0010, 8, 1, 0, [(31, 16, .ro), (15, 0, .ro)]⟩,
  ⟨0xb0014, 8, 1, 0, [(0, 0, .own)]⟩,
  ⟨0xb0100, 8, 16, 0, [(63, 62, .ro), (61, 61, .ro), (60, 46, .ro), (45, 31, .ro), (30, 15, .ro)]⟩,
  ⟨0xb0200, 8, 1, 0, [(9, 0, .own)]⟩,
  ⟨0xb0208, 8, 1, 0, [(63, 48, .ro), (47, 47, .ro), (46, 46, .ro), (45, 45, .ro), (44, 44, .ro), (31, 0, .ro)]⟩]

/-! ### BST registers (spec/16_integrity_and_self_test.md, R453) -/

def BST_STAT.DIE_BUSY : Fld := ⟨0xc0000, 31, 28⟩
def BST_STAT.STACK_BUSY : Fld := ⟨0xc0000, 27, 26⟩
def BST_STAT.QUEUED : Fld := ⟨0xc0000, 15, 8⟩
def BST_STAT.LANES : Fld := ⟨0xc0000, 7, 0⟩
def BST_UNIT_SEL.UNIT : Fld := ⟨0xc0008, 15, 0⟩
def BST_UNIT_INFO.STATE : Fld := ⟨0xc0010, 63, 61⟩
def BST_UNIT_INFO.LAST_RESULT : Fld := ⟨0xc0010, 60, 53⟩
def BST_UNIT_INFO.RUNS : Fld := ⟨0xc0010, 52, 32⟩
def BST_UNIT_INFO.LAST_SIG : Fld := ⟨0xc0010, 31, 0⟩
def BST_UNIT_GOLD.GOLD : Fld := ⟨0xc0018, 31, 0⟩
def BST_UNIT_TIME.NS : Fld := ⟨0xc0020, 63, 0⟩
def BST_FAIL_CNT.COUNT : Fld := ⟨0xc0028, 31, 0⟩
def BST_SADDLE_RES.RESULT : Fld := ⟨0xc0100, 63, 56⟩
def BST_SADDLE_RES.FAIL_MASK : Fld := ⟨0xc0100, 15, 0⟩

/-- The BST block of the register table. -/
def bstRows : List RegRow := [
  ⟨0xc0000, 8, 1, 0, [(31, 28, .ro), (27, 26, .ro), (15, 8, .ro), (7, 0, .ro)]⟩,
  ⟨0xc0008, 8, 1, 0, [(15, 0, .own)]⟩,
  ⟨0xc0010, 8, 1, 0, [(63, 61, .ro), (60, 53, .ro), (52, 32, .ro), (31, 0, .ro)]⟩,
  ⟨0xc0018, 8, 1, 0, [(31, 0, .ro)]⟩,
  ⟨0xc0020, 8, 1, 0, [(63, 0, .ro)]⟩,
  ⟨0xc0028, 8, 1, 0, [(31, 0, .ro)]⟩,
  ⟨0xc0100, 8, 1, 0, [(63, 56, .ro), (15, 0, .ro)]⟩]

/-! ### IOB registers (spec/12_transceivers_and_pins.md, R369) -/

def IOB_QPLL.LOCKED (q : Nat) : Fld := ⟨0xd0000 + 4 * q, 31, 31⟩
def IOB_QPLL.FB (q : Nat) : Fld := ⟨0xd0000 + 4 * q, 11, 0⟩
def IOB_LANE_CFG.ERR (l : Nat) : Fld := ⟨0xd0100 + 4 * l, 31, 31⟩
def IOB_LANE_CFG.IDLE (l : Nat) : Fld := ⟨0xd0100 + 4 * l, 11, 10⟩
def IOB_LANE_CFG.RXPOL (l : Nat) : Fld := ⟨0xd0100 + 4 * l, 9, 9⟩
def IOB_LANE_CFG.TXPOL (l : Nat) : Fld := ⟨0xd0100 + 4 * l, 8, 8⟩
def IOB_LANE_CFG.PAM4 (l : Nat) : Fld := ⟨0xd0100 + 4 * l, 7, 7⟩
def IOB_LANE_CFG.D (l : Nat) : Fld := ⟨0xd0100 + 4 * l, 6, 4⟩
def IOB_LANE_CFG.OWNER (l : Nat) : Fld := ⟨0xd0100 + 4 * l, 2, 0⟩
def IOB_LANE_STAT.CDR_LOCK (l : Nat) : Fld := ⟨0xd0200 + 4 * l, 31, 31⟩
def IOB_LANE_STAT.LOS (l : Nat) : Fld := ⟨0xd0200 + 4 * l, 30, 30⟩
def IOB_LANE_STAT.UNDERRUN (l : Nat) : Fld := ⟨0xd0200 + 4 * l, 15, 8⟩
def IOB_LANE_STAT.OVERRUN (l : Nat) : Fld := ⟨0xd0200 + 4 * l, 7, 0⟩
def IOB_ETH_CFG.AN_EN (e : Nat) : Fld := ⟨0xd0400 + 8 * e, 7, 7⟩
def IOB_ETH_CFG.CR (e : Nat) : Fld := ⟨0xd0400 + 8 * e, 6, 6⟩
def IOB_ETH_CFG.QSEL (e : Nat) : Fld := ⟨0xd0400 + 8 * e, 5, 4⟩
def IOB_ETH_CFG.MODE (e : Nat) : Fld := ⟨0xd0400 + 8 * e, 2, 0⟩
def IOB_ETH_STAT.CONFLICT (e : Nat) : Fld := ⟨0xd0404 + 8 * e, 31, 31⟩
def IOB_ETH_STAT.LINK_UP (e : Nat) : Fld := ⟨0xd0404 + 8 * e, 27, 24⟩
def IOB_ETH_STAT.BAD_FRAME (e : Nat) : Fld := ⟨0xd0404 + 8 * e, 23, 16⟩
def IOB_ETH_STAT.RX_DROP (e : Nat) : Fld := ⟨0xd0404 + 8 * e, 15, 0⟩
def IOB_JESD_CFG.EN (q : Nat) : Fld := ⟨0xd0500 + 8 * q, 31, 31⟩
def IOB_JESD_CFG.DIR (q : Nat) : Fld := ⟨0xd0500 + 8 * q, 30, 30⟩
def IOB_JESD_CFG.L (q : Nat) : Fld := ⟨0xd0500 + 8 * q, 29, 28⟩
def IOB_JESD_CFG.SREF (q : Nat) : Fld := ⟨0xd0500 + 8 * q, 27, 26⟩
def IOB_JESD_CFG.RBD (q : Nat) : Fld := ⟨0xd0500 + 8 * q, 9, 0⟩
def IOB_JESD_STAT.SYNC (q : Nat) : Fld := ⟨0xd0504 + 8 * q, 31, 31⟩
def IOB_JESD_STAT.CONFLICT (q : Nat) : Fld := ⟨0xd0504 + 8 * q, 30, 30⟩
def IOB_JESD_STAT.UNDERRUN (q : Nat) : Fld := ⟨0xd0504 + 8 * q, 15, 0⟩
def IOB_PTP_CTL.ENGINE : Fld := ⟨0xd0600, 3, 2⟩
def IOB_PTP_CTL.PORT : Fld := ⟨0xd0600, 1, 0⟩
def IOB_BANK_STAT.VCCIO_OK (b : Nat) : Fld := ⟨0xd0800 + 4 * b, 31, 31⟩
def IOB_BANK_STAT.PLL_LOCK (b : Nat) : Fld := ⟨0xd0800 + 4 * b, 30, 30⟩
def IOB_BANK_STAT.SAFE (b : Nat) : Fld := ⟨0xd0800 + 4 * b, 29, 29⟩
def IOB_BANK_STAT.MISMATCH (b : Nat) : Fld := ⟨0xd0800 + 4 * b, 28, 28⟩
def IOB_BANK_STAT.CTX (b : Nat) : Fld := ⟨0xd0800 + 4 * b, 27, 18⟩
def IOB_BANK_STAT.VCCIO_MV (b : Nat) : Fld := ⟨0xd0800 + 4 * b, 17, 8⟩
def IOB_BANK_STAT.VCLASS (b : Nat) : Fld := ⟨0xd0800 + 4 * b, 7, 0⟩

/-- The IOB block of the register table. -/
def iobRows : List RegRow := [
  ⟨0xd0000, 4, 16, 0x500, [(31, 31, .ro), (11, 0, .own)]⟩,
  ⟨0xd0100, 4, 64, 0, [(31, 31, .w1c), (11, 10, .own), (9, 9, .own), (8, 8, .own), (7, 7, .own), (6, 4, .own), (2, 0, .own)]⟩,
  ⟨0xd0200, 4, 64, 0, [(31, 31, .ro), (30, 30, .ro), (15, 8, .ro), (7, 0, .ro)]⟩,
  ⟨0xd0400, 8, 4, 0, [(7, 7, .rw), (6, 6, .rw), (5, 4, .rw), (2, 0, .rw)]⟩,
  ⟨0xd0404, 8, 4, 0, [(31, 31, .ro), (27, 24, .ro), (23, 16, .ro), (15, 0, .ro)]⟩,
  ⟨0xd0500, 8, 16, 0, [(31, 31, .rw), (30, 30, .rw), (29, 28, .rw), (27, 26, .rw), (9, 0, .rw)]⟩,
  ⟨0xd0504, 8, 16, 0, [(31, 31, .ro), (30, 30, .ro), (15, 0, .ro)]⟩,
  ⟨0xd0600, 8, 1, 0, [(3, 2, .own), (1, 0, .own)]⟩,
  ⟨0xd0800, 4, 32, 0xffc0000, [(31, 31, .ro), (30, 30, .ro), (29, 29, .ro), (28, 28, .ro), (27, 18, .ro), (17, 8, .ro), (7, 0, .ro)]⟩]

/-! ### DBG registers (spec/17_debug_and_run_control.md, R474) -/

def DBG_STAT.LEVEL : Fld := ⟨0xe0000, 31, 30⟩
def DBG_STAT.SCOPE : Fld := ⟨0xe0000, 29, 20⟩
def DBG_STAT.OPEN : Fld := ⟨0xe0000, 19, 19⟩
def DBG_STAT.LOCKOUT : Fld := ⟨0xe0000, 18, 18⟩
def DBG_STAT.ATTACHED : Fld := ⟨0xe0000, 17, 17⟩
def DBG_STAT.BUSY : Fld := ⟨0xe0000, 16, 16⟩
def DBG_STAT.FAILS : Fld := ⟨0xe0000, 15, 12⟩
def DBG_STAT.RESULT : Fld := ⟨0xe0000, 7, 0⟩
def DBG_CTL.ATTACH : Fld := ⟨0xe0004, 0, 0⟩
def DBG_CMD.CMD : Fld := ⟨0xe0008, 2, 0⟩
def DBG_NONCE.BYTES (k : Nat) : Fld := ⟨0xe0010 + 8 * k, 63, 0⟩
def DBG_BUF.BYTES (k : Nat) : Fld := ⟨0xe0100 + 8 * k, 63, 0⟩
def DBG_AP_CTL.GO : Fld := ⟨0xe0200, 31, 31⟩
def DBG_AP_CTL.BUSY : Fld := ⟨0xe0200, 30, 30⟩
def DBG_AP_CTL.STATUS : Fld := ⟨0xe0200, 23, 16⟩
def DBG_AP_CTL.SPACE : Fld := ⟨0xe0200, 5, 4⟩
def DBG_AP_CTL.WRITE : Fld := ⟨0xe0200, 3, 3⟩
def DBG_AP_CTL.SIZE : Fld := ⟨0xe0200, 1, 0⟩
def DBG_AP_ADDR.ADDR : Fld := ⟨0xe0208, 47, 0⟩
def DBG_AP_DATA.DATA : Fld := ⟨0xe0210, 63, 0⟩
def DBG_TRC_BASE.BASE : Fld := ⟨0xe0300, 47, 12⟩
def DBG_TRC_PTR.PTR : Fld := ⟨0xe0310, 47, 4⟩
def DBG_TRC_CTL.EN : Fld := ⟨0xe0308, 31, 31⟩
def DBG_TRC_CTL.WRAP : Fld := ⟨0xe0308, 30, 30⟩
def DBG_TRC_CTL.FULL : Fld := ⟨0xe0308, 29, 29⟩
def DBG_TRC_CTL.ERR : Fld := ⟨0xe0308, 28, 28⟩
def DBG_TRC_CTL.SIZE : Fld := ⟨0xe0308, 23, 0⟩
def DBG_TRC_LOST.COUNT : Fld := ⟨0xe0318, 31, 0⟩
def DBG_LKO_CTL.WDOG_MIN : Fld := ⟨0xe0400, 31, 16⟩
def DBG_LKO_CTL.HALTED : Fld := ⟨0xe0400, 3, 3⟩
def DBG_LKO_CTL.RESUME : Fld := ⟨0xe0400, 2, 2⟩
def DBG_LKO_CTL.STEP : Fld := ⟨0xe0400, 1, 1⟩
def DBG_LKO_CTL.HALT : Fld := ⟨0xe0400, 0, 0⟩
def DBG_LKO_PC.PC : Fld := ⟨0xe0404, 31, 0⟩
def DBG_LKO_BRK.PC (n : Nat) : Fld := ⟨0xe0408 + 4 * n, 31, 1⟩
def DBG_LKO_BRK.EN (n : Nat) : Fld := ⟨0xe0408 + 4 * n, 0, 0⟩
def DBG_LKO_GPR.X (n : Nat) : Fld := ⟨0xe0480 + 4 * n, 31, 0⟩

/-- The DBG block of the register table. -/
def dbgRows : List RegRow := [
  ⟨0xe0000, 8, 1, 0x80000, [(31, 30, .ro), (29, 20, .ro), (19, 19, .ro), (18, 18, .ro), (17, 17, .ro), (16, 16, .ro), (15, 12, .ro), (7, 0, .ro)]⟩,
  ⟨0xe0004, 8, 1, 0, [(0, 0, .own)]⟩,
  ⟨0xe0008, 8, 1, 0, [(2, 0, .own)]⟩,
  ⟨0xe0010, 8, 4, 0, [(63, 0, .ro)]⟩,
  ⟨0xe0100, 8, 32, 0, [(63, 0, .rw)]⟩,
  ⟨0xe0200, 8, 1, 0, [(31, 31, .own), (30, 30, .ro), (23, 16, .ro), (5, 4, .rw), (3, 3, .rw), (1, 0, .rw)]⟩,
  ⟨0xe0208, 8, 1, 0, [(47, 0, .rw)]⟩,
  ⟨0xe0210, 8, 1, 0, [(63, 0, .rw)]⟩,
  ⟨0xe0300, 8, 1, 0, [(47, 12, .rwIdle)]⟩,
  ⟨0xe0310, 8, 1, 0, [(47, 4, .ro)]⟩,
  ⟨0xe0308, 8, 1, 0, [(31, 31, .rw), (30, 30, .rw), (29, 29, .w1c), (28, 28, .w1c), (23, 0, .rwIdle)]⟩,
  ⟨0xe0318, 8, 1, 0, [(31, 0, .ro)]⟩,
  ⟨0xe0400, 8, 1, 0x3e80000, [(31, 16, .rw), (3, 3, .ro), (2, 2, .own), (1, 1, .own), (0, 0, .own)]⟩,
  ⟨0xe0404, 8, 1, 0, [(31, 0, .ro)]⟩,
  ⟨0xe0408, 4, 2, 0, [(31, 1, .rw), (0, 0, .rw)]⟩,
  ⟨0xe0484, 4, 31, 0, [(31, 0, .rwHalt)]⟩]

/-- The rows of the block an offset lies in (block number: offset / 0x10000). -/
def regRows : Nat → List RegRow
  | 0 => hifRows
  | 1 => trlRows
  | 2 => swbRows
  | 3 => memRows
  | 4 => hbmRows
  | 5 => cryRows
  | 6 => cfgRows
  | 7 => clkRows
  | 8 => pwrRows
  | 9 => mgtRows
  | 10 => fltRows
  | 11 => twnRows
  | 12 => bstRows
  | 13 => iobRows
  | 14 => dbgRows
  | _ => []

/-- The row of the table that holds the register at an offset. -/
def findRow (off : Nat) : List RegRow → Option RegRow
  | [] => none
  | r :: rs =>
    if r.base ≤ off && (off - r.base) % r.stride == 0 && (off - r.base) / r.stride < r.count then some r
    else findRow off rs

/-- The row of the register at a BAR0 offset; none where no register stands. -/
def regRow? (off : Nat) : Option RegRow := findRow off (regRows (off / 0x10000))

/-- Reset value of the register at an offset, as its heading gives it; 0 where no register stands. -/
def regReset (off : Nat) : BitVec 64 :=
  match regRow? off with
  | some r => BitVec.ofNat 64 r.reset
  | none => 0

end Sys2Proof.Machine
end

