-- ==== Sys2Proof/Machine/State.lean ====
section
/-!
DEFINITION. The state of the block as plain data, its faults and refusals, and the state after reset.
-/

namespace Sys2Proof.Machine

/-! ### Memory (chapter 4) -/

/-- Entry of a merge buffer (R130): word address (DPA / 8), eight data bytes as a word, byte mask, age. -/
structure MergeEntry where
  word : Nat
  data : W64
  mask : BitVec 8
  age : Nat := 0
  deriving DecidableEq, Repr

/-- Outputs of a port of a block memory: read data, SBE, UE, BUSY (R114). -/
structure PortOut where
  data : BitVec 72 := 0
  sbe : Bool := false
  ue : Bool := false
  busy : Bool := false
  deriving DecidableEq, Repr

/-- On-chip memories and HBM with their codes. Data bytes are keyed by DPA, check bytes by word (DPA / 8), guard
words P and Q and their check bytes by the first data word of their set; everything unlisted is zero. -/
structure Memory where
  data : List Host.Cell := []
  check : List Host.Cell := []
  guardP : Table W64 := []
  guardQ : Table W64 := []
  guardPC : List Host.Cell := []
  guardQC : List Host.Cell := []
  merge : Table (List MergeEntry) := []     -- per controller, oldest first
  dead : List Nat := []                     -- words that neither code can correct until a full write replaces them (R139)
  rebuilding : List (Nat × List MemAccess) := []   -- pages under rebuild, by first word, with the waiting accesses
  ports : Table PortOut := []               -- 2·(96·island + memory) + port
  scrub : Table Nat := []                   -- next word (class·8 + die or stack)
  scrubDone : List Nat := []                -- scrubbers (class·8 + die or stack) done with the class's present pass
  scrubDirty : List Nat := []               -- sets with a word not clean in the present scrub pass, by key
  lkoBusErr : Nat := 0                      -- bus errors returned to the Lookout core (R139)
  logAt : Table Nat := []                   -- table: timebase + 1 of its last update (R138)
  lastRead : List Byte := []                -- answer of the last access command: data and status (R217; 0 done)
  lastStatus : Nat := 0
  deriving DecidableEq, Repr

/-! ### Signal engines (chapter 17) -/

/-- A trace packet that waits for the trace buffer (R471). -/
structure TracePkt where
  island : Nat
  kind : Nat
  time : Nat := 0
  cmp : Nat := 0
  loc : Nat := 0
  memY : Bool := false
  write : Bool := false
  data : W32 := 0
  deriving DecidableEq, Repr

/-! ### Package (chapter 1) -/

/-- A lane group of one direction of a group pair (R28–R34). -/
structure LaneGroup where
  retired : Bool := false
  spares : Vector Nat 2 := Vector.replicate 2 0   -- 0 idle, 1 unusable, 2 + n carries what data lane n carried
  repair : Option (Nat × Fin 2) := none   -- running repair: the lane, the spare it switches to
  queue : List Nat := []
  repairs : Nat := 0
  deriving DecidableEq, Repr

/-- Where a Ridge die stands with respect to R36 and R39. -/
inductive Presence where
  | present          -- answers on its bridges
  | silent           -- has reset or lost its clocks, not yet declared lost
  | lost             -- declared lost and fenced
  | rejoining        -- reset released or clocks back, bridges retrained, not yet re-admitted
  | isolated
  deriving DecidableEq, Repr

/-- What a die wrapper's instruction register holds (R26, R27). The manual gives no codes, so the model names the instruction
(assumption log 74). -/
inductive WrapInstr where
  | idcode | chainsel
  deriving DecidableEq, Repr

structure Package where
  groups : Table LaneGroup := []     -- 2·(16·bridge + k) + direction; bridge = 2·die + (0 north, 1 south)
  laneErr : Table Nat := []          -- 34·(lane group) + lane (R32)
  laneAt : Table (List Nat) := []    -- per lane, timebase of the last eight advances of its counter, oldest first (R31)
  eyes : Table W32 := []             -- per lane, eye margin measured last: 1/1,000 UI in [15:0], mV in [31:16] (R32)
  flitErr : Table Nat := []          -- per lane group
  down : List Nat := []              -- bridges taken down (R34)
  degraded : List Nat := []          -- dies marked degraded
  presence : Table Presence := []    -- per die
  byClock : List Nat := []           -- dies whose loss is a clock loss without reset
  losses : Table (List Nat) := []    -- per die, timebase of the declared losses (R41)
  southCopy : List Nat := []         -- 4·die + base clock: runs on the south-bridge copy (R92)
  records : List W64 := []           -- identity records read at power-up: Saddle, F0–F3
  idBad : Option (Nat × Nat) := none -- failing identity check: which, die position
  bypass : BitVec 4 := 0             -- complement of the chain select register (R27)
  ir : Vector WrapInstr 5 := Vector.replicate 5 .idcode   -- wrapper instruction registers: Saddle, F0–F3 (R26)
  scan : List W32 := []              -- IDCODEs the chain captured last, in the order in which TDO gives them
  scanId : Option (Nat × Nat) := none   -- failing identity check that the chain captured last (R22)
  dieReset : List Nat := []          -- dies held in reset by Cairn's D reaction (R410)
  deriving DecidableEq, Repr

/-! ### Fabric and clocks (chapters 2, 3) -/

/-- A border channel: the words of a handshake FIFO of the receiving side, oldest first, and how many of them have
become visible there (R86); values a HOLD policy keeps (R88). -/
structure BorderChan where
  fifo : List W32 := []
  visible : Nat := 0
  hold : W32 := 0
  joined : W32 := 0                  -- joined-mode receiving registers (R85)
  out : W32 := 0                     -- joined-mode sending registers
  lastRead : W32 := 0
  live : Bool := false               -- the neighbour is connected
  ready : Bool := false              -- WR_READY or RD_VALID as the fabric sees it
  deriving DecidableEq, Repr

/-- An island's fabric. -/
structure Island where
  cfg : IslandCfg := {}
  ff : Table Bool := []              -- 2·cell + (0 XFF, 1 YFF); 98304 + 4·tile + m for macrocells
  mac : Table MacRegs := []
  level : BitVec 4 := 0              -- clock levels K0–K3
  inputs : Table Bool := []          -- values of `Sig.inp`
  border : Table BorderChan := []    -- 16·side + group, as receiver
  gsr : Bool := true                 -- held in set/reset
  ratio : Vector Nat 5 := Vector.replicate 5 0    -- present ratio of K0–K3, KE in sixteenths, kept while stopped
  target : Vector Nat 5 := Vector.replicate 5 0
  src : Vector Nat 5 := Vector.replicate 5 0      -- base clock each runs on at present (R99)
  stretch : Nat := 0                 -- 0 none, 1 at 1.25 ×, 2 at 1.125 ×
  droop : Bool := false              -- the droop detector has fired and is not clear
  stopping : BitVec 5 := 0           -- clocks gating is stopping (R104)
  qreq : Bool := false
  qack : Bool := false
  frameBad : Bool := false           -- a frame CRC mismatch is present
  deriving DecidableEq, Repr

/-- A GPIO bank (R363–R366): its bank record, the safe states in force, and what keeps its pins from the fabric. -/
structure Bank where
  pllEn : Bool := false
  pllMul : BitVec 16 := 0
  dflt : BitVec 96 := 0              -- default safe states of the bank record
  safe : BitVec 96 := 0              -- safe states in force: the owner's, or the default
  follows : Bool := false            -- a released context drives the pins
  mismatch : Bool := false
  vccioBad : Bool := false
  pllLost : Bool := false
  lost : Nat := 0                    -- its die is lost (R38): 1 pulls, 2 safe states, 3 as last driven
  parked : Bool := false             -- the package is at Park or Dormant
  driven : Table (List Bool × Bool) := []  -- per pin, the output bits driven last, in order, and the output enable (R363, R364)
  pllPads : List Nat := []           -- pins that the bank PLL clocks
  deriving DecidableEq, Repr

structure ClockUnit where
  holdover : Nat := 0                -- 0 locked, 1 holdover, 2 slewing low
  unlocked : List Nat := []          -- privileged PLLs that report loss of lock: 0–15 quad, 16 PCIe, 17–18 HBM, 32–63 bank
  pllsDown : List Nat := []
  waiting : List Nat := []           -- meters with a host START that waits for Lookout
  deriving DecidableEq, Repr

/-! ### Trails (chapter 7) -/

/-- A message at an ingress, in the network, or on its way back. `lost`: its TRAIL field arrived corrupt. -/
structure Flight where
  msg : Msg
  lost : Bool := false
  age : Nat := 0                     -- ingress release time modulo 1,024 (R198)
  verify : Bool := false             -- a read's tags are verified before it is answered, as RANGE_MODE stood at arrival (R284)
  deriving DecidableEq, Repr

structure Network where
  trails : Table Trail := []
  held : List Msg := []              -- accepted at an ingress and not released, oldest first
  flight : List Flight := []         -- released requests not yet performed
  resp : List Flight := []           -- responses not yet delivered
  txns : Table (Option Txn) := []    -- outstanding tags
  quarantine : List Nat := []        -- tags in quarantine (R216)
  rx : Table (List Msg) := []        -- messages in a destination's buffers, by physical port, oldest first
  settle : Table (List (BitVec 6 × Bool)) := []  -- per island port, the settle pulses of this and the next cycles: tag, OK (R278)
  aside : List Desc := []            -- opens that wait for a MOVING context (R223)
  seq : Nat := 0                     -- next place in the admission order
  reroute : List Nat := []           -- bridges that went down and whose trails wait for their new route (R221)
  issueNo : Nat := 0                 -- next place in the order of issue
  deriving DecidableEq, Repr

/-! ### Switchback (chapter 8) -/

/-- A registered image (R227, R232). -/
structure Registered where
  ctx : Nat
  variant : Nat
  img : Image
  inStore : Bool := true             -- image store (true) or host backing store (R233)
  addr : Nat := 0                    -- where it stands there, its state slot after it
  slotBad : Bool := false            -- a word of the state slot could not be moved (R272)
  lastLoad : Nat := 0
  damaged : Bool := false            -- a word could not be relocated (R272)
  deriving DecidableEq, Repr

/-- A site with its variant. -/
structure SiteAt where
  variant : Nat
  die : Nat
  ax : Nat
  ay : Nat
  deriving DecidableEq, Repr

/-- An operation on a context (R235) or an action of Switchback's own. Kind 0 load, 1 evict, 2 unregister, 3 evict for Park
or Dormant, 4 evict for a takeover, 5 pin, 6 unpin, 7 policy, 8 clock. -/
structure LoadReq where
  ctx : Nat
  kind : Nat := 0
  variant : Nat := 0
  anyVar : Bool := false
  fresh : Bool := false
  noWait : Bool := false
  pin : Bool := false
  noSave : Bool := false
  force : Bool := false
  victim : Nat := 0x3FF
  seq : Nat := 0                     -- arrival
  desc : Option Desc := none         -- CTRL descriptor to complete
  from_ : Option (Nat × W64) := none  -- requesting context and its request word (R234)
  dieOnly : Option Nat := none       -- SAME_DIE restores
  site : Option SiteAt := none       -- chosen while victims leave
  victims : List Nat := []           -- victims that still hold islands of the site
  table : List W64 := []             -- CTX_CLOCK: settings by ordinal
  deriving DecidableEq, Repr

/-- A context (R235–R238, R243). Policy fields are valid once a variant is registered. -/
structure Context where
  state : Nat := 8                   -- R238
  variant : Nat := 0
  pinned : Bool := false
  prio : Nat := 0
  restore : Nat := 0
  group : Nat := 0
  quantumUs : Nat := 0
  quiesceUs : Nat := 0
  quota : Nat := 0
  placed : Bool := false             -- occupies the footprint below
  shape : Nat := 0
  die : Nat := 0
  ax : Nat := 0
  ay : Nat := 0
  pmap : Nat := 2                    -- port map entry state (R206)
  saved : Option SavedState := none
  ckpt : Option SavedState := none   -- state taken at the last checkpoint (R252)
  ckptNewer : Bool := false
  releasedAt : Nat := 0
  lastUse : Nat := 0
  evict : Option LoadReq := none     -- the eviction its quiesce serves
  victimOf : Option Nat := none      -- the context whose load it makes room for
  fenceSave : Bool := false          -- its fence saves state
  restoring : Bool := false          -- this load restores saved state
  waiting : Bool := false            -- LOST, waits for a rejoin
  loading : Option LoadReq := none
  written : List Nat := []           -- ordinals already HELD
  acked : Bool := false
  queue : List LoadReq := []         -- requests that wait for the present one (R261)
  trails : List Nat := []            -- trails opened for it
  boot : Bool := false
  bootCfg : List IslandCfg := []     -- configuration of a boot context, by ordinal (R333)
  bootClocks : List W64 := []
  reloading : Nat := 0               -- R342: 1 waits for its memory contents, 2 they are being read; 3, 4 after a rejoin
  repin : Bool := false              -- evicted for Park or Dormant while pinned
  deriving DecidableEq, Repr

/-- A mapped page of device virtual memory: its table entry (R257) and its backing. -/
structure Page where
  space : Nat
  dva : Nat
  big : Bool                         -- 2 MiB
  valid : Bool := true
  loc : Nat := 0                     -- 0 HBM, 1 deep, 2 host, 3 MOVING
  pin : Bool := false
  rclass : Nat := 0
  w : Bool := false
  d : Bool := false
  a : Bool := false
  dev : Bool := false
  addr : Nat := 0                    -- DPA of the frame
  backing : Nat := 0                 -- host backing DPA
  lost : Bool := false
  deriving DecidableEq, Repr

/-- A page migration in progress (R259): the page, where it goes, and the requests held. -/
structure Migration where
  space : Nat
  dva : Nat
  srcLoc : Nat
  srcAddr : Nat
  dstLoc : Nat
  dstAddr : Nat
  held : List Msg := []
  deriving DecidableEq, Repr

/-- A job of a die configuration port (R250): rank 1 clearing at rejoin (context 0x3FF) and boot reload, 2 swap, 3 checkpoint, 4 debug readback. -/
structure PortJob where
  die : Nat
  rank : Nat
  ctx : Nat
  deriving DecidableEq, Repr

structure Switchback where
  images : List Registered := []
  ctxs : Table Context := []
  queue : List LoadReq := []         -- in the order of R242
  owners : Table Nat := []           -- deep granule (die·16384 + number): owner + 1
  pages : List Page := []
  tables : Table Nat := []           -- address of each page table, by `tableKey`, plus 1 (R256)
  entries : Table W64 := []          -- table entries as written last, by address
  atSource : List Nat := []          -- tags of gateway requests that are performed where the page is: its copy failed (R259)
  migrations : List Migration := []
  hand : Nat := 0                    -- next page of the victim scan (R259)
  shutBanks : List Nat := []         -- deep banks (32·die + bank) that a self-test has taken (R449)
  unmaps : List Desc := []           -- UNMAP descriptors that wait for faults in progress (R313)
  portJobs : List PortJob := []      -- waiting jobs of the die configuration ports, in order of arrival
  portRun : List PortJob := []       -- the running job of each port
  reload : List Nat := []            -- contexts to reload after Park or Dormant
  seq : Nat := 0                     -- order of requests
  loadNo : Nat := 0                  -- order of loads (R233)
  retained : List Nat := []          -- islands that came back retained with matching frames and are not yet released (R40)
  deriving DecidableEq, Repr

/-! ### Host interface (chapter 10) -/

/-- A record that waits to be written to an event queue (R316). -/
structure Rec where
  queue : Nat
  compl : Bool
  w1 : W64
  w2 : W64
  ring : Nat := 0
  index : Nat := 0
  code : Nat
  result : Nat := 0
  status : Nat := 0
  irq : Bool := false
  buffered : Bool := false           -- stands in the shared event buffer of R319
  deriving DecidableEq, Repr

/-- The data that a DATA descriptor moves, one message at a time (R312). -/
structure Job where
  tag : Nat
  src : List (Nat × Nat) := []       -- what is still to be read: addresses and lengths
  pos : Nat := 0                     -- bytes written
  buf : List Byte := []              -- bytes read and not yet written
  out : Nat := 0                     -- bytes of the message outstanding, 0 for none
  prov : List Byte := []             -- provisional data that wait for their verdict (R279)
  fail : Option (Nat × Nat) := none  -- STATUS and RESULT of the message that failed
  wild : List (Nat × Nat) := []      -- where the destination overlaps a source: addresses and lengths (R311)
  deriving DecidableEq, Repr

/-- A descriptor a ring has read and not completed. -/
structure Slot where
  desc : Desc
  started : Bool := false
  done : Option (Nat × Nat × Nat) := none   -- STATUS, RESULT, ARG, waiting for its turn
  job : Option Job := none           -- data that a started DATA descriptor moves
  deriving DecidableEq, Repr

/-- Host reads that the link owes a request (R300): its tag, the bytes of each read outstanding, what has arrived. -/
structure HostRead where
  tag : Nat
  left : List Nat
  got : List Byte := []
  deriving DecidableEq, Repr

/-- What the link has trained to, and the Device Control register of configuration space (R290, R300): rate 0–5 for 2.5, 5, 8,
16, 32, 64 GT/s, width 0–3 for x1, x4, x8, x16, Flit mode; maximum payload and read request size as 128 bytes times a power of
two, Relaxed Ordering permitted. The last three reset as PCI Express has it (assumption log 82). -/
structure HostPort where
  rate : Fin 6 := 0
  width : Fin 4 := 0
  flit : Bool := false
  mps : Fin 6 := 0
  mrrs : Fin 6 := 2
  relaxed : Bool := true
  deriving DecidableEq, Repr

structure HostIf where
  recs : List Rec := []              -- records not yet written
  lostNow : Table Nat := []          -- per queue, events lost since its last EQ_OVERFLOW
  since : Table Nat := []            -- per queue, records written since its last MSI-X message
  firstAt : Table Nat := []          -- per queue, timebase of the first of those, plus 1
  slots : Table (List Slot) := []    -- per ring, in index order
  fetching : Table Nat := []         -- per ring, descriptor reads outstanding
  fetchNext : Table Nat := []        -- per ring, next index to read
  bells : Table Nat := []            -- last accepted doorbell values: ring r, 256 + queue
  msix : List Nat := []              -- vectors signalled, oldest first
  mem : List Host.Cell := []         -- host memory as the device has written it, by host address
  pending : List HostRead := []      -- requests whose host reads the link owes
  port : HostPort := {}
  wrRelaxed : Bool := false          -- Relaxed Ordering of the last memory write sent (R300)
  turns : Table Nat := []            -- per PRIO, descriptor fetches in this round of the weights (R305)
  linkUp : Bool := false
  d3 : Bool := false
  perst : Bool := false              -- PERST_N low
  tbLow : Option W32 := none         -- low half of HIF_TB_SET held (R323)
  tbAcc : Int := 0                   -- billionths of a nanosecond by which HIF_TB_ADJ has moved HIF_TB off REFCLK (R320)
  ptmMissed : Nat := 0
  ptmOut : Bool := false
  aer : Nat := 0                     -- AER reports
  ide : Table IdeAssoc := []         -- associations of the IDE streams (R286)
  ideSets : Table Bool := []         -- active key set of a sub-stream, 8·stream + sub-stream
  ideShut : List Nat := []           -- streams that are Insecure after an integrity failure
  deriving DecidableEq, Repr

/-! ### Fault messages (chapter 14) -/

/-- A fault message (R405): kind, source (die in [11:9], unit in [8:0]), severity sent, injected mark, ADDR. -/
structure FaultMsg where
  kind : Nat
  source : Nat
  sev : Nat
  inj : Bool := false
  addr : Nat := 0
  deriving DecidableEq, Repr

/-! ### HBM and encryption (chapter 9) -/

/-- A request queued at a pseudo-channel controller (R266), in order of arrival. -/
structure HbmReq where
  msg : Msg
  pc : Nat                           -- 32·stack + pseudo-channel
  since : Nat                        -- timebase at entry
  promoted : Bool := false
  retries : Nat := 0                 -- parity retries so far (R269)
  verify : Bool := false             -- its tags are verified before it is answered, as RANGE_MODE stood at arrival (R284)
  deriving DecidableEq, Repr

structure Hbm where
  queue : List HbmReq := []
  rows : Table Nat := []             -- open rows: 1024·pc + bank, row + 1
  batch : List Nat := []             -- pseudo-channels that drain a write batch
  serving : Option Nat := none       -- trail of the request being performed; none: internal
  ues : Table (List Nat) := []       -- per pseudo-channel, times of uncorrectable words (R271)
  cas : Table (List Nat) := []       -- per pseudo-channel, times of command/address parity errors
  retiring : List Nat := []
  record : List Nat := []            -- retired set in Lookout's non-volatile log (R273)
  rotTemp : Table Nat := []          -- per stack, temperature at the last rotation
  rotNext : Table Nat := []          -- per stack, next pseudo-channel of the rotation
  rotLeft : Table Nat := []          -- per stack, steps left of a rotation that temperature started
  logNext : Nat := 0                 -- next log entry in ring order
  deriving DecidableEq, Repr

/-- The verdict on a speculative read that is still to be sent (R277). -/
structure Verdict where
  msg : Msg
  ok : Bool
  dpa : Nat := 0                     -- first failing line
  range : Nat := 0
  deriving DecidableEq, Repr

/-- A conversion that waits: its range, and for a disable its TO (R281). -/
structure ConvJob where
  range : Nat
  off : Bool := false
  dest : Nat := 0
  deriving DecidableEq, Repr

structure Crypto where
  slots : Table (List Byte) := []    -- key slots: 96 bytes, empty when not loaded
  kwk : List Byte := []              -- key-wrapping key, empty while none is established
  queue : List ConvJob := []         -- in request order
  verdicts : List Verdict := []
  arlRx : Bool := false              -- KEY_ID of the partner's direction
  arlOld : Bool := false             -- that direction's previous key is still accepted
  arlSent : Nat := 0                 -- frames sent under the key in use for transmission, heartbeats apart (R285)
  arlSince : Nat := 0                -- timebase at which that key came into use
  arlFails : Nat := 0                -- consecutive Arête frames that failed
  deriving DecidableEq, Repr

/-! ### Transceivers (chapter 12) -/

/-- A transmit frame that a port assembles (R358): its length, the bytes so far, the PTP header offset of a one-step
update. `skip`: the frame was discarded, its further messages are only acknowledged. -/
structure EthTx where
  flen : Nat := 0
  data : List Byte := []
  oneStep : Option Nat := none
  skip : Bool := false
  deriving DecidableEq, Repr

structure Pins where
  eth : Table EthTx := []            -- per Ethernet port, 4·engine + port
  tx : Table (List Byte) := []       -- data handed to the line last, by the endpoint's VPID
  aligned : List Nat := []           -- JESD204C links (quads) aligned to their SYSREF
  ptp : List Byte := []              -- last PTP frame that went to Lookout
  deriving DecidableEq, Repr

/-! ### Power (chapter 13) -/

/-- Budget enforcement of a die (R373–R375): budget before the thermal cut, the cut in sixteenths, TF in eighths, the last
samples in 1/8 W, and which reports were made in the present excursion. -/
structure DiePower where
  budget : Nat := 600
  cut : Nat := 0
  tf : Nat := 8
  cap : Nat := 8                     -- ISSUE_CAP in force
  sample : Nat := 0
  average : Nat := 0
  limited : Bool := false
  high : Bool := false
  crit : Bool := false
  low : Bool := false
  own : Nat := 0                     -- die rung requested and granted
  hotAt : Nat := 0                   -- the hottest sensor of the last sample
  deriving DecidableEq, Repr

/-- A rung transition that runs: scope (die, or 7 for the package), the rung left and the rung entered. -/
structure RungMove where
  scope : Nat
  old : Nat
  new : Nat
  deriving DecidableEq, Repr

structure Power where
  dies : Vector DiePower 4 := Vector.replicate 4 {}
  poolLow : Bool := false
  paced : List Nat := []             -- islands that started at TF = 4 and wait for their admission (R376)
  railBad : Table Nat := []          -- consecutive samples out of range, by rail bit
  busSeen : Bool := false
  sag : Bool := false
  swell : Bool := false
  want : Option Nat := none          -- package rung requested and not yet started
  dieWant : Table (Option Nat) := [] -- die rungs requested and not yet started
  run : Option RungMove := none
  stall : List Nat := []             -- dies whose ingresses stall; 7: every ingress
  wakeReads : List (Nat × Nat) := [] -- BAR0 reads that wait for the exit: offset, bytes
  hbmOff : Bool := false             -- HBM was switched off (Dormant)
  moved : List (Nat × Nat) := []     -- images copied to the host backing store for Dormant: context, variant
  failed : Bool := false             -- the power-fail sequence has started (R382)
  deriving DecidableEq, Repr

/-! ### Configuration (chapter 11) -/

/-- What is fused in the Saddle besides the counter of MGT_ARB (R399, R456): a list is empty while its fuse is unwritten. -/
structure Fuses where
  keyHash : List Byte := []
  bitKey : List Byte := []
  debugHash : List Byte := []
  pwHash : List Byte := []
  pwLevel : Nat := 0
  deriving DecidableEq, Repr

/-- The configuration controller. PHASE: 0 rails rising, 1 an attempt is due, 2 loading, 3 the trailer has passed and the
steps run, 4 DONE, 5 failed, 6 cleared and waiting for PROG_N and PERST_N, 7 the identity check failed. -/
structure Cfg where
  phase : Nat := 0
  progLow : Bool := false            -- PROG_N is low
  mode : Nat := 0                    -- CFG_MODE as sampled (R326)
  pullDown : Bool := false           -- IO_PULL_N as sampled
  forced : Option Nat := none        -- slot that CFG_RECONF named
  slot : Nat := 0                    -- slot of the present attempt
  retry : Bool := false              -- the present attempt is the retry
  attempts : List (Nat × Nat) := []  -- ended attempts: slot, code
  bus : Nat := 0                     -- 0 octal, 1 quad, 2 JTAG
  fallback : Bool := false
  compressed : Bool := false
  encrypted : Bool := false
  total : Nat := 0                   -- TOTAL_LEN
  secVer : Nat := 0
  startup : Nat := 0                 -- STARTUP word
  pos : Nat := 0                     -- offset of the next segment header
  next : Nat := 0                    -- next segment: 0 SADDLE, 1 + d the DIE segment of die d, 5 only END, 6 the trailer
  outs : Table (List W32) := []      -- output of the ISLAND segments read, by island
  boots : List (Nat × Nat × Nat × W64 × IslandCfg) := []   -- boot context, ordinal, island, CLOCK, configuration
  dieRecs : Table (List W64) := []   -- bank configuration records of a die
  digest : List Byte := []
  step : Nat := 0                    -- start-up steps done
  locked : Bool := false
  gsr : Bool := false
  we : Bool := false                 -- fabric writes to memories are enabled
  out : Bool := false                -- past the OUT step
  sweepAt : Option (Nat × Nat) := none   -- frame sweep: island, next frame
  deriving DecidableEq, Repr

/-! ### Lookout and Cairn (chapter 14) -/

/-- An entry of the log (R395): SEQ, timebase, TYPE, and its data as one number (for type 1 the 72 message bits with the
reactions above them). -/
structure LogEntry where
  seq : Nat
  time : Nat
  typ : Nat
  info : Nat
  deriving DecidableEq, Repr

/-- A flash sector of the log (R396). STATE 0 empty, 1 in use, 2 retired. -/
structure Sector where
  state : Nat := 0
  erases : Nat := 0
  first : Nat := 0                   -- SEQ of the first entry
  sets : List Nat := []              -- retired pseudo-channels in the header
  entries : List LogEntry := []
  deriving DecidableEq, Repr

/-- Where a mailbox request came from and its response goes. -/
inductive MgtFrom where
  | desc (d : Desc)
  | regs
  | mctp
  deriving DecidableEq, Repr

/-- A mailbox request (R401). `session`: application data of an SPDM secured session. -/
structure MgtReq where
  body : List Byte
  src : MgtFrom
  session : Bool := false
  deriving DecidableEq, Repr

/-- A running update (R397): target 0 bitstream or 1 firmware, its length, bytes written. -/
structure Update where
  target : Nat
  len : Nat
  got : Nat := 0
  deriving DecidableEq, Repr

/-- What Lookout knows of an image slot: 0 empty, 1 valid, 2 invalid, 3 unchecked; SEC_VER. -/
structure SlotInfo where
  state : Nat := 3
  secVer : Nat := 0
  deriving DecidableEq, Repr

structure Lookout where
  loaded : Bool := false             -- the boot ROM of the running restart has ended
  recover : Bool := false            -- both slots failed at the last load
  cause : Nat := 0                   -- of the running restart (R417)
  owes : Bool := false               -- LKO_RECOVERY waits for the link
  tableA : List Byte := []           -- slot-table copies as last read or written
  tableB : List Byte := []
  slots : Vector SlotInfo 4 := Vector.replicate 4 {}   -- bitstream A, B, firmware A, B
  secVer : Nat := 0                  -- of the running firmware
  update : Option Update := none
  flash : List Host.Cell := []       -- bytes Lookout has written to the flash; unlisted bytes read as erased
  reqs : List MgtReq := []           -- requests that wait, oldest first
  asm : Option (Nat × List W32) := none   -- register request that is arriving: its length, its words so far
  tx : List W32 := []
  rx : List W32 := []
  outbox : List (List Byte) := []    -- answers sent over MCTP
  eid : Nat := 0
  seq : Nat := 0                     -- next SEQ of the log
  log : List LogEntry := []          -- RAM ring, oldest first
  copied : Nat := 0                  -- entries below this SEQ are in flash
  sectors : Vector Sector 8 := Vector.replicate 8 {}
  cur : Option Nat := none           -- sector in use
  toldRam : Bool := false            -- LOG_RAM_ONLY was posted
  ptpOn : Bool := false
  ptpDomain : Nat := 0
  deriving DecidableEq, Repr

structure Cairn where
  fifo : List (FaultMsg × Nat) := [] -- messages for Lookout with the reactions taken
  posted : Table Nat := []           -- per kind, timebase of its last FAULT, plus 1
  missing : List Nat := []           -- ring segments whose token is missing: dies 0–3, 4 the Saddle
  checks : List (Nat × Nat × Nat) := []   -- injected checks left: source, checker, count (R415)
  deriving DecidableEq, Repr

/-! ### Twin mode (chapter 15) -/

/-- A frame that was sent and is not yet acknowledged (R420): TYPE, SEQ, region of a MIRROR_WR, time, the request whose
WRACK waits for it, context of a CKPT. -/
structure TwinFrame where
  kind : Nat
  seq : Nat
  region : Nat := 0
  time : Nat := 0
  wrack : Option Msg := none
  ctx : Nat := 0
  dpa : Nat := 0
  data : List Byte := []
  deriving DecidableEq, Repr

/-- Checkpointing of a context at the primary (R429): the two local slots with their sequence numbers, the newest sent. -/
structure CkptSet where
  interval : Nat := 0
  quiesce : Bool := false
  slotA : Option (Nat × SavedState) := none
  slotB : Option (Nat × SavedState) := none
  no : Nat := 0                      -- sequence number of the last one taken
  run : Nat := 0                     -- 0 idle, 1 waits for QACK, 2 readback runs
  lastFrame : Option Nat := none     -- SEQ of the last frame of the newest sent
  sentAt : Nat := 0                  -- its timebase
  peerOk : Bool := false             -- the backup holds it complete
  skew : Bool := false
  deriving DecidableEq, Repr

/-- A checkpoint at the backup: the one held complete, or the one being received. -/
structure HeldCkpt where
  ctx : Nat
  variant : Nat
  hash : BitVec 384
  quiesce : Bool
  time : Nat
  no : Nat
  parts : Nat
  got : Nat                          -- parts received
  islands : Table SavedIsland
  deriving DecidableEq, Repr

structure Twin where
  hash : List Byte := []             -- expected hash of the partner's identity key
  desc : Option Desc := none         -- TWN_PAIR or TAKEOVER that waits
  asked : Nat := 0                   -- role asked for
  stage : Nat := 0                   -- pairing: 1 the links train, 2 the partner is authenticated
  silent : Nat := 0                  -- consecutive heartbeat intervals missed
  lastBeat : Nat := 0
  sendSeq : Nat := 0
  gotSeq : Nat := 0                  -- next SEQ to apply
  gotOther : Nat := 0                -- least SEQ accepted of the frames that are not lossless
  out : List TwinFrame := []         -- frames sent and not acknowledged, oldest first
  reply : Option (Nat × Nat) := none -- the last ACK (4) or NAK (5) sent: TYPE, SEQ
  sweep : Table Nat := []            -- next DPA of a region's sweep
  ckpt : Table CkptSet := []
  held : List HeldCkpt := []
  rx : Option HeldCkpt := none
  notices : List Nat := []           -- causes of the NOTICE frames sent
  promoted : Nat := 0                -- timebase of the declaration
  drain : List Nat := []             -- TAKEOVER: contexts whose final checkpoint is outstanding
  deriving DecidableEq, Repr

/-! ### Self-test (chapter 16) -/

/-- A test, or a bypass, that is queued, isolates its unit or runs. STATE 0 queued, 1 isolating, 2 testing. -/
structure BstTest where
  unit : Nat
  bypass : Bool := false
  force : Bool := false
  keepOff : Bool := false
  state : Nat := 0
  desc : Desc
  taken : Bool := false              -- an engine taken from a resident context
  start : Nat := 0
  pages : List (Nat × Nat) := []     -- pages still to vacate: space, DVA
  deriving DecidableEq, Repr

/-- What BST_UNIT_INFO reports of a unit. STATE 0 IN_SERVICE, 1 QUEUED, 2 TESTING, 3 OFFLINE, 4 FAILED. -/
structure BstUnit where
  state : Nat := 0
  result : Nat := 0
  runs : Nat := 0
  sig : Nat := 0
  ended : Nat := 0
  deriving DecidableEq, Repr

structure Bst where
  tests : List BstTest := []         -- in the order they were handed over
  units : Table BstUnit := []        -- by unit code
  gold : Table Nat := []             -- fused golden signatures, by unit code (R21)
  part : Vector W32 16 := Vector.replicate 16 0   -- fused golden signatures of the Saddle logic partitions (R21, R448)
  saddle : Nat := 0                  -- maintenance stop: 1 waits for tests, 2 runs
  owed : List (Desc × Nat) := []     -- ABORTED results to post after recovery: descriptor, test time
  deriving DecidableEq, Repr

/-! ### Debug (chapter 17) -/

structure Debug where
  nonce : Bool := false              -- the nonce is valid
  last : Option Nat := none          -- timebase of the last counted attempt
  trails : List (Nat × Nat) := []    -- debug trails: endpoint, trail
  ap : Option (List Byte × Nat) := none   -- answer of the access in flight, once it has come: data, status
  captured : Option (Nat × Table W64) := none   -- capture store of the configuration controller: the island, the words captured
  tdo : W64 := 0                     -- what the next capture-DR of DBGREG returns
  deriving DecidableEq, Repr

/-! ### The whole state -/

/-- The state. Set-up registers stand in `regs` under their BAR0 offset, those at their reset value unlisted. -/
structure State where
  /-- Commands that wait, first in, first out. -/
  pending : List Instr := []
  /-- Set-up registers by BAR0 offset. -/
  regs : Table W64 := []
  /-- Memories and their codes (chapter 4). -/
  mem : Memory := {}
  /-- Signal engines by linear island number (chapters 5, 6, 17). -/
  engines : Table Engine := []
  /-- Dies, bridges, test access chain (chapter 1). -/
  pkg : Package := {}
  /-- Islands by linear number: fabric, border, clocks (chapters 2, 3). -/
  isl : Table Island := []
  /-- Clock synthesiser, privileged PLLs, meters (chapter 3). -/
  clk : ClockUnit := {}
  /-- GPIO banks by number (chapter 12). -/
  banks : Table Bank := []
  /-- Trails and the package network (chapter 7). -/
  net : Network := {}
  /-- Contexts, images, allocator, pages (chapter 8). -/
  swb : Switchback := {}
  /-- Pseudo-channel controllers (chapter 9). -/
  hbm : Hbm := {}
  /-- Key slots, conversions, Arête and IDE keys (chapter 9). -/
  cry : Crypto := {}
  /-- Transceiver endpoints (chapter 12). -/
  pins : Pins := {}
  /-- Budgets, monitors, the power ladder (chapter 13). -/
  pwr : Power := {}
  /-- PCIe link, rings, event queues (chapter 10). -/
  host : HostIf := {}
  /-- Fuses (chapters 14, 17). -/
  fuses : Fuses := {}
  /-- Configuration controller (chapter 11). -/
  cfg : Cfg := {}
  /-- Lookout, its log and mailbox (chapter 14). -/
  lko : Lookout := {}
  /-- Cairn's queue for Lookout, ring and injections (chapter 14). -/
  cairn : Cairn := {}
  /-- Arête link and twin mode (chapter 15). -/
  twin : Twin := {}
  /-- Self-test (chapter 16). -/
  bst : Bst := {}
  /-- Debug unit (chapter 17). -/
  dbg : Debug := {}
  /-- Trace packets that wait for the trace buffer (chapter 17). -/
  trace : List TracePkt := []
  /-- Fault messages on their way to Cairn (chapter 14). -/
  inbox : List FaultMsg := []
  /-- Counter of free values: the model's own field (assumption log 3). -/
  free : Nat := 0
  deriving DecidableEq, Repr

/-- Why a step stops. -/
inductive Fault where
  /-- Raised by `exec` for a command that is not well-formed (`Instr.wf`): a list of bytes of a length no field of the part can
  name, so that the table's row has no such command. Safe: the part is never given one. -/
  | illFormed
  deriving DecidableEq, Repr

/-- Why a step has no meaning. -/
inductive Refusal where
  /-- Raised by the dispatcher for a row without a meaning; no row is without one. Safe: nothing is claimed of it. -/
  | notModelled (mnemonic : String)
  deriving DecidableEq, Repr

/-- The state after reset: every register at the value its table gives, memories zero, queues empty. What the manual
gives no reset value for is named in assumption log 2. -/
def State.reset : State := {}

end Sys2Proof.Machine
end

