-- ==== Sys2Proof/Machine/Ops.lean ====
section
/-!
DEFINITION. The named operations every command is written over: registers and their fields, tables of the state,
free values, events, fault messages, the outcomes of a step.
-/

namespace Sys2Proof.Machine

/-- What a command answers. -/
abbrev Res := Host.Outcome State Fault Refusal

/-- The event a row names is not due in this state: nothing happens (assumption log 5). -/
def notDue (s : State) : Res := .next s

/-- A command with an operand no field can hold. -/
def illFormed : Res := .fault .illFormed

/-- Runs `f` when `c` holds; otherwise the event is not due. -/
def whenDue (c : Bool) (s t : State) : Res := if c then .next t else notDue s

/-! ### Set-up registers -/

/-- The set-up register at a BAR0 offset. -/
def State.reg (s : State) (off : Nat) : W64 := s.regs.peek regReset off

/-- The state with one set-up register replaced. -/
def State.setReg (s : State) (off : Nat) (v : W64) : State := { s with regs := s.regs.poke regReset off v }

/-- A register field as a number. -/
def State.get (s : State) (f : Fld) : Nat := fieldOf (s.reg f.addr) f.hi f.lo

/-- A one-bit register field. -/
def State.flag (s : State) (f : Fld) : Bool := s.get f == 1

/-- The state with one register field set (modulo its range). -/
def State.put (s : State) (f : Fld) (v : Nat) : State := s.setReg f.addr (setField (s.reg f.addr) f.hi f.lo v)

/-- The state with a one-bit field set to a truth value. -/
def State.putB (s : State) (f : Fld) (b : Bool) : State := s.put f (bit b)

/-- Advances a counter field by `n`, stopping at its greatest value. -/
def State.bump (s : State) (f : Fld) (n : Nat := 1) : State := s.put f (satAdd (f.hi + 1 - f.lo) (s.get f) n)

/-- The device timebase, ns (R320). -/
def State.now (s : State) : Nat := s.get HIF_TB.NS

/-! ### Tables of the state -/

/-- The signal engine of an island. -/
def State.eng (s : State) (i : Nat) : Engine := s.engines.peek (fun _ => {}) i
def State.setEng (s : State) (i : Nat) (e : Engine) : State :=
  { s with engines := s.engines.poke (fun _ => {}) i e }
def State.modEng (s : State) (i : Nat) (f : Engine → Engine) : State := s.setEng i (f (s.eng i))

/-- The fabric of an island. -/
def State.island (s : State) (i : Nat) : Island := s.isl.peek (fun _ => {}) i
def State.setIsland (s : State) (i : Nat) (x : Island) : State := { s with isl := s.isl.poke (fun _ => {}) i x }
def State.modIsland (s : State) (i : Nat) (f : Island → Island) : State := s.setIsland i (f (s.island i))

/-- A trail of the trail table. -/
def State.trail (s : State) (t : Nat) : Trail := s.net.trails.peek (fun _ => {}) t
def State.setTrail (s : State) (t : Nat) (x : Trail) : State :=
  { s with net := { s.net with trails := s.net.trails.poke (fun _ => {}) t x } }
def State.modTrail (s : State) (t : Nat) (f : Trail → Trail) : State := s.setTrail t (f (s.trail t))

/-- The outstanding request under a tag. -/
def State.txn (s : State) (tag : Nat) : Option Txn := s.net.txns.peek (fun _ => none) tag
def State.setTxn (s : State) (tag : Nat) (x : Option Txn) : State :=
  { s with net := { s.net with txns := s.net.txns.poke (fun _ => none) tag x } }

/-- A context. -/
def State.ctx (s : State) (c : Nat) : Context := s.swb.ctxs.peek (fun _ => {}) c
def State.setCtx (s : State) (c : Nat) (x : Context) : State :=
  { s with swb := { s.swb with ctxs := s.swb.ctxs.poke (fun _ => {}) c x } }
def State.modCtx (s : State) (c : Nat) (f : Context → Context) : State := s.setCtx c (f (s.ctx c))

def State.onNet (s : State) (f : Network → Network) : State := { s with net := f s.net }
def State.onSwb (s : State) (f : Switchback → Switchback) : State := { s with swb := f s.swb }
def State.onHost (s : State) (f : HostIf → HostIf) : State := { s with host := f s.host }
def State.onPkg (s : State) (f : Package → Package) : State := { s with pkg := f s.pkg }
def State.onMem (s : State) (f : Memory → Memory) : State := { s with mem := f s.mem }
def State.onClk (s : State) (f : ClockUnit → ClockUnit) : State := { s with clk := f s.clk }

/-- Puts an element into a sorted list, before those that are equal to it. -/
def insertBy {α : Type} (le : α → α → Bool) (x : α) : List α → List α
  | [] => [x]
  | y :: ys => if le x y then x :: y :: ys else y :: insertBy le x ys

/-- A list in an order; equal elements keep theirs. -/
def sortBy {α : Type} (le : α → α → Bool) : List α → List α
  | [] => []
  | x :: xs => insertBy le x (sortBy le xs)

/-- Lexicographic order of keys. -/
def keyLe : List Nat → List Nat → Bool
  | a :: as, b :: bs => if a < b then true else if b < a then false else keyLe as bs
  | _, _ => true

/-- The candidate with the least key, the first among equals. -/
def leastKey {α : Type} (key : α → List Nat) : List α → Option α
  | [] => none
  | x :: xs => match leastKey key xs with
    | none => some x
    | some y => if keyLe (key x) (key y) then some x else some y

/-- Applies `f` to every number below `n`, in order. -/
def State.forN (s : State) (n : Nat) (f : Nat → State → State) : State :=
  match n with
  | 0 => s
  | k + 1 => f k (s.forN k f)

/-- Applies `f` to every element of a list, in order. -/
def State.forAll {α : Type} (s : State) (l : List α) (f : α → State → State) : State :=
  match l with
  | [] => s
  | x :: xs => (f x s).forAll xs f

/-! ### Free values -/

/-- The next free value: nothing is known of it. -/
def State.fresh (s : State) : W64 := Config.freeValue s.free

/-- The state after a free value was taken. -/
def State.took (s : State) : State := { s with free := s.free + 1 }

/-! ### Self-test units (R442) -/

/-- A unit code: class, die or stack, index. -/
def unitOf (cls die idx : Nat) : Nat := cls * 2 ^ 13 + die * 2 ^ 10 + idx

def State.unit (s : State) (u : Nat) : BstUnit := s.bst.units.peek (fun _ => {}) u

/-- Whether an engine is out of service: tested, offline or failed. -/
def State.engOut (s : State) (i : Nat) : Bool := (s.unit (unitOf 1 (i / 64) (i % 64))).state ≥ 2

/-! ### Fault messages -/

/-- Sends a fault message to Cairn; CAIRN_MESSAGE takes it (R409). -/
def State.toCairn (s : State) (kind source sev addr : Nat) : State :=
  { s with inbox := s.inbox ++ [{ kind, source, sev, addr }] }

/-- Whether an injection is armed at a source's checker (R415). -/
def State.armed (s : State) (source chk : Nat) : Bool := s.cairn.checks.any (fun c => c.1 == source && c.2.1 == chk)

/-- One check of an armed injection is used up: the first armed at the source for the checker. -/
def State.useCheck (s : State) (source chk : Nat) : State :=
  let go := s.cairn.checks.foldl (fun (a : Bool × List (Nat × Nat × Nat)) c =>
    if !a.1 && c.1 == source && c.2.1 == chk then (true, if c.2.2 ≤ 1 then a.2 else a.2 ++ [(c.1, c.2.1, c.2.2 - 1)])
    else (a.1, a.2 ++ [c])) (false, [])
  { s with cairn := { s.cairn with checks := go.2 } }

/-- Severities as sent (R405). -/
def sevMinor : Nat := 1
def sevMajor : Nat := 2
def sevCritical : Nat := 3

/-- SOURCE of an island (R406). -/
def srcIsland (i : Nat) : Nat := (i / 64) * 512 + i % 64
/-- SOURCE of a deep memory bank. -/
def srcBank (die b : Nat) : Nat := die * 512 + 0x40 + b
/-- SOURCE of a Saddle unit. -/
def srcSaddle (u : Nat) : Nat := 7 * 512 + u

/-! ### Events (R315–R319) -/

/-- N of an event queue: 2^SIZE_LOG2, sizes other than 4–16 acting as 4. -/
def State.eqSize (s : State) (q : Nat) : Nat :=
  let l := s.get (HIF_EQ_CFG.SIZE_LOG2 q)
  2 ^ (if 4 ≤ l ∧ l ≤ 16 then l else 4)

/-- Records in an event queue that the host has not taken. -/
def State.eqFill (s : State) (q : Nat) : Nat :=
  let n2 := 2 * s.eqSize q
  (s.get (HIF_EQ_TAIL.INDEX q) + n2 - s.get (HIF_EQ_HEAD.INDEX q) % n2) % n2

/-- Whether an event queue is enabled. -/
def State.eqOn (s : State) (q : Nat) : Bool := s.flag (HIF_EQ_CFG.ENABLE q)

/-- Records for a queue that wait to be written. -/
def State.eqWaiting (s : State) (q : Nat) : Nat := (s.host.recs.filter (fun r => r.queue == q)).length

/-- Whether the link owes reads of a request (R300). -/
def State.hostAwaits (s : State) (tag : Nat) : Bool := s.host.pending.any (fun r => r.tag == tag)

/-- Non-posted requests outstanding to the host: reads of requests and descriptors; at most 4,096 (R290). -/
def State.hostOut (s : State) : Nat :=
  (s.host.pending.map (fun r => r.left.length)).sum + (s.host.fetching.map (fun (p : Nat × Nat) => p.2)).sum

/-- Whether records are held: the link is down or the function is in D3hot (R294, R322). -/
def State.recsHeld (s : State) : Bool := !s.host.linkUp || s.host.d3

/-- Event records in the shared buffer of 64 (R319). -/
def State.evBuffered (s : State) : Nat := (s.host.recs.filter (fun r => r.buffered)).length

/-- Queues an event record for a queue: directly when the queue has room and records are not held, else in the
shared buffer; a full buffer loses the event (R319). -/
def State.queueEvent (s : State) (q code : Nat) (a0 a1 : W64) : State :=
  let r : Rec := { queue := q, compl := false, w1 := a0, w2 := a1, code := code }
  if !s.eqOn q then s.bump HIF_EVT_DROP.COUNT
  else if !s.recsHeld && s.eqFill q + s.eqWaiting q < s.eqSize q then
    s.onHost (fun h => { h with recs := h.recs ++ [r] })
  else if s.evBuffered < 64 then s.onHost (fun h => { h with recs := h.recs ++ [{ r with buffered := true }] })
  else (s.bump (HIF_EQ_STAT.LOST q)).onHost
    (fun h => { h with lostNow := h.lostNow.poke (fun _ => 0) q (h.lostNow.peek (fun _ => 0) q + 1) })

/-- Posts an event with a RESULT (R316: CTX_REQUEST_DONE): as `post`, the record carrying the code. -/
def State.postResult (s : State) (code a0 a1 result : Nat) : State :=
  let g := code / 256
  if s.flag (HIF_EVT_ROUTE.EN g) then
    let t := s.queueEvent (s.get (HIF_EVT_ROUTE.EQ g)) code (BitVec.ofNat 64 a0) (BitVec.ofNat 64 a1)
    if t.host.recs.length = s.host.recs.length then t
    else t.onHost (fun h => { h with
      recs := h.recs.dropLast ++ (h.recs.getLast?.map (fun r => { r with result := result })).toList })
  else s.bump HIF_EVT_DROP.COUNT

/-- Posts an event: HIF_EVT_ROUTE of its group names the queue; without a route it is dropped (R318). -/
def State.post (s : State) (code : Nat) (a0 a1 : Nat := 0) : State :=
  let g := code / 256
  if s.flag (HIF_EVT_ROUTE.EN g) then
    s.queueEvent (s.get (HIF_EVT_ROUTE.EQ g)) code (BitVec.ofNat 64 a0) (BitVec.ofNat 64 a1)
  else s.bump HIF_EVT_DROP.COUNT

/-- Queues the completion record of a descriptor (R316, R317) for its ring's event queue. A queue that is disabled
discards it and counts it in HIF_EVT_DROP (R322). -/
def State.postCompletion (s : State) (d : Desc) (status result arg : Nat) : State :=
  let r := d.ring.val
  let q := s.get (HIF_RING_CFG.EQ r)
  let code := nfield d.w0.toNat 7 0
  let rcd : Rec := { queue := q, compl := true, w1 := d.w1, w2 := BitVec.ofNat 64 arg, ring := r,
                     index := d.index.toNat, code := code, result := result, status := status,
                     irq := nbit d.w0.toNat 10 }
  if status == 0 && !nbit d.w0.toNat 8 then s
  else if !s.eqOn q then s.bump HIF_EVT_DROP.COUNT
  else s.onHost (fun h => { h with recs := h.recs ++ [rcd] })

end Sys2Proof.Machine
end

