-- ==== Sys2Proof/Machine/Routes.lean ====
section
/-!
DEFINITION. The package network's geometry: endpoints, links, routes, admission and the latency bound (R197–R201, R205,
R206, R212, R214, R220, R224).
-/

namespace Sys2Proof.Machine

/-! ### Geometry -/

/-- Die, column and row of a linear island number. -/
def dieOf (i : Nat) : Nat := i / 64
def colOf (i : Nat) : Nat := i % 8
def rowOf (i : Nat) : Nat := i % 64 / 8
/-- Linear island number of I(x,y) on a die. -/
def islandAt (d x y : Nat) : Nat := 64 * d + 8 * y + x

/-- Width and height of a footprint shape (R228). -/
def shapeDims (sh : Nat) : Nat × Nat :=
  match sh with
  | 0 => (1, 1) | 1 => (2, 1) | 2 => (1, 2) | 3 => (2, 2) | 4 => (4, 1) | 5 => (1, 4) | 6 => (4, 2) | 7 => (2, 4)
  | 8 => (4, 4) | 9 => (8, 2) | 10 => (2, 8) | _ => (1, 1)

/-- Islands of a footprint, in the order of their ordinals (R230). -/
def footprint (sh d x0 y0 : Nat) : List Nat :=
  let wh := shapeDims sh
  (List.range (wh.1 * wh.2)).map (fun k => islandAt d (x0 + k % wh.1) (y0 + k / wh.1))

/-- The registered image of a context's variant. -/
def State.image (s : State) (c v : Nat) : Option Registered := s.swb.images.find? (fun r => r.ctx == c && r.variant == v)

/-- Whether a context has a registered variant. -/
def State.registered (s : State) (c : Nat) : Bool := s.swb.images.any (fun r => r.ctx == c) || (s.ctx c).boot

/-- Islands a context occupies, by ordinal. -/
def State.islandsOf (s : State) (c : Nat) : List Nat :=
  let x := s.ctx c
  if x.placed then footprint x.shape x.die x.ax x.ay else []

/-! ### Endpoints (R199, R200, R205, R206) -/

/-- Where an endpoint attaches: an island port, a deep memory bank, or hub routers with their first link and number of
links. -/
inductive Site where
  | isle (i port : Nat)
  | bank (die b : Nat)
  | hub (at_ : List (Nat × Nat × Nat))
  deriving DecidableEq, Repr

/-- Hub router of quads and Ethernet engines. -/
def quadRouter (n : Nat) : Nat := match n with | 0 => 2 | 1 => 3 | 2 => 20 | _ => 21

/-- Whether a VPID names a context port. -/
def vpCtx (v : Nat) : Bool := v ≥ 0x8000
def vpCtxId (v : Nat) : Nat := v / 32 % 1024
def vpOrd (v : Nat) : Nat := v % 32
def vpClass (v : Nat) : Nat := v / 256 % 128
def vpInst (v : Nat) : Nat := v % 256

/-- Whether a fixed VPID names a class and an instance of the table of R205. -/
def vpFixedOk (v : Nat) : Bool :=
  let i := vpInst v
  match vpClass v with
  | 0x00 | 0x01 | 0x02 | 0x03 | 0x0C | 0x0D | 0x0E | 0x0F | 0x10 => i == 0
  | 0x04 | 0x05 | 0x06 | 0x07 => i < 32
  | 0x08 => true
  | 0x09 | 0x0A => i < 16
  | 0x0B => i < 64
  | _ => false

/-- Site of a fixed endpoint. -/
def fixedSite (v : Nat) : Site :=
  let i := vpInst v
  match vpClass v with
  | 0x00 | 0x01 => .hub [(8, 0, 4)]
  | 0x02 => .hub [(6, 0, 8), (12, 0, 8)]
  | 0x03 => .hub [(11, 0, 8), (17, 0, 8)]
  | 0x04 => .bank 0 i | 0x05 => .bank 1 i | 0x06 => .bank 2 i | 0x07 => .bank 3 i
  | 0x08 => .isle i 1
  | 0x09 => .hub [(quadRouter (i / 4), 4, 1)]
  | 0x0A => .hub [(quadRouter (i / 4), i % 4, 1)]
  | 0x0B => .hub [(quadRouter (i / 16), i / 4 % 4, 1)]
  | 0x0C => .hub [(9, 0, 2)]
  | 0x0D => .hub [(9, 2, 1)]
  | 0x0E => .hub [(15, 0, 1)]
  | 0x0F => .hub [(15, 1, 1)]
  | _ => .hub [(15, 2, 1)]

/-- The island and port of a context port, when its context's footprint holds the ordinal. -/
def State.ctxPort (s : State) (v : Nat) : Option (Nat × Nat) :=
  ((s.islandsOf (vpCtxId v))[vpOrd v / 2]?).map (fun i => (i, vpOrd v % 2))

/-- State of a VPID's port map entry (R205, R206): 0 BOUND, 1 MOVING, 2 ABSENT, 3 LOST. -/
def State.pmapState (s : State) (v : Nat) : Nat :=
  if vpCtx v then
    let p := (s.ctx (vpCtxId v)).pmap
    if p = 0 ∧ s.ctxPort v = none then 2 else p
  else 0

/-- Where an endpoint is, whether or not its context is on the move: a context port while its footprint is occupied. -/
def State.standsAt (s : State) (v : Nat) : Option Site :=
  if vpCtx v then (s.ctxPort v).map (fun p => .isle p.1 p.2) else some (fixedSite v)

/-- The site a VPID stands for now. -/
def State.site (s : State) (v : Nat) : Option Site :=
  if vpCtx v then (if s.pmapState v = 0 then (s.ctxPort v).map (fun p => .isle p.1 p.2) else none)
  else some (fixedSite v)

/-- The die of an endpoint; 7 for the Saddle. -/
def Site.die : Site → Nat
  | .isle i _ => dieOf i
  | .bank d _ => d
  | .hub _ => 7

/-- The physical port of a VPID (R206). -/
def State.physPort (s : State) (v : Nat) : Nat :=
  match s.site v with
  | some (.isle i p) => dieOf i * 2 ^ 13 + i % 64 * 32 + p * 16
  | some (.bank d b) => d * 2 ^ 13 + 2 ^ 11 + b * 32
  | some (.hub _) => 7 * 2 ^ 13 + v % 2 ^ 13
  | none => 0

/-! ### Links -/

/-- Output `o` of a die router: 0–3 to the neighbour north, east, south, west, 4 and 5 the island ports, 6 the deep
bank; with `back` the endpoint's link into the router. -/
def dieLink (i o : Nat) (back : Bool) : Nat := i * 8 + o + (if back then 2048 else 0)
/-- Link `k` of the hub connection that leaves router `r` in direction `o`. -/
def hubLink (r o k : Nat) : Nat := 4096 + (r * 4 + o) * 16 + k
/-- Link `n` between hub router `r` and its Saddle endpoints; `back` into the router. -/
def endLink (r n : Nat) (back : Bool) : Nat := (if back then 7168 else 6144) + r * 32 + n
/-- A bridge as one port: direction 0 die to Saddle, 1 Saddle to die. -/
def bridgeLink (d b dir : Nat) : Nat := 8192 + 4 * d + 2 * b + dir
/-- Link `k` of the four between a die's router in column `x` of row 0 and its bridge (R200). -/
def dieBridgeLink (d x k dir : Nat) : Nat := 9216 + ((d * 8 + x) * 4 + k) * 2 + dir
/-- Link `k` of the 16 between a bridge and its hub router (R199). -/
def hubBridgeLink (d b k dir : Nat) : Nat := 10240 + ((d * 2 + b) * 16 + k) * 2 + dir

/-- One hop: the links it may take forward, and those of the way back. -/
abbrev Hop := List Nat × List Nat

/-- Hops from a die's bridge-attached router in column `x` over bridge `b` to the hub: one of the router's links, the bridge, one
of the hub router's. -/
def bridgeHops (d x b : Nat) : List Hop :=
  let set (f : Nat → Nat → Nat) (n : Nat) : Hop := ((List.range n).map (fun k => f k 0), (List.range n).map (fun k => f k 1))
  [set (dieBridgeLink d x) 4, ([bridgeLink d b 0], [bridgeLink d b 1]), set (hubBridgeLink d b) 16]

/-- Hops taken the other way. -/
def backHops (l : List Hop) : List Hop := l.reverse.map (fun h => (h.2, h.1))

/-- Hops of a die mesh, x first, then y (R201). -/
def meshHops (d x y x2 y2 : Nat) : List Hop :=
  let one (i o j p : Nat) : Hop := ([dieLink i o false], [dieLink j p false])
  (List.range (x2 - x)).map (fun k => one (islandAt d (x + k) y) 1 (islandAt d (x + k + 1) y) 3)
  ++ (List.range (x - x2)).map (fun k => one (islandAt d (x - k) y) 3 (islandAt d (x - k - 1) y) 1)
  ++ (List.range (y2 - y)).map (fun k => one (islandAt d x2 (y + k)) 2 (islandAt d x2 (y + k + 1)) 0)
  ++ (List.range (y - y2)).map (fun k => one (islandAt d x2 (y - k)) 0 (islandAt d x2 (y - k - 1)) 2)

/-- Hops of the hub mesh, c first, then r. -/
def hubHops (a b : Nat) : List Hop :=
  let all (r o : Nat) := (List.range 16).map (hubLink r o)
  let one (r o q p : Nat) : Hop := (all r o, all q p)
  let c := a % 6
  let r := a / 6
  let c2 := b % 6
  let r2 := b / 6
  (List.range (c2 - c)).map (fun k => one (6 * r + c + k) 1 (6 * r + c + k + 1) 3)
  ++ (List.range (c - c2)).map (fun k => one (6 * r + c - k) 3 (6 * r + c - k - 1) 1)
  ++ (List.range (r2 - r)).map (fun k => one (6 * (r + k) + c2) 2 (6 * (r + k + 1) + c2) 0)
  ++ (List.range (r - r2)).map (fun k => one (6 * (r - k) + c2) 0 (6 * (r - k - 1) + c2) 2)

/-- Absolute difference. -/
def absDiff (a b : Nat) : Nat := (a - b) + (b - a)

/-- Hub routers on the way from `a` to `b`. -/
def hubCount (a b : Nat) : Nat := absDiff (a % 6) (b % 6) + absDiff (a / 6) (b / 6) + 1

/-- Hub router of a bridge (R199). -/
def bridgeRouter (d b : Nat) : Nat := (if d % 2 = 1 then 4 else 0) + b + (if d ≥ 2 then 18 else 0)

/-- Column of the bridge-attached router a route uses: clamp(x, 0, 3) north, clamp(x, 4, 7) south. -/
def clampCol (b x : Nat) : Nat := if b = 0 then min x 3 else max x 4

/-! ### Capacity (R29, R212, R220) -/

/-- Working group pairs of a bridge (0 north, 1 south). -/
def State.working (s : State) (d b : Nat) : Nat :=
  let br := 2 * d + b
  if s.pkg.down.contains br then 0
  else ((List.range 16).filter (fun k =>
    !(s.pkg.groups.peek (fun _ => {}) (2 * (16 * br + k))).retired
      && !(s.pkg.groups.peek (fun _ => {}) (2 * (16 * br + k) + 1)).retired)).length

def State.unitsCap (s : State) : Nat := max 8 (min 60 (s.get TRL_ADM.UNITS_CAP))
def State.dieBcap (s : State) : Nat := let x := s.get TRL_ADM.DIE_BCAP; if 9 ≤ x ∧ x ≤ 36 then x else 36
def State.hubBcap (s : State) : Nat := let x := s.get TRL_ADM.HUB_BCAP; if 9 ≤ x ∧ x ≤ 100 then x else 95

/-- Units of a bridge that trails may hold (R212): on the north bridge 32 are held for the system trail (R29). -/
def State.bridgeCap (s : State) (d b : Nat) : Nat := (s.working d b - 1) * 64 - (if b = 0 then 32 else 0)

/-- Whether a die's system trail runs over the south bridge: the north one is down and the trails have their new routes
(R221). -/
def State.sysSouth (s : State) (d : Nat) : Bool :=
  s.pkg.down.contains (2 * d) && !s.net.reroute.contains (2 * d) && s.working d 1 != 0

/-- cap(ℓ) and bcap(ℓ) of R212; the links of a bridge's ends are die and hub links (assumption log 80). -/
def State.cap (s : State) (l : Nat) : Nat :=
  if 8192 ≤ l ∧ l < 9216 then s.bridgeCap ((l - 8192) / 4) ((l - 8192) % 4 / 2) else s.unitsCap
def State.bcap (s : State) (l : Nat) : Nat := if l < 4096 then s.dieBcap else s.hubBcap

/-- Whether a trail holds units: reserved, not demoted, and routed. -/
def Trail.counts (t : Trail) : Bool := t.reserved && !t.demoted && t.state != 0

/-- Units of the system trails on a link: 32 each way on a south bridge that took one over (R221); on the north bridge the cap
holds them back. -/
def State.sysUnits (s : State) (l : Nat) : Nat :=
  let d := (l - 8192) / 4
  if 8192 ≤ l ∧ l < 8208 ∧ l % 4 ≥ 2 ∧ s.sysSouth d then 32 else 0

/-- Units and burst of a link: the sum over the admitted trails (R212). -/
def State.linkUnits (s : State) (l : Nat) : Nat :=
  s.net.trails.foldl (fun n p =>
    let t := p.2
    if t.counts then n + (if t.fwd.contains l then t.fu else 0) + (if t.ret.contains l then t.ru else 0) else n) (s.sysUnits l)
def State.linkBurst (s : State) (l : Nat) : Nat :=
  s.net.trails.foldl (fun n p =>
    let t := p.2
    if t.counts then n + (if t.fwd.contains l then t.fb else 0) + (if t.ret.contains l then t.rb else 0) else n) 0

/-- The link with the fewest units, the lowest-numbered among equals. -/
def State.pick (s : State) : List Nat → Nat
  | [] => 0
  | [l] => l
  | l :: ls => let m := s.pick ls; if s.linkUnits l ≤ s.linkUnits m then l else m

/-! ### Routes (R201) -/

structure Route where
  fwd : List Nat
  ret : List Nat
  nr : Nat
  nh : Nat
  nb : Nat
  sb : Nat := 0
  db : Nat := 0
  deriving DecidableEq, Repr

/-- One end of a route that leaves its die: the bridge taken (none for the Saddle), the hops from the endpoint to the
hub, the die routers passed, the hub router reached. -/
structure Leg where
  brg : Option Nat
  hops : List Hop
  nr : Nat
  router : Nat
  deriving DecidableEq, Repr

/-- Router, column and endpoint link of a site on a Ridge die. -/
def Site.router : Site → Nat × Nat
  | .isle i p => (i, 4 + p)
  | .bank d b => (islandAt d (b % 8) (2 * (b / 8) + 1), 6)
  | .hub _ => (0, 0)

/-- The leg of a die site over a bridge, from the endpoint outward. -/
def dieLeg (i o b : Nat) : Leg :=
  let d := dieOf i
  let xb := clampCol b (colOf i)
  { brg := some b, nr := absDiff (colOf i) xb + rowOf i + 1, router := bridgeRouter d b,
    hops := ([dieLink i o true], [dieLink i o false]) :: meshHops d (colOf i) (rowOf i) xb 0
      ++ bridgeHops d xb b }

/-- A leg taken from the hub to its endpoint: the mesh again runs x first. -/
def dieLegIn (i o b : Nat) : Leg :=
  let d := dieOf i
  let xb := clampCol b (colOf i)
  { brg := some b, nr := absDiff (colOf i) xb + rowOf i + 1, router := bridgeRouter d b,
    hops := backHops (bridgeHops d xb b) ++ meshHops d xb 0 (colOf i) (rowOf i)
      ++ [([dieLink i o false], [dieLink i o true])] }

/-- Bridges in the order in which they are tried; a pin to a working bridge leaves that one (R201, R221). -/
def State.bridgeOrder (s : State) (i pin : Nat) : List Nat :=
  let d := dieOf i
  let near := if colOf i < 4 then 0 else 1
  let pin := if pin != 0 && s.working d (pin - 1) == 0 then 0 else pin
  (if pin = 0 then [near, 1 - near] else [pin - 1]).filter (fun b => s.working d b != 0)

/-- The attachment of a two-router endpoint that R201 names, seen from hub router `r`. -/
def State.attach (s : State) (r : Nat) (back : Bool) : List (Nat × Nat × Nat) → Option (Nat × Nat × Nat)
  | [] => none
  | a :: as =>
    let used (x : Nat × Nat × Nat) := ((List.range x.2.2).map (fun k => s.linkUnits (endLink x.1 (x.2.1 + k) back))).sum
    match s.attach r back as with
    | none => some a
    | some b =>
      if hubCount r b.1 < hubCount r a.1 || (hubCount r b.1 == hubCount r a.1 && used b < used a) then some b else some a

/-- The hop of a Saddle endpoint's attachment. -/
def attachHop (a : Nat × Nat × Nat) (out : Bool) : Hop :=
  let ls (back : Bool) := (List.range a.2.2).map (fun k => endLink a.1 (a.2.1 + k) back)
  (ls out, ls (!out))

/-- Settles the links of a route: forward in order, then the way back. -/
def State.settleRoute (s : State) (hops : List Hop) (nr nh nb sb db : Nat) : Route :=
  { fwd := hops.map (fun h => s.pick h.1), ret := hops.reverse.map (fun h => s.pick h.2), nr, nh, nb, sb, db }

/-- A route from a leg to the Saddle through a hub to a leg. -/
def State.joinLegs (s : State) (a b : Leg) : Route :=
  let hub := hubHops a.router b.router
  s.settleRoute (a.hops ++ hub ++ b.hops) (a.nr + b.nr) (hub.length + 1)
    ((if a.brg.isSome then 1 else 0) + (if b.brg.isSome then 1 else 0)) (a.brg.getD 0) (b.brg.getD 0)

/-- Candidate routes in the order of R201; `sp` and `dp` are SRC_BRG and DST_BRG. -/
def State.routes (s : State) (a b : Site) (sp dp : Nat) : List Route :=
  match a, b with
  | .hub as, .hub bs =>
    match as.head? with
    | none => []
    | some x => match s.attach x.1 false bs with
      | none => []
      | some y => [s.joinLegs { brg := none, hops := [attachHop x true], nr := 0, router := x.1 }
          { brg := none, hops := [attachHop y false], nr := 0, router := y.1 }]
  | .hub as, _ =>
    (s.bridgeOrder b.router.1 dp).filterMap (fun db =>
      let l := dieLegIn b.router.1 b.router.2 db
      (s.attach l.router true as).map (fun x =>
        s.joinLegs { brg := none, hops := [attachHop x true], nr := 0, router := x.1 } l))
  | _, .hub bs =>
    (s.bridgeOrder a.router.1 sp).filterMap (fun sb =>
      let l := dieLeg a.router.1 a.router.2 sb
      (s.attach l.router false bs).map (fun y =>
        s.joinLegs l { brg := none, hops := [attachHop y false], nr := 0, router := y.1 }))
  | _, _ =>
    let i := a.router.1
    let j := b.router.1
    if dieOf i = dieOf j then
      let mesh := meshHops (dieOf i) (colOf i) (rowOf i) (colOf j) (rowOf j)
      [s.settleRoute (([dieLink i a.router.2 true], [dieLink i a.router.2 false]) :: mesh
        ++ [([dieLink j b.router.2 false], [dieLink j b.router.2 true])]) (mesh.length + 1) 0 0 0 0]
    else
      (s.bridgeOrder j dp).flatMap (fun db => (s.bridgeOrder i sp).map (fun sb =>
        s.joinLegs (dieLeg i a.router.2 sb) (dieLegIn j b.router.2 db)))

/-! ### Admission and the bound -/

/-- What a route adds to a link: `u` where the request route takes it, `v` where the response route does. -/
def Route.adds (r : Route) (u v l : Nat) : Nat := (if r.fwd.contains l then u else 0) + (if r.ret.contains l then v else 0)

/-- Whether a reserved trail fits a route: every link within its caps after the trail is added (R212). -/
def State.fits (s : State) (r : Route) (fu ru fb rb : Nat) : Bool :=
  (r.fwd ++ r.ret).all (fun l => s.linkUnits l + r.adds fu ru l ≤ s.cap l && s.linkBurst l + r.adds fb rb l ≤ s.bcap l)

/-- Period of an island's bus clock in ps, 0 without a setting (R92, R95). -/
def State.busPs (s : State) (i : Nat) : Nat :=
  let w := (s.get (CLK_ISL_CFG.SETTING i))
  let f := nfield w (12 * nfield w 63 62 + 11) (12 * nfield w 63 62)
  let half := nfield f 9 3 + 1
  if w = 0 then 0 else 160000 * half / (2 * max 1 (s.get (CLK_BASE.FMUL (nfield f 11 10))))

/-- Growth of t_in or t_out at an endpoint whose bus clock is below 500 MHz (R214). -/
def State.slowPs (s : State) : Site → Nat
  | .isle i _ => if s.busPs i > 2000 then 2 * s.busPs i else 0
  | _ => 0

/-- BOUND_NS for the longest message, given B (R214). -/
def State.boundNs (s : State) (a b : Site) (r : Route) (bm : Nat) : Nat :=
  (14000 + 1500 * r.nr + 2000 * r.nh + 30000 * r.nb + 500 * (9 + bm) + s.slowPs a + s.slowPs b + 999) / 1000

/-- Places a trail on a route: its links, counts, B and bound; `keep` leaves the bound (R220). -/
def State.placeTrail (s : State) (t : Nat) (a b : Site) (r : Route) : State :=
  let s1 := s.modTrail t (fun x => { x with
    state := 1, fwd := r.fwd, ret := r.ret, nr := r.nr, nh := r.nh, nb := r.nb, sbUsed := r.sb, dbUsed := r.db })
  let x := s1.trail t
  if x.counts then
    let bm := (r.fwd.map s1.linkBurst).foldl max 0
    s1.setTrail t { x with bmax := bm, bound := s1.boundNs a b r bm }
  else s1.setTrail t { x with bmax := 0, bound := 0 }

/-- The next place in the admission order. -/
def State.nextSeq (s : State) (t : Nat) : State :=
  (s.modTrail t (fun x => { x with seq := s.net.seq })).onNet (fun n => { n with seq := n.seq + 1 })

/-- TRL_CAP.FREE, TRL_STAT and the trail table's counts. -/
def State.refreshTrails (s : State) : State :=
  let open_ := s.net.trails.filter (fun p => p.2.state != 0)
  ((s.put TRL_CAP.FREE (4064 - (open_.filter (fun p => p.1 < 0xFE0)).length)).put TRL_STAT.RESERVED
    ((open_.filter (fun p => p.2.reserved && !p.2.demoted && p.2.state == 1)).length)).put TRL_STAT.DEMOTED
    ((open_.filter (fun p => p.2.demoted)).length)

/-- Demotes a reserved trail to best-effort with the event TRAIL_DEMOTED (R218, R220); cause 1 group retired, 2 move,
3 bridge down, 4 placement. -/
def State.demote (s : State) (t cause : Nat) : State :=
  (s.modTrail t (fun x => { x with demoted := true })).post 0x0401 (t + cause * 2 ^ 16)

/-- Routes and admits a trail between two placed endpoints, or demotes it when no candidate admits it (R218, R221). -/
def State.readmit (s : State) (t : Nat) (a b : Site) (cause : Nat) : State :=
  let x := s.trail t
  let s := s.modTrail t (fun x => { x with fwd := [], ret := [] })
  let rs := s.routes a b x.srcBrg x.dstBrg
  let ok := rs.find? (fun r => !(x.reserved && !x.demoted) || s.fits r x.fu x.ru x.fb x.rb)
  let s := s.nextSeq t
  match ok, rs with
  | some r, _ => (s.placeTrail t a b r).refreshTrails
  | none, r :: _ => ((s.demote t cause).placeTrail t a b r).refreshTrails
  | none, [] => (s.modTrail t (fun x => { x with state := 2 })).refreshTrails

/-- Link of TRL_LQ_SEL (R224), none for a selection of nothing. -/
def lqLink (die router out link : Nat) : Option Nat :=
  if die < 4 then
    let x := router % 8
    let y := router / 8
    let i := islandAt die x y
    match out with
    | 0 => if y > 0 then some (dieLink i 0 false) else none
    | 1 => if x < 7 then some (dieLink i 1 false) else none
    | 2 => if y < 7 then some (dieLink i 2 false) else none
    | 3 => if x > 0 then some (dieLink i 3 false) else none
    | 4 => some (dieLink i 4 false)
    | 5 => some (dieLink i 5 false)
    | 6 => if y % 2 = 1 then some (dieLink i 6 false) else none
    | 7 => if router < 2 then some (bridgeLink die router 0) else none
    | 8 => if router < 2 then some (bridgeLink die router 1) else none
    | _ => none
  else if die = 7 ∧ router < 24 then
    let c := router % 6
    let r := router / 6
    match out with
    | 0 => if r > 0 ∧ link < 16 then some (hubLink router 0 link) else none
    | 1 => if c < 5 ∧ link < 16 then some (hubLink router 1 link) else none
    | 2 => if r < 3 ∧ link < 16 then some (hubLink router 2 link) else none
    | 3 => if c > 0 ∧ link < 16 then some (hubLink router 3 link) else none
    | 4 =>
      let n := match router with
        | 6 | 12 | 11 | 17 => 8
        | 2 | 3 | 20 | 21 => 5
        | 8 | 14 => 4
        | 9 | 15 => 3
        | _ => 0
      if link < n then some (endLink router link false) else none
    | _ => none
  else none

end Sys2Proof.Machine
end

