-- ==== Sys2Proof/Machine/Fabric.lean ====
section
/-!
DEFINITION. The fabric of an island: cells, carry, selectors, term strips, MAC slices, flip-flops, border groups and the
clock edge (chapter 2, R82–R89).
-/

namespace Sys2Proof.Machine

/-! ### Combinational values -/

/-- A point of the fabric whose value is combinational. -/
inductive Node where
  | sig (x : Sig)
  | cout (c : Nat)
  | quad (tile q : Nat)          -- quad selector QSq
  | term (tile j : Nat)          -- product term
  | sum (tile m : Nat)           -- s_m of R65
  | val (tile m : Nat)           -- v_m of R65
  deriving DecidableEq, Repr

def IslandCfg.cell (g : IslandCfg) (c : Nat) : CellCfg := g.cells.peek (fun _ => {}) c
def IslandCfg.tile (g : IslandCfg) (t : Nat) : TileCfg := g.tiles.peek (fun _ => {}) t
def IslandCfg.macCfg (g : IslandCfg) (k : Nat) : MacCfg := g.macs.peek (fun _ => {}) k
def IslandCfg.group (g : IslandCfg) (k : Nat) : GroupCfg := g.groups.peek (fun _ => {}) k
def TileCfg.mcell (t : TileCfg) (m : Nat) : McCfg := (t.mc[m]?).getD {}

def Island.q (x : Island) (k : Nat) : Bool := x.ff.peek (fun _ => false) k
def Island.chan (x : Island) (k : Nat) : BorderChan := x.border.peek (fun _ => {}) k

/-- Key of a macrocell's flip-flop among the island's 110,592. -/
def mcKey (tile m : Nat) : Nat := 98304 + 4 * tile + m

/-- What a receiving handshake group presents: its oldest visible word; without one what an idle channel presents while the
neighbour is connected (assumption log 59), and the policy of R88 while it is absent. -/
def Island.wordIn (x : Island) (g : Nat) : W32 :=
  let b := x.chan g
  if b.visible > 0 then (b.fifo.head?).getD 0
  else if b.live then Config.borderIdle g
  else match (x.cfg.group g).policy with
    | 0 => b.hold
    | 1 => 0
    | 2 => BitVec.allOnes 32

/-- What a border cell brings in: the joined register, or a bit of a receiving handshake group. -/
def Island.borderIn (x : Island) (cell : Nat) : Bool :=
  let g := cell / 32
  match (x.cfg.group g).mode with
  | 1 => nbit (x.chan g).joined.toNat (cell % 32)
  | 3 => nbit (x.wordIn g).toNat (cell % 32)
  | _ => false

/-- Bits of a list of signals as a number, the first least significant. -/
def bitsOf (ev : Sig → Bool) : List Sig → Nat
  | [] => 0
  | x :: xs => bit (ev x) + 2 * bitsOf ev xs

/-- saturate_64 of R73. -/
def sat64 (x : Int) : W64 := BitVec.ofInt 64 (max (min x (2 ^ 63 - 1)) (-(2 ^ 63)))

/-- The pre-adder of R73: wraps modulo 2^27. -/
def MacCfg.preAdd (c : MacCfg) (u v : BitVec 27) : BitVec 27 :=
  match c.pre with
  | 0 => u
  | 1 => u + v
  | 2 => u - v

/-- The stage values of a MAC slice: operands after their registers, `sum` and OVF as they would be at this edge. -/
structure MacNow where
  u : BitVec 27
  v : BitVec 27
  m : BitVec 27
  k : W64
  pre : BitVec 27
  mbal : BitVec 27
  prod : W64
  op : BitVec 3
  s : Int
  deriving DecidableEq, Repr

/-- Values that flow through a MAC slice now (R73, R74). -/
def MacCfg.now (c : MacCfg) (r : MacRegs) (ev : Sig → Bool) (casc : W64) : MacNow :=
  let u0 := BitVec.ofNat 27 (bitsOf ev c.u)
  let v0 := BitVec.ofNat 27 (bitsOf ev c.v)
  let m0 := BitVec.ofNat 27 (bitsOf ev c.m)
  let k0 := BitVec.ofNat 64 (bitsOf ev c.k)
  let u := if c.eU then r.u else u0
  let v := if c.eV then r.v else v0
  let m := if c.eM then r.m else m0
  let k := if c.eK then r.k else k0
  let uv := c.preAdd u v
  let pre := if c.ePre then r.pre else uv
  let mb := if c.ePre then r.mbal else m
  let prod := BitVec.ofInt 64 (pre.toInt * mb.toInt)
  let p := if c.eProd then r.prod else prod
  let op := if c.eProd then r.op else BitVec.ofNat 3 (bitsOf ev c.op)
  let s : Int := match op.toNat with
    | 0 => p.toInt
    | 1 => r.sum.toInt + p.toInt
    | 2 => r.sum.toInt - p.toInt
    | 3 => k.toInt + p.toInt
    | 4 => casc.toInt + p.toInt
    | 5 => k.toInt
    | 6 => r.sum.toInt
    | _ => k.toInt - p.toInt
  { u := u0, v := v0, m := m0, k := k0, pre := uv, mbal := m, prod := prod, op := BitVec.ofNat 3 (bitsOf ev c.op), s := s }

/-- The result of a slice's adder, wrapped or saturated. -/
def MacCfg.result (c : MacCfg) (s : Int) : W64 := if c.sat then sat64 s else BitVec.ofInt 64 s
def macOverflow (s : Int) : Bool := decide (s < -(2 ^ 63) ∨ s > 2 ^ 63 - 1)

/-! ### Tile-to-tile wires (R69, R70)

A tile's wires toward a direction (0 north, 1 east, 2 south, 3 west) are numbered (tile·4 + direction)·48 + index: index 0–23
the single wires, 24–39 the quads, 40–47 the hex-decas. Column line k of column u is 589,824 + 4u + k, row line k of row v is
590,016 + 4v + k. -/

def wireCount : Nat := 590272

/-- The tile `k` tiles away in a direction, none beyond the border. -/
def tileToward (t dir k : Nat) : Option Nat :=
  let u := t % 48
  let v := t / 48
  match dir with
  | 0 => if v + k < 64 then some (t + 48 * k) else none
  | 1 => if u + k < 48 then some (t + k) else none
  | 2 => if k ≤ v then some (t - 48 * k) else none
  | _ => if k ≤ u then some (t - k) else none

/-- Tiles in which a wire ends or is tapped. A wire that reaches the island border ends there. -/
def wireTaps (w : Nat) : List Nat :=
  if w < 589824 then
    (let i := w % 48
     (if i < 24 then [1] else if i < 40 then [2, 4] else [4, 8, 12, 16]).filterMap (tileToward (w / 192) (w % 192 / 48)))
  else if w < 590016 then (List.range 64).map (fun v => (w - 589824) / 4 + 48 * v)
  else if w < wireCount then (List.range 48).map (fun u => u + 48 * ((w - 590016) / 4))
  else []

/-- Whether a tile lies on a side of its island (0 north, 1 east, 2 south, 3 west). -/
def edgeTile (t side : Nat) : Bool :=
  match side with
  | 0 => t / 48 == 63
  | 1 => t % 48 == 47
  | 2 => t / 48 == 0
  | _ => t % 48 == 0

/-- Whether an input of a tile can take a signal (R68): a local output of the tile or a wire that ends in it; a single wire that
enters over the border brings its border cell. An input left unrouted is 0. -/
def Sig.entersTile (t : Nat) : Sig → Bool
  | .const b => !b
  | .cell c _ => c / 16 == t
  | .mo u _ => u == t
  | .wire w => (wireTaps w).contains t
  | .border c => c < 2048 && edgeTile t (c / 512)
  | .flow g => g < 64 && edgeTile t (g / 16)
  | _ => false

/-- Whether a tile's wires can take a signal as their driver. Which tile a MAC slice, a memory, a port or a pin reaches is not in
the manual. -/
def Sig.leavesTile (t : Nat) (x : Sig) : Bool :=
  x.entersTile t || (match x with
    | .mac k b => k < 48 && b < 65
    | .inp _ => true
    | _ => false)

/-- Whether a wire can have a driver: in the tile where it starts, or for a line in a tile of its column or row. -/
def wireDriver (w : Nat) (x : Sig) : Bool :=
  if w < 589824 then x.leavesTile (w / 192) else w < wireCount && (wireTaps w).any (fun t => x.leavesTile t)

/-- Whether a border cell can be driven by a signal: a single wire of a tile on that side, toward it (R70). -/
def Sig.leavesIsland (side : Nat) : Sig → Bool
  | .const b => !b
  | .wire w => w < 589824 && w % 48 < 24 && w % 192 / 48 == side && edgeTile (w / 192) side
  | _ => false

def CellCfg.inputs (g : CellCfg) : List Sig := [g.a, g.b, g.c, g.d, g.e, g.f, g.ax, g.ay]
def CtlSet.inputs (c : CtlSet) : List Sig := c.ce.toList ++ c.sr.toList

/-- Whether a configuration names only what an island has, and every input and wire a driver that its multiplexer offers (R48,
R68–R71, R83, R111). -/
def IslandCfg.legal (g : IslandCfg) : Bool :=
  g.cells.all (fun p => p.1 < 49152 && p.2.inputs.all (fun x => x.entersTile (p.1 / 16)))
    && g.tiles.all (fun p => p.1 < 3072 && p.2.strip.length ≤ 24 && p.2.terms.length ≤ 32 && p.2.mc.length ≤ 4
      && (p.2.strip ++ p.2.cs0.inputs ++ p.2.cs1.inputs).all (fun x => x.entersTile p.1))
    && g.macs.all (fun p => p.1 < 48) && g.bms.all (fun p => p.1 < 96)
    && g.groups.all (fun p => p.1 < 64 && p.2.sigs.length ≤ 32 && (p.2.valid :: p.2.sigs).all (fun x => x.leavesIsland (p.1 / 16)))
    && g.pads.all (fun p => p.1 < 48 && p.2.out.length ≤ 4 && (p.2.enable :: p.2.out).all (fun x => x.leavesIsland 2))
    && g.wires.all (fun p => p.1 < wireCount && wireDriver p.1 p.2)

/-- One level of evaluation: the value of a node, `ev` giving the values below it. A cell that hosts no selector shows 0 at Y
with YSEL = SEL, and XSEL = SUM has no effect outside CARRY (assumption log 76). -/
def Island.node (x : Island) (ev : Node → Bool) : Node → Bool
  | .sig (.const b) => b
  | .sig (.cell c out) =>
    let g := x.cfg.cell c
    let s (y : Sig) := ev (.sig y)
    let idx := 16 * bit (s g.e) + 8 * bit (s g.d) + 4 * bit (s g.c) + 2 * bit (s g.b) + bit (s g.a)
    let th := nbit g.table.toNat (32 + idx)
    let tl := nbit g.table.toNat idx
    match out with
    | 0 =>
      (match g.tmode with
        | 0 => if s g.f then th else tl
        | 1 => th
        | 2 =>
          let cin := match g.cinsel with
            | 0 => false
            | 1 => true
            | 2 => s g.ay
            | 3 => if c % 16 = 0 then (if c / 16 < 48 then false else ev (.cout (c - 16 * 48 + 15))) else ev (.cout (c - 1))
          if g.xsum then th != cin else th)
    | 1 =>
      (match g.ysel with
        | 0 => tl
        | 1 =>
          if c % 4 = 0 then ev (.quad (c / 16) (c % 16 / 4))
          else if c % 16 = 1 then
            let sel (k : Fin 3) (y : Sig) : Nat := match k with | 0 => bit (s y) | 1 => 0 | 2 => 1
            ev (.quad (c / 16) (2 * sel g.sel1 g.ay + sel g.sel0 g.ax))
          else false
        | 2 => ev (.cout c))
    | 2 => x.q (2 * c)
    | 3 => x.q (2 * c + 1)
  | .cout c =>
    let g := x.cfg.cell c
    let s (y : Sig) := ev (.sig y)
    let idx := 16 * bit (s g.e) + 8 * bit (s g.d) + 4 * bit (s g.c) + 2 * bit (s g.b) + bit (s g.a)
    if g.tmode != 2 then false
    else if nbit g.table.toNat (32 + idx) then
      (match g.cinsel with
        | 0 => false
        | 1 => true
        | 2 => s g.ay
        | 3 => if c % 16 = 0 then (if c / 16 < 48 then false else ev (.cout (c - 16 * 48 + 15))) else ev (.cout (c - 1)))
    else
      (match g.gsel with
        | 0 => nbit g.table.toNat idx
        | 1 => s g.ax
        | 2 => s g.f)
  | .quad t q =>
    let g := x.cfg.cell (16 * t + 4 * q)
    let sel (k : Fin 3) (y : Sig) : Nat := match k with | 0 => bit (ev (.sig y)) | 1 => 0 | 2 => 1
    ev (.sig (.cell (16 * t + 4 * q + 2 * sel g.sel1 g.ay + sel g.sel0 g.ax) 0))
  | .sig (.mo t m) => if ((x.cfg.tile t).mcell m).reg then x.q (mcKey t m) else ev (.val t m)
  | .term t j =>
    let g := x.cfg.tile t
    let lits := (g.terms[j]?).getD 0
    let inp (n : Nat) : Bool :=
      if n ≥ 20 ∧ (g.mcell (n - 20)).fbsel then ev (.sig (.mo t (Fin.ofNat 4 (n - 20))))
      else ev (.sig ((g.strip[n]?).getD (.const false)))
    (List.range 24).all (fun n => (!nbit lits.toNat n || inp n) && (!nbit lits.toNat (24 + n) || !inp n))
  | .sum t m =>
    let c := (x.cfg.tile t).mcell m
    (List.range 8).any (fun j => nbit c.sumEn.toNat j && !(j == 0 && c.ptsr) && !(j == 1 && c.ptce) && !(j == 7 && c.xpt)
        && ev (.term t (8 * m + j)))
      || (c.casc && m < 3 && ev (.sum t (m + 1)))
  | .val t m =>
    let c := (x.cfg.tile t).mcell m
    ev (.sum t m) != (if c.xpt then ev (.term t (8 * m + 7)) else c.pol)
  | .sig (.mac k b) =>
    let c := x.cfg.macCfg k
    let r := x.mac.peek (fun _ => {}) k
    if b = 64 then r.ovf
    else if c.eSum then nbit r.sum.toNat b
    else
      let casc := if k % 16 = 0 then 0
        else BitVec.ofNat 64 (bitsOf (fun y => ev (.sig y)) ((List.range 64).map (fun j => Sig.mac (k - 1) j)))
      nbit (c.result (c.now r (fun y => ev (.sig y)) casc).s).toNat b
  | .sig (.wire w) => ev (.sig (x.cfg.wires.peek (fun _ => .const false) w))
  | .sig (.border c) => x.borderIn c
  | .sig (.flow g) => (x.chan g).ready
  | .sig (.inp n) => x.inputs.peek (fun _ => false) n

/-- The value of a node; `n` bounds the depth of the logic, so that a combinational loop has the value it has with 0 at that depth
(assumption log 76). -/
def Island.eval (x : Island) : Nat → Node → Bool
  | 0, _ => false
  | n + 1, k => x.node (x.eval n) k

/-- Depth bound of the evaluation: more than an island has points. -/
def logicDepth : Nat := 2097152

def Island.value (x : Island) (y : Sig) : Bool := x.eval logicDepth (.sig y)

/-! ### Flip-flops (R57–R62) -/

/-- The moment of a capture: an edge of a clock (rising or falling), or none between edges. -/
structure Edge where
  clk : Fin 4
  rising : Bool
  deriving DecidableEq, Repr

/-- The next value of a flip-flop or latch: `d` its data, `ce` and `sr` as it sees them, `cs` its control set. CE = 0 keeps a latch
closed (assumption log 76). -/
def FfCfg.next (f : FfCfg) (cs : CtlSet) (level : BitVec 4) (ev : Option Edge) (q d ce sr : Bool) : Bool :=
  let ce := !f.ceuse || ce
  let sr := f.sruse && sr
  let active := match ev, cs.clk with
    | some e, some k => e.clk == k && e.rising != cs.inv
    | _, _ => false
  let open_ := match cs.clk with
    | some k => nbit level.toNat k.val != cs.inv
    | none => false
  if f.latch then (if sr && (open_ || cs.async) then f.srval else if open_ && ce then d else q)
  else if sr && cs.async then f.srval
  else if active then (if sr then f.srval else if ce then d else q)
  else q

/-- The control set of a cell. -/
def IslandCfg.csOf (g : IslandCfg) (c : Nat) : CtlSet := if c % 16 < 8 then (g.tile (c / 16)).cs0 else (g.tile (c / 16)).cs1

/-- Next values of every flip-flop that is configured, from the present ones. -/
def Island.nextFfs (x : Island) (ev : Option Edge) : List (Nat × Bool) :=
  let sigOr (o : Option Sig) (dflt : Bool) : Bool := match o with
    | some y => x.value y
    | none => dflt
  x.cfg.cells.flatMap (fun p =>
    let c := p.1
    let g := p.2
    let cs := x.cfg.csOf c
    let ce := sigOr cs.ce true
    let sr := sigOr cs.sr false
    let dx := if g.xaux then x.value g.ax else x.value (.cell c 0)
    let dy := if g.yaux then x.value g.ay else x.value (.cell c 1)
    [(2 * c, g.xff.next cs x.level ev (x.q (2 * c)) dx ce sr),
     (2 * c + 1, g.yff.next cs x.level ev (x.q (2 * c + 1)) dy ce sr)])
  ++ x.cfg.tiles.flatMap (fun p =>
    let t := p.1
    (List.range 4).map (fun m =>
      let c := p.2.mcell m
      let cs := if c.cs then p.2.cs1 else p.2.cs0
      let q := x.q (mcKey t m)
      let ce := if c.ptce then x.eval logicDepth (.term t (8 * m + 1)) else sigOr cs.ce true
      let sr := if c.ptsr then x.eval logicDepth (.term t (8 * m)) else sigOr cs.sr false
      let v := x.eval logicDepth (.val t m)
      -- a macrocell always obeys its CE and SR (R65); CEUSE and SRUSE are fields of cells (R50)
      let f : FfCfg := { c.ff with latch := c.mode == 2, ceuse := true, sruse := true }
      (mcKey t m, f.next cs x.level ev q (if c.mode = 1 then q != v else v) ce sr)))

/-- Next registers of a MAC slice on its active edge (R74). RST clears the OP register too (assumption log 76). -/
def Island.nextMac (x : Island) (k : Nat) (c : MacCfg) : MacRegs :=
  let r := x.mac.peek (fun _ => {}) k
  if x.value c.rst then {}
  else if !x.value c.ce then r
  else
    let casc := if k % 16 = 0 then 0
      else BitVec.ofNat 64 (bitsOf x.value ((List.range 64).map (fun j => Sig.mac (k - 1) j)))
    let n := c.now r x.value casc
    { u := n.u, v := n.v, m := n.m, k := n.k, pre := n.pre, mbal := n.mbal, prod := n.prod, op := n.op,
      sum := c.result n.s, ovf := r.ovf || macOverflow n.s }

/-- Stores flip-flop values. -/
def Island.setFfs (x : Island) (l : List (Nat × Bool)) : Island := { x with ff := x.ff.pokes (fun _ => false) l }

/-- Latches and asynchronous set/reset between edges, until nothing changes; `n` bounds the passes. -/
def Island.settle (x : Island) : Nat → Island
  | 0 => x
  | n + 1 =>
    let y := x.setFfs (x.nextFfs none)
    if y.ff = x.ff then x else y.settle n

/-- An island with its latches and asynchronous set/reset settled for the inputs that stand. Those that never settle stop after
131,072 passes, more than an island has flip-flops (assumption log 76). -/
def Island.settled (x : Island) : Island := if x.gsr then x else x.settle 131072

/-- INIT values on every flip-flop and macrocell, 0 in every MAC register and joined register (R60, R61, R85). -/
def Island.hold (x : Island) : Island :=
  let inits := x.cfg.cells.flatMap (fun p => [(2 * p.1, p.2.xff.init), (2 * p.1 + 1, p.2.yff.init)])
    ++ x.cfg.tiles.flatMap (fun p => (List.range 4).map (fun m => (mcKey p.1 m, (p.2.mcell m).ff.init)))
  { x with
    ff := Table.pokes (fun _ => false) [] inits, mac := [], gsr := true
    border := (x.border.map (fun p => (p.1, { p.2 with joined := 0, out := 0 }))).filter (fun p => p.2 != {}) }

/-! ### Borders (R83–R89) -/

/-- The neighbour of an island on a side (0 north, 1 east, 2 south, 3 west), none at the die's boundary. -/
def neighbour (i side : Nat) : Option Nat :=
  let x := colOf i
  let y := rowOf i
  match side with
  | 0 => if y > 0 then some (i - 8) else none
  | 1 => if x < 7 then some (i + 1) else none
  | 2 => if y < 7 then some (i + 8) else none
  | _ => if x > 0 then some (i - 1) else none

def oppositeSide (side : Nat) : Nat := (side + 2) % 4

/-- Key of a border group. -/
def groupKey (side g : Nat) : Nat := 16 * side + g

/-- Whether a handshake group of island `i` is connected (R87): the other island's context is released and has the
matching group in the opposite direction. -/
def State.connected (s : State) (i side g : Nat) : Bool :=
  match neighbour i side with
  | none => false
  | some j =>
    let st := s.get (SWB_ISL_STAT.STATE j)
    let a := ((s.island i).cfg.group (groupKey side g)).mode
    let b := ((s.island j).cfg.group (groupKey (oppositeSide side) g)).mode
    (st == 3 || st == 4) && ((a == 2 && b == 3) || (a == 3 && b == 2))

/-- Changes one border group of an island. -/
def Island.modChan (x : Island) (k : Nat) (f : BorderChan → BorderChan) : Island :=
  { x with border := x.border.poke (fun _ => {}) k (f (x.chan k)) }

/-- An island's channels as they stand toward its neighbours: which groups are connected, WR_READY and RD_VALID (R86–R89). -/
def State.facing (s : State) (i : Nat) : Island :=
  (s.island i).cfg.groups.foldl (fun x p =>
    let side := p.1 / 16
    let live := s.connected i side (p.1 % 16)
    let room : Bool := match neighbour i side with
      | some j => ((s.island j).chan (groupKey (oppositeSide side) (p.1 % 16))).fifo.length < 8
      | none => false
    if p.2.mode = 2 then x.modChan p.1 (fun b => { b with live := live, ready := live && room })
    else if p.2.mode = 3 then x.modChan p.1 (fun b => { b with live := live, ready := b.visible > 0 })
    else x) (s.island i)

/-- Groups of an island leave their neighbour (R88, R89): its unread words are discarded, its receiving groups keep what
they hold, its policies take the present values. Done at the island that goes away. -/
def State.leaveBorders (s : State) (i : Nat) : State :=
  let s := s.forN 64 (fun k s =>
    match neighbour i (k / 16) with
    | none => s
    | some j =>
      let kj := groupKey (oppositeSide (k / 16)) (k % 16)
      let near := s.facing j
      s.modIsland j (fun x => x.modChan kj (fun b => { b with
        hold := if (x.cfg.group kj).mode = 1 then b.joined else near.wordIn kj })))
  s.modIsland i (fun x => { x with border := [] })

/-- At an island's release its handshake groups connect with their FIFOs empty (R89). -/
def State.joinBorders (s : State) (i : Nat) : State :=
  s.forN 64 (fun k s =>
    match neighbour i (k / 16) with
    | none => s
    | some j =>
      let kj := groupKey (oppositeSide (k / 16)) (k % 16)
      if s.connected i (k / 16) (k % 16) then s.modIsland j (fun x => x.modChan kj (fun b => { b with fifo := [], visible := 0 })) else s)

/-- Joined-mode registers of an island after an edge of clock `k`: sending registers take their signals, receiving ones
the neighbour's sending registers before the edge (R85). -/
def State.joinEdge (s : State) (i : Nat) (k : Fin 4) : Island → Island := fun y =>
  let x := s.island i
  (x.cfg.groups.filter (fun p => p.2.mode == 1 && p.2.clk == k)).foldl (fun y p =>
    let side := p.1 / 16
    let g := p.1 % 16
    let incoming : W32 := match neighbour i side with
      | some j => ((s.island j).chan (groupKey (oppositeSide side) g)).out
      | none => 0
    let outBits := BitVec.ofNat 32 (bitsOf x.value p.2.sigs)
    y.modChan p.1 (fun b => { b with joined := incoming &&& ~~~ p.2.outs, out := outBits &&& p.2.outs })) y

/-- One island at an edge of clock `k`, all from the settled state before the edge; latches settle after it. -/
def State.islandEdge (s : State) (i : Nat) (k : Fin 4) (rising : Bool) : Island :=
  let x := s.island i
  let y := { x with level := BitVec.ofNat 4 (setBit x.level.toNat k.val rising) }
  if x.gsr then y
  else
    let e : Edge := { clk := k, rising := rising }
    let y1 := y.setFfs (x.nextFfs (some e))
    let y2 := if rising then
        (x.cfg.macs.filter (fun p => p.2.clk == k)).foldl
          (fun y p => { y with mac := y.mac.poke (fun _ => {}) p.1 (x.nextMac p.1 p.2) }) y1
      else y1
    let y3 := if rising then s.joinEdge i k y2 else y2
    y3.settled

/-- Islands of a join group with island `i`: reached through joined-mode groups inside its context, `n` rounds. -/
def State.joinGroup (s : State) (l : List Nat) : Nat → List Nat
  | 0 => l
  | n + 1 =>
    let more := l.flatMap (fun i => (List.range 64).filterMap (fun k =>
      match neighbour i (k / 16) with
      | some j => if ((s.island i).cfg.group k).mode = 1 ∧ s.get (SWB_ISL_STAT.CTX j) = s.get (SWB_ISL_STAT.CTX i)
          then some j else none
      | none => none))
    s.joinGroup (l ++ more).eraseDups n

def State.joined (s : State) (i : Nat) : List Nat := s.joinGroup [i] 16

/-- Whether an island's interface of a border group is clocked: the island is out of set/reset and the group's clock runs. -/
def State.groupClocked (s : State) (i k : Nat) : Bool :=
  !(s.island i).gsr && nbit (s.get (CLK_ISL_STAT.RUNNING i)) ((s.island i).cfg.group k).clk.val

/-! ### Commands -/

/-- The sending fabric writes the word `w` that its border cells carry, with WR_VALID = WR_READY = 1 (R86). -/
def execHandshakeWordWrite (i : Fin 256) (side : Fin 4) (g : Fin 16) (w : W32) (s : State) : Res :=
  match neighbour i.val side.val with
  | none => notDue s
  | some j =>
    let k := groupKey side.val g.val
    let kj := groupKey (oppositeSide side.val) g.val
    let x := (s.facing i.val).settled
    let c := x.cfg.group k
    whenDue (c.mode == 2 && (x.chan k).ready && x.value c.valid && s.groupClocked i.val k && w.toNat == bitsOf x.value c.sigs) s
      (s.modIsland j (fun y => y.modChan kj (fun b => { b with fifo := b.fifo ++ [w] })))

/-- A written word becomes visible to the receiving island `i` (R86). -/
def execHandshakeWordArrive (i : Fin 256) (side : Fin 4) (g : Fin 16) (s : State) : Res :=
  let k := groupKey side.val g.val
  let b := (s.island i.val).chan k
  whenDue (b.visible < b.fifo.length && s.groupClocked i.val k) s
    (s.modIsland i.val (fun x => x.modChan k (fun b => { b with visible := b.visible + 1 })))

/-- The receiving fabric reads the oldest visible word with RD_VALID = RD_READY = 1 (R86, R89). -/
def execHandshakeWordRead (i : Fin 256) (side : Fin 4) (g : Fin 16) (s : State) : Res :=
  let k := groupKey side.val g.val
  let b := (s.island i.val).chan k
  let x := (s.facing i.val).settled
  whenDue (b.visible > 0 && (x.cfg.group k).mode == 3 && x.value (x.cfg.group k).valid && s.groupClocked i.val k) s
    (s.modIsland i.val (fun x => x.modChan k (fun b =>
      { b with lastRead := (b.fifo.head?).getD 0, fifo := b.fifo.drop 1, visible := b.visible - 1 })))

end Sys2Proof.Machine
end

