-- ==== Sys2Proof/Machine/LkoLog.lean ====
section
/-!
DEFINITION. Lookout's log in RAM, the queue of Cairn's messages for it, and whether Lookout serves (R394, R395, R410).
-/

namespace Sys2Proof.Machine

def State.onLko (s : State) (f : Lookout → Lookout) : State := { s with lko := f s.lko }
def State.onCairn (s : State) (f : Cairn → Cairn) : State := { s with cairn := f s.cairn }
def State.onTwin (s : State) (f : Twin → Twin) : State := { s with twin := f s.twin }
def State.onCfg (s : State) (f : Cfg → Cfg) : State := { s with cfg := f s.cfg }

/-- Whether Lookout runs its firmware or, in RECOVERY, its boot ROM, and no debugger halts it. -/
def State.lkoServes (s : State) : Bool :=
  (s.get MGT_STAT.STATE == 1 || s.get MGT_STAT.STATE == 4) && !s.flag DBG_LKO_CTL.HALTED

/-- A debugger's halt of Lookout ends: its PC and GPR registers read 0 again (R469). -/
def State.lkoFree (s : State) : State :=
  ((s.putB DBG_LKO_CTL.HALTED false).put DBG_LKO_PC.PC 0).forN 31 (fun n s => s.put (DBG_LKO_GPR.X (n + 1)) 0)

/-- Writes a log entry (R395): the RAM ring keeps the newest 2,048. -/
def State.logAdd (s : State) (typ info : Nat) : State :=
  s.onLko (fun l =>
    let log := l.log ++ [{ seq := l.seq, time := s.now, typ, info }]
    { l with seq := l.seq + 1, log := log.drop (log.length - 2048) })

/-- The 72 bits of a fault message (R405). -/
def FaultMsg.bits (m : FaultMsg) : Nat :=
  m.addr % 2 ^ 48 + (if m.inj then 2 ^ 51 else 0) + m.sev % 4 * 2 ^ 52 + m.kind % 64 * 2 ^ 54 + m.source % 4096 * 2 ^ 60

/-- Lookout takes Cairn's messages while it serves: those with reaction L become log entries. -/
def State.drainFifo (s : State) : State :=
  if s.lkoServes then
    (s.onCairn (fun c => { c with fifo := [] })).forAll s.cairn.fifo (fun p s =>
      if nbit p.2 0 then s.logAdd 1 (p.1.bits + p.2 % 64 * 2 ^ 72) else s)
  else s

/-- A message for Lookout (reactions L and I): queued, or lost when the queue is full; I wakes a sleeping Lookout. -/
def State.tellLookout (s : State) (m : FaultMsg) (react : Nat) : State :=
  if !nbit react 0 && !nbit react 2 then s
  else
    let s1 := if s.cairn.fifo.length ≥ 32 then s.bump FLT_STAT.LKO_OVF
      else s.onCairn (fun c => { c with fifo := c.fifo ++ [(m, react)] })
    (if nbit react 2 && s.get MGT_STAT.STATE == 2 then s1.put MGT_STAT.STATE 1 else s1).drainFifo

/-- Lookout sleeps at Dormant, and wakes at its exit (R385). -/
def State.lkoSleep (s : State) (on : Bool) : State :=
  if on then (if s.get MGT_STAT.STATE == 1 then s.put MGT_STAT.STATE 2 else s)
  else (if s.get MGT_STAT.STATE == 2 then (s.put MGT_STAT.STATE 1).drainFifo else s)

end Sys2Proof.Machine
end

