-- ==== Sys2Proof/Machine/Clocks.lean ====
section
/-!
DEFINITION. Base clocks, island clock units, droop stretching and clock meters (R91–R108).
-/

namespace Sys2Proof.Machine

/-! ### Island clock settings (R95–R101) -/

/-- The 12-bit clock field of K0–K3 (0–3) and KE (4) in an island clock setting. -/
def clkField (w k : Nat) : Nat := nfield w (12 * k + 11) (12 * k)
def clkSrc (w k : Nat) : Nat := nfield (clkField w k) 11 10
/-- HALF; HALF_M1 = 0 is invalid and never reaches a running clock. -/
def clkHalf (w k : Nat) : Nat := nfield (clkField w k) 9 3 + 1
/-- Whether a clock runs at a rung (R103): RUN_EN, SLEEP_EN, DEEP_EN. -/
def clkRuns (w k rung : Nat) : Bool :=
  nbit (clkField w k) (match rung with | 0 => 2 | 1 => 1 | _ => 0)
def clkSoft (w : Nat) : Bool := nbit w 61

def State.setting (s : State) (i : Nat) : Nat := s.get (CLK_ISL_CFG.SETTING i)
def State.fmul (s : State) (n : Nat) : Nat := s.get (CLK_BASE.FMUL n)

/-- Greatest engine clock of a speed grade in 50 MHz units (R9); a grade that reads 0 is grade 1 (R25). -/
def engineLimit (grade : Nat) : Nat := match grade with | 2 => 30 | 3 => 33 | _ => 27

/-- Whether a setting is refused with CLOCK_RANGE (R96). -/
def State.clockRange (s : State) (w : Nat) : Bool :=
  (List.range 5).any (fun k =>
    let f := s.fmul (clkSrc w k)
    nfield (clkField w k) 9 3 == 0 || !s.flag (CLK_BASE.LOCKED (clkSrc w k))
      || (if k < 4 then f > 80 * clkHalf w k
          else 200 * f > 16 * 50 * engineLimit (s.get HIF_GRADE.SPEED) * clkHalf w k))

/-- TF an island can have: no clock above ratio 64 (R101). -/
def tfCap (w tf : Nat) : Nat :=
  let h := (List.range 5).foldl (fun m k => max m (clkHalf w k)) 1
  max 8 (min tf (1024 / h))

/-- Target ratio of a clock in sixteenths: HALF / 2 × TF. -/
def State.clkTarget (s : State) (i k : Nat) : Nat :=
  clkHalf (s.setting i) k * tfCap (s.setting i) (s.get (CLK_ISL_STAT.THROTTLE i))

def State.running (s : State) (i k : Nat) : Bool := nbit (s.get (CLK_ISL_STAT.RUNNING i)) k
def State.setRunning (s : State) (i k : Nat) (b : Bool) : State :=
  s.put (CLK_ISL_STAT.RUNNING i) (setBit (s.get (CLK_ISL_STAT.RUNNING i)) k b)

/-- Smallest number of sixteenths whose output on base clock `b` is not faster than `n` sixteenths on `a` (R99). -/
def ratioOn (fa fb n : Nat) : Nat := (n * fb + fa - 1) / max 1 fa

/-- One step of a ramp, in sixteenths (R98): at most n / 8 toward the target. -/
def rampToward (n t : Nat) : Nat := if t > n then min t (n + n / 8) else max t (n - n / 8)

/-- The next step of a running clock toward its setting, over a source change where there is one (R98, R99). -/
def State.rampStep (s : State) (i k : Nat) : State :=
  let x := s.island i
  let fk : Fin 5 := Fin.ofNat 5 k
  let want := clkSrc (s.setting i) k
  let n := x.ratio[fk]
  let t := x.target[fk]
  if x.src[fk] = want then s.setIsland i { x with ratio := x.ratio.set fk (rampToward n t) }
  else
    let n' := ratioOn (s.fmul x.src[fk]) (s.fmul want) n
    if n' ≥ 16 then s.setIsland i { x with ratio := x.ratio.set fk (rampToward n' t), src := x.src.set fk want }
    else s.setIsland i { x with ratio := x.ratio.set fk (n + max 1 (n / 8)) }

/-- RAMPING of a clock: 1 until its ratio is the target on its source. -/
def State.showRamp (s : State) (i k : Nat) : State :=
  let x := s.island i
  let fk : Fin 5 := Fin.ofNat 5 k
  let r := x.ratio[fk] != x.target[fk] || x.src[fk] != clkSrc (s.setting i) k
  s.put (CLK_ISL_STAT.RAMPING i) (setBit (s.get (CLK_ISL_STAT.RAMPING i)) k r)

/-- A clock takes the target of the present setting and TF: at once while stopped, else with its first ramp step, which
waits while a stretch exceeds 1 × (R98, R99, R106). -/
def State.retarget (s : State) (i k : Nat) : State :=
  let fk : Fin 5 := Fin.ofNat 5 k
  let t := s.clkTarget i k
  let s1 := s.modIsland i (fun x => { x with target := x.target.set fk t })
  let s2 := if s.running i k then
      (if (s.island i).stretch = 0 then s1.rampStep i k else s1)
    else s1.modIsland i (fun x => { x with
      ratio := x.ratio.set fk t, src := x.src.set fk (clkSrc (s.setting i) k) })
  s2.showRamp i k

/-- Starts a stopped clock, softly where the setting says so (R100, R106). -/
def State.startClock (s : State) (i k : Nat) : State :=
  let fk : Fin 5 := Fin.ofNat 5 k
  if s.running i k then s.modIsland i (fun x => { x with stopping := BitVec.ofNat 5 (setBit x.stopping.toNat k false) })
  else
    let s1 := if clkSoft (s.setting i) then
        s.modIsland i (fun x => { x with ratio := x.ratio.set fk (min 1024 (2 * x.ratio[fk])) })
      else s
    (s1.setRunning i k true).showRamp i k

/-- Stops a clock at its present ratio (R103, R104). -/
def State.stopClock (s : State) (i k : Nat) : State :=
  (s.setRunning i k false).modIsland i (fun x => { x with stopping := BitVec.ofNat 5 (setBit x.stopping.toNat k false) })

/-- Stops all five clocks of an island and ends a stretch. -/
def State.haltClocks (s : State) (i : Nat) : State :=
  ((s.forN 5 (fun k s => s.stopClock i k)).put (CLK_ISL_STAT.STRETCHED i) 0).modIsland i (fun x => { x with stretch := 0 })

/-- Whether the handshake groups on a clock are idle (R104): no word is on its way to the receiving side. -/
def State.clockIdle (s : State) (i k : Nat) : Bool :=
  let x := s.island i
  x.cfg.groups.all (fun p =>
    p.2.clk.val != k
      || (p.2.mode != 3 || (x.chan p.1).visible == (x.chan p.1).fifo.length)
        && (p.2.mode != 2 || (match neighbour i (p.1 / 16) with
          | none => true
          | some j =>
            let b := (s.island j).chan (groupKey (oppositeSide (p.1 / 16)) (p.1 % 16))
            b.visible == b.fifo.length)))

/-- Stops all five clocks of an island under R104: one that finds no idle boundary stops after 256 cycles, with STOP_FORCED
(assumption log 85). -/
def State.stopClocks (s : State) (i : Nat) : State :=
  if (List.range 5).any (fun k => s.running i k && !s.clockIdle i k) then (s.haltClocks i).put (CLK_ISL_STAT.STOP_FORCED i) 1
  else s.haltClocks i

/-- TF that an island is to run at: 4 while its start waits for its admission (R376), else that of its die. -/
def State.tfDue (s : State) (i : Nat) : Nat :=
  if s.pwr.paced.contains i then 32 else (s.pwr.dies[(Fin.ofNat 4 (i / 64) : Fin 4)]).tf

/-- Applies an island clock setting: every clock takes it under R98 and R99, at the TF that it allows (R101). -/
def State.applySetting (s : State) (i : Nat) (w : W64) : State :=
  ((s.put (CLK_ISL_CFG.SETTING i) w.toNat).put (CLK_ISL_STAT.THROTTLE i) (tfCap w.toNat (s.tfDue i))).forN 5 (fun k s => s.retarget i k)

/-- Starts the clocks that a rung runs, and asks gating to stop the others (R103, R104). -/
def State.gateClocks (s : State) (i rung : Nat) : State :=
  s.forN 5 (fun k s =>
    if clkRuns (s.setting i) k rung then s.startClock i k
    else if s.running i k then
      s.modIsland i (fun x => { x with stopping := BitVec.ofNat 5 (setBit x.stopping.toNat k true) })
    else s)

/-- Whether any clock of a setting runs at Lull and below (R103). -/
def keptRunning (w : Nat) : Bool := (List.range 5).any (fun k => clkRuns w k 2)

/-- The throttle factor of an island, in eighths, clamped so that no ratio exceeds 64 (R101). -/
def State.setTf (s : State) (i tf : Nat) : State :=
  (s.put (CLK_ISL_STAT.THROTTLE i) (tfCap (s.setting i) (max 8 (min 32 tf)))).forN 5 (fun k s => s.retarget i k)

/-! ### Base clocks (R91–R93) -/

/-- After 1 ms of holdover the synthesiser slews the base clocks low (R91). -/
def execHoldoverSlew (s : State) : Res :=
  whenDue (s.clk.holdover == 1) s (s.onClk (fun c => { c with holdover := 2 }))

/-- The reference returns: the synthesiser slews back to lock (R91). -/
def execRefReturn (ppm : BitVec 16) (s : State) : Res :=
  .next ((((s.put CLK_REF_STAT.PPM_ERR ppm.toNat).put CLK_REF_STAT.HOLDOVER 0).put CLK_REF_STAT.REF_OK 1).onClk
    (fun c => { c with holdover := 0 }))

/-- Whether a running island clock selects a base clock (R93). -/
def State.baseInUse (s : State) (n : Nat) : Bool :=
  (List.range 256).any (fun i => s.get (CLK_ISL_STAT.RUNNING i) != 0 &&
    (List.range 5).any (fun k => s.running i k &&
      (clkSrc (s.setting i) k == n || (s.island i).src[(Fin.ofNat 5 k : Fin 5)] == n)))

/-- A write of CLK_BASEn (R93): RANGE before IN_USE; B3 is read-only. -/
def execClkBaseWrite (n : Fin 4) (fmul : BitVec 9) (s : State) : Res :=
  let f := fmul.toNat
  if n = 3 then .next s
  else if f < 64 ∨ f > 320 then .next (s.put (CLK_BASE.ERR n.val) 1)
  else if s.baseInUse n.val then .next (s.put (CLK_BASE.ERR n.val) 2)
  else .next (((s.put (CLK_BASE.ERR n.val) 0).put (CLK_BASE.FMUL n.val) f).put (CLK_BASE.LOCKED n.val) 0)

/-- A base clock relocks (R93). -/
def execBaseClockLocked (n : Fin 4) (s : State) : Res := .next (s.put (CLK_BASE.LOCKED n.val) 1)

/-! ### Island clocks -/

/-- 64 output cycles at an intermediate ratio have passed: the next step (R98); a ramp waits while a stretch exceeds
1 × and while the clock is stopped (R106). -/
def execClockRampStep (i : Fin 256) (k : Fin 5) (s : State) : Res :=
  let due := s.running i.val k.val && nbit (s.get (CLK_ISL_STAT.RAMPING i.val)) k.val && (s.island i.val).stretch == 0
  whenDue due s ((s.rampStep i.val k.val).showRamp i.val k.val)

/-- A droop detector fires: every island of the join group is stretched to 1.25 × (R102). -/
def execDroopFire (i : Fin 256) (s : State) : Res :=
  .next (((s.bump (PWR_DROOP_CNT.COUNT (i.val / 64))).modIsland i.val (fun x => { x with droop := true })).forAll (s.joined i.val) (fun j s =>
    (s.modIsland j (fun x => { x with stretch := 1 })).put (CLK_ISL_STAT.STRETCHED j) 1))

/-- The detectors of the join group have been clear for 32 cycles: 1.125 × (R102). -/
def execDroopStretchRelease (i : Fin 256) (s : State) : Res :=
  whenDue ((s.island i.val).stretch == 1) s
    (s.forAll (s.joined i.val) (fun j s => s.modIsland j (fun x => { x with stretch := 2, droop := false })))

/-- 64 cycles at 1.125 × have passed: normal periods, and ramps that waited go on (R102, R106). -/
def execDroopStretchEnd (i : Fin 256) (s : State) : Res :=
  whenDue ((s.island i.val).stretch == 2) s
    (s.forAll (s.joined i.val) (fun j s =>
      (s.modIsland j (fun x => { x with stretch := 0 })).put (CLK_ISL_STAT.STRETCHED j) 0))

/-- Gating stops a clock at an idle boundary (R104). -/
def execClockStopIdle (i : Fin 256) (k : Fin 5) (s : State) : Res :=
  whenDue (nbit (s.island i.val).stopping.toNat k.val && s.clockIdle i.val k.val) s (s.stopClock i.val k.val)

/-- Gating stops a clock after 256 cycles without an idle boundary (R104). -/
def execClockStopForced (i : Fin 256) (k : Fin 5) (s : State) : Res :=
  whenDue (nbit (s.island i.val).stopping.toNat k.val && !s.clockIdle i.val k.val) s
    ((s.stopClock i.val k.val).put (CLK_ISL_STAT.STOP_FORCED i.val) 1)

/-! ### Clock meters (R107, R108) -/

/-- Whether a meter supports a source code (R107). -/
def meterHas (m code : Nat) : Bool :=
  let n := code % 4096
  match code / 4096 with
  | 0 => n == 0
  | 1 => n < 4
  | 2 => m < 4 && n / 8 < 64 && n % 8 < 5
  | 3 => m < 4 && n < 8
  | 4 => m == 4 && n < 16
  | 5 => m == 4 && n == 0
  | 6 => m == 4 && n < 2
  | 7 => m == 4 && n == 0
  | 8 => m == 4 && n == 0
  | _ => false

/-- A measurement ends with a count. -/
def State.meterDone (s : State) (m count : Nat) : State :=
  (((s.put (CLK_MTR_CNT.COUNT m) count).put (CLK_MTR_CTL.DONE m) 1).put (CLK_MTR_CTL.BUSY m) 0).put (CLK_MTR_CTL.START m) 0

/-- A host measurement begins; a code the meter does not support ends it at once. -/
def State.meterBegin (s : State) (m : Nat) : State :=
  let s := s.onClk (fun c => { c with waiting := c.waiting.filter (fun k => k != m) })
  if meterHas m (s.get (CLK_MTR_SEL.SEL_A m)) && meterHas m (s.get (CLK_MTR_SEL.SEL_B m)) then s else s.meterDone m 0

/-- A host START (R108). -/
def execClkMtrStart (m : Fin 5) (s : State) : Res :=
  if s.flag (CLK_MTR_CTL.BUSY m.val) then .next s
  else
    let s1 := (s.put (CLK_MTR_CTL.START m.val) 1).put (CLK_MTR_CTL.BUSY m.val) 1
    if s.flag (CLK_MTR_CTL.OWNER m.val) then .next (s1.onClk (fun c => { c with waiting := c.waiting ++ [m.val] }))
    else .next (s1.meterBegin m.val)

/-- Whether a host measurement runs (and does not wait for Lookout). -/
def State.meterRuns (s : State) (m : Nat) : Bool := s.flag (CLK_MTR_CTL.BUSY m) && !s.clk.waiting.contains m

/-- WIN_LOG2 of a meter: values outside 4–24 act as 24. -/
def State.meterWindow (s : State) (m : Nat) : Nat :=
  let w := s.get (CLK_MTR_CTL.WIN_LOG2 m)
  if 4 ≤ w ∧ w ≤ 24 then w else 24

/-- Frequency of a meter's source in steps of 6.25 MHz, as a fraction: the forwarded reference, a base clock, an island clock at its
present ratio and stretch, Lookout's clocks. None for a PLL, and for a base clock that is in holdover or relocks. -/
def State.meterRate (s : State) (m code : Nat) : Option (Nat × Nat) :=
  let n := code % 4096
  if s.clk.holdover != 0 then none
  else match code / 4096 with
    | 0 => some (16, 1)
    | 1 => if s.flag (CLK_BASE.LOCKED n) then some (s.fmul n, 1) else none
    | 2 =>
      let i := 64 * m + n / 8
      let x := s.island i
      let k : Fin 5 := Fin.ofNat 5 (n % 8)
      if nbit (s.get (CLK_ISL_STAT.RAMPING i)) (n % 8) || x.stretch != 0 then none
      else some (if s.running i (n % 8) then 16 * s.fmul x.src[k] else 0, max 1 x.ratio[k])
    | 7 => some (s.fmul 3, max 1 (s.get CLK_LKO.CORE_DIV))
    | 8 => some (s.fmul 3, max 1 (s.get CLK_LKO.BUS_DIV))
    | _ => none

/-- Whether a count is within 1 of what a measurement gives at steady frequencies (R107). -/
def State.countFits (s : State) (m count : Nat) : Bool :=
  match s.meterRate m (s.get (CLK_MTR_SEL.SEL_A m)), s.meterRate m (s.get (CLK_MTR_SEL.SEL_B m)) with
  | some a, some b =>
    let want := a.1 * b.2 * 2 ^ s.meterWindow m
    let unit := a.2 * b.1
    b.1 != 0 && count * unit ≤ want + unit && want ≤ count * unit + unit
  | _, _ => true

/-- The window of a host measurement ends (R107). -/
def execClkMtrDone (m : Fin 5) (count : W32) (s : State) : Res :=
  whenDue (s.meterRuns m.val && s.countFits m.val count.toNat) s (s.meterDone m.val count.toNat)

/-- Lookout has waited 1 ms and aborts the host's measurement, unless it is a short one on the reference (R108). -/
def execClkMtrAbort (m : Fin 5) (s : State) : Res :=
  let short := s.meterWindow m.val ≤ 16 && s.get (CLK_MTR_SEL.SEL_B m.val) == 0
  whenDue (s.meterRuns m.val && !short) s
    (((((s.put (CLK_MTR_CTL.ABORTED m.val) 1).put (CLK_MTR_CTL.DONE m.val) 0).put (CLK_MTR_CTL.BUSY m.val) 0).put
      (CLK_MTR_CTL.START m.val) 0).put (CLK_MTR_CTL.OWNER m.val) 1)

/-- Lookout takes a meter for its supervision, or gives it back to a measurement that waits (R108). -/
def execLookoutClockSupervision (m : Fin 5) (hold : Bool) (s : State) : Res :=
  if hold then whenDue (s.lkoServes && !s.meterRuns m.val) s (s.put (CLK_MTR_CTL.OWNER m.val) 1)
  else
    let s1 := s.put (CLK_MTR_CTL.OWNER m.val) 0
    .next (if s.clk.waiting.contains m.val then s1.meterBegin m.val else s1)

end Sys2Proof.Machine
end

