-- ==== Sys2Proof/Machine/Banks.lean ====
section
/-!
DEFINITION. GPIO banks: who drives the pins, and their safe states (R363–R366); the edge of an island clock.
-/

namespace Sys2Proof.Machine

def State.bank (s : State) (b : Nat) : Bank := s.banks.peek (fun _ => {}) b
def State.setBank (s : State) (b : Nat) (x : Bank) : State := { s with banks := s.banks.poke (fun _ => {}) b x }
def State.modBank (s : State) (b : Nat) (f : Bank → Bank) : State := s.setBank b (f (s.bank b))

/-- The bank an island touches (R19): I(n,7) of die d and bank 8d + n. -/
def bankOf (i : Nat) : Option Nat := if rowOf i = 7 then some (8 * dieOf i + colOf i) else none
def bankIsland (b : Nat) : Nat := islandAt (b / 8) (b % 8) 7

/-- Whether pins of a bank drive their safe states (R364), past the OUT step: nothing released drives them, Cairn forces them, or
a fault of the bank keeps the fabric off; `pll` says that they are clocked by a bank PLL without lock. On an isolated die they
keep what they drove until Cairn acts (R38). -/
def State.safeWith (s : State) (b : Nat) (pll : Bool) : Bool :=
  let x := s.bank b
  if !s.cfg.out ∨ x.lost = 1 then false
  else if x.lost = 3 then s.flag FLT_STAT.SAFE || s.pwr.failed
  else x.lost = 2 || !x.follows || x.mismatch || x.vccioBad || pll || x.parked || s.flag FLT_STAT.SAFE || s.pwr.failed || s.bst.saddle == 2

/-- Whether a bank's pins drive their safe states, all of them or those of its PLL. -/
def State.bankSafe (s : State) (b : Nat) : Bool := s.safeWith b (s.bank b).pllLost

/-- IOB_BANK_STAT.SAFE and MISMATCH of a bank. -/
def State.showBank (s : State) (b : Nat) : State :=
  (s.putB (IOB_BANK_STAT.SAFE b) (s.bankSafe b)).putB (IOB_BANK_STAT.MISMATCH b) (s.bank b).mismatch

def State.showBanks (s : State) : State := s.forN 32 (fun b s => s.showBank b)

/-- The 2-bit safe state of a pin: 0 HIGH_Z, 1 LOW, 2 HIGH, 3 HOLD. -/
def Bank.safeState (x : Bank) (pin : Nat) : Nat := nfield x.safe.toNat (2 * pin + 1) (2 * pin)

/-- Whether a pin drives its safe state. -/
def State.pinSafe (s : State) (b pin : Nat) : Bool := s.safeWith b ((s.bank b).pllLost && (s.bank b).pllPads.contains pin)

/-- Whether a pin is taken from the fabric as the SYSREF input of a JESD204C link (R361). -/
def State.sysrefPin (s : State) (b pin : Nat) : Bool :=
  pin == 47 && b % 8 == 0 && (List.range 16).any (fun q => s.flag (IOB_JESD_CFG.EN q) && s.get (IOB_JESD_CFG.SREF q) == b / 8)

/-- What a pin drives in a cycle: bits in order, none when it is high-impedance (R38, R338, R364). HOLD keeps the last level; a
bank without its VCCIO, one that is loading, and a SYSREF input drive nothing. -/
def State.pinDrives (s : State) (b pin : Nat) : Option (List Bool) :=
  let x := s.bank b
  let last := x.driven.peek (fun _ => ([], false)) pin
  let held : Option (List Bool) := if last.2 then some last.1 else none
  if !s.cfg.out || x.lost == 1 || x.vccioBad || s.get (IOB_BANK_STAT.VCLASS b) == 0 || s.sysrefPin b pin then none
  else if s.pinSafe b pin then
    (match x.safeState pin with
      | 0 => none
      | 1 => some [false]
      | 2 => some [true]
      | _ => held)
  else held

/-- Pins of an island's bank take what the fabric gives them at an edge of clock `k` (R363). -/
def State.drivePads (s : State) (i : Nat) (k : Fin 4) (x : Island) : State :=
  match bankOf i with
  | none => s
  | some b =>
    let l := x.cfg.pads.filter (fun p => p.2.clk == k && !s.pinSafe b p.1 && !s.sysrefPin b p.1)
    if l = [] then s
    else s.modBank b (fun y => { y with driven := Table.pokes (fun _ => ([], false)) y.driven (l.map (fun p =>
      (p.1, (p.2.out.take (2 ^ p.2.ser.val)).map x.value, x.value p.2.enable))) })

/-- A context's release puts its configuration of an attached bank into force (R248, R365). -/
def State.bankRelease (s : State) (i ctx : Nat) (g : IslandCfg) : State :=
  match bankOf i with
  | none => s
  | some b =>
    let cls := s.get (IOB_BANK_STAT.VCLASS b)
    let bad := match g.pins with
      | some v => v != cls
      | none => false
    let uses := g.pins.isSome || g.safe.isSome || g.pads != []
    if !uses then s
    else
      let s1 := s.modBank b (fun x => { x with
        follows := true, mismatch := bad, safe := g.safe.getD x.dflt
        pllPads := (g.pads.filter (fun p => p.2.pll)).map (fun p => p.1) })
      let s2 := (s1.put (IOB_BANK_STAT.CTX b) ctx).showBank b
      if bad then s2.post 0x0807 b ctx else s2

/-- The fence of an island leaves its bank driving the outgoing image's safe states (R248). -/
def State.bankFence (s : State) (i : Nat) : State :=
  match bankOf i with
  | none => s
  | some b => ((s.modBank b (fun x => { x with follows := false, mismatch := false })).put (IOB_BANK_STAT.CTX b) 0x3FF).showBank b

/-- A die re-admitted with empty islands: its banks drive the defaults of their records (R38). -/
def State.banksDefault (s : State) (d : Nat) : State :=
  s.forN 8 (fun n s =>
    let b := 8 * d + n
    ((s.modBank b (fun x => { x with follows := false, mismatch := false, safe := x.dflt })).put
      (IOB_BANK_STAT.CTX b) 0x3FF).showBank b)

/-! ### The clock edge -/

/-- The settle pulses that an island's ports present end: each lasts one cycle of the island bus clock (R278). -/
def State.endSettle (s : State) (i : Nat) : State :=
  if s.net.settle = [] then s else
  let next (l : Table (List (BitVec 6 × Bool))) (k : Nat) := l.poke (fun _ => []) k ((l.peek (fun _ => []) k).drop 1)
  { s with net := { s.net with settle := next (next s.net.settle (2 * i)) (2 * i + 1) } }

/-- An edge of an island clock on the islands of one join group, which share it; `ins` are the values that pins, ports,
memories and the engine present to the fabric of the first island (R57, R85). Latches and asynchronous set/reset follow the
inputs on every island of the group, its clock running or not (R57, R60). A rising edge gives pins their output (R363). -/
def execIslandClockEdge (is : List (Fin 256)) (k : Fin 4) (rising : Bool) (ins : List (Nat × Bool)) (s : State) : Res :=
  let s0 := match is.head? with
    | some i => s.modIsland i.val (fun x => { x with inputs := x.inputs.pokes (fun _ => false) ins })
    | none => s
  let s1 := s0.forAll is (fun i t => t.setIsland i.val (s0.facing i.val).settled)
  .next (s1.forAll (is.filter (fun i => nbit (s1.get (CLK_ISL_STAT.RUNNING i.val)) k.val)) (fun i t =>
    let t0 := t.setIsland i.val (s1.islandEdge i.val k rising)
    let t1 := if rising then t0.drivePads i.val k (s1.island i.val) else t0
    if rising && nfield (s1.get (CLK_ISL_CFG.SETTING i.val)) 63 62 == k.val then t1.endSettle i.val else t1))

end Sys2Proof.Machine
end

