-- ==== Sys2Proof/Machine/Aes.lean ====
section
/-!
DEFINITION. The ciphers that the manual names by their standards: AES-256 (FIPS 197), its XTS mode (IEEE 1619), CMAC
(NIST SP 800-38B) and key unwrapping (NIST SP 800-38F, KW), for R275 and R276.
-/

namespace Sys2Proof.Machine

/-! ### AES-256 -/

/-- The S-box as one number: entry x is byte x. -/
def sboxWord : Nat :=
  0x16bb54b00f2d99416842e6bf0d89a18cdf2855cee9871e9b948ed9691198f8e19e1dc186b95735610ef6034866b53e708a8bbd4b1f74dde8c6b4a61c2e2578ba08ae7a65eaf4566ca94ed58d6d37c8e779e4959162acd3c25c2406490a3a32e0db0b5ede14b8ee4688902a22dc4f816073195d643d7ea7c41744975fec130ccdd2f3ff1021dab6bcf5389d928f40a351a89f3c507f02f94585334d43fbaaefd0cf584c4a39becb6a5bb1fc20ed00d153842fe329b3d63b52a05a6e1b1a2c830975b227ebe28012079a059618c323c7041531d871f1e5a534ccf73f362693fdb7c072a49cafa2d4adf04759fa7dc982ca76abd7fe2b670130c56f6bf27b777c63
/-- The inverse S-box as one number. -/
def sboxInvWord : Nat :=
  0x7d0c2155631469e126d677ba7e042b17619953833cbbebc8b0f52aae4d3be0a0ef9cc9939f7ae52d0d4ab519a97f51605fec8027591012b131c7078833a8dd1ff45acd78fec0db9a2079d2c64b3e56fc1bbe18aa0e62b76f89c5291d711af1476edf751ce837f9e28535ade72274ac9673e6b4f0cecff297eadc674f4111913a6b8a130103bdafc1020f3fca8f1e2cd00645b3b80558e4f70ad3bc8c00abd890849d8da75746155edab9edfd5048706c92b6655dcc5ca4d41698688664f6f87225d18b6d49a25b76b224d92866a12e084ec3fa420b954cee3d23c2a632947b54cbe9dec444438e3487ff2f9b8239e37cfbd7f3819ea340bf38a53630d56a0952

def sbox (x : Nat) : Nat := sboxWord / 256 ^ x % 256
def sboxInv (x : Nat) : Nat := sboxInvWord / 256 ^ x % 256

/-- Doubling in the field of AES. -/
def xtime (a : Nat) : Nat := if a ≥ 128 then (2 * a % 256) ^^^ 0x1B else 2 * a

/-- Multiplication by the small constants of MixColumns. -/
def aesMul (c a : Nat) : Nat :=
  let a2 := xtime a
  let a4 := xtime a2
  let a8 := xtime a4
  (if nbit c 0 then a else 0) ^^^ (if nbit c 1 then a2 else 0) ^^^ (if nbit c 2 then a4 else 0) ^^^ (if nbit c 3 then a8 else 0)

def xorList (a b : List Nat) : List Nat := List.zipWith (fun x y => x ^^^ y) a b

/-- The next `n` words of the AES-256 key schedule, from word `i` on; the words so far, newest first. -/
def keyWords (i rcon : Nat) (l : List (List Nat)) : Nat → List (List Nat)
  | 0 => l
  | n + 1 =>
    let prev := (l[0]?).getD []
    let back := (l[7]?).getD []
    let t := if i % 8 = 0 then xorList ((prev.drop 1 ++ prev.take 1).map sbox) [rcon, 0, 0, 0]
      else if i % 8 = 4 then prev.map sbox else prev
    keyWords (i + 1) (if i % 8 = 0 then xtime rcon else rcon) (xorList back t :: l) n

/-- The 15 round keys of a 32-byte key. -/
def roundKeys (key : List Nat) : List (List Nat) :=
  let w0 := ((List.range 8).map (fun k => (key.drop (4 * k)).take 4)).reverse
  let w := (keyWords 8 1 w0 52).reverse
  (List.range 15).map (fun r => ((w.drop (4 * r)).take 4).flatten)

/-- Byte r + 4c moves to r + 4((c − k·r) mod 4): ShiftRows with k = 1, its inverse with k = 3. -/
def shiftRows (k : Nat) (b : List Nat) : List Nat :=
  (List.range 16).map (fun i => (b[i % 4 + 4 * ((i / 4 + k * (i % 4)) % 4)]?).getD 0)

/-- MixColumns with the first row of its matrix. -/
def mixColumns (m : List Nat) (b : List Nat) : List Nat :=
  (List.range 16).map (fun i =>
    ((List.range 4).map (fun j => aesMul ((m[(j + 4 - i % 4) % 4]?).getD 0) ((b[4 * (i / 4) + j]?).getD 0))).foldl
      (fun x y => x ^^^ y) 0)

def aesRounds : List (List Nat) → List Nat → List Nat
  | [], b => b
  | [k], b => xorList (shiftRows 1 (b.map sbox)) k
  | k :: ks, b => aesRounds ks (xorList (mixColumns [2, 3, 1, 1] (shiftRows 1 (b.map sbox))) k)

/-- AES-256 encryption of a 16-byte block. -/
def aesEnc (key block : List Nat) : List Nat :=
  match roundKeys key with
  | [] => block
  | k :: ks => aesRounds ks (xorList block k)

def aesRoundsInv : List (List Nat) → List Nat → List Nat
  | [], b => b
  | [k], b => xorList ((shiftRows 3 b).map sboxInv) k
  | k :: ks, b => aesRoundsInv ks (mixColumns [14, 11, 13, 9] (xorList ((shiftRows 3 b).map sboxInv) k))

/-- AES-256 decryption of a 16-byte block. -/
def aesDec (key block : List Nat) : List Nat :=
  match (roundKeys key).reverse with
  | [] => block
  | k :: ks => aesRoundsInv ks (xorList block k)

/-! ### Modes -/

/-- A number as little-endian byte values. -/
def leBytes : Nat → Nat → List Nat
  | 0, _ => []
  | n + 1, x => x % 256 :: leBytes n (x / 256)

def leNat : List Nat → Nat
  | [] => 0
  | b :: bs => b + 256 * leNat bs

/-- Multiplication of an XTS tweak by α. -/
def xtsDouble (t : List Nat) : List Nat :=
  let n := 2 * leNat t
  leBytes 16 (if n ≥ 2 ^ 128 then (n - 2 ^ 128) ^^^ 0x87 else n)

def xtsBlocks (f : List Nat → List Nat) (t : List Nat) : Nat → List Nat → List Nat
  | 0, _ => []
  | n + 1, l => xorList (f (xorList (l.take 16) t)) t ++ xtsBlocks f (xtsDouble t) n (l.drop 16)

/-- XTS over one 64-byte data unit (IEEE 1619): data key `k1`, tweak key `k2`. -/
def xtsEnc (k1 k2 : List Nat) (tweak : Nat) (line : List Nat) : List Nat :=
  xtsBlocks (aesEnc k1) (aesEnc k2 (leBytes 16 tweak)) 4 line
def xtsDec (k1 k2 : List Nat) (tweak : Nat) (line : List Nat) : List Nat :=
  xtsBlocks (aesDec k1) (aesEnc k2 (leBytes 16 tweak)) 4 line

/-- Doubling of a CMAC subkey, most significant byte first. -/
def cmacDouble (l : List Nat) : List Nat :=
  let n := 2 * leNat l.reverse
  (leBytes 16 (if n ≥ 2 ^ 128 then (n - 2 ^ 128) ^^^ 0x87 else n)).reverse

def cmacBlocks (key x : List Nat) : Nat → List Nat → List Nat
  | 0, _ => x
  | n + 1, l => cmacBlocks key (aesEnc key (xorList x (l.take 16))) n (l.drop 16)

/-- CMAC of a message of `n` + 1 whole blocks. -/
def cmac (key : List Nat) (n : Nat) (msg : List Nat) : List Nat :=
  let k1 := cmacDouble (aesEnc key (List.replicate 16 0))
  let x := cmacBlocks key (List.replicate 16 0) n msg
  aesEnc key (xorList (xorList x (msg.drop (16 * n))) k1)

/-- Unwrapping steps t = `t` down to 1 over the semiblocks R1 to Rn. -/
def kwSteps (key : List Nat) (n : Nat) (a : List Nat) (r : List (List Nat)) : Nat → List Nat × List (List Nat)
  | 0 => (a, r)
  | t + 1 =>
    let i := t % n
    let x := (leBytes 8 (leNat a.reverse ^^^ (t + 1))).reverse
    let b := aesDec key (x ++ (r[i]?).getD [])
    kwSteps key n (b.take 8) (r.set i (b.drop 8)) t

/-- Key unwrapping of `n` semiblocks: the plaintext, none when the integrity check fails. -/
def kwUnwrap (key : List Nat) (n : Nat) (c : List Nat) : Option (List Nat) :=
  let r := (List.range n).map (fun k => (c.drop (8 * (k + 1))).take 8)
  let x := kwSteps key n (c.take 8) r (6 * n)
  if x.1 = List.replicate 8 0xA6 then some x.2.flatten else none

end Sys2Proof.Machine
end

