-- ==== Sys2Proof/Machine/HbmLog.lean ====
section
/-!
DEFINITION. The HBM error log and the start of a pseudo-channel's retirement (R265, R269–R271).
-/

namespace Sys2Proof.Machine

def State.onHbm (s : State) (f : Hbm → Hbm) : State := { s with hbm := f s.hbm }
def State.onCry (s : State) (f : Crypto → Crypto) : State := { s with cry := f s.cry }

/-- Stack of an HBM address, data or guard area. -/
def hbmStack (dpa : Nat) : Nat := if dpa < 0x600000000 then 0 else 1

/-- Pseudo-channel of an HBM data address within its stack (R265). -/
def hbmPc (dpa : Nat) : Nat :=
  let n := dpa % 0x600000000 / 2 ^ 18
  (n % 32) ^^^ (n / 32 % 32)

/-- Number of an address's pseudo-channel: 32·stack + pseudo-channel. -/
def pcOf (dpa : Nat) : Nat := 32 * hbmStack dpa + hbmPc dpa

/-- Whether a stack answers: READY, or at Hold in power-down except while accessed (R384). -/
def State.hbmUp (s : State) (st : Nat) : Bool := s.get (HBM_STAT.STATE st) == 2 || s.get (HBM_STAT.STATE st) == 3

/-- Whether accesses to a pseudo-channel are not performed: it is RETIRED, or under its self-test (R269, R445). -/
def State.pcRetired (s : State) (p : Nat) : Bool :=
  nbit (s.get (HBM_PC_RET.RETIRED (p / 32))) (p % 32) || (s.unit (unitOf 5 (p / 32) (p % 32))).state == 2

/-- Whether no frame is handed out that touches a pseudo-channel: retired, retiring, or named for a self-test (R271, R445). -/
def State.pcShut (s : State) (p : Nat) : Bool :=
  s.pcRetired p || s.hbm.retiring.contains p || (s.unit (unitOf 5 (p / 32) (p % 32))).state != 0

/-- Granules of the first `n` of a stack that pseudo-channel `k` holds (R265). -/
def pcGranules (k n : Nat) : Nat :=
  n / 1024 * 32 + ((List.range (n % 1024)).filter (fun (m : Nat) => (m % 32) ^^^ (m / 32) == k)).length

/-- Bytes of an area of a stack that Switchback cannot use. -/
def State.shutBytes (s : State) (base len : Nat) : Nat :=
  let st := hbmStack base
  let a := base % 0x600000000 / 2 ^ 18
  let b := (base % 0x600000000 + len) / 2 ^ 18
  (((List.range 32).filter (fun k => s.pcShut (32 * st + k))).map (fun k => (pcGranules k b - pcGranules k a) * 2 ^ 18)).sum

/-- Writes an entry of the HBM error log in ring order (R270): kind, pseudo-channel, line. -/
def State.hbmLog (s : State) (kind p dpa : Nat) : State :=
  let e := s.hbm.logNext
  let full := s.get HBM_LOG_CTL.VALID = 64
  let line := if kind = 5 ∨ kind = 6 ∨ kind = 8 then 0 else dpa / 64 % 2 ^ 30
  let w := line * 2 ^ 34 + (s.hbm.serving.getD 0) * 2 ^ 22 + bit s.hbm.serving.isNone * 2 ^ 21 + p % 32 * 2 ^ 16
    + p / 32 * 2 ^ 15 + kind * 2 ^ 11
  let s1 := ((s.setReg (HBM_LOG.ENTRY e).addr (BitVec.ofNat 64 w)).setReg (HBM_LOG_TIME.ENTRY e).addr
    (BitVec.ofNat 64 s.now)).onHbm (fun h => { h with logNext := (e + 1) % 64 })
  if full then
    let was := s.get HBM_LOG_CTL.OVF
    let s2 := s1.bump HBM_LOG_CTL.OVF
    if was = 0 then s2.post 0x0601 0 (s2.get HBM_LOG_CTL.OVF) else s2
  else s1.put HBM_LOG_CTL.VALID (s.get HBM_LOG_CTL.VALID + 1)

/-- A pseudo-channel becomes RETIRING (R271 step 1). -/
def State.retirePc (s : State) (p : Nat) : State :=
  if s.pcRetired p ∨ s.hbm.retiring.contains p then s
  else (s.put (HBM_PC_REQ.RETIRE (p / 32)) (setBit (s.get (HBM_PC_REQ.RETIRE (p / 32))) (p % 32) true)).onHbm
    (fun h => { h with retiring := h.retiring ++ [p] })

/-- An uncorrectable word of a pseudo-channel: logged, and counted toward its retirement over 24 h (R269, R271). -/
def State.hbmUe (s : State) (kind dpa : Nat) : State :=
  let p := pcOf dpa
  let day := 86400000000000
  let l := (s.hbm.ues.peek (fun _ => []) p).filter (fun t => s.now < t + day) ++ [s.now]
  let s1 := (s.hbmLog kind p dpa).onHbm (fun h => { h with ues := h.ues.poke (fun _ => []) p l })
  if s.flag HBM_POL.AUTO_RETIRE && l.length ≥ max 1 (s.get HBM_POL.RET_UE_MAX) then s1.retirePc p else s1

/-- The stack's on-die ECC reports an uncorrected severity for a line that is read: a data error of it (R264, R269). -/
def State.odeccError (s : State) (line : Nat) : State :=
  let a := 64 * line
  ((s.hbmUe 7 a).bump (MEM_UE_CNT.COUNT 4)).toCairn 0x0D (srcSaddle (2 + pcOf a / 32)) sevMajor a

/-- Whether a line meets a span. -/
def lineMeets (x a n : Nat) : Bool := a < 64 * x + 64 && 64 * x < a + n

/-- The reported lines that meet a span. -/
def reportsIn (l : List (BitVec 42)) (a n : Nat) : List Nat := (l.map (fun x => x.toNat)).filter (fun x => lineMeets x a n)

/-- A command/address parity error of a pseudo-channel: logged, and counted over 1 s (R269, R271). -/
def State.hbmCaError (s : State) (p dpa : Nat) : State :=
  let l := (s.hbm.cas.peek (fun _ => []) p).filter (fun t => s.now < t + 1000000000) ++ [s.now]
  let s1 := ((s.hbmLog 2 p dpa).toCairn 0x0F (srcSaddle (2 + p / 32)) sevMajor dpa).onHbm
    (fun h => { h with cas := h.cas.poke (fun _ => []) p l })
  if s.flag HBM_POL.AUTO_RETIRE && l.length ≥ 16 then s1.retirePc p else s1

end Sys2Proof.Machine
end

