-- ==== Sys2Proof/Machine/Codes.lean ====
section
/-!
DEFINITION. The two nested codes and the accesses of every coded memory (R118–R140): inner code, page guard, merge
buffers, counters and log tables.
-/

namespace Sys2Proof.Machine

/-! ### The inner code (R121–R123) -/

/-- Position of data bit j in the code word (R122). -/
def dataPos (j : Nat) : Nat :=
  if j = 0 then 3 else if j ≤ 3 then j + 4 else if j ≤ 10 then j + 5 else if j ≤ 25 then j + 6
  else if j ≤ 56 then j + 7 else j + 8

/-- Exclusive or of the positions of the set bits below `n`: c6–c0 as a number. -/
def posXor (d : Nat) : Nat → Nat
  | 0 => 0
  | n + 1 => if nbit d n then posXor d n ^^^ dataPos n else posXor d n

/-- Parity of the low `n` bits. -/
def parity (d n : Nat) : Bool := popCount n d % 2 == 1

/-- The eight check bits of a data word, c0 in bit 0 (R122). -/
def checkBits (d : W64) : Byte :=
  let c := posXor d.toNat 64
  BitVec.ofNat 8 (c + 128 * bit (parity d.toNat 64 != parity c 7))

/-- Outcome of decoding a stored word (R123); `syn` is the syndrome s. -/
inductive Decoded where
  | clean
  | checkBit (syn : Nat)
  | dataBit (syn bit : Nat)
  | bad
  deriving DecidableEq, Repr

/-- The data bit at a position, below `n`. -/
def bitAtPos (p : Nat) : Nat → Option Nat
  | 0 => none
  | n + 1 => if dataPos n = p then some n else bitAtPos p n

/-- Decodes a stored word with its check byte (R123). -/
def decodeWord (d : W64) (c : Byte) : Decoded :=
  let s := (c.toNat % 128) ^^^ posXor d.toNat 64
  let p := parity d.toNat 64 != parity c.toNat 8
  if p then
    if s = 0 then .checkBit 0
    else match bitAtPos s 64 with
      | some j => .dataBit s j
      | none => if s ≤ 64 then .checkBit s else .bad
  else if s = 0 then .clean else .bad

/-- The data a decoded word delivers. -/
def Decoded.value (k : Decoded) (d : W64) : W64 :=
  match k with
  | .dataBit _ j => d ^^^ BitVec.ofNat 64 (2 ^ j)
  | _ => d

/-! ### The page guard (R124, R128) -/

/-- Multiplication by α = 0x02 in GF(2^8) with polynomial 0x11D. -/
def gfDouble (a : Nat) : Nat := if a ≥ 128 then (2 * a) ^^^ 0x11D else 2 * a

/-- GF(2^8) product: the low `n` bits of `b` are used. -/
def gfMulN (a b : Nat) : Nat → Nat
  | 0 => 0
  | n + 1 => (if b % 2 = 1 then a else 0) ^^^ gfMulN (gfDouble a) (b / 2) n

def gfMul (a b : Nat) : Nat := gfMulN a b 8

/-- α^i. -/
def gfAlpha : Nat → Nat
  | 0 => 1
  | i + 1 => gfDouble (gfAlpha i)

/-- a^(2^n − 2)·…: the inverse of a non-zero a, as a^254. -/
def gfInvN (sq acc : Nat) : Nat → Nat
  | 0 => acc
  | n + 1 => let q := gfMul sq sq; gfInvN q (gfMul acc q) n

def gfInv (a : Nat) : Nat := gfInvN a 1 7

/-- mul of R124: the product with each byte lane of a word, over the low `n` lanes. -/
def mulLanes (g w : Nat) : Nat → Nat
  | 0 => 0
  | n + 1 => gfMul g (w % 256) + 256 * mulLanes g (w / 256) n

def mulWord (g : Nat) (w : W64) : W64 := BitVec.ofNat 64 (mulLanes g w.toNat 8)

/-! ### Where an address lies -/

/-- A coded memory word: class of R135, its memory (first word), first word of its page, key of its set (first data
word), index in the set, words per set and their distance, die (4 for the Saddle) and fault source. -/
structure Region where
  cls : Nat
  unit : Nat
  page : Nat
  key : Nat
  idx : Nat
  n : Nat
  stride : Nat
  die : Nat
  source : Nat
  deriving DecidableEq, Repr

/-- Lookout SRAM takes no DPA in the manual; the model keeps its words from here on (assumption log 8). -/
def lkoBase : Nat := 0x400000000000
def deepBase : Nat := 0x100000000000
def windowBase : Nat := 0x200000000000
def controlBase : Nat := 0x300000000000
def hostBase : Nat := 0x800000000000

/-- Base DPA of an island's window (R226). -/
def islandWindow (i : Nat) : Nat := windowBase + (i / 64) * 2 ^ 32 + (i % 64) * 2 ^ 24

def pageOf64 (cls unit w die source : Nat) : Region :=
  { cls, unit, page := w - w % 64, key := w - w % 64, idx := w % 64, n := 64, stride := 1, die, source }

/-- Whether an address lies in an HBM data region (R126). -/
def inHbm (dpa : Nat) : Bool := dpa < 0xC00000000 && dpa % 0x600000000 < 0x5E8000000
def inDeep (dpa : Nat) : Bool := deepBase ≤ dpa && dpa < deepBase + 0x10000000
/-- Island and window offset of an address in an island window. -/
def windowOf (dpa : Nat) : Option (Nat × Nat) :=
  if windowBase ≤ dpa then
    let o := dpa - windowBase
    if o < 4 * 2 ^ 32 ∧ o % 2 ^ 32 < 2 ^ 30 then some (o / 2 ^ 32 * 64 + o % 2 ^ 32 / 2 ^ 24, o % 2 ^ 24) else none
  else none

/-- The coded word that holds an address, as far as its memory is concerned (R119, R125, R126, R172). -/
def regionOf (dpa : Nat) : Option Region :=
  let w := dpa / 8
  if inHbm dpa then
    some { cls := 4, unit := 64 * hbmStack dpa + hbmPc dpa, page := w - w % 512, key := w - w % 512 + w % 4,
           idx := w % 512 / 4, n := 128, stride := 4, die := 4, source := srcSaddle (2 + hbmStack dpa) }
  else if inDeep dpa then
    let o := dpa - deepBase
    let d := o / 0x4000000
    some (pageOf64 1 (w - w % 0x40000) w d (srcBank d (o % 0x4000000 / 0x200000)))
  else if lkoBase ≤ dpa ∧ dpa < lkoBase + 0x80000 then some (pageOf64 5 (lkoBase / 8) w 4 (srcSaddle 9))
  else match windowOf dpa with
    | none => none
    | some (i, o) =>
      if o < 0x180000 then
        (if o % 0x4000 < 0x2000 then some (pageOf64 0 (w - w % 0x800) w (i / 64) (srcIsland i)) else none)
      else if 0x200000 ≤ o ∧ o < 0x220000 then some (pageOf64 2 (w - w % 0x2000) w (i / 64) (srcIsland i))
      else if 0x220000 ≤ o ∧ o < 0x228000 then some (pageOf64 3 (w - w % 0x1000) w (i / 64) (srcIsland i))
      else none

/-- A block memory's settings, by the address of a word in its slot. -/
def State.bmCfg (s : State) (dpa : Nat) : BmCfg :=
  match windowOf dpa with
  | some (i, o) => (s.island i).cfg.bms.peek (fun _ => {}) (o / 0x4000)
  | none => {}

/-- Whether the word carries the inner code: every memory but a block memory outside ECC mode (R112, R121). -/
def State.coded (s : State) (r : Region) (dpa : Nat) : Bool := r.cls != 0 || ((s.bmCfg dpa).ecc && !(s.bmCfg dpa).fam72)

/-! ### Stored words -/

def State.byteAt (s : State) (a : Nat) : Byte := Table.peek (fun _ => 0) s.mem.data a
def State.setByte (s : State) (a : Nat) (b : Byte) : State :=
  { s with mem := { s.mem with data := Table.poke (fun _ => 0) s.mem.data a b } }

/-- The stored data of a word, by word number (DPA / 8). -/
def State.rawWord (s : State) (w : Nat) : W64 :=
  BitVec.ofNat 64 (ofBytes ((List.range 8).map (fun k => s.byteAt (8 * w + k))))

/-- Stores bytes from an address on. -/
def State.setBytes (s : State) (a : Nat) : List Byte → State
  | [] => s
  | b :: bs => (s.setByte a b).setBytes (a + 1) bs

def State.setRawWord (s : State) (w : Nat) (v : W64) : State := s.setBytes (8 * w) (toBytes 8 v.toNat)

def State.checkAt (s : State) (w : Nat) : Byte := Table.peek (fun _ => 0) s.mem.check w
def State.setCheck (s : State) (w : Nat) (c : Byte) : State :=
  s.onMem (fun m => { m with check := Table.poke (fun _ => 0) m.check w c })

/-- Stores a word with its check bits. -/
def State.storeWord (s : State) (w : Nat) (v : W64) : State := (s.setRawWord w v).setCheck w (checkBits v)

/-- Decoding of a stored word. -/
def State.wordState (s : State) (w : Nat) : Decoded := decodeWord (s.rawWord w) (s.checkAt w)
/-- Data of a word after the inner code. -/
def State.wordValue (s : State) (w : Nat) : W64 := (s.wordState w).value (s.rawWord w)

def State.guardP (s : State) (k : Nat) : W64 := s.mem.guardP.peek (fun _ => 0) k
def State.guardQ (s : State) (k : Nat) : W64 := s.mem.guardQ.peek (fun _ => 0) k
def State.pState (s : State) (k : Nat) : Decoded := decodeWord (s.guardP k) (Table.peek (fun _ => 0) s.mem.guardPC k)
def State.qState (s : State) (k : Nat) : Decoded := decodeWord (s.guardQ k) (Table.peek (fun _ => 0) s.mem.guardQC k)

/-- Stores both guard words of a set with their check bits. -/
def State.setGuard (s : State) (k : Nat) (p q : W64) : State :=
  s.onMem (fun m => { m with
    guardP := m.guardP.poke (fun _ => 0) k p, guardQ := m.guardQ.poke (fun _ => 0) k q,
    guardPC := Table.poke (fun _ => 0) m.guardPC k (checkBits p), guardQC := Table.poke (fun _ => 0) m.guardQC k (checkBits q) })

/-- Word number of the word with index `i` of a region's set. -/
def Region.member (r : Region) (i : Nat) : Nat := r.key + i * r.stride

/-- Exclusive or over the set's words of which `use` holds: plain, and weighted by α^i; `n` words. -/
def State.setSums (s : State) (r : Region) (use : Nat → Bool) : Nat → W64 × W64
  | 0 => (0, 0)
  | i + 1 =>
    let t := s.setSums r use i
    if use i then
      let d := s.wordValue (r.member i)
      (t.1 ^^^ d, t.2 ^^^ mulWord (gfAlpha i) d)
    else t

/-- Whether a word is beyond both codes until a full-word write (R139). -/
def State.isDead (s : State) (w : Nat) : Bool := s.mem.dead.contains w

/-- Indices below `n` of the set whose words the inner code cannot correct and the guard still covers. -/
def State.erased (s : State) (r : Region) : Nat → List Nat
  | 0 => []
  | i + 1 => if s.wordState (r.member i) = .bad ∧ !s.isDead (r.member i) then s.erased r i ++ [i] else s.erased r i

/-- Recomputes both guard words of a set from all its data words; a word that is uncorrectable then stays so, in that word
only (R127). -/
def State.reguard (s : State) (r : Region) : State :=
  let t := s.setSums r (fun _ => true) r.n
  (s.setGuard r.key t.1 t.2).onMem (fun m => { m with dead := m.dead ++ (s.erased r r.n).map r.member })

/-! ### Counters and logs (R136–R138) -/

/-- Log table of a region (R135). -/
def Region.table (r : Region) : Nat := if r.cls ≤ 3 then r.die else 4

/-- MEM_CE_THRESHOLD when CE + PG crosses a multiple of THRESH (R136). -/
def State.ceCross (s0 s : State) (c : Nat) : State :=
  let sum (x : State) := x.get (MEM_CE_CNT.COUNT c) + x.get (MEM_PG_CNT.COUNT c)
  let t := s.get MEM_CE_THRESH.THRESH
  if t != 0 && sum s0 / t != sum s / t then s.post 0x0301 c (sum s) else s

/-- One log event added to MEM_LOG_OVF, with its event when it leaves 0 (R138). -/
def State.logLost (s : State) (t : Nat) : State :=
  let was := s.get (MEM_LOG_OVF.OVF t)
  let s := s.bump (MEM_LOG_OVF.OVF t)
  if was = 0 then s.post 0x0302 t (s.get (MEM_LOG_OVF.OVF t)) else s

/-- Slot of the table for an address: an entry with it, else an empty one, else the oldest; second: overwritten.
Scans entries `n − 1` down to 0, so the lowest slot wins. -/
def State.logSlot (s : State) (t key : Nat) : Nat → Option Nat × Option Nat × Nat
  | 0 => (none, none, 0)
  | e + 1 =>
    let r := s.logSlot t key e
    let x := (s.reg (MEM_LOG.ENTRY t e).addr).toNat
    let same := if r.1.isSome then r.1 else if x % 64 != 0 && x / 2 ^ 16 == key then some e else none
    let empty := if r.2.1.isSome then r.2.1 else if x % 64 = 0 then some e else none
    let old := if e = 0 then 0
      else if (s.reg (MEM_LOG_TIME.ENTRY t e).addr).toNat < (s.reg (MEM_LOG_TIME.ENTRY t r.2.2).addr).toNat then e
      else r.2.2
    (same, empty, old)

/-- Updates the log table of a class for a correctable event at word `w` (R137, R138). KIND 0 data bit, 1 check bit,
2 rebuilt, 3 guard rewritten. -/
def State.logEvent (s : State) (r : Region) (w kind syn : Nat) (scrub : Bool) : State :=
  let t := r.table
  let last := s.mem.logAt.peek (fun _ => 0) t
  if last != 0 && s.now + 1 < last + 10 then s.logLost t
  else
    let s := s.onMem (fun m => { m with logAt := m.logAt.poke (fun _ => 0) t (s.now + 1) })
    let key := w * 8 + r.cls            -- ADDR_W and CLASS: bits [63:16]
    let f := s.logSlot t key 32
    let entry (count : Nat) := BitVec.ofNat 64 (key * 2 ^ 16 + kind * 2 ^ 14 + bit scrub * 2 ^ 13 + syn * 2 ^ 6 + count)
    let write (e count : Nat) (s : State) :=
      (s.setReg (MEM_LOG.ENTRY t e).addr (entry count)).setReg (MEM_LOG_TIME.ENTRY t e).addr (BitVec.ofNat 64 s.now)
    match f.1, f.2.1 with
    | some e, _ => write e (min 63 ((s.reg (MEM_LOG.ENTRY t e).addr).toNat % 64 + 1)) s
    | none, some e => write e 1 s
    | none, none => (write f.2.2 1 s).logLost t

/-- A word corrected by the inner code: counted and logged. -/
def State.corrected (s : State) (r : Region) (w kind syn : Nat) (scrub : Bool) : State :=
  (s.ceCross (s.bump (MEM_CE_CNT.COUNT r.cls)) r.cls).logEvent r w kind syn scrub

/-- A data word rebuilt or a guard word rewritten: counted and logged. -/
def State.guarded (s : State) (r : Region) (w kind : Nat) (scrub : Bool) : State :=
  (s.ceCross (s.bump (MEM_PG_CNT.COUNT r.cls)) r.cls).logEvent r w kind 0 scrub

/-- An uncorrectable word (R139): MEM_UE_CNT and Cairn kind MEM_UE. -/
def State.uncorrectable (s : State) (r : Region) (w : Nat) : State :=
  let s1 := (s.bump (MEM_UE_CNT.COUNT r.cls)).toCairn 0x0D r.source sevMajor (8 * w)
  if r.cls = 4 then s1.hbmUe 1 (8 * w) else s1

/-- A word of a set that a write or a rebuild reads is corrected by the inner code: counted and logged (R136). -/
def State.countWord (s : State) (r : Region) (w : Nat) (k : Decoded) (scrub : Bool) : State :=
  match k with
  | .checkBit syn => s.corrected r w 1 syn scrub
  | .dataBit syn _ => s.corrected r w 0 syn scrub
  | _ => s

/-- The guard words of a set are read; they log under the set's first data word (R137). -/
def State.countGuard (s : State) (r : Region) (scrub : Bool) : State :=
  (s.countWord r r.key (s.pState r.key) scrub).countWord r r.key (s.qState r.key) scrub

/-- All words of a set but one are read. -/
def State.countSet (s : State) (r : Region) (skip : Nat) (scrub : Bool) : State :=
  (List.range r.n).foldl (fun t i =>
    if r.member i = skip then t else t.countWord r (r.member i) (s.wordState (r.member i)) scrub) s

/-! ### Rebuild (R128) -/

/-- The rebuilt values of a set's erased data words; none when the set has more than two erasures (R124). -/
def State.rebuilt (s : State) (r : Region) : Option (List (Nat × W64)) :=
  let er := s.erased r r.n
  let pe := s.pState r.key == .bad
  let qe := s.qState r.key == .bad
  let sums := s.setSums r (fun i => !er.contains i) r.n
  let pr := (s.pState r.key).value (s.guardP r.key) ^^^ sums.1
  let qr := (s.qState r.key).value (s.guardQ r.key) ^^^ sums.2
  match er with
  | [] => some []
  | [j] => if !pe then some [(j, pr)] else if !qe then some [(j, mulWord (gfInv (gfAlpha j)) qr)] else none
  | [j, k] =>
    if pe || qe then none
    else
      let dj := mulWord (gfInv (gfAlpha k ^^^ gfAlpha j)) (mulWord (gfAlpha k) pr ^^^ qr)
      some [(j, dj), (k, pr ^^^ dj)]
  | _ => none

/-- Rebuilds a set: reads all its words, rewrites the erased ones, counts and logs each, and rewrites erased guard words. False
when the set is beyond the guard. -/
def State.rebuildSet (s : State) (r : Region) (scrub : Bool) : State × Bool :=
  match s.rebuilt r with
  | none => (s, false)
  | some l =>
    let ge := s.pState r.key == .bad || s.qState r.key == .bad
    let s0 := (s.countSet r (r.member r.n) scrub).countGuard r scrub
    let s1 := s0.forAll l (fun p s => (s.storeWord (r.member p.1) p.2).guarded r (r.member p.1) 2 scrub)
    (if ge then s1.reguard r else s1, true)

/-! ### Coded accesses -/

/-- A read of a stored word through the inner code and, if need be, the page guard; the uncorrectable case is left
to the caller to report. -/
def State.readStored (s : State) (r : Region) (w : Nat) (scrub : Bool := false) : W64 × Bool × State :=
  match s.wordState w with
  | .clean => (s.rawWord w, false, s)
  | .checkBit syn => (s.rawWord w, false, s.corrected r w 1 syn scrub)
  | .dataBit syn _ => (s.wordValue w, false, s.corrected r w 0 syn scrub)
  | .bad =>
    let t := s.rebuildSet r scrub
    if t.2 && !s.isDead w then (t.1.rawWord w, false, t.1) else (s.rawWord w, true, s)

/-- A read of a stored word at its memory's checker: an armed injection inverts one or two of the check bits read, which
ones the manual does not say (R415). With two the page guard is bypassed; nothing stored changes. -/
def State.readCode (s : State) (r : Region) (w : Nat) (scrub : Bool := false) : W64 × Bool × State :=
  if s.armed r.source 1 then (s.rawWord w, true, s.useCheck r.source 1)
  else if s.armed r.source 0 then
    let t := (s.useCheck r.source 0).took
    match decodeWord (s.rawWord w) (s.checkAt w ^^^ BitVec.ofNat 8 (2 ^ (s.fresh.toNat % 8))) with
    | .checkBit syn => (s.rawWord w, false, t.corrected r w 1 syn scrub)
    | _ => t.readStored r w scrub
  else s.readStored r w scrub

/-- A full-word write with its check bits and the update of its set's guard words (R127): the old word and the guard words are
read, every word of the set where the guard words are recomputed. `told`: the old word's correction has been counted. -/
def State.writeCode (s : State) (r : Region) (w : Nat) (v : W64) (told : Bool := false) : State :=
  let old := s.wordState w
  let delta := s.wordValue w ^^^ v
  let afresh := old == .bad || s.pState r.key == .bad || s.qState r.key == .bad
  let s0 := (if told then s else s.countWord r w old false).countGuard r false
  let s1 := if afresh then s0.countSet r w false else s0
  let t := (s1.storeWord w v).onMem (fun m => { m with dead := m.dead.filter (fun x => x != w) })
  if afresh then t.reguard r
  else t.setGuard r.key ((s.pState r.key).value (s.guardP r.key) ^^^ delta)
    ((s.qState r.key).value (s.guardQ r.key) ^^^ mulWord (gfAlpha r.idx) delta)

/-- Merges bytes into a word: byte b comes from `new` where mask bit b is 1. -/
def mergeWord (old new : W64) (mask : Byte) : W64 :=
  BitVec.ofNat 64 (ofBytes ((List.range 8).map (fun b =>
    BitVec.ofNat 8 ((if nbit mask.toNat b then new.toNat else old.toNat) / 256 ^ b))))

def State.mergeList (s : State) (unit : Nat) : List MergeEntry := s.mem.merge.peek (fun _ => []) unit
def State.setMergeList (s : State) (unit : Nat) (l : List MergeEntry) : State :=
  s.onMem (fun m => { m with merge := m.merge.poke (fun _ => []) unit l })

/-- Writes a merge-buffer entry out (R131): a full mask as a full-word write; otherwise the old word is read and
corrected first, and when it is uncorrectable the write is dropped with MEM_WR_LOST (in HBM logged as well, R138). -/
def State.flushEntry (s : State) (r : Region) (e : MergeEntry) : State :=
  if e.mask = 0xFF then s.writeCode r e.word e.data
  else
    let t := s.readCode r e.word
    if t.2.1 then
      (let s1 := (t.2.2.bump (MEM_UE_CNT.COUNT r.cls)).toCairn 0x0E r.source sevMajor (8 * e.word)
       if r.cls = 4 then s1.hbmUe 1 (8 * e.word) else s1)
    else t.2.2.writeCode r e.word (mergeWord t.1 e.data e.mask) true

/-- Flushes the entry of one word, if the buffer holds one. -/
def State.flushWord (s : State) (r : Region) (w : Nat) : State :=
  match (s.mergeList r.unit).find? (fun e => e.word == w) with
  | none => s
  | some e => (s.setMergeList r.unit ((s.mergeList r.unit).filter (fun e => e.word != w))).flushEntry r e

/-- Flushes every entry of a memory's merge buffer, oldest first. -/
def State.flushUnit (s : State) (unit : Nat) : State :=
  let l := s.mergeList unit
  (s.setMergeList unit []).forAll l (fun e s =>
    match regionOf (8 * e.word) with
    | some r => s.flushEntry r e
    | none => s)

/-- A narrow write (R130, R131). -/
def State.narrowWrite (s : State) (r : Region) (w : Nat) (v : W64) (mask : Byte) : State :=
  let l := s.mergeList r.unit
  match l.find? (fun e => e.word == w) with
  | some e =>
    let e' : MergeEntry := { e with data := mergeWord e.data v mask, mask := e.mask ||| mask }
    let s := s.setMergeList r.unit (l.map (fun x => if x.word == w then e' else x))
    if e'.mask = 0xFF then s.flushWord r w else s
  | none =>
    let s := if l.length ≥ 8 then (match l with | e :: _ => s.flushWord r e.word | [] => s) else s
    s.setMergeList r.unit (s.mergeList r.unit ++ [{ word := w, data := mergeWord 0 v mask, mask := mask }])

/-- A full-word write: an entry of the word merges and is flushed at once (R130). -/
def State.fullWrite (s : State) (r : Region) (w : Nat) (v : W64) : State :=
  (s.setMergeList r.unit ((s.mergeList r.unit).filter (fun e => e.word != w))).writeCode r w v

/-- A read of a coded word by a requester other than the fabric: merged data, flush, codes; an uncorrectable word is
counted and reported (R131, R139). Answers data, whether it is uncorrectable, and the state after. -/
def State.readWord (s : State) (r : Region) (w : Nat) (scrub : Bool := false) : W64 × Bool × State :=
  let t := (s.flushWord r w).readCode r w scrub
  if t.2.1 then (t.1, true, t.2.2.uncorrectable r w) else t

/-- Reads a word at any memory address: coded, or stored bits where the memory has no code (R116). -/
def State.loadWord (s : State) (w : Nat) : W64 × Bool × State :=
  match regionOf (8 * w) with
  | some r => if s.coded r (8 * w) then s.readWord r w else (s.rawWord w, false, s)
  | none => (s.rawWord w, false, s)

/-- Writes the bytes of a word that a mask names. -/
def State.maskWrite (s : State) (w : Nat) (v : W64) (mask : Byte) : State :=
  match regionOf (8 * w) with
  | some r =>
    if s.coded r (8 * w) then (if mask = 0xFF then s.fullWrite r w v else s.narrowWrite r w v mask)
    else s.setRawWord w (mergeWord (s.rawWord w) v mask)
  | none => s.setRawWord w (mergeWord (s.rawWord w) v mask)

/-- Words `k − n` … of a byte range: reads `n` words from word `w` on; data, any uncorrectable, state. -/
def State.loadWords (s : State) (w : Nat) : Nat → List W64 × Bool × State
  | 0 => ([], false, s)
  | n + 1 =>
    let t := s.loadWord w
    let u := t.2.2.loadWords (w + 1) n
    (t.1 :: u.1, t.2.1 || u.2.1, u.2.2)

/-- Reads `len` bytes from an address on, each covering word once. -/
def State.load (s : State) (a len : Nat) : List Byte × Bool × State :=
  if len = 0 then ([], false, s)
  else
    let w0 := a / 8
    let t := s.loadWords w0 ((a + len - 1) / 8 - w0 + 1)
    (((t.1.flatMap (fun x => toBytes 8 x.toNat)).drop (a % 8)).take len, t.2.1, t.2.2)

/-- Writes bytes from an address on, word by word; `n` bounds the words touched. -/
def State.storeN (s : State) (a : Nat) (bs : List Byte) : Nat → State
  | 0 => s
  | n + 1 =>
    match bs with
    | [] => s
    | _ =>
      let k := min (8 - a % 8) bs.length
      let v := BitVec.ofNat 64 (ofBytes (bs.take k) * 256 ^ (a % 8))
      let mask := BitVec.ofNat 8 ((2 ^ k - 1) * 2 ^ (a % 8))
      (s.maskWrite (a / 8) v mask).storeN (a + k) (bs.drop k) n

def State.store (s : State) (a : Nat) (bs : List Byte) : State := s.storeN a bs (bs.length + 1)

/-- The memories with everything zero, check bits and guard included, at the byte addresses that `p` names: nothing is listed
there any more, and merge entries are gone (R118, R140). `p` names whole pages. -/
def Memory.wipe (m : Memory) (p : Nat → Bool) : Memory :=
  let w (k : Nat) : Bool := p (8 * k)
  { m with
    data := Table.clearIf p m.data, check := Table.clearIf w m.check, guardP := m.guardP.clearIf w
    guardQ := m.guardQ.clearIf w, guardPC := Table.clearIf w m.guardPC, guardQC := Table.clearIf w m.guardQC
    merge := (m.merge.map (fun q => (q.1, q.2.filter (fun e => !w e.word)))).filter (fun q => q.2 != [])
    dead := m.dead.filter (fun k => !w k) }

/-- Zeroes a range of whole pages. -/
def State.zeroRange (s : State) (a len : Nat) : State := s.onMem (fun m => m.wipe (fun k => a ≤ k && k < a + len))

end Sys2Proof.Machine
end

