-- ==== Sys2Proof/Machine/Float.lean ====
section
/-!
DEFINITION. Binary32 arithmetic (R160): IEEE 754-2019 with round to nearest, ties to even, subnormals in full,
every NaN result canonical. Values are exact integers times powers of two; each operation rounds once.
-/

namespace Sys2Proof.Machine

/-- The sticky flags an operation raises (R154). -/
structure FlagSet where
  fi : Bool := false
  fo : Bool := false
  fu : Bool := false
  fx : Bool := false
  sat : Bool := false
  aov : Bool := false
  deriving DecidableEq, Repr

/-- Flags raised by either of two operations. -/
def FlagSet.or (f g : FlagSet) : FlagSet :=
  { fi := f.fi || g.fi, fo := f.fo || g.fo, fu := f.fu || g.fu, fx := f.fx || g.fx,
    sat := f.sat || g.sat, aov := f.aov || g.aov }

/-- The canonical NaN. -/
def qNaN : W32 := 0x7FC00000

/-- Sign bit of a binary32 word. -/
def fSign (x : W32) : Bool := nbit x.toNat 31
/-- Exponent field. -/
def fExp (x : W32) : Nat := nfield x.toNat 30 23
/-- Fraction field. -/
def fFrac (x : W32) : Nat := nfield x.toNat 22 0
def isNaN (x : W32) : Bool := fExp x == 255 && fFrac x != 0
/-- A signalling NaN has fraction bit 22 clear. -/
def isSNaN (x : W32) : Bool := isNaN x && !nbit x.toNat 22
def isInf (x : W32) : Bool := fExp x == 255 && fFrac x == 0
def isZero (x : W32) : Bool := fExp x == 0 && fFrac x == 0

/-- Significand of a finite number, the hidden bit included. -/
def fMant (x : W32) : Nat := if fExp x = 0 then fFrac x else 2 ^ 23 + fFrac x
/-- Exponent of the significand's least bit, plus 149. -/
def fPow (x : W32) : Nat := if fExp x = 0 then 0 else fExp x - 1
/-- A finite number as an integer count of 2^-149 · 2^(fPow). -/
def fInt (x : W32) : Int := if fSign x then -(fMant x : Int) else (fMant x : Int)

/-- Quotient of `n` by 2^k rounded half to even. -/
def roundNat (n k : Nat) : Nat :=
  let q := n / 2 ^ k
  let r := n % 2 ^ k
  if 2 * r < 2 ^ k then q else if 2 * r > 2 ^ k then q + 1 else if q % 2 = 0 then q else q + 1

/-- Quotient of an integer by 2^k rounded half to even. -/
def rhe (x : Int) (k : Nat) : Int :=
  if x < 0 then -(roundNat x.natAbs k : Int) else (roundNat x.natAbs k : Int)

def signBit (s : Bool) : Nat := if s then 2 ^ 31 else 0

/-- Rounds the exact value (-1)^sign · mag · 2^(pow − off) to binary32; `off` ≥ 149 is the bias of the power. -/
def roundF (sign : Bool) (mag pow off : Nat) : W32 × FlagSet :=
  if mag = 0 then (BitVec.ofNat 32 (signBit sign), {})
  else
    let lg := Nat.log2 mag
    -- exponent of the least result bit, counted from -off: max(lg + pow - 23, off - 149)
    let q := max (lg + pow - 23) (off - 149)
    let n := if q ≤ pow then mag * 2 ^ (pow - q) else roundNat mag (q - pow)
    let inexact := if q ≤ pow then false else mag % 2 ^ (q - pow) != 0
    let bits := (q - (off - 149)) * 2 ^ 23 + n
    if bits ≥ 255 * 2 ^ 23 then (BitVec.ofNat 32 (signBit sign + 255 * 2 ^ 23), { fo := true, fx := true })
    else
      -- tiny before rounding: below 2^-126; the case that rounds up to 2^-126 is the part's choice
      let tinyBefore := lg + pow + 126 < off
      let n24 := if lg ≤ 23 then 0 else roundNat mag (lg - 23)
      let roundsUp := lg + pow + 127 = off && n24 == 2 ^ 24
      let tiny := tinyBefore && (if roundsUp then Config.tinyBefore else true)
      (BitVec.ofNat 32 (signBit sign + bits), { fu := inexact && tiny, fx := inexact })

/-- Rounds an exact integer count of 2^(pow − off); an exact zero takes the sign `zs`. -/
def roundFInt (v : Int) (pow off : Nat) (zs : Bool) : W32 × FlagSet :=
  if v = 0 then (BitVec.ofNat 32 (signBit zs), {}) else roundF (decide (v < 0)) v.natAbs pow off

/-- Sum of two finite numbers. -/
def addFinite (x y : W32) : W32 × FlagSet :=
  let p := min (fPow x) (fPow y)
  let v := fInt x * 2 ^ (fPow x - p) + fInt y * 2 ^ (fPow y - p)
  roundFInt v p 149 (fSign x && fSign y)

def fNeg (x : W32) : W32 := x ^^^ 0x80000000

/-- VADDF. -/
def fAdd (x y : W32) : W32 × FlagSet :=
  if isNaN x || isNaN y then (qNaN, { fi := isSNaN x || isSNaN y })
  else if isInf x then (if isInf y && fSign x != fSign y then (qNaN, { fi := true }) else (x, {}))
  else if isInf y then (y, {})
  else addFinite x y

/-- VSUBF: x − y. -/
def fSub (x y : W32) : W32 × FlagSet :=
  if isNaN y then (qNaN, { fi := isSNaN x || isSNaN y }) else fAdd x (fNeg y)

def infOf (s : Bool) : W32 := BitVec.ofNat 32 (signBit s + 255 * 2 ^ 23)

/-- VMULF. -/
def fMul (x y : W32) : W32 × FlagSet :=
  let s := fSign x != fSign y
  if isNaN x || isNaN y then (qNaN, { fi := isSNaN x || isSNaN y })
  else if isInf x || isInf y then
    (if isZero x || isZero y then (qNaN, { fi := true }) else (infOf s, {}))
  else roundFInt (fInt x * fInt y) (fPow x + fPow y) 298 s

/-- Fused multiply-add x·y + z, rounded once. -/
def fFma (x y z : W32) : W32 × FlagSet :=
  let s := fSign x != fSign y
  let invalid := (isInf x && isZero y) || (isZero x && isInf y)
  if isNaN x || isNaN y then (qNaN, { fi := isSNaN x || isSNaN y || isSNaN z })
  else if isNaN z then (qNaN, { fi := isSNaN z || (invalid && Config.fmaInvalidNan) })
  else if invalid then (qNaN, { fi := true })
  else if isInf x || isInf y then
    (if isInf z && fSign z != s then (qNaN, { fi := true }) else (infOf s, {}))
  else if isInf z then (z, {})
  else
    let pp := fPow x + fPow y
    let zp := fPow z + 149
    let p := min pp zp
    let v := fInt x * fInt y * 2 ^ (pp - p) + fInt z * 2 ^ (zp - p)
    roundFInt v p 298 (s && fSign z)

/-- Order of two numbers that are not NaN: x < y, −0 equal to +0. -/
def fLt (x y : W32) : Bool :=
  if isZero x && isZero y then false
  else if fSign x then (if fSign y then decide ((y &&& 0x7FFFFFFF).toNat < (x &&& 0x7FFFFFFF).toNat) else true)
  else if fSign y then false
  else decide ((x &&& 0x7FFFFFFF).toNat < (y &&& 0x7FFFFFFF).toNat)

/-- Equality of two numbers that are not NaN. -/
def fEq (x y : W32) : Bool := (isZero x && isZero y) || x == y

/-- VMINF, VMAXF: minimumNumber and maximumNumber; −0 below +0. -/
def fMinMax (mx : Bool) (x y : W32) : W32 × FlagSet :=
  let f : FlagSet := { fi := isSNaN x || isSNaN y }
  if isNaN x then (if isNaN y then qNaN else y, f)
  else if isNaN y then (x, f)
  else
    let less := if isZero x && isZero y then fSign x && !fSign y else fLt x y
    (if less != mx then x else y, f)

/-- VABSF and VNEGF. -/
def fAbs (x : W32) : W32 × FlagSet :=
  if isNaN x then (qNaN, { fi := isSNaN x }) else (x &&& 0x7FFFFFFF, {})
def fNegOp (x : W32) : W32 × FlagSet :=
  if isNaN x then (qNaN, { fi := isSNaN x }) else (fNeg x, {})

/-- VCVTQF: a Q1.31 integer times 2^-31. -/
def cvtQF (x : W32) : W32 × FlagSet := roundFInt x.toInt 118 149 false

/-- VCVTFQ: sat(rhe(x · 2^31)); NaN gives 0. -/
def cvtFQ (x : W32) : W32 × FlagSet :=
  if isNaN x then (0, { fi := true })
  else if isInf x then ((if fSign x then 0x80000000 else 0x7FFFFFFF), { fi := true })
  else
    -- x · 2^31 = fInt · 2^(fPow − 118)
    let p := fPow x
    let v : Int := if 118 ≤ p then fInt x * 2 ^ (p - 118) else rhe (fInt x) (118 - p)
    let inexact := if 118 ≤ p then false else (fInt x).natAbs % 2 ^ (118 - p) != 0
    if v > 2 ^ 31 - 1 then (0x7FFFFFFF, { fi := true })
    else if v < -(2 ^ 31 : Int) then (0x80000000, { fi := true })
    else (BitVec.ofInt 32 v, { fx := inexact })

end Sys2Proof.Machine
end

