-- ==== Sys2Proof/Machine/Flags.lean ====
section
/-!
DEFINITION. Fixed-point results of the signal engine and every flag an instruction raises (R154, R158–R161, R190).
-/

namespace Sys2Proof.Machine

/-- sat() of R190: saturates to −2^31 … 2^31 − 1. -/
def satQ (x : Int) : W32 := BitVec.ofInt 32 (max (min x (2 ^ 31 - 1)) (-(2 ^ 31)))

/-- VADDQ, VSUBQ, VMULQ, VABSQ on one lane. -/
def qAdd (x y : W32) : W32 := satQ (x.toInt + y.toInt)
def qSub (x y : W32) : W32 := satQ (x.toInt - y.toInt)
def qMul (x y : W32) : W32 := satQ (rhe (x.toInt * y.toInt) 31)
def qAbs (x : W32) : W32 := satQ (x.toInt.natAbs : Int)

/-- VSHQ: shift by n = sext(IMM18[5:0]), −32 acting as −31. -/
def qShift (x : W32) (imm6 : Nat) : W32 :=
  let n := max (signedOf 6 imm6) (-31)
  if n ≥ 0 then satQ (x.toInt * 2 ^ n.toNat) else BitVec.ofInt 32 (rhe x.toInt (-n).toNat)

/-- An exact sum brought into an accumulator: modulo 2^72, AOV when it lies outside (R158, R190). -/
def accWrap (x : Int) : BitVec 72 × FlagSet :=
  (BitVec.ofInt 72 x, { aov := decide (x < -(2 ^ 71) ∨ x > 2 ^ 71 - 1) })

/-- The move-out shift: SC as a signed value, −16 acting as −15 (R153). -/
def scValue (sc : BitVec 5) : Int := max sc.toInt (-15)

/-- A move out of an accumulator (R159): out and whether it saturated. -/
def moveOut (acc : BitVec 72) (sc : BitVec 5) : W32 × FlagSet :=
  let n := scValue sc
  -- acc · 2^sc / 2^31, rounded half to even; 31 − sc lies in 16 … 46
  let r := rhe acc.toInt (31 - n).toNat
  let out := max (min r (2 ^ 31 - 1)) (-(2 ^ 31))
  (BitVec.ofInt 32 out, { sat := decide (out ≠ r) })

/-- Redundant sign bits of a stored word (R161): 31 for 0 and for −1. -/
def redundant (x : W32) : Nat :=
  let m := if x.toInt < 0 then (-1 - x.toInt).toNat else x.toInt.toNat
  if m = 0 then 31 else 30 - Nat.log2 m

/-- sat16 of R161. -/
def sat16 (x : Int) : BitVec 16 := BitVec.ofInt 16 (max (min x (2 ^ 15 - 1)) (-(2 ^ 15)))

/-- ESR with the sticky flags of a bundle ORed in (R154, R177). -/
def orFlags (esr : W32) (f : FlagSet) : W32 :=
  esr ||| BitVec.ofNat 32 (bit f.aov * 2 ^ 19 + bit f.fi * 2 ^ 14 + bit f.fo * 2 ^ 13 + bit f.fu * 2 ^ 12
    + bit f.fx * 2 ^ 11 + bit f.sat * 2 ^ 10)

end Sys2Proof.Machine
end

