-- ==== Sys2Proof/Machine/Operands.lean ====
section
/-!
DEFINITION. Operand forms of the signal engine: the bundle and its slots (R176–R189), control registers (R184, R185),
address generation (R155, R156).
-/

namespace Sys2Proof.Machine

/-! ### Slots -/

/-- Decodes a control slot (R182, R183); none is a reserved encoding (R178). -/
def decodeCtl (c : BitVec 32) : Option Ctl :=
  let n := c.toNat
  let d : Fin 16 := Fin.ofNat 16 (nfield n 25 22)
  let a : Fin 16 := Fin.ofNat 16 (nfield n 21 18)
  let b : Fin 16 := Fin.ofNat 16 (nfield n 17 14)
  let dp : Fin 8 := Fin.ofNat 8 (nfield n 25 23)
  let ap : Fin 8 := Fin.ofNat 8 (nfield n 21 19)
  let imm := BitVec.ofNat 18 n
  let port : Fin 2 := Fin.ofNat 2 (nfield n 21 21)
  let ch : Fin 4 := Fin.ofNat 4 (nfield n 17 16)
  let lane : Fin 8 := Fin.ofNat 8 n
  let target := BitVec.ofNat 11 n
  let len := BitVec.ofNat 10 n
  let zero (hi lo : Nat) : Bool := nfield n hi lo == 0
  let ok (g : Bool) (x : Ctl) : Option Ctl := if g then some x else none
  let r (f : Alu) := ok (zero 13 0) (.alu f d a b)
  match nfield n 31 26 with
  | 0x00 => ok (zero 25 0) .nop
  | 0x01 => r .add | 0x02 => r .sub | 0x03 => r .and | 0x04 => r .or | 0x05 => r .xor
  | 0x06 => r .shl | 0x07 => r .shr | 0x08 => r .sar | 0x09 => r .mul | 0x0A => r .mulh
  | 0x0B => r .slt | 0x0C => r .sltu | 0x0D => r .min | 0x0E => r .max
  | 0x10 => some (.alui .addi d a imm)
  | 0x11 => some (.alui .andi d a imm)
  | 0x12 => some (.alui .ori d a imm)
  | 0x13 => ok (zero 17 5) (.alui .shli d a imm)
  | 0x14 => ok (zero 17 5) (.alui .shri d a imm)
  | 0x15 => ok (zero 17 5) (.alui .sari d a imm)
  | 0x16 => some (.li d (BitVec.ofNat 22 n))
  | 0x17 => ok (zero 21 16) (.lui d (BitVec.ofNat 16 n))
  | 0x18 => if h : nfield n 21 14 < 57 then ok (zero 13 0) (.movtc d ⟨_, h⟩) else none
  | 0x19 => if h : nfield n 21 14 < 57 then ok (zero 13 0) (.movfc d ⟨_, h⟩) else none
  | 0x1A => ok (zero 17 3) (.vext d a lane)
  | 0x1B => some (.vins d a lane)
  | 0x20 =>
    if h : nfield n 21 19 < 7 then ok (zero 18 11 && (nfield n 21 19 != 0 || zero 25 22)) (.br ⟨_, h⟩ d target)
    else none
  | 0x21 => ok (zero 25 11) (.call target)
  | 0x22 => ok (zero 25 0) .ret
  | 0x23 => ok (zero 25 0) .rti
  | 0x24 => ok (zero 25 0) .brk
  | 0x25 => ok (zero 25 0) .wdk
  | 0x28 => some (.loopi (BitVec.ofNat 16 (nfield n 25 10)) len)
  | 0x29 => ok (zero 21 10) (.loop d len)
  | 0x2A => ok (zero 25 0) .lexit
  | 0x2C => ok (zero 25 0) .lock
  | 0x2D => ok (zero 25 0) .unlk
  | 0x30 => ok (zero 14 0 && zero 22 22 && zero 18 18) (.dmpush dp ap ch (nbit n 15))
  | 0x31 => ok (zero 14 0 && zero 21 18) (.dmstat d ch)
  | 0x32 => ok (zero 20 0 && zero 22 22) (.sin dp port)
  | 0x33 => ok (zero 20 0 && zero 22 22) (.sout dp port)
  | 0x34 => ok (zero 20 0) (.vsin d port)
  | 0x35 => ok (zero 20 0) (.vsout d port)
  | 0x38 => ok (zero 25 3) (.bfopen lane)
  | 0x39 => ok (zero 25 0) .bfclose
  | _ => none

/-- Decodes a move slot (R187, R188). -/
def decodeMove (c : BitVec 24) : Option Move :=
  let n := c.toNat
  let reg : Fin 16 := Fin.ofNat 16 (nfield n 19 16)
  let an : Fin 8 := Fin.ofNat 8 (nfield n 15 13)
  let m : Option Modifier :=
    if nbit n 12 then some (.imm (BitVec.ofNat 12 n))
    else if nfield n 11 2 = 0 then some (.reg (Fin.ofNat 4 n)) else none
  let mk (g : Bool) (f : MoveOp) : Option Move := if g then m.map (fun m => .op f reg an m) else none
  match nfield n 23 20 with
  | 0 => if nfield n 19 0 = 0 then some .mnop else none
  | 1 => mk true .ldv
  | 2 => mk true .stv
  | 3 => mk true .lds
  | 4 => mk true .sts
  | 5 => mk true .ldvb
  | 6 => mk (nfield n 19 18 == 0) .staq
  | 7 => mk (nfield n 19 16 == 0) .moda
  | _ => none

/-- The operation of a VOP number (R190). -/
def vecOpOf (n : Nat) : Option VecOp :=
  match n with
  | 0x00 => some .vnop | 0x01 => some .vmov | 0x02 => some .vaddq | 0x03 => some .vsubq | 0x04 => some .vmulq
  | 0x05 => some .vshq | 0x06 => some .vabsq | 0x07 => some .vminq | 0x08 => some .vmaxq | 0x09 => some .vand
  | 0x0A => some .vor | 0x0B => some .vxor | 0x0C => some .vaddi | 0x0D => some .vaddk | 0x0E => some .vbc
  | 0x0F => some .vrot | 0x10 => some .vidx | 0x18 => some .mpyq | 0x19 => some .macq | 0x1A => some .msuq
  | 0x1B => some .aldq | 0x1C => some .aadd | 0x1D => some .aclr | 0x1E => some .amov | 0x1F => some .aredq
  | 0x20 => some .vaddf | 0x21 => some .vsubf | 0x22 => some .vmulf | 0x23 => some .vfmaf | 0x24 => some .vfnmf
  | 0x25 => some .vminf | 0x26 => some .vmaxf | 0x27 => some .vabsf | 0x28 => some .vnegf | 0x29 => some .vredf
  | 0x2A => some .vcvtqf | 0x2B => some .vcvtfq | 0x30 => some .srinit | 0x31 => some .vsrch | 0x32 => some .vsred
  | _ => none

/-- What a register field of the vector slot names. -/
inductive FieldUse where
  | none | vec | acc | pair
  deriving DecidableEq, Repr

/-- Fields an operation uses: D, A, B, C, and how many low bits of IMM18 (R189, R190). SRINIT
takes IMM18[1:0] as the other search operations do, and ignores them (assumption log 79). -/
def VecOp.uses : VecOp → FieldUse × FieldUse × FieldUse × FieldUse × Nat
  | .vnop => (.none, .none, .none, .none, 0)
  | .vmov | .vabsq | .vabsf | .vnegf | .vredf | .vcvtqf | .vcvtfq => (.vec, .vec, .none, .none, 0)
  | .vaddq | .vsubq | .vmulq | .vminq | .vmaxq | .vand | .vor | .vxor | .vaddi | .vaddf | .vsubf | .vmulf | .vminf
  | .vmaxf => (.vec, .vec, .vec, .none, 0)
  | .vshq => (.vec, .vec, .none, .none, 6)
  | .vaddk => (.vec, .vec, .none, .none, 18)
  | .vbc | .vrot => (.vec, .vec, .none, .none, 3)
  | .vidx => (.vec, .none, .none, .none, 16)
  | .mpyq | .macq | .msuq => (.acc, .vec, .vec, .none, 0)
  | .aldq => (.acc, .vec, .none, .none, 0)
  | .aadd | .aredq => (.acc, .acc, .none, .none, 0)
  | .aclr => (.acc, .none, .none, .none, 0)
  | .amov => (.vec, .acc, .none, .none, 0)
  | .vfmaf | .vfnmf => (.vec, .vec, .vec, .vec, 0)
  | .srinit | .vsred => (.pair, .none, .none, .none, 2)
  | .vsrch => (.pair, .vec, .vec, .none, 2)

/-- Whether a register number is one its field may hold (R178). -/
def FieldUse.allows (u : FieldUse) (r : Nat) : Bool :=
  match u with
  | .none => r == 0
  | .vec => true
  | .acc => r < 4
  | .pair => r % 2 == 0

/-- Whether a vector slot's fields are ones its operation admits. -/
def Vec.legal (v : Vec) : Bool :=
  let u := v.op.uses
  u.1.allows v.d.val && u.2.1.allows v.a.val && u.2.2.1.allows v.b.val && u.2.2.2.1.allows v.c.val
    && v.imm.toNat < 2 ^ u.2.2.2.2 && (v.op != .vnop || v.wm == 0)

/-- Decodes a vector slot. -/
def decodeVec (c : BitVec 48) : Option Vec :=
  let n := c.toNat
  match vecOpOf (nfield n 47 42) with
  | none => none
  | some op =>
    let v : Vec := { op, d := Fin.ofNat 16 (nfield n 41 38), a := Fin.ofNat 16 (nfield n 37 34),
                     b := Fin.ofNat 16 (nfield n 33 30), c := Fin.ofNat 16 (nfield n 29 26),
                     wm := BitVec.ofNat 8 (nfield n 25 18), imm := BitVec.ofNat 18 n }
    if v.legal then some v else none

/-- Whether a move slot writes memory (R188). -/
def Move.stores : Move → Bool
  | .op .stv _ _ _ | .op .sts _ _ _ | .op .staq _ _ _ => true
  | _ => false

/-- Decodes the two memory words of a bundle, low word first (R176); none raises ILLEGAL for a reserved encoding. -/
def decodeBundle (lo hi : W64) : Option Bundle :=
  let n := lo.toNat + 2 ^ 64 * hi.toNat
  match decodeCtl (BitVec.ofNat 32 (n / 2 ^ 96)), decodeMove (BitVec.ofNat 24 (n / 2 ^ 72)),
      decodeMove (BitVec.ofNat 24 (n / 2 ^ 48)), decodeVec (BitVec.ofNat 48 n) with
  | some c, some x, some y, some v =>
    if (x.stores && y.stores) || (c == .brk && (x != .mnop || y != .mnop || v.op != .vnop)) then none
    else some { c, x, y, v }
  | _, _, _, _ => none

/-! ### Registers a bundle writes -/

/-- A register write of a slot: vector, accumulator, scalar, or control register by its CREG number. -/
inductive RegWrite where
  | vec (r : Fin 16) (v : Lanes)
  | acc (r : Fin 4) (v : AccLanes)
  | sca (r : Fin 16) (v : W32)
  | ctl (r : Fin 57) (v : Nat)
  deriving DecidableEq, Repr

/-- Number of the register a write names: V 0–15, A 16–19, S 32–47, control registers from 64. -/
def RegWrite.key : RegWrite → Nat
  | .vec r _ => r.val
  | .acc r _ => 16 + r.val
  | .sca r _ => 32 + r.val
  | .ctl r _ => 64 + r.val

/-- Whether two lists of writes name one register (R179). -/
def clash (a b : List RegWrite) : Bool := a.any (fun x => b.any (fun y => x.key == y.key))

/-- ESR bits that MOVTC and the state area write: IN_LOCK and the reserved bits stay (R154, R185). -/
def esrWrite (old : W32) (v : Nat) : W32 :=
  (old &&& 0x00400000) ||| (BitVec.ofNat 32 v &&& 0xFFB87C00)

/-- Writes a control register (R184, R185): the low bits that fit its width. -/
def Engine.setCtl (e : Engine) (r : Fin 57) (v : Nat) : Engine :=
  let n := r.val
  if n < 8 then { e with xa := e.xa.set! n (BitVec.ofNat 14 v) }
  else if n < 16 then { e with ya := e.ya.set! (n - 8) (BitVec.ofNat 14 v) }
  else if n < 20 then { e with xm := e.xm.set! (n - 16) (BitVec.ofNat 16 v) }
  else if n < 24 then { e with ym := e.ym.set! (n - 20) (BitVec.ofNat 16 v) }
  else if n < 28 then { e with xb := e.xb.set! (n - 24) (BitVec.ofNat 14 v) }
  else if n < 32 then { e with yb := e.yb.set! (n - 28) (BitVec.ofNat 14 v) }
  else if n < 36 then { e with xl := e.xl.set! (n - 32) (BitVec.ofNat 14 v) }
  else if n < 40 then { e with yl := e.yl.set! (n - 36) (BitVec.ofNat 14 v) }
  else if n = 40 then { e with amode := BitVec.ofNat 32 v }
  else if n = 41 then { e with sc := BitVec.ofNat 5 v }
  else if n = 42 then { e with bexp := BitVec.ofNat 16 v }
  else if n = 43 then { e with esr := esrWrite e.esr v }
  else if n < 48 then { e with lc := e.lc.set! (n - 44) (BitVec.ofNat 16 v) }
  else if n < 52 then { e with ls := e.ls.set! (n - 48) (BitVec.ofNat 11 v) }
  else if n < 56 then { e with le := e.le.set! (n - 52) (BitVec.ofNat 11 v) }
  else { e with ldepth := BitVec.ofNat 3 v }

/-- Reads a control register as MOVFC does: XM, YM, SC and BEXP sign-extended, the rest zero-extended (R185). -/
def Engine.getCtl (e : Engine) (r : Fin 57) : W32 :=
  let n := r.val
  if n < 8 then (e.xa[n]!).setWidth 32
  else if n < 16 then (e.ya[n - 8]!).setWidth 32
  else if n < 20 then (e.xm[n - 16]!).signExtend 32
  else if n < 24 then (e.ym[n - 20]!).signExtend 32
  else if n < 28 then (e.xb[n - 24]!).setWidth 32
  else if n < 32 then (e.yb[n - 28]!).setWidth 32
  else if n < 36 then (e.xl[n - 32]!).setWidth 32
  else if n < 40 then (e.yl[n - 36]!).setWidth 32
  else if n = 40 then e.amode
  else if n = 41 then e.sc.signExtend 32
  else if n = 42 then e.bexp.signExtend 32
  else if n = 43 then e.esr
  else if n < 48 then (e.lc[n - 44]!).setWidth 32
  else if n < 52 then (e.ls[n - 48]!).setWidth 32
  else if n < 56 then (e.le[n - 52]!).setWidth 32
  else e.ldepth.setWidth 32

/-- Applies one register write. -/
def Engine.write (e : Engine) : RegWrite → Engine
  | .vec r v => { e with v := e.v.set r v }
  | .acc r v => { e with a := e.a.set r v }
  | .sca r v => { e with s := e.s.set r v }
  | .ctl r v => e.setCtl r v

def Engine.writes (e : Engine) (l : List RegWrite) : Engine := l.foldl Engine.write e

/-! ### Address generation (R155, R156) -/

/-- The low `n` bits of a number in reverse order. -/
def revBits (x : Nat) : Nat → Nat
  | 0 => 0
  | n + 1 => x % 2 * 2 ^ n + revBits (x / 2) n

/-- Length of a buffer in words: 0 means 16,384. -/
def bufLen (l : BitVec 14) : Nat := if l = 0 then 16384 else l.toNat

/-- Address mode of a register: 0 LINEAR, 1 CIRCULAR, 2 BITREV; 3 acts as LINEAR. -/
def Engine.mode (e : Engine) (y : Bool) (an : Fin 8) : Nat :=
  let k := 2 * an.val + (if y then 16 else 0)
  let m := nfield e.amode.toNat (k + 1) k
  if m = 3 then 0 else m

def Engine.addr (e : Engine) (y : Bool) (an : Fin 8) : Nat := (if y then e.ya[an] else e.xa[an]).toNat
def Engine.base (e : Engine) (y : Bool) (an : Fin 8) : Nat :=
  let k : Fin 4 := Fin.ofNat 4 an.val
  (if y then e.yb[k] else e.xb[k]).toNat
def Engine.len (e : Engine) (y : Bool) (an : Fin 8) : Nat :=
  let k : Fin 4 := Fin.ofNat 4 an.val
  bufLen (if y then e.yl[k] else e.xl[k])

/-- The value of a modifier. -/
def Engine.modifier (e : Engine) (y : Bool) : Modifier → Int
  | .reg n => (if y then e.ym[n] else e.xm[n]).toInt
  | .imm v => v.toInt

/-- `x` modulo 16,384. -/
def wrap14 (x : Int) : Nat := (x % 16384).toNat

/-- The address register after a move (R155). -/
def Engine.update (e : Engine) (y : Bool) (an : Fin 8) (m : Int) : Nat :=
  let a := e.addr y an
  let b := e.base y an
  let l := e.len y an
  match e.mode y an with
  | 0 => wrap14 (a + m)
  | 1 => wrap14 (b + (wrap14 ((a : Int) - b) + m) % (l : Int))
  | _ =>
    let n := Nat.log2 l
    let off := (((a : Int) - b) % ((2 ^ n : Nat) : Int)).toNat
    let mm := (m % ((2 ^ n : Nat) : Int)).toNat
    wrap14 (b + (revBits ((revBits off n + revBits mm n) % 2 ^ n) n : Nat))

/-- Word index of lane `k` of a vector access (R156). -/
def Engine.lane (e : Engine) (y : Bool) (an : Fin 8) (k : Nat) : Nat :=
  let a := e.addr y an
  if e.mode y an = 1 then wrap14 (e.base y an + (wrap14 ((a : Int) - e.base y an + k) % e.len y an : Nat))
  else (a + k) % 16384

end Sys2Proof.Machine
end

