-- ==== Sys2Proof/Machine/Lanes.lean ====
section
/-!
DEFINITION. What a vector slot writes: the operations of R190 and the search steps of R191–R193, over the registers
as they stood before the bundle (R177).
-/

namespace Sys2Proof.Machine

/-- Effects of a slot on registers: writes, sticky flags, the least redundant sign-bit count measured (R161; 31 where
nothing was measured), and whether the free value was used. -/
structure SlotOut where
  writes : List RegWrite := []
  flags : FlagSet := {}
  red : Nat := 31
  free : Bool := false
  deriving DecidableEq, Repr

/-- The lanes of a register, lane by lane. -/
def lanesOf (f : Fin 8 → W32) : Lanes := Vector.ofFn f
def accLanesOf (f : Fin 8 → BitVec 72) : AccLanes := Vector.ofFn f

/-- Whether lane `l` is written (R189). -/
def Vec.on (v : Vec) (l : Fin 8) : Bool := nbit v.wm.toNat l.val

/-- Flags of the written lanes together. -/
def Vec.flagsOf (v : Vec) (f : Fin 8 → FlagSet) : FlagSet :=
  (List.finRange 8).foldl (fun acc l => if v.on l then acc.or (f l) else acc) {}

def plain (x : W32) : W32 × FlagSet := (x, {})

/-- Sign-extended immediate as a lane. -/
def Vec.immS (v : Vec) : W32 := v.imm.signExtend 32

/-- The result of an operation that works on each lane alone; `x`, `y`, `z` are that lane of Va, Vb, Vc. -/
def Vec.lane (v : Vec) (x y z : W32) : W32 × FlagSet :=
  match v.op with
  | .vmov => plain x
  | .vaddq => plain (qAdd x y)
  | .vsubq => plain (qSub x y)
  | .vmulq => plain (qMul x y)
  | .vshq => plain (qShift x v.imm.toNat)
  | .vabsq => plain (qAbs x)
  | .vminq => plain (if x.toInt ≤ y.toInt then x else y)
  | .vmaxq => plain (if x.toInt ≥ y.toInt then x else y)
  | .vand => plain (x &&& y)
  | .vor => plain (x ||| y)
  | .vxor => plain (x ^^^ y)
  | .vaddi => plain (x + y)
  | .vaddk => plain (x + v.immS)
  | .vaddf => fAdd x y
  | .vsubf => fSub x y
  | .vmulf => fMul x y
  | .vfmaf => fFma x y z
  | .vfnmf => fFma (fNeg x) y z
  | .vminf => fMinMax false x y
  | .vmaxf => fMinMax true x y
  | .vabsf => fAbs x
  | .vnegf => fNegOp x
  | .vcvtqf => cvtQF x
  | .vcvtfq => cvtFQ x
  | _ => plain x

/-- The accumulator result of a lane; `acc` is the destination lane, `src` that lane of Aa, `x` and `y` of Va and Vb. -/
def Vec.accLane (v : Vec) (acc src : BitVec 72) (x y : W32) : BitVec 72 × FlagSet :=
  match v.op with
  | .mpyq => accWrap (x.toInt * y.toInt)
  | .macq => accWrap (acc.toInt + x.toInt * y.toInt)
  | .msuq => accWrap (acc.toInt - x.toInt * y.toInt)
  | .aldq => accWrap (x.toInt * 2 ^ 31)
  | .aadd => accWrap (acc.toInt + src.toInt)
  | .aclr => (0, {})
  | _ => (acc, {})

/-! ### Search (R191, R192) -/

/-- Whether `x` beats `y`: IMM18[1] selects maximum, IMM18[0] binary32. -/
def Vec.better (v : Vec) (x y : W32) : Bool :=
  let mx := nbit v.imm.toNat 1
  if nbit v.imm.toNat 0 then !isNaN y && (if mx then fLt y x else fLt x y)
  else (if mx then decide (x.toInt > y.toInt) else decide (x.toInt < y.toInt))

def Vec.same (v : Vec) (x y : W32) : Bool := if nbit v.imm.toNat 0 then !isNaN y && fEq x y else x == y

/-- One search step of a lane: candidate `cv` with index `ci` against `sv` with index `si`. -/
def Vec.search (v : Vec) (cv ci sv si : W32) : (W32 × W32) × FlagSet :=
  let c := ci &&& 0xFFFF
  let t := si &&& 0xFFFF
  if c = 0xFFFF then ((sv, si), {})
  else if nbit v.imm.toNat 0 && isNaN cv then ((sv, si), { fi := isSNaN cv })
  else if t = 0xFFFF || v.better cv sv || (v.same cv sv && c.toNat < t.toNat) then ((cv, c), {})
  else ((sv, si), {})

/-- The winner among lanes below `n` that take part, with its index: its low 16 bits, the others 0, as VSRCH writes them (the
upper bits of an index word are named for VSRCH only: assumption log 56). -/
def Vec.winner (v : Vec) (vals idxs : Lanes) : Nat → Option (W32 × W32)
  | 0 => none
  | n + 1 =>
    let best := v.winner vals idxs n
    let l : Fin 8 := Fin.ofNat 8 n
    let x := vals[l]
    let k := idxs[l] &&& 0xFFFF
    if !v.on l || k = 0xFFFF then best
    else match best with
      | none => some (x, k)
      | some (bx, bk) => if v.better x bx || (v.same x bx && k.toNat < bk.toNat) then some (x, k) else some (bx, bk)

/-- Whether one of several lanes that take part in a binary32 reduction holds a NaN: R192 then states no winner. -/
def Vec.nanTakesPart (v : Vec) (vals idxs : Lanes) : Bool :=
  let l := (List.finRange 8).filter (fun l => v.on l && (idxs[l] &&& 0xFFFF) != 0xFFFF)
  nbit v.imm.toNat 0 && l.length ≥ 2 && l.any (fun l => isNaN vals[l])

/-- fAdd with the flags so far. -/
def addTo (a b : W32 × FlagSet) : W32 × FlagSet :=
  let r := fAdd a.1 b.1
  (r.1, (a.2.or b.2).or r.2)

/-! ### The slot -/

/-- The partner of a register pair. -/
def pairOf (r : Fin 16) : Fin 16 := Fin.ofNat 16 (r.val + 1)

/-- What a vector slot does; `fr` is the free value at hand. -/
def Engine.vecOut (e : Engine) (v : Vec) (fr : W64) : SlotOut :=
  let va := e.v[v.a]
  let vb := e.v[v.b]
  let vc := e.v[v.c]
  let vd := e.v[v.d]
  let vd1 := e.v[pairOf v.d]
  let ad : Fin 4 := Fin.ofNat 4 v.d.val
  let acc := e.a[ad]
  let aa := e.a[(Fin.ofNat 4 v.a.val : Fin 4)]
  let put (f : Fin 8 → W32 × FlagSet) : SlotOut :=
    { writes := [.vec v.d (lanesOf (fun l => if v.on l then (f l).1 else vd[l]))], flags := v.flagsOf (fun l => (f l).2) }
  let putA (f : Fin 8 → BitVec 72 × FlagSet) : SlotOut :=
    { writes := [.acc ad (accLanesOf (fun l => if v.on l then (f l).1 else acc[l]))],
      flags := v.flagsOf (fun l => (f l).2) }
  let both (a b : Lanes) : List RegWrite := [.vec v.d a, .vec (pairOf v.d) b]
  match v.op with
  | .vnop => {}
  | .vbc => put (fun _ => plain va[(Fin.ofNat 8 v.imm.toNat : Fin 8)])
  | .vrot => put (fun l => plain va[(Fin.ofNat 8 (l.val + v.imm.toNat) : Fin 8)])
  | .vidx => put (fun l => plain (BitVec.ofNat 32 (v.imm.toNat % 65536 + l.val)))
  | .amov =>
    let m (l : Fin 8) := moveOut aa[l] e.sc
    { put m with
      red := if nbit e.esr.toNat 31 then
          (List.finRange 8).foldl (fun r l => if v.on l then min r (redundant (m l).1) else r) 31
        else 31 }
  | .aredq =>
    let r := accWrap ((List.finRange 8).foldl (fun t l => if v.on l then t + aa[l].toInt else t) 0)
    { writes := [.acc ad (accLanesOf (fun _ => r.1))], flags := r.2 }
  | .vredf =>
    let x (k : Fin 8) := plain (if v.on k then va[k] else 0x80000000)
    let r := addTo (addTo (addTo (x 0) (x 1)) (addTo (x 2) (x 3))) (addTo (addTo (x 4) (x 5)) (addTo (x 6) (x 7)))
    { writes := [.vec v.d (lanesOf (fun _ => r.1))], flags := r.2 }
  | .srinit =>
    { writes := both (lanesOf (fun l => if v.on l then 0x7FC00000 else vd[l]))
        (lanesOf (fun l => if v.on l then 0x0000FFFF else vd1[l])) }
  | .vsrch =>
    let r (l : Fin 8) := v.search va[l] vb[l] vd[l] vd1[l]
    { writes := both (lanesOf (fun l => if v.on l then (r l).1.1 else vd[l]))
        (lanesOf (fun l => if v.on l then (r l).1.2 else vd1[l])),
      flags := v.flagsOf (fun l => (r l).2) }
  | .vsred =>
    if v.nanTakesPart vd vd1 then
      { writes := both (lanesOf (fun _ => fr.setWidth 32)) (lanesOf (fun _ => (fr >>> 32).setWidth 32)), free := true }
    else
      let w := (v.winner vd vd1 8).getD (if nbit v.imm.toNat 0 then 0x7FC00000 else 0, 0xFFFF)
      { writes := both (lanesOf (fun _ => w.1)) (lanesOf (fun _ => w.2)) }
  | .mpyq | .macq | .msuq | .aldq | .aadd | .aclr => putA (fun l => v.accLane acc[l] aa[l] va[l] vb[l])
  | _ => put (fun l => v.lane va[l] vb[l] vc[l])

end Sys2Proof.Machine
end

