-- ==== Sys2Proof/Machine/Engine.lean ====
section
/-!
DEFINITION. The signal engine's machine: its memories, comparators, halts, traps, locked sequences and the issue of
one bundle (chapters 5, 6, R463–R470).
-/

namespace Sys2Proof.Machine

/-! ### Memories (R150, R169) -/

/-- Word number (DPA / 8) of the code word that holds word `idx` of X or Y. -/
def xyWord (i : Nat) (y : Bool) (idx : Nat) : Nat :=
  (islandWindow i + (if y then 0x210000 else 0x200000)) / 8 + idx / 2

/-- Half of a code word. -/
def halfOf (w : W64) (idx : Nat) : W32 := BitVec.ofNat 32 (if idx % 2 = 0 then w.toNat else w.toNat / 2 ^ 32)

def Engine.locked (e : Engine) : Bool := nbit e.esr.toNat 22

/-- Whether a word lies in a semaphore region (R169). -/
def Engine.inRegion (e : Engine) (y : Bool) (idx : Nat) : Bool :=
  let base := nfield e.sema.toNat (if y then 41 else 13) (if y then 28 else 0)
  let len := nfield e.sema.toNat (if y then 55 else 27) (if y then 42 else 14)
  decide (wrap14 ((idx : Int) - base) < len)

/-- The value a locked sequence has buffered for a word. -/
def Engine.buffered (e : Engine) (y : Bool) (idx : Nat) : Option W32 :=
  (e.lockBuf.reverse.find? (fun w => w.memY == y && w.word == idx)).map LockWrite.value

/-- Reads words of X or Y for the pipeline, each code word once; second: whether one was uncorrectable. -/
def State.readIdx (s : State) (i : Nat) (y : Bool) (cache : List (Nat × W64)) : List Nat → List W32 × Bool × State
  | [] => ([], false, s)
  | idx :: rest =>
    let w := xyWord i y idx
    let own := (s.eng i).buffered y idx
    match cache.find? (fun p => p.1 == w) with
    | some p =>
      let t := s.readIdx i y cache rest
      ((own.getD (halfOf p.2 idx)) :: t.1, t.2.1, t.2.2)
    | none =>
      let r := s.loadWord w
      let t := r.2.2.readIdx i y ((w, r.1) :: cache) rest
      ((own.getD (halfOf r.1 idx)) :: t.1, r.2.1 || t.2.1, t.2.2)

/-- Data and byte mask that a list of word writes gives the code word `w`. -/
def mergeHalves (w : Nat) (i : Nat) (y : Bool) : List (Nat × W32) → W64 × Byte
  | [] => (0, 0)
  | (idx, v) :: rest =>
    let t := mergeHalves w i y rest
    if xyWord i y idx = w then
      if idx % 2 = 0 then
        ((t.1 &&& 0xFFFFFFFF00000000) ||| (if t.2 &&& 0x0F = 0 then v.setWidth 64 else t.1 &&& 0xFFFFFFFF), t.2 ||| 0x0F)
      else
        ((t.1 &&& 0xFFFFFFFF) ||| (if t.2 &&& 0xF0 = 0 then v.setWidth 64 <<< 32 else t.1 &&& 0xFFFFFFFF00000000),
          t.2 ||| 0xF0)
    else t

/-- Queues a trace packet with its time; more than 16 pending on a die are dropped (R471). -/
def State.tracePkt (s : State) (p : TracePkt) : State :=
  if !s.flag DBG_TRC_CTL.EN then s
  else if (s.trace.filter (fun q => q.island / 64 == p.island / 64)).length ≥ 16 then s.bump DBG_TRC_LOST.COUNT
  else { s with trace := s.trace ++ [{ p with time := s.now }] }

/-- Pushes a value written to the terminal's word (R470). -/
def State.termPush (s : State) (i : Nat) (v : W32) : State :=
  let e := s.eng i
  if nbit e.term.toNat 62 then
    -- stimulus: a trace packet of kind 1
    s.tracePkt { island := i, kind := 1, data := v }
  else if e.txFifo.length ≥ 16 then s.setEng i { e with txOvf := BitVec.ofNat 8 (satAdd 8 e.txOvf.toNat 1) }
  else s.setEng i { e with txFifo := e.txFifo ++ [v] }

/-- Writes words to X or Y at once, code word by code word. -/
def State.writeNow (s : State) (i : Nat) (y : Bool) (l : List (Nat × W32)) : State :=
  let words := (l.map (fun p => xyWord i y p.1)).eraseDups
  let s := s.forAll words (fun w s => let m := mergeHalves w i y l; s.maskWrite w m.1 m.2)
  let e := s.eng i
  if nbit e.term.toNat 63 && !y then
    s.forAll (l.filter (fun p => p.1 == nfield e.term.toNat 61 48)) (fun p s => s.termPush i p.2)
  else s

/-- Pipeline writes: those to a held semaphore region go to the lock buffer (R169). A store in the LOCK bundle itself is
written at once, since the regions are held from its end on (assumption log 79). -/
def State.writeIdx (s : State) (i : Nat) (y : Bool) (l : List (Nat × W32)) : State :=
  let e := s.eng i
  let held := l.filter (fun p => e.locked && e.inRegion y p.1)
  let now := l.filter (fun p => !(e.locked && e.inRegion y p.1))
  let s := s.writeNow i y now
  if held.isEmpty then s
  else s.modEng i (fun e => { e with
    lockBuf := e.lockBuf ++ held.map (fun p => { memY := y, word := p.1, value := p.2 }), lockUsed := e.lockUsed + 1 })

/-- Commits the lock buffer in order (R169). -/
def State.commit (s : State) (i : Nat) : State :=
  let b := (s.eng i).lockBuf
  let part (y : Bool) := (b.filter (fun w => w.memY == y)).map (fun w => (w.word, w.value))
  -- the newest write of each word is what the step stores
  let newest (l : List (Nat × W32)) := (l.map Prod.fst).eraseDups.map (fun k =>
    (k, ((l.reverse.find? (fun p => p.1 == k)).map Prod.snd).getD 0))
  (s.writeNow i false (newest (part false))).writeNow i true (newest (part true))

/-- Leaves a locked sequence: buffer emptied, regions released, a deferred ENG_SEMA write taken (R175). -/
def Engine.unlocked (e : Engine) : Engine :=
  { e with esr := e.esr &&& 0xFFBFFFFF, lockBuf := [], lockUsed := 0, lockBundles := 0,
           sema := e.semaNext.getD e.sema, semaNext := none }

/-- Breaks a locked sequence (R170). -/
def Engine.broken (e : Engine) : Engine := { e.unlocked with esr := e.unlocked.esr ||| 0x00200000 }

/-! ### Trace, comparators, halts (R464–R471) -/

/-- Moves an engine to HALTED and posts DBG_HALTED. -/
def State.haltNow (s : State) (i : Nat) (why hit : Nat) (pc : BitVec 11) : State :=
  let s := s.modEng i (fun e => { e with
    state := 3, pc := pc, haltPc := pc, why := why, hit := hit, haltPend := 0, stopAfter := e.state == 4 })
  (s.post 0x0D05 (why * 256 + i % 256) pc.toNat).tracePkt { island := i, kind := 4, cmp := hit, loc := pc.toNat }

/-- A halt arises: taken at once, or deferred inside a locked sequence (R465). -/
def State.halt (s : State) (i : Nat) (why hit : Nat) (pc : BitVec 11) : State :=
  if (s.eng i).locked then
    s.modEng i (fun e => if e.haltPend = 0 then { e with haltPend := why, hit := hit } else e)
  else s.haltNow i why hit pc

/-- Whether comparator `k` of an engine is enabled, armed and its context filter passes (R468). -/
def State.cmpOn (s : State) (i : Nat) (k : Nat) : Bool :=
  let c := (s.eng i).comp[k]!.toNat
  nbit c 63 && nbit c 62 && (!nbit c 56 || nfield c 55 46 == s.get (SWB_ISL_STAT.CTX i))

/-- Serves one hit: HITS advances and, unless NEXT is 7, the chain moves on; second: the action, 3 where none. -/
def Engine.serve (e : Engine) (k : Nat) : Engine × Nat :=
  let c := e.comp[k]!
  let hi := if k < 4 then 15 else 13
  let c := setField c hi 0 (satAdd (hi + 1) (fieldOf c hi 0) 1)
  let next := fieldOf c 59 57
  if next ≥ 6 then ({ e with comp := e.comp.set! k c }, min 2 (fieldOf c 61 60))
  else
    let comp := e.comp.set! k (setField c 62 62 0)
    ({ e with comp := comp.set! next (setField comp[next]! 62 62 1) }, 3)

/-- Serves the hits of one bundle, lowest number first; answers the lowest comparator that halts. -/
def State.serveAll (s : State) (i : Nat) (pkt : Nat → TracePkt) : List Nat → State × Option Nat
  | [] => (s, none)
  | k :: ks =>
    let r := (s.eng i).serve k
    let s := s.setEng i r.1
    let s := if r.2 = 1 then s.tracePkt (pkt k) else s
    let t := s.serveAll i pkt ks
    (t.1, if r.2 = 0 then some k else t.2)

/-- Instruction comparators that hit a bundle about to issue. -/
def State.ibrkHits (s : State) (i : Nat) : List Nat :=
  let e := s.eng i
  if e.skipHit then []
  else (List.range 4).filter (fun k =>
    let c := (e.comp[k]!).toNat
    s.cmpOn i k && decide (nfield c 34 24 ≤ e.pc.toNat ∧ e.pc.toNat ≤ nfield c 45 35))

/-- One access for the data watches: memory, word, write, value. -/
structure Touch where
  y : Bool
  word : Nat
  write : Bool
  value : W32
  deriving DecidableEq, Repr

/-- The first touch that a data watch matches; `svc` marks service-port accesses. -/
def Engine.watched (e : Engine) (k : Nat) (svc : Bool) (l : List Touch) : Option Touch :=
  let c := (e.comp[k]!).toNat
  let rw := if nfield c 44 43 = 0 then 3 else nfield c 44 43
  if svc && !nbit c 42 then none
  else l.find? (fun t => t.y == nbit c 45 && (if t.write then nbit rw 1 else nbit rw 0)
    && decide (nfield c 27 14 ≤ t.word ∧ t.word ≤ nfield c 41 28))

/-- Serves the data watches for a bundle's (or a service access's) touches; answers the lowest that halts. -/
def State.watches (s : State) (i : Nat) (svc : Bool) (l : List Touch) : State × Option Nat :=
  let hits := [4, 5].filter (fun k => s.cmpOn i k && ((s.eng i).watched k svc l).isSome)
  let e := s.eng i
  s.serveAll i (fun k => match e.watched k svc l with
    | some t => { island := i, kind := 3, cmp := k, loc := t.word, memY := t.y, write := t.write, data := t.value }
    | none => { island := i, kind := 3, cmp := k }) hits

/-! ### Traps (R166, R170) -/

/-- Takes a trap at a bundle boundary with the given bundle to retry; a trap inside a locked sequence breaks it and
retries at its LOCK. -/
def State.trapAt (s : State) (i cause : Nat) (tpc : BitVec 11) : State :=
  let e := s.eng i
  let t := if e.locked then e.lockPc else tpc
  let b := if e.locked then { e.broken with state := if e.state = 4 then 1 else e.state } else e
  if e.trapEn && !e.inTrap then
    let s := s.setEng i { b with tpc := t, trapCause := BitVec.ofNat 8 cause, inTrap := true, pc := e.vec, skipHit := false }
    if e.haltPend != 0 && b.state != 1 then s.haltNow i e.haltPend e.hit e.vec
    else s.modEng i (fun e => { e with haltPend := 0 })
  else
    (s.setEng i { b with pc := t, state := 1, fault := true, cause := BitVec.ofNat 8 cause, haltPend := 0 }).toCairn
      0x13 (srcIsland i) sevMajor t.toNat

/-- A trap that retries the bundle at PC. -/
def State.trap (s : State) (i cause : Nat) : State := s.trapAt i cause (s.eng i).pc

/-- The channel halts of an engine that trap now: 1 a fresh one, 2 one that waits until no handler runs (R167). -/
def Engine.dmTraps (e : Engine) : Bool :=
  (e.dmPend == 1 || (e.dmPend == 2 && !e.inTrap)) && e.dm.any (fun c => c.state == 2 && c.trapEn)

/-- A trap at a boundary at which a channel's halt may trap as well: the lowest code is recorded, and a DM_HALT that is not
stays pending (R167). -/
def State.trapLow (s : State) (i cause : Nat) : State :=
  if !(s.eng i).dmTraps then s.trap i cause
  else if cause < 6 then (s.modEng i (fun e => { e with dmPend := 2 })).trap i cause
  else (s.modEng i (fun e => { e with dmPend := 0 })).trap i 6

/-! ### The control slot (R183) -/

def Alu.eval (f : Alu) (a b : W32) : W32 :=
  match f with
  | .add => a + b
  | .sub => a - b
  | .and => a &&& b
  | .or => a ||| b
  | .xor => a ^^^ b
  | .shl => a <<< (b.toNat % 32)
  | .shr => a >>> (b.toNat % 32)
  | .sar => a.sshiftRight (b.toNat % 32)
  | .mul => a * b
  | .mulh => BitVec.ofInt 32 (a.toInt * b.toInt / 2 ^ 32)
  | .slt => if a.toInt < b.toInt then 1 else 0
  | .sltu => if a.toNat < b.toNat then 1 else 0
  | .min => if a.toInt ≤ b.toInt then a else b
  | .max => if a.toInt ≥ b.toInt then a else b

def AluI.eval (f : AluI) (a : W32) (imm : BitVec 18) : W32 :=
  match f with
  | .addi => a + imm.signExtend 32
  | .andi => a &&& imm.setWidth 32
  | .ori => a ||| imm.setWidth 32
  | .shli => a <<< (imm.toNat % 32)
  | .shri => a >>> (imm.toNat % 32)
  | .sari => a.sshiftRight (imm.toNat % 32)

/-- Whether COND holds (R186). -/
def condHolds (cond : Fin 7) (a : W32) : Bool :=
  match cond with
  | 0 => true
  | 1 => a == 0
  | 2 => a != 0
  | 3 => a.toInt < 0
  | 4 => a.toInt ≥ 0
  | 5 => a.toInt > 0
  | 6 => a.toInt ≤ 0

/-- LDEPTH as it acts: 5–7 act as 4 (R185). -/
def Engine.depth (e : Engine) : Nat := min 4 e.ldepth.toNat

/-- A register pair of the scalars, low register first. -/
def Engine.pair (e : Engine) (p : Fin 8) : W64 :=
  BitVec.ofNat 64 ((e.s[2 * p.val]!).toNat + 2 ^ 32 * (e.s[2 * p.val + 1]!).toNat)

/-- Low 32 bits of ENG_DM_STAT (R175). -/
def Chan.statLow (c : Chan) : Nat :=
  c.netCode.toNat * 2 ^ 16 + c.err % 16 * 2 ^ 12 + bit c.rej * 2 ^ 11 + c.rejWhy % 4 * 2 ^ 9
    + c.queue.length % 8 * 2 ^ 6 + c.doneCnt.toNat * 4 + c.state % 4

/-- What a control slot does beyond register writes. -/
structure CtlOut where
  writes : List RegWrite := []
  esr : Option W32 := none               -- BFOPEN, BFCLOSE
  go : Option (BitVec 11) := none        -- taken transfer
  noEnd : Bool := false                  -- loop instruction or LEXIT (R195)
  illegal : Bool := false
  loopOvf : Bool := false
  wait : Bool := false
  brk : Bool := false
  lock : Bool := false
  unlk : Bool := false
  rti : Bool := false
  kick : Bool := false
  push : Option (Fin 4 × W64 × W64) := none
  pop : Nat × Nat := (0, 0)              -- stream input, words
  sout : Nat × List W64 := (0, [])       -- stream output, words
  deriving DecidableEq, Repr

/-- A loop push (R194). -/
def Engine.pushLoop (e : Engine) (count : BitVec 16) (len : BitVec 10) : CtlOut :=
  let k := e.depth
  let reg (b : Nat) : Fin 57 := Fin.ofNat 57 (b + k)
  if k = 4 then { loopOvf := true }
  else { writes := [.ctl (reg 44) count.toNat, .ctl (reg 48) (e.pc.toNat + 1), .ctl (reg 52) (e.pc.toNat + 1 + len.toNat),
                    .ctl 56 (k + 1)], noEnd := true }

/-- The words of a vector register as stream words. -/
def lanesWords (v : Lanes) : List W64 :=
  (List.range 4).map (fun k => BitVec.ofNat 64 ((v[2 * k]!).toNat + 2 ^ 32 * (v[2 * k + 1]!).toNat))

/-- Lanes from four stream words. -/
def wordsLanes (l : List W64) : Lanes :=
  lanesOf (fun k => halfOf ((l[k.val / 2]?).getD 0) k.val)

/-- What a control slot does (R183–R186, R194), on the registers before the bundle. BFCLOSE applies the block close whatever
ESR.BFP is (assumption log 79). -/
def Engine.ctlOut (e : Engine) (c : Ctl) : CtlOut :=
  let next := e.pc + 1
  match c with
  | .nop => {}
  | .alu f d a b => { writes := [.sca d (f.eval e.s[a] e.s[b])] }
  | .alui f d a imm => { writes := [.sca d (f.eval e.s[a] imm)] }
  | .li d imm => { writes := [.sca d (imm.signExtend 32)] }
  | .lui d imm => { writes := [.sca d (imm.setWidth 32 <<< 16 ||| (e.s[d] &&& 0xFFFF))] }
  | .movtc r c => { writes := [.ctl c (e.s[r]).toNat] }
  | .movfc r c => { writes := [.sca r (e.getCtl c)] }
  | .vext d a l => { writes := [.sca d (e.v[a])[l]] }
  | .vins d a l => { writes := [.vec d ((e.v[d]).set l e.s[a])] }
  | .br cond a t => if condHolds cond e.s[a] then { go := some t } else {}
  | .call t => { writes := [.sca 15 (next.setWidth 32)], go := some t }
  | .ret => { go := some ((e.s[15]).setWidth 11) }
  | .rti => if e.inTrap then { rti := true, go := some e.tpc } else {}
  | .brk => { brk := true }
  | .wdk => { kick := true }
  | .loopi n len => e.pushLoop n len
  | .loop a len => e.pushLoop ((e.s[a]).setWidth 16) len
  | .lexit => if e.depth = 0 then { noEnd := true } else { writes := [.ctl 56 (e.depth - 1)], noEnd := true }
  | .lock => if e.locked then { illegal := true } else { lock := true }
  | .unlk => if e.locked then { unlk := true } else { illegal := true }
  | .dmpush a b ch w =>
    if w && (e.dm[ch]).queue.length ≥ 4 then { wait := true } else { push := some (ch, e.pair a, e.pair b) }
  | .dmstat d ch => { writes := [.sca d (BitVec.ofNat 32 (e.dm[ch]).statLow)] }
  | .sin d p =>
    match e.si[p] with
    | [] => { wait := true }
    | w :: _ =>
      let r (k : Nat) : Fin 16 := Fin.ofNat 16 (2 * d.val + k)
      { writes := [.sca (r 0) (halfOf w 0), .sca (r 1) (halfOf w 1)], pop := (p.val, 1) }
  | .sout a p => if (e.so[p]).length ≥ 16 then { wait := true } else { sout := (p.val, [e.pair a]) }
  | .vsin d p =>
    if (e.si[p]).length < 4 then { wait := true }
    else { writes := [.vec d (wordsLanes ((e.si[p]).take 4))], pop := (p.val, 4) }
  | .vsout a p =>
    if (e.so[p]).length > 12 then { wait := true } else { sout := (p.val, lanesWords e.v[a]) }
  | .bfopen g => { esr := some ((e.esr &&& 0x007FFFFF) ||| BitVec.ofNat 32 (2 ^ 31 + g.val * 2 ^ 28 + 31 * 2 ^ 23)) }
  | .bfclose =>
    let lsb := nfield e.esr.toNat 27 23
    let g := nfield e.esr.toNat 30 28
    let sc : Int := min 15 (max (-15) ((lsb : Int) - g))
    { writes := [.ctl 41 (BitVec.ofInt 5 sc).toNat, .ctl 42 (sat16 (e.bexp.toInt - sc)).toNat],
      esr := some (setField e.esr 27 23 31) }

/-- Registers a control slot writes for the rule of two writers, those of a LEXIT at depth 0 and of a SIN or VSIN that waits
included (R179). -/
def CtlOut.claims (o : CtlOut) (c : Ctl) : List RegWrite :=
  match c with
  | .lexit => [.ctl 56 0]
  | .sin d _ => [.sca (Fin.ofNat 16 (2 * d.val)) 0, .sca (Fin.ofNat 16 (2 * d.val + 1)) 0]
  | .vsin d _ => [.vec d (Vector.replicate 8 0)]
  | _ => o.writes

/-! ### The move slots (R187, R188) -/

/-- What a move slot does: registers, the words it reads, the words it stores. -/
structure MoveOut where
  reads : List Nat := []
  stores : List (Nat × W32) := []
  update : List RegWrite := []
  dest : List W32 → List RegWrite := fun _ => []
  flags : FlagSet := {}
  red : Nat := 31

/-- What a move slot does. -/
def Engine.moveOut (e : Engine) (y : Bool) (m : Move) : MoveOut :=
  match m with
  | .mnop => {}
  | .op f r an md =>
    let up : List RegWrite := [.ctl (Fin.ofNat 57 ((if y then 8 else 0) + an.val)) (e.update y an (e.modifier y md))]
    let all := (List.range 8).map (e.lane y an)
    let one := [e.addr y an]
    match f with
    | .ldv => { reads := all, update := up, dest := fun l => [.vec r (lanesOf (fun k => l[k.val]?.getD 0))] }
    | .stv => { stores := all.zip (e.v[r]).toList, update := up }
    | .lds => { reads := one, update := up, dest := fun l => [.sca r (l[0]?.getD 0)] }
    | .sts => { stores := one.zip [e.s[r]], update := up }
    | .ldvb => { reads := one, update := up, dest := fun l => [.vec r (lanesOf (fun _ => l[0]?.getD 0))] }
    | .staq =>
      let outs := ((e.a[(Fin.ofNat 4 r.val : Fin 4)]).toList).map (fun x => Machine.moveOut x e.sc)
      { stores := all.zip (outs.map Prod.fst), update := up,
        flags := outs.foldl (fun f o => f.or o.2) {},
        red := if nbit e.esr.toNat 31 then outs.foldl (fun r o => min r (redundant o.1)) 31 else 31 }
    | .moda => { update := up }

/-- Register writes of a slot whose values are not known yet, for the rule of two writers. -/
def MoveOut.claims (o : MoveOut) : List RegWrite := o.dest [] ++ o.update

/-- A vector store to a circular buffer of fewer than 8 words names a word more than once: R156 then states no value,
and the free value stands in. -/
def settleStores (l : List (Nat × W32)) (fr : W64) : List (Nat × W32) × Bool :=
  let dup (k : Nat) : Bool := decide ((l.filter (fun p => p.1 == k)).length > 1)
  (l.map (fun p => (p.1, if dup p.1 then fr.setWidth 32 else p.2)), l.any (fun p => dup p.1))

/-! ### Issue -/

/-- End-of-loop processing at the bundle `pc` (R157, R195): the engine and the next PC; `n` bounds the loops popped. -/
def Engine.endLoop (e : Engine) (pc : BitVec 11) : Nat → Engine × BitVec 11
  | 0 => (e, pc + 1)
  | n + 1 =>
    if e.depth = 0 then (e, pc + 1)
    else
      let k := e.depth - 1
      if (e.le[k]!) != pc then (e, pc + 1)
      else if (e.lc[k]!) = 1 then { e with ldepth := BitVec.ofNat 3 k }.endLoop pc n
      else ({ e with lc := e.lc.set! k ((e.lc[k]!) - 1) }, e.ls[k]!)

/-- A data-mover push (R164): `open_` says whether the trail is open for the island's context. -/
def Chan.push (c : Chan) (open_ : Bool) (w0 w1 : W64) : Chan :=
  let why := if !open_ then 1 else if w0.toNat % 4 != 0 then 2 else if c.queue.length ≥ 4 then 3 else 0
  if why = 0 then { c with queue := c.queue ++ [(w0, w1)] } else { c with rej := true, rejWhy := why }

/-- Whether a trail is open for the context that owns an island (R164, R207): from its opening until its close begins. -/
def State.dmTrailOpen (s : State) (i : Nat) (w0 : W64) : Bool :=
  let t := s.trail (fieldOf w0 59 48)
  1 ≤ t.state && t.state ≤ 4 && t.owner == s.get (SWB_ISL_STAT.CTX i) && !s.engOut i

/-- Whether KE of an island runs: while it does not, the engine is frozen and service accesses to its memories wait
(R171). -/
def State.keRuns (s : State) (i : Nat) : Bool := nbit (s.get (CLK_ISL_STAT.RUNNING i)) 4

/-- Whether an engine issues bundles now: RUNNING or STOPPING with KE running. -/
def State.issues (s : State) (i : Nat) : Bool := ((s.eng i).state == 2 || (s.eng i).state == 4) && s.keRuns i

/-- Word number of bundle `pc` in program memory (R150). -/
def progWord (i : Nat) (pc : Nat) : Nat := (islandWindow i + 0x220000) / 8 + 2 * pc

/-- Page whose running rebuild an access must wait for: the word's own, or any of the same block memory (R129). -/
def State.rebuildFor (s : State) (r : Region) : Option Nat :=
  (s.mem.rebuilding.find? (fun p => p.1 == r.page || (r.cls == 0 && (match regionOf (8 * p.1) with
    | some q => q.unit == r.unit
    | none => false)))).map (fun p => p.1)

/-- Whether a word's page is under rebuild. -/
def State.wordHeld (s : State) (w : Nat) : Bool :=
  s.mem.rebuilding != [] && (match regionOf (8 * w) with
    | some r => (s.rebuildFor r).isSome
    | none => false)

/-- Whether a bundle meets a page of X or Y under rebuild: it waits (R129, R148). -/
def State.bundleHeld (s : State) (i : Nat) (b : Bundle) : Bool :=
  let on (y : Bool) (m : Move) : Bool :=
    let o := (s.eng i).moveOut y m
    (o.reads ++ o.stores.map Prod.fst).any (fun k => s.wordHeld (xyWord i y k))
  s.mem.rebuilding != [] && (on false b.x || on true b.y)

/-- Fetches the bundle at PC: its two words, whether one is uncorrectable, the state after. -/
def State.fetch (s : State) (i : Nat) : W64 × W64 × Bool × State :=
  let w := progWord i (s.eng i).pc.toNat
  let a := s.loadWord w
  let b := a.2.2.loadWord (w + 1)
  (a.1, b.1, a.2.1 || b.2.1, b.2.2)

/-- Whether a bundle writes a held semaphore region through a move slot. -/
def Engine.needsBuffer (e : Engine) (y : Bool) (l : List (Nat × W32)) : Bool :=
  e.locked && l.any (fun p => e.inRegion y p.1)

/-- Ends a bundle that issued: loops, lock, deferred stop and halts. -/
def State.finish (s : State) (i : Nat) (o : CtlOut) (watch : Option Nat) (merr : Bool) : State :=
  let e := s.eng i
  let r := match o.go with
    | some t => (e, t)
    | none => if o.noEnd then (e, e.pc + 1) else e.endLoop e.pc 5
  let e1 : Engine := { r.1 with pc := r.2, skipHit := false }
  let e2 := if o.rti then { e1 with inTrap := false } else e1
  let e3 := if o.lock then { e2 with esr := e2.esr ||| 0x00400000, lockPc := e.pc, lockBundles := 1 }
    else if e2.locked then { e2 with lockBundles := e2.lockBundles + 1 } else e2
  let s1 := s.setEng i e3
  let s2 := if o.unlk then (s1.commit i).modEng i Engine.unlocked else s1
  -- MEM_ERR traps before the next bundle (R152)
  let s3 := if merr && e.merrTrap then s2.trapLow i 3 else s2
  -- halts, then a deferred stop
  let e4 := s3.eng i
  let s4 := match watch with
    | some k => if e4.state == 2 || e4.state == 4 then s3.halt i 4 k e4.pc else s3
    | none => s3
  let e5 := s4.eng i
  if e5.state == 2 || e5.state == 4 then
    if e5.locked then s4
    else if e5.haltPend != 0 then s4.haltNow i e5.haltPend e5.hit e5.pc
    else if e5.state = 4 then s4.setEng i { e5 with state := 1 } else s4
  else s4

/-- Performs a bundle whose slots may issue (R177). A move-out measured in the bundle of a BFOPEN, a BFCLOSE or a MOVTC to ESR
lowers the LSB_MIN that this leaves: it counts to the block that begins (assumption log 79). -/
def State.perform (s : State) (i : Nat) (b : Bundle) : State :=
  let e := s.eng i
  let o := e.ctlOut b.c
  let mx := e.moveOut false b.x
  let my := e.moveOut true b.y
  let fr := s.fresh
  let v := e.vecOut b.v fr
  let sx := settleStores mx.stores fr
  let sy := settleStores my.stores fr
  let s0 := if v.free || sx.2 || sy.2 then s.took else s
  -- reads, on memory as it stood before the bundle
  let rx := s0.readIdx i false [] mx.reads
  let ry := rx.2.2.readIdx i true [] my.reads
  let merr := rx.2.1 || ry.2.1
  -- writes
  let e1 := (ry.2.2.eng i).writes (o.writes ++ mx.dest rx.1 ++ mx.update ++ my.dest ry.1 ++ my.update ++ v.writes)
  let e2 := match o.esr with
    | some x => { e1 with esr := x }
    | none => e1
  let red := min v.red (min mx.red my.red)
  let e3 := { e2 with esr := setField e2.esr 27 23 (min red (nfield e2.esr.toNat 27 23)) }
  let e4 := { e3 with esr := orFlags e3.esr (v.flags.or (mx.flags.or my.flags)) ||| (if merr then 0x00100000 else 0) }
  let e5 := if o.kick then { e4 with count := e4.load, expired := false } else e4
  let e6 := { e5 with si := e5.si.set! o.pop.1 ((e5.si[o.pop.1]!).drop o.pop.2),
                      so := e5.so.set! o.sout.1 ((e5.so[o.sout.1]!) ++ o.sout.2) }
  let e7 := match o.push with
    | some (ch, w0, w1) => { e6 with dm := e6.dm.set ch ((e6.dm[ch]).push (s.dmTrailOpen i w0) w0 w1) }
    | none => e6
  let s1 := ((ry.2.2.setEng i e7).writeIdx i false sx.1).writeIdx i true sy.1
  let touches := (mx.reads.zip rx.1).map (fun p => (⟨false, p.1, false, p.2⟩ : Touch))
    ++ (my.reads.zip ry.1).map (fun p => (⟨true, p.1, false, p.2⟩ : Touch))
    ++ sx.1.map (fun p => (⟨false, p.1, true, p.2⟩ : Touch)) ++ sy.1.map (fun p => (⟨true, p.1, true, p.2⟩ : Touch))
  let w := s1.watches i false touches
  w.1.finish i o w.2 merr

/-- The cause a decoded bundle traps with, lowest code first; 0 for none (R167, R179, R170). -/
def Engine.trapOf (e : Engine) (b : Bundle) : Nat :=
  let o := e.ctlOut b.c
  let mx := e.moveOut false b.x
  let my := e.moveOut true b.y
  let v := (e.vecOut b.v 0).writes
  let c := o.claims b.c
  if o.illegal || clash c mx.claims || clash c my.claims || clash c v || clash mx.claims my.claims
      || clash mx.claims v || clash my.claims v then 2
  else if o.loopOvf then 4
  else if e.locked && (e.lockBundles ≥ 64
      || ((e.needsBuffer false mx.stores || e.needsBuffer true my.stores) && e.lockUsed ≥ 16)) then 5
  else 0

/-- A BREAK bundle (R466): halts, or traps with the bundle that follows it. Inside a locked sequence it counts as one of its
bundles (R195). -/
def State.breakpoint (s : State) (i : Nat) : State :=
  let e := s.eng i
  let r := e.endLoop e.pc 5
  let s := s.setEng i { r.1 with skipHit := false, lockBundles := e.lockBundles + bit e.locked }
  if e.brkHalt && decide (s.get DBG_STAT.LEVEL ≥ 1) then (s.modEng i (fun x => { x with pc := r.2 })).halt i 5 0 r.2
  else s.trapAt i 8 r.2

/-- Issues the decoded bundle at PC, its comparators, traps and waits first. A bundle that traps does so without waiting for a
stream, a queue or a rebuild (assumption log 79). -/
def State.issueBundle (s : State) (i : Nat) (b : Bundle) : State :=
  let e := s.eng i
  let cause := e.trapOf b
  let wait := cause == 0 && ((e.ctlOut b.c).wait || s.bundleHeld i b)
  let hits := s.ibrkHits i
  let halts := hits.any (fun k => (e.serve k).2 == 0)
  if wait && !halts then s
  else
    let c := s.serveAll i (fun k => { island := i, kind := 2, cmp := k, loc := e.pc.toNat }) hits
    match c.2 with
    | some k =>
      let t := c.1.halt i 3 k e.pc
      -- deferred inside a locked sequence: the bundle issues
      if !e.locked || wait then t
      else if cause != 0 then t.trap i cause
      else if b.c == .brk then t.breakpoint i else t.perform i b
    | none =>
      if cause != 0 then c.1.trap i cause
      else if b.c == .brk then c.1.breakpoint i
      else c.1.perform i b

/-- Issues the bundle at PC of a running engine, if it is one that `want` names. -/
def State.issue (s : State) (i : Nat) (want : Bundle → Bool) : State :=
  let e := s.eng i
  if !s.issues i then s
  else if e.state = 4 ∧ !e.locked then s.setEng i { e with state := 1 }
  else if s.wordHeld (progWord i e.pc.toNat) then s      -- its page is under rebuild (R129)
  else
    let f := s.fetch i
    if f.2.2.1 then f.2.2.2.trapLow i 1
    else match decodeBundle f.1 f.2.1 with
      | none => f.2.2.2.trapLow i 2
      | some b =>
        if !want b then s
        else if e.dmTraps then f.2.2.2.trapLow i (if e.trapOf b = 0 then 8 else e.trapOf b)
        else f.2.2.2.issueBundle i b

end Sys2Proof.Machine
end

