-- ==== Sys2Proof/Machine/EngineRegs.lean ====
section
/-!
DEFINITION. Engine registers and commands other than bundles: run control, streams, channels' control, watchdog, the
state area, the debug registers (R162–R175, R464–R475).
-/

namespace Sys2Proof.Machine

/-! ### The state area (R174) -/

/-- The registers of the state area as bytes from offset 0. -/
def Engine.area (e : Engine) : List Byte :=
  e.v.toList.flatMap (fun v => v.toList.flatMap (fun x => toBytes 4 x.toNat))
  ++ e.a.toList.flatMap (fun a => a.toList.flatMap (fun x => toBytes 16 x.toNat))
  ++ e.s.toList.flatMap (fun x => toBytes 4 x.toNat)
  ++ (e.xa.toList ++ e.ya.toList).flatMap (fun x => toBytes 2 x.toNat)
  ++ (e.xm.toList ++ e.ym.toList).flatMap (fun x => toBytes 2 x.toNat)
  ++ (e.xb.toList ++ e.yb.toList).flatMap (fun x => toBytes 2 x.toNat)
  ++ (e.xl.toList ++ e.yl.toList).flatMap (fun x => toBytes 2 x.toNat)
  ++ toBytes 4 e.amode.toNat ++ toBytes 2 e.sc.toNat ++ toBytes 2 e.bexp.toNat ++ toBytes 4 e.esr.toNat
  ++ toBytes 4 e.ldepth.toNat
  ++ e.lc.toList.flatMap (fun x => toBytes 2 x.toNat) ++ e.ls.toList.flatMap (fun x => toBytes 2 x.toNat)
  ++ e.le.toList.flatMap (fun x => toBytes 2 x.toNat) ++ toBytes 8 e.pc.toNat

/-- The engine with the state area's registers taken from bytes; unused bytes are ignored. -/
def Engine.fromArea (e : Engine) (l : List Byte) : Engine :=
  let g (off n : Nat) : Nat := ofBytes ((l.drop off).take n)
  let two {w : Nat} {n : Nat} (off : Nat) : Vector (BitVec w) n := Vector.ofFn (fun k => BitVec.ofNat w (g (off + 2 * k.val) 2))
  { e with
    v := Vector.ofFn (fun r => Vector.ofFn (fun k => BitVec.ofNat 32 (g (32 * r.val + 4 * k.val) 4)))
    a := Vector.ofFn (fun r => Vector.ofFn (fun k => BitVec.ofNat 72 (g (0x200 + 128 * r.val + 16 * k.val) 9)))
    s := Vector.ofFn (fun r => BitVec.ofNat 32 (g (0x400 + 4 * r.val) 4))
    xa := two 0x440, ya := two 0x450, xm := two 0x460, ym := two 0x468, xb := two 0x470, yb := two 0x478
    xl := two 0x480, yl := two 0x488
    amode := BitVec.ofNat 32 (g 0x490 4), sc := BitVec.ofNat 5 (g 0x494 1), bexp := BitVec.ofNat 16 (g 0x496 2)
    esr := esrWrite e.esr (g 0x498 4), ldepth := BitVec.ofNat 3 (g 0x49C 1)
    lc := two 0x4A0, ls := two 0x4A8, le := two 0x4B0, pc := BitVec.ofNat 11 (g 0x4B8 2) }

/-- Bytes `off` … of a list replaced. -/
def overlay (l : List Byte) (off : Nat) (d : List Byte) : List Byte := l.take off ++ d ++ l.drop (off + d.length)

/-- The answer an access command leaves: data and status. -/
def State.answer (s : State) (data : List Byte) (status : Nat := 0) : State :=
  s.onMem (fun m => { m with lastRead := data, lastStatus := status })

/-- Status ADDR_ERR (R217). -/
def stAddrErr : Nat := 0x03

/-- Bytes an access covers. -/
def Access.bytes : Access → Nat
  | .read len => len
  | .write d => d.length

/-- An access to the state area: data and status. One that runs past its end meets the reserved range behind it (R172). -/
def State.stateArea (s : State) (i off : Nat) (a : Access) : List Byte × Nat × State :=
  let e := s.eng i
  if e.state == 2 || e.state == 4 || off + a.bytes > 0x4C0 then ([], stAddrErr, s)
  else match a with
    | .read len => ((e.area.drop off).take len, 0, s)
    | .write d => ([], 0, s.setEng i (e.fromArea ((overlay e.area off d).take 0x4C0)))

/-! ### Register reads (R175, R475) -/

/-- ENG_DM_STAT as a word. -/
def Chan.stat (c : Chan) : Nat := c.tag.toNat * 2 ^ 48 + c.wordsDone % 2 ^ 15 * 2 ^ 33 + c.statLow

/-- The value of the engine register at an offset from window base + 0x30_0000; reserved offsets read 0. -/
def State.engReg (s : State) (i off : Nat) : W64 :=
  let e := s.eng i
  let n : Nat :=
    if off = 0x000 then 0x01000000 + i
    else if off = 0x008 then bit e.autoStart * 2 ^ 15 + bit e.merrTrap * 2 ^ 8 + bit e.trapEn * 2 ^ 7
    else if off = 0x010 then
      -- PC is undefined while RUNNING: the free value stands there
      (if e.state = 2 then fieldOf s.fresh 42 32 else e.pc.toNat) * 2 ^ 32 + e.issueCap % 16 * 2 ^ 28
        + e.cause.toNat * 2 ^ 16 + bit e.locked * 2 ^ 5 + bit e.inTrap * 2 ^ 4 + bit e.fault * 2 ^ 3 + e.state % 8
    else if off = 0x018 then e.startPc.toNat
    else if off = 0x020 then e.tpc.toNat * 2 ^ 32 + e.trapCause.toNat * 2 ^ 16 + e.vec.toNat
    else if off = 0x028 then bit e.wdogEn * 2 ^ 63 + bit e.expired * 2 ^ 62 + e.load.toNat
    else if off = 0x030 then e.count.toNat
    else if off = 0x038 then e.sema.toNat
    else if 0x100 ≤ off ∧ off < 0x180 then
      let c := e.dm[(Fin.ofNat 4 ((off - 0x100) / 0x20) : Fin 4)]
      if off % 0x20 = 0x10 then bit c.trapEn * 4 else if off % 0x20 = 0x18 then c.stat else 0
    else if off = 0x800 then e.wdogMin.toNat * 2 ^ 32 + bit e.brkHalt * 16
    else if off = 0x808 then e.haltPc.toNat * 2 ^ 32 + e.why % 16 * 2 ^ 12 + e.hit % 16 * 2 ^ 8 + bit (e.haltPend != 0) * 128
      + bit e.lockBrk * 64
    else if 0x810 ≤ off ∧ off < 0x840 then (e.comp[(off - 0x810) / 8]!).toNat
    else if off = 0x840 then
      let rx := fieldOf e.term 47 34
      fieldOf e.term 63 34 * 2 ^ 34 + bit (halfOf (s.wordValue (xyWord i false rx)) rx != 0) * 2 ^ 32 + e.txOvf.toNat * 2 ^ 8
        + e.txFifo.length % 32
    else if off = 0x848 then
      match e.txFifo with
      | [] => 0
      | w :: _ => 2 ^ 63 + w.toNat
    else 0
  BitVec.ofNat 64 n

/-! ### The bus interface (R109, R172) -/

/-- Whether an island's ports are active: its context released (R202, R237). -/
def State.islActive (s : State) (i : Nat) : Bool :=
  let st := s.get (SWB_ISL_STAT.STATE i)
  st == 3 || st == 4

/-- Base frequency and ratio of clock `k` of an island: its frequency is their quotient. -/
def State.clkPair (s : State) (i k : Nat) : Nat × Nat :=
  let x := s.island i
  let fk : Fin 5 := Fin.ofNat 5 k
  (s.get (CLK_BASE.FMUL x.src[fk]), x.ratio[fk])

/-- BUSSEL of an island's clock setting (R95). -/
def State.busSel (s : State) (i : Nat) : Nat := nfield (s.get (CLK_ISL_CFG.SETTING i)) 63 62

/-- KE is slower than the island bus clock: bus requests are missed (R109). -/
def State.busSlow (s : State) (i : Nat) : Bool :=
  let e := s.clkPair i 4
  let b := s.clkPair i (s.busSel i)
  decide (e.1 * b.2 < b.1 * e.2)

/-- KE is faster than four times the island bus clock: engine responses are missed (R109). -/
def State.busFast (s : State) (i : Nat) : Bool :=
  let e := s.clkPair i 4
  let b := s.clkPair i (s.busSel i)
  decide (e.1 * b.2 > 4 * (b.1 * e.2))

/-- What a read of `n` bytes through the bus interface answers, where `d` and `t` are the engine's answer and the state
after it: the previous read's data where the request is missed, all ones where the response is (R109). What a wider read
than the previous one finds beyond that one's bytes is free. -/
def State.winData (s : State) (i n : Nat) (d : List Byte) (t : State) : List Byte × State :=
  if s.busSlow i then
    let old := (s.eng i).busData
    let k := n / 8 + 1
    if n ≤ old.length then (old.take n, s)
    else ((old ++ (List.range k).flatMap (fun j => toBytes 8 (Config.freeValue (s.free + j)).toNat)).take n,
      { s with free := s.free + k })
  else if s.busFast i then (List.replicate n 0xFF, t)
  else (d, t.modEng i (fun e => { e with busData := d }))

/-- Whether a write through an island window reaches the engine: the window answers, the engine is in service, and its bus
request is not missed (R109, R172, R217). -/
def State.winReaches (s : State) (i : Nat) : Bool := s.islActive i && !s.engOut i && !s.busSlow i

/-- Carries out a write of engine registers if it reaches the engine. -/
def State.winWrite (s : State) (i : Nat) (f : State → State) : State := if s.winReaches i then f s else s

/-- Error status of an access to the engine through the window, 0 where it answers (R217). -/
def State.winStatus (s : State) (i : Nat) : Nat := if !s.islActive i then 2 else if s.engOut i then stAddrErr else 0

/-! ### Commands -/

/-- START: STOPPED to RUNNING at PC, ignored while FAULT = 1 (R175). -/
def Engine.start (e : Engine) : Engine := if e.state = 1 ∧ !e.fault then { e with state := 2 } else e

/-- STOP (R171, R464): at once, deferred inside a locked sequence, and from HALTED to STOPPED. -/
def Engine.stop (e : Engine) : Engine :=
  if e.state = 2 then { e with state := if e.locked then 4 else 1 }
  else if e.state = 3 then { e with state := 1, stopAfter := false } else e

/-- A kick of the watchdog (R168). -/
def Engine.kick (e : Engine) : Engine := { e with count := e.load, expired := false }

/-- RESUME of a channel (R165): the current command goes on at its first word not done. -/
def Chan.resume (c : Chan) : Chan :=
  if c.state = 2 then { c with state := if c.queue.isEmpty then 0 else 1, err := 0 } else c

/-- ABORT (R165): the queue empties; an active channel stops at a word boundary with ERR = ABORTED, words in flight
complete. -/
def Chan.abort (c : Chan) : Chan :=
  { c with queue := [], state := 0, aborted := c.flying != 0, err := if c.state = 1 then 5 else c.err }

/-- RESUME of a halted engine (R464, R467). -/
def Engine.resumed (e : Engine) : Engine :=
  { e with
    state := if e.stopAfter then 4 else 2, stopAfter := false, skipHit := true
    count := if e.count.toNat < e.wdogMin.toNat then e.wdogMin else e.count }

def State.engResume (s : State) (i : Nat) : State :=
  if (s.eng i).state = 3 then
    (s.modEng i Engine.resumed).tracePkt { island := i, kind := 5, loc := (s.eng i).pc.toNat }
  else s

/-- Whether the bundle at PC would wait for a rebuild, a stream or a queue (R148). -/
def State.bundleWaits (s : State) (i : Nat) : Bool :=
  let f := s.fetch i
  s.wordHeld (progWord i (s.eng i).pc.toNat) || match decodeBundle f.1 f.2.1 with
  | some b => !f.2.2.1 && (s.eng i).trapOf b == 0 && (((s.eng i).ctlOut b.c).wait || s.bundleHeld i b)
  | none => false

/-- Issues bundles until the locked sequence ends, at most `n`. -/
def State.runLock (s : State) (i : Nat) : Nat → State
  | 0 => s
  | n + 1 => if (s.eng i).locked && s.issues i then (s.issue i (fun _ => true)).runLock i n else s

/-- STEP (R464): one bundle, or a whole locked sequence, and HALTED again with WHY 2. -/
def State.engStep (s : State) (i : Nat) : State :=
  let e := s.eng i
  if e.state != 3 || !s.keRuns i || s.bundleWaits i then s
  else
    let t := ((s.setEng i { e with state := 2, skipHit := true }).issue i (fun _ => true)).runLock i 64
    let u := if (t.eng i).state = 2 then t.haltNow i 2 0 (t.eng i).pc else t
    if (u.eng i).state = 3 then u.modEng i (fun x => { x with stopAfter := e.stopAfter }) else u

/-- Pops a terminal word. -/
def Engine.popTx (e : Engine) : Engine := { e with txFifo := e.txFifo.drop 1 }

/-- Whether a write to ENG_DBG_WR waits: its word lies in a held semaphore region (R169), KE does not run (R171), or the word's
page is under rebuild (R129). -/
def State.termWaits (s : State) (i : Nat) : Bool :=
  let e := s.eng i
  let idx := fieldOf e.term 47 34
  nbit e.term.toNat 63 && ((e.locked && e.inRegion false idx) || !s.keRuns i || s.wordHeld (xyWord i false idx))

/-- A write to ENG_DBG_WR that does not wait (R470). -/
def State.termWrite (s : State) (i : Nat) (w : W32) : State :=
  let e := s.eng i
  let idx := fieldOf e.term 47 34
  if !nbit e.term.toNat 63 then s
  else
    let r := s.loadWord (xyWord i false idx)
    if halfOf r.1 idx != 0 then r.2.2
    else
      let m := mergeHalves (xyWord i false idx) i false [(idx, w)]
      r.2.2.maskWrite (xyWord i false idx) m.1 m.2

/-- ENG_CTL.START moves a STOPPED engine without FAULT to RUNNING at PC (R175). -/
def execEngCtlStart (i : Fin 256) (s : State) : Res := .next (s.winWrite i (fun s => s.modEng i Engine.start))

/-- ENG_CTL.STOP (R171). -/
def execEngCtlStop (i : Fin 256) (s : State) : Res := .next (s.winWrite i (fun s => s.modEng i Engine.stop))

/-- ENG_CTL.CLR_FAULT clears FAULT and CAUSE (R175). -/
def execClrFault (i : Fin 256) (s : State) : Res :=
  .next (s.winWrite i (fun s => s.modEng i (fun e => { e with fault := false, cause := 0 })))

/-- A write of ENG_START sets the release PC and, while STOPPED, also PC (R175). -/
def execEngStartWrite (i : Fin 256) (pc : BitVec 11) (s : State) : Res :=
  .next (s.winWrite i (fun s => s.modEng i (fun e => { e with startPc := pc, pc := if e.state = 1 then pc else e.pc })))

/-- A write of ENG_SEMA, deferred to the end of a locked sequence (R175). -/
def execEngSemaWrite (i : Fin 256) (v : BitVec 56) (s : State) : Res :=
  .next (s.winWrite i (fun s => s.modEng i (fun e => if e.locked then { e with semaNext := some v } else { e with sema := v })))

/-- An access to the engine state area (R174). -/
def execEngStateAreaAccess (i : Fin 256) (off : Fin 0x4C0) (a : Access) (s : State) : Res :=
  let r := s.stateArea i off.val a
  if s.winStatus i ≠ 0 then .next (s.answer [] (s.winStatus i))
  else match a with
  | .read _ =>
    let d := if r.2.1 = 0 then s.winData i r.1.length r.1 r.2.2 else ([], r.2.2)
    .next (d.2.answer d.1 r.2.1)
  | .write _ => .next ((s.winWrite i (fun _ => r.2.2)).answer [] r.2.1)

/-- A service request takes its bank in the 16th cycle (R151): the pipeline waits one cycle, which the model counts. -/
def execServicePortForce (i : Fin 256) (s : State) : Res :=
  whenDue (s.keRuns i) s (s.modEng i (fun e => { e with forced := e.forced + 1 }))

/-- The fabric writes a word into a stream input with VALID = READY = 1 (R162); a bus interface that is too slow drops it
(R109). -/
def execStreamInWord (i : Fin 256) (port : Fin 2) (w : W64) (s : State) : Res :=
  let e := s.eng i
  whenDue (e.state != 0 && (e.si[port]).length < 16) s
    (if s.busSlow i then s else s.setEng i { e with si := e.si.set port (e.si[port] ++ [w]) })

/-- The fabric takes the oldest word of a stream output (R162). A bus interface that is too slow leaves it to be taken
again; one that is too fast loses it (R109). -/
def execStreamOutWord (i : Fin 256) (port : Fin 2) (s : State) : Res :=
  let e := s.eng i
  match e.so[port] with
  | [] => notDue s
  | w :: rest => .next (s.setEng i { e with
      so := if s.busSlow i then e.so else e.so.set port rest
      soOut := if s.busFast i then e.soOut else e.soOut.set port w })

/-- A write of ENG_DM_CMD word W1 pushes the command with the held W0 or rejects it (R164, R175). -/
def execEngDmCmdWrite (i : Fin 256) (ch : Fin 4) (w1 : W64) (s : State) : Res :=
  let c := (s.eng i).dm[ch]
  .next (s.winWrite i (fun s => s.modEng i (fun e => { e with dm := e.dm.set ch (c.push (s.dmTrailOpen i c.held) c.held w1) })))

/-- ENG_DM_CTL.RESUME (R165). -/
def execDmResume (i : Fin 256) (ch : Fin 4) (s : State) : Res :=
  .next (s.winWrite i (fun s => s.modEng i (fun e => { e with dm := e.dm.set ch (e.dm[ch]).resume })))

/-- ENG_DM_CTL.ABORT (R165). -/
def execDmAbort (i : Fin 256) (ch : Fin 4) (s : State) : Res :=
  .next (s.winWrite i (fun s => s.modEng i (fun e => { e with dm := e.dm.set ch (e.dm[ch]).abort })))

/-- Whether an engine's watchdog counts (R168, R467). -/
def State.wdogCounts (s : State) (i : Nat) : Bool := (s.eng i).wdogEn && s.issues i

/-- The watchdog count reaches 0 with EXPIRED = 0: EXPIRED, reload, trap WATCHDOG (R168). -/
def execWatchdogFirstExpiry (i : Fin 256) (s : State) : Res :=
  whenDue (s.wdogCounts i && !(s.eng i).expired) s
    ((s.modEng i (fun e => { e with expired := true, count := e.load })).trapLow i 7)

/-- The watchdog count reaches 0 with EXPIRED = 1: the engine stops at once (R168, R170). -/
def execWatchdogHardStop (i : Fin 256) (s : State) : Res :=
  let e := s.eng i
  let b := if e.locked then { e.broken with pc := e.lockPc } else e
  whenDue (s.wdogCounts i && e.expired) s
    ((s.setEng i { b with state := 1, fault := true, cause := 7, count := 0, haltPend := 0 }).toCairn 0x14 (srcIsland i)
      sevMajor b.pc.toNat)

/-- ENG_WDOG_CTL.KICK (R168). -/
def execEngWdogKick (i : Fin 256) (s : State) : Res := .next (s.winWrite i (fun s => s.modEng i Engine.kick))

/-- A locked sequence has held its regions for 256 KE cycles (R170): it breaks and LOCK_LIMIT is trapped. The limits of
64 bundles and 16 buffered writes break it at the bundle that passes them (`Engine.trapOf`). -/
def execLockBreak (i : Fin 256) (s : State) : Res := whenDue ((s.eng i).locked && s.keRuns i) s (s.trapLow i 5)

/-- ENG_DBG_CTL.HALT (R464, R465). -/
def execEngDbgHalt (i : Fin 256) (s : State) : Res :=
  let e := s.eng i
  whenDue (e.state == 2 || e.state == 4) s (s.winWrite i (fun s => s.halt i 1 0 e.pc))

/-- ENG_DBG_CTL.STEP (R464). -/
def execEngDbgStep (i : Fin 256) (s : State) : Res := .next (s.winWrite i (fun s => s.engStep i))

/-- ENG_DBG_CTL.RESUME (R464, R467). -/
def execEngDbgResume (i : Fin 256) (s : State) : Res := .next (s.winWrite i (fun s => s.engResume i))

/-- A deferred halt reaches 64 KE cycles (R465): the sequence breaks without a trap and the engine halts at its LOCK. -/
def execHaltDeferExpiry (i : Fin 256) (s : State) : Res :=
  let e := s.eng i
  whenDue (e.locked && e.haltPend != 0 && s.keRuns i) s
    ((s.setEng i { e.broken with lockBrk := true }).haltNow i e.haltPend e.hit e.lockPc)

/-- A read of ENG_DBG_RX answers the oldest terminal word and, with OBS = 0, pops it (R470). -/
def execEngDbgRxPop (i : Fin 256) (obs : Bool) (s : State) : Res :=
  let t := if obs then s else s.modEng i Engine.popTx
  let d := s.winData i 8 (toBytes 8 (s.engReg i 0x848).toNat) t
  .next (if s.winStatus i ≠ 0 then s.answer [] (s.winStatus i) else d.2.answer d.1)

/-- ENG_DBG_RXACK.POP pops one word (R470). -/
def execEngDbgRxack (i : Fin 256) (s : State) : Res := .next (s.winWrite i (fun s => s.modEng i Engine.popTx))

/-- A write of ENG_DBG_WR (R470); one that waits is performed when it is offered again. -/
def execEngDbgWr (i : Fin 256) (w : W32) (s : State) : Res :=
  whenDue (!s.termWaits i) s (s.winWrite i (fun s => s.termWrite i w))

end Sys2Proof.Machine
end

