-- ==== Sys2Proof/Machine/Rings.lean ====
section
/-!
DEFINITION. Descriptors of the rings: when one may start, its completion and record, the halt of a DATA ring
(R301–R308).
-/

namespace Sys2Proof.Machine

/-- Word `n` of a descriptor. -/
def Desc.word (d : Desc) (n : Nat) : W64 :=
  match n with
  | 0 => d.w0 | 1 => d.w1 | 2 => d.w2 | 3 => d.w3 | 4 => d.w4 | 5 => d.w5 | 6 => d.w6 | _ => d.w7

/-- Field [hi:lo] of word `n`. -/
def Desc.f (d : Desc) (n hi lo : Nat) : Nat := fieldOf (d.word n) hi lo

def Desc.opcode (d : Desc) : Nat := d.f 0 7 0

/-- Whether word `n` is zero outside the bits of `used`. -/
def Desc.only (d : Desc) (n used : Nat) : Bool := d.word n &&& ~~~ (BitVec.ofNat 64 used) == 0

/-- Bits [hi:lo] as a mask. -/
def bitsHL (hi lo : Nat) : Nat := (2 ^ (hi + 1 - lo) - 1) * 2 ^ lo

/-- Whether words `n` to 7 are zero. -/
def Desc.zeroFrom (d : Desc) (n : Nat) : Bool := (List.range 8).all (fun k => k < n || d.word k == 0)

/-- TYPE of a ring: 3 acts as 0. -/
def State.ringType (s : State) (r : Nat) : Nat := let t := s.get (HIF_RING_CFG.TYPE r); if t = 3 then 0 else t

/-- N of a ring. -/
def State.ringSize (s : State) (r : Nat) : Nat :=
  let l := s.get (HIF_RING_CFG.SIZE_LOG2 r)
  2 ^ (if 4 ≤ l ∧ l ≤ 16 then l else 4)

/-- Pending descriptors (R302) for a given TAIL. -/
def State.ringCount (s : State) (r tail : Nat) : Nat :=
  let n2 := 2 * s.ringSize r
  (tail + n2 - s.get (HIF_RING_HEAD.INDEX r) % n2) % n2
def State.ringPending (s : State) (r : Nat) : Nat := s.ringCount r (s.get (HIF_RING_TAIL.INDEX r))

def State.ringState (s : State) (r : Nat) : Nat := s.get (HIF_RING_STAT.STATE r)

def State.slots (s : State) (r : Nat) : List Slot := s.host.slots.peek (fun _ => []) r
/-- Sets a ring's descriptors in flight and INFLIGHT. -/
def State.setSlots (s : State) (r : Nat) (l : List Slot) : State :=
  (s.onHost (fun h => { h with slots := h.slots.poke (fun _ => []) r l })).put (HIF_RING_STAT.INFLIGHT r) l.length

/-- RINGS_ON counts the rings that are not OFF. -/
def State.setRingState (s : State) (r st : Nat) : State :=
  let was := s.ringState r
  let s1 := s.put (HIF_RING_STAT.STATE r) st
  let n := s.get HIF_STAT.RINGS_ON
  s1.put HIF_STAT.RINGS_ON (n + (if was = 0 ∧ st ≠ 0 then 1 else 0) - (if was ≠ 0 ∧ st = 0 then 1 else 0))

/-- A ring enters ERROR (R301, R303, R304). -/
def State.ringError (s : State) (r why : Nat) : State :=
  ((s.setRingState r 3).put (HIF_RING_STAT.ERR_WHY r) why).post 0x0101 (r + why * 256)

/-- Opcodes of a ring type (R308). -/
def opcodeOk (type op : Nat) : Bool :=
  op == 0 || (match type with
    | 0 => 1 ≤ op && op ≤ 5
    | 1 => op == 0x20 || op == 0x21 || (0x28 ≤ op && op ≤ 0x2E) || (0x30 ≤ op && op ≤ 0x32) || (0x38 ≤ op && op ≤ 0x3D)
        || (0x40 ≤ op && op ≤ 0x4F)
    | _ => op == 0x60)

/-- Whether the common word is refused with BAD_DESC (R307, R308). -/
def State.badCommon (s : State) (d : Desc) : Bool :=
  let t := s.ringType d.ring.val
  !opcodeOk t d.opcode || d.f 0 63 11 != 0 || (t != 0 && d.f 0 9 9 == 1)
    || (d.opcode == 0x2A && !(1 ≤ d.f 2 3 0 && d.f 2 3 0 ≤ 4))

def stBadDesc : Nat := 0x20
def stBadTrail : Nat := 0x21
def stBadLen : Nat := 0x22
def stWindow : Nat := 0x23
def stFlushed : Nat := 0x24
def stOpFail : Nat := 0x25
def stListErr : Nat := 0x26
def stOverlap : Nat := 0x27

/-- Whether the first slot that is not started may start: the ring runs (or its read descriptors complete in ERROR), and
FENCE of a DATA descriptor and the one-at-a-time rule of MGMT hold (R305, R306). -/
def State.nextUp (s : State) (r : Nat) : Option Slot :=
  let l := s.slots r
  let st := s.ringState r
  match l.find? (fun x => !x.started) with
  | none => none
  | some x =>
    let before := l.takeWhile (fun y => y.started)
    let t := s.ringType r
    if (st == 1 || st == 3)
        && (t != 0 || x.desc.f 0 9 9 == 0 || before.all (fun y => y.done.isSome)) && (t != 2 || before.isEmpty)
    then some x else none

/-- Whether a descriptor may start now. -/
def State.mayStart (s : State) (d : Desc) : Bool :=
  match s.nextUp d.ring.val with
  | some x => x.desc == d
  | none => false

/-- Marks a descriptor as started: handed to its unit. -/
def State.started (s : State) (d : Desc) : State :=
  let r := d.ring.val
  s.setSlots r ((s.slots r).map (fun x => if x.desc == d then { x with started := true } else x))

/-- Whether the record of a finished DATA descriptor can be posted now: its event queue has room, is disabled, or no
record is due (R319). -/
def State.recordRoom (s : State) (d : Desc) (status : Nat) : Bool :=
  let q := s.get (HIF_RING_CFG.EQ d.ring.val)
  !s.eqOn q || (status == 0 && d.f 0 8 8 == 0) || s.eqFill q + s.eqWaiting q < s.eqSize q

/-- Posts the records of the oldest finished descriptors of a ring in index order and frees them; `n` bounds them. -/
def State.retire (s : State) (r : Nat) : Nat → State
  | 0 => s
  | n + 1 =>
    match s.slots r with
    | x :: rest =>
      (match x.done with
        | some (st, res, arg) =>
          if s.recordRoom x.desc st then ((s.setSlots r rest).postCompletion x.desc st res arg).retire r n else s
        | none => s)
    | [] => s

/-- Completes a descriptor that its ring still holds; after a hot reset nothing is posted (R294, R305, R306). -/
def State.complDesc (s : State) (d : Desc) (status result arg : Nat) : State :=
  let r := d.ring.val
  if !(s.slots r).any (fun x => x.desc == d && x.done.isNone) then s
  else if s.ringType r = 1 then
    (s.setSlots r ((s.slots r).filter (fun x => x.desc != d))).postCompletion d status result arg
  else
    let s1 := s.setSlots r ((s.slots r).map (fun x =>
      if x.desc == d then { x with started := true, done := some (status, result, arg) } else x))
    let s2 := if s.ringType r = 0 ∧ status ≠ 0 ∧ s.ringState r = 1 then s1.setRingState r 2 else s1
    s2.retire r 8

/-- Completes with BAD_DESC the descriptors that no row of the table names, as they come up; `n` bounds them. -/
def State.dropBad (s : State) (r : Nat) : Nat → State
  | 0 => s
  | n + 1 =>
    match s.nextUp r with
    | some x => if s.badCommon x.desc then (s.complDesc x.desc stBadDesc 0 0).dropBad r n else s
    | none => s

/-- Ends a descriptor and lets the ring go on. -/
def State.endDesc (s : State) (d : Desc) (status result arg : Nat) : State :=
  (s.complDesc d status result arg).dropBad d.ring.val 8

/-- Ends a CTRL operation with its unit's code (R313). -/
def State.opDone (s : State) (d : Desc) (code arg : Nat) : State :=
  if code = 0 then s.endDesc d 0 0 arg else s.endDesc d stOpFail code 0

/-- Runs a descriptor's operation when it may start; operand fields that must be zero and are not end it with BAD_DESC
(R307). -/
def State.runDesc (s : State) (d : Desc) (op : Nat) (ok : Bool) (f : State → State) : Res :=
  if !(s.mayStart d && d.opcode == op) then notDue s
  else if !ok then .next ((s.started d).endDesc d stBadDesc 0 0)
  else .next (f (s.started d))

end Sys2Proof.Machine
end

