-- ==== Sys2Proof/Machine/Net.lean ====
section
/-!
DEFINITION. Messages on the package network: flits and their checks, ingress, release, completion at the requester, the
data-mover channels, and opening and closing trails (R163–R165, R198, R202–R223).
-/

namespace Sys2Proof.Machine

/-! ### Message format (R198, R210, R222) -/

def opRD : Nat := 0x01
def opWR : Nat := 0x02
def opMSG : Nat := 0x03
def opALLOC : Nat := 0x04
def opFREE : Nat := 0x05
def opRDRSP : Nat := 0x81
def opWRACK : Nat := 0x82
def opMSGACK : Nat := 0x83
def opALLOCRSP : Nat := 0x84
def opFREERSP : Nat := 0x85
def opSETTLE : Nat := 0x8E
def opERR : Nat := 0x8F

/-- Whether a message carries data flits (R211). -/
def Msg.carries (m : Msg) : Bool := m.op == 0x02 || m.op == 0x03 || m.op == 0x81

/-- Flits of a message. -/
def Msg.flits (m : Msg) : Nat := if m.carries then 1 + (m.len + 31) / 32 else 1

/-- The header flit's 256 bits (R210). -/
def Msg.header (m : Msg) : Nat :=
  m.op.toNat * 2 ^ 248 + m.trail.toNat * 2 ^ 236 + m.tag.toNat * 2 ^ 220 + m.len1.toNat * 2 ^ 212
    + m.rsv.toNat / 2 ^ 12 * 2 ^ 208 + m.addr.toNat * 2 ^ 160 + m.ctx.toNat * 2 ^ 150 + bit m.obs * 2 ^ 149
    + bit m.ord * 2 ^ 148 + m.rsv.toNat / 2 ^ 8 % 16 * 2 ^ 144 + m.status.toNat * 2 ^ 136 + m.rsv.toNat % 2 ^ 8 * 2 ^ 128
    + m.tcrc.toNat * 2 ^ 96 + m.operand.toNat

/-- A message with the header fields of 256 bits; data and sideband marks stay. -/
def Msg.withHeader (m : Msg) (h : Nat) : Msg :=
  { m with
    op := BitVec.ofNat 8 (h / 2 ^ 248), trail := BitVec.ofNat 12 (h / 2 ^ 236), tag := BitVec.ofNat 16 (h / 2 ^ 220)
    len1 := BitVec.ofNat 8 (h / 2 ^ 212), addr := BitVec.ofNat 48 (h / 2 ^ 160), ctx := BitVec.ofNat 10 (h / 2 ^ 150)
    obs := nbit h 149, ord := nbit h 148, status := BitVec.ofNat 8 (h / 2 ^ 136), tcrc := BitVec.ofNat 32 (h / 2 ^ 96)
    operand := BitVec.ofNat 96 h
    rsv := BitVec.ofNat 16 (nfield h 211 208 * 2 ^ 12 + nfield h 147 144 * 2 ^ 8 + nfield h 135 128) }

/-- One byte into a reflected CRC-32C; `n` bits remain. -/
def crcStep (c : Nat) : Nat → Nat
  | 0 => c
  | n + 1 => crcStep (if c % 2 = 1 then (c / 2) ^^^ 0x82F63B78 else c / 2) n

/-- CRC-32C of bytes (R222): reflected polynomial 0x1EDC_6F41. -/
def crc32c (l : List Byte) : Nat := (l.foldl (fun c b => crcStep (c ^^^ b.toNat) 8) 0xFFFFFFFF) ^^^ 0xFFFFFFFF

/-- The trail CRC of a message. -/
def Msg.crc (m : Msg) : Nat :=
  crc32c (toBytes 32 (({ m with tcrc := 0 } : Msg).header) ++ (if m.carries then m.data else []))

/-- CRC-16 with polynomial 0x8BB7 over the low `n` bits of a number, most significant first. -/
def crc16 (x : Nat) (c : Nat) : Nat → Nat
  | 0 => c
  | n + 1 =>
    let fb := nbit c 15 != nbit x n
    let c' := c * 2 % 65536
    crc16 x (if fb then c' ^^^ 0x8BB7 else c') n

/-- Check bits of a flit, its sideband above its data (the order of the bits: assumption log 9). -/
def flitCheck (data : BitVec 256) (side : BitVec 32) : Nat := crc16 (side.toNat * 2 ^ 256 + data.toNat) 0 288

/-- Virtual channel: 0 and 1 reserved, 2 and 3 best-effort, odd for responses. -/
def State.vcOf (s : State) (m : Msg) : Nat :=
  let t := s.trail m.trail.toNat
  (if t.reserved && !t.demoted then 0 else 2) + (if m.op.toNat ≥ 0x80 then 1 else 0)

/-- Sideband of flit `k` of a message. -/
def State.sideband (s : State) (m : Msg) (age k : Nat) : Nat :=
  m.trail.toNat * 2 ^ 20 + s.vcOf m * 2 ^ 18 + (if k = 0 then 2 ^ 17 else 0) + (if k + 1 = m.flits then 2 ^ 16 else 0)
    + bit m.poison * 2 ^ 15 + bit m.prov * 2 ^ 14 + age

/-- A message after a router input took flit `k` with these bits (R198). -/
def Flight.take (f : Flight) (k : Nat) (data : BitVec 256) (side : BitVec 32) (check : BitVec 16) : Flight :=
  let bad := flitCheck data side != check.toNat
  let m := if k = 0 then f.msg.withHeader data.toNat
    else { f.msg with data := (overlay f.msg.data (32 * (k - 1)) (toBytes 32 data.toNat)).take f.msg.len }
  { f with
    msg := { m with poison := f.msg.poison || bad || nbit side.toNat 15, prov := f.msg.prov || nbit side.toNat 14 }
    lost := f.lost || fieldOf side 31 20 != f.msg.trail.toNat || m.trail != f.msg.trail }

/-! ### Endpoint classes (R207, R208, R211) -/

/-- Request opcodes a destination serves. -/
def serves (v op : Nat) : Bool :=
  if vpCtx v then op == 1 || op == 2 || op == 3
  else match vpClass v with
    | 0x08 | 0x00 | 0x02 | 0x03 | 0x04 | 0x05 | 0x06 | 0x07 | 0x0C | 0x10 => op == 1 || op == 2
    | 0x0D => op == 4 || op == 5 || op == 3
    | 0x09 | 0x0A | 0x0B => op == 3
    | 0x0E => op == 1 || op == 2 || op == 3
    | _ => false

/-- Whether a destination is a memory endpoint, whose disjoint requests have no order (R215): the host window, HBM, deep memory,
island windows, the page gateway. -/
def roleMemory (v : Nat) : Bool :=
  !vpCtx v && (vpClass v == 0 || (2 ≤ vpClass v && vpClass v ≤ 8) || vpClass v == 0x0C)

/-- Message buffers of a destination (R208). -/
def buffersOf (v : Nat) : Nat :=
  if vpCtx v then 64
  else match vpClass v with
    | 0x08 => 16
    | 0x04 | 0x05 | 0x06 | 0x07 => 256
    | 0x02 | 0x03 => 4096
    | 0x00 => 2048
    | _ => 256

/-- Where a die stands (R36, R39). -/
def State.presence (s : State) (d : Nat) : Presence := s.pkg.presence.peek (fun _ => .present) d

/-- Whether a die is lost or isolated (R36, R41). -/
def State.dieGone (s : State) (d : Nat) : Bool :=
  match s.presence d with
  | .present | .silent => false
  | _ => true

/-- Whether a die is held at Lull or below, so that its bridges wait (R37, R223) (PWR_DIE_RUNG.CUR). -/
def State.dieAsleep (s : State) (d : Nat) : Bool := d < 4 && s.get PWR_DIE_RUNG.CUR / 8 ^ d % 8 ≥ 2

def State.errCount (s : State) (code : Nat) : State :=
  if 1 ≤ code ∧ code ≤ 16 then s.bump (TRL_ERR_CNT.COUNT code) else s

/-! ### Ingress (R202, R211, R216, R217) -/

/-- Whether an endpoint is a trail's source: a context's ports are while it is BOUND, and while it is MOVING up to its fence
(R218). -/
def State.isSource (s : State) (t : Trail) (who : Requester) : Bool :=
  let at_ (i p : Nat) : Bool := s.pmapState t.src ≤ 1 && s.standsAt t.src == some (.isle i p)
  match who with
  | .port i p => at_ i p
  | .dm i _ => at_ i 1
  | .unit v => t.src == v

/-- Whether a request is malformed for its opcode (BAD_OP). -/
def Msg.badOp (m : Msg) (dst : Nat) : Bool :=
  !serves dst m.op.toNat || m.rsv != 0 || m.status != 0
    || (if m.op.toNat = opWR ∨ m.op.toNat = opMSG then m.data.length != m.len else m.data != [])
    || (m.op.toNat = opALLOC && m.operand.toNat ≥ 2 ^ 14) || (m.op.toNat = opFREE && m.operand.toNat ≥ 2 ^ 9)

/-- Whether a request leaves its trail's window. -/
def Trail.outside (t : Trail) (m : Msg) : Bool :=
  t.winLog2 != 0 && (m.addr.toNat < t.winBase * 4096 || m.addr.toNat + m.len > t.winBase * 4096 + 2 ^ t.winLog2)

/-- The ingress check (R217): 0 where a request may be held for release. -/
def State.ingressCode (s : State) (who : Requester) (m : Msg) : Nat :=
  let t := s.trail m.trail.toNat
  if t.state = 0 ∨ t.state = 5 ∨ !s.isSource t who then 0x09
  else if m.badOp t.dst then 0x0A
  else if t.outside m then 0x03
  else if t.state = 4 then 0x02
  else if t.state = 3 then 0x01
  else 0

/-- Records a request under its tag at its requester. -/
def State.record (s : State) (who : Requester) (m : Msg) : State :=
  (s.setTxn m.tag.toNat (some {
    trail := m.trail.toNat, op := m.op.toNat, addr := m.addr.toNat, len := m.len, who := who, no := s.net.issueNo,
    start := s.now })).onNet (fun n => { n with issueNo := n.issueNo + 1 })

/-- A request that passed the ingress check is held for release, with its trail CRC. -/
def State.accept (s : State) (who : Requester) (m : Msg) : State :=
  let m := if (s.trail m.trail.toNat).crcEn then { m with tcrc := BitVec.ofNat 32 m.crc } else m
  (s.record who m).onNet (fun n => { n with held := n.held ++ [m] })

/-! ### The host engine's data (R309, R312) -/

/-- VPIDs of the host engine and of the debug bus master as sources. -/
def vpHostEngine : Nat := 0x0100
def vpDebug : Nat := 0x0F00

/-- LEN and SEG of a DATA descriptor, and its trails. -/
def Desc.len (d : Desc) : Nat := d.f 2 63 32
def Desc.seg (d : Desc) : Nat := d.f 5 8 0
def Desc.dstTrail (d : Desc) : Nat := d.f 2 27 16
def Desc.srcTrail (d : Desc) : Nat := d.f 2 11 0

/-- The slot whose job uses a tag. -/
def State.jobAt (s : State) (tag : Nat) : Option Slot :=
  if 0x8000 ≤ tag ∧ tag < 0xC000 then
    (s.slots ((tag - 0x8000) / 64)).find? (fun x => match x.job with
      | some j => j.tag == tag
      | none => false)
  else none

def State.setJob (s : State) (d : Desc) (j : Job) : State :=
  s.setSlots d.ring.val ((s.slots d.ring.val).map (fun x => if x.desc == d then { x with job := some j } else x))

/-- Bytes that must be there before a job writes: a whole message for STREAM_OUT. -/
def Job.want (j : Job) (d : Desc) : Nat := if d.opcode = 4 then min d.seg (d.len - j.pos) else 1

/-- FILL's bytes: the byte at address `a` takes byte `a` mod 8 of PATTERN. -/
def fillBytes (pattern a n : Nat) : List Byte :=
  (List.range n).map (fun k => BitVec.ofNat 8 (pattern / 256 ^ ((a + k) % 8)))

/-- The next message of a job and the job with it outstanding: reads and writes within 256-byte blocks, STREAM messages of
SEG bytes; none when nothing is left to read. -/
def Job.next (j : Job) (d : Desc) : Option (Msg × Job) :=
  let a := d.f 4 47 0 + j.pos
  let room := 256 - a % 256
  let mk (op trail n addr : Nat) (data : List Byte) : Msg :=
    { op := BitVec.ofNat 8 op, trail := BitVec.ofNat 12 trail, tag := BitVec.ofNat 16 j.tag, len1 := BitVec.ofNat 8 (n - 1)
      addr := BitVec.ofNat 48 addr, data := data }
  if d.opcode = 2 then
    let n := min (d.len - j.pos) room
    some (mk opWR d.dstTrail n a (fillBytes d.w5.toNat a n), { j with out := n })
  else if j.buf ≠ [] ∧ j.want d ≤ j.buf.length then
    let n := if d.opcode = 4 then j.want d else min j.buf.length room
    some (mk (if d.opcode = 4 then opMSG else opWR) d.dstTrail n a (j.buf.take n), { j with out := n })
  else match j.src with
    | [] => none
    | (x, l) :: rest =>
      let n := if d.opcode = 5 then min d.seg l
        else min (min l (256 - x % 256)) (if d.opcode = 4 then j.want d - j.buf.length else 256)
      some (mk opRD d.srcTrail n x [], { j with out := n, src := if n < l then (x + n, l - n) :: rest else rest })

/-- A job goes on with its next message; one that the ingress turns away ends it. -/
def State.jobGo (s : State) (d : Desc) (j : Job) : State :=
  if j.fail.isSome || j.pos ≥ d.len then s.setJob d j
  else match j.next d with
    | none => s.setJob d j
    | some (m, j') =>
      let code := s.ingressCode (.unit vpHostEngine) m
      if code ≠ 0 then (s.errCount code).setJob d { j with fail := some (code, 0) }
      else (s.setJob d j').accept (.unit vpHostEngine) m

/-- Bytes for addresses from `a` on, those that `wild` names replaced by free values. -/
def State.blur (s : State) (wild : Nat → Bool) (a : Nat) : List Byte → List Byte × State
  | [] => ([], s)
  | b :: bs =>
    let t := (if wild a then s.took else s).blur wild (a + 1) bs
    ((if wild a then BitVec.ofNat 8 s.fresh.toNat else b) :: t.1, t.2)

/-- A job takes the response to its message (R279, R311, R312). -/
def State.jobReply (s : State) (r : Msg) : State :=
  match s.jobAt r.tag.toNat with
  | some { desc := d, job := some j, .. } =>
    let op := r.op.toNat
    let rest : Job := { j with out := 0, prov := [] }
    let read (data : List Byte) : State :=
      let t := s.blur (fun a => j.wild.any (fun p => p.1 ≤ a && a < p.1 + p.2)) (d.f 4 47 0 + j.pos + j.buf.length) data
      t.2.jobGo d { rest with buf := j.buf ++ t.1 }
    if op = opSETTLE then (if r.status = 0 then read j.prov else s.setJob d { rest with fail := some (5, 0) })
    else if op = opRDRSP then (if r.prov then s.setJob d { j with prov := r.data } else read r.data)
    else if op = opERR then
      s.setJob d { rest with fail := some (r.status.toNat, if r.status = 0x0C then r.operand.toNat % 256 else 0) }
    else s.jobGo d { rest with pos := j.pos + j.out, buf := j.buf.drop j.out }
  | _ => s

/-- A unit that issued a request takes its response: the host engine, the debug bus master; others only free the tag. -/
def State.unitReply (s : State) (v : Nat) (r : Msg) : State :=
  if v = vpHostEngine then s.jobReply r
  else if v = vpDebug then
    { s with dbg := { s.dbg with ap := some (r.data, if r.op.toNat = opERR then r.status.toNat else 0) } }
  else s

/-! ### Completion at the requester -/

/-- A late or misdelivered message is discarded and counted. -/
def State.late (s : State) : State := s.bump TRL_LATE_CNT.COUNT

/-- Physical port number of an island port. -/
def portNo (i p : Nat) : Nat := 2 * i + p

/-- Puts a message into the buffers of an island port. -/
def State.toPort (s : State) (i p : Nat) (m : Msg) : State :=
  s.onNet (fun n => { n with rx := n.rx.poke (fun _ => []) (portNo i p) (n.rx.peek (fun _ => []) (portNo i p) ++ [m]) })

/-- A service-port access touches words that a data watch may name (R468). -/
def State.svcTouch (s : State) (i : Nat) (l : List Touch) : State :=
  let r := s.watches i true l
  match r.2 with
  | some k => if (r.1.eng i).state == 2 || (r.1.eng i).state == 4 then r.1.halt i 4 k (r.1.eng i).pc else r.1
  | none => r.1

/-- The current command of a channel. -/
def Chan.cur (c : Chan) : W64 × W64 := (c.queue.head?).getD (0, 0)
def Chan.dir (c : Chan) : Bool := fieldOf c.cur.1 63 63 == 1
def Chan.memY (c : Chan) : Bool := fieldOf c.cur.1 62 62 == 1
def Chan.len (c : Chan) : Nat := fieldOf c.cur.2 49 36 + 1
/-- Word index of the n-th word of the current command. -/
def Chan.word (c : Chan) (n : Nat) : Nat := (fieldOf c.cur.2 63 50 + n) % 16384

/-- X or Y word indices of the message in flight. -/
def Chan.flyIdx (c : Chan) : List Nat := (List.range c.flying).map (fun k => (fieldOf c.sent.2 63 50 + c.first + k) % 16384)
def Chan.flyDir (c : Chan) : Bool := fieldOf c.sent.1 63 63 == 1
def Chan.flyY (c : Chan) : Bool := fieldOf c.sent.1 62 62 == 1

/-- The message in flight has ended; `n` words of it are done, which WORDS_DONE counts unless an aborted command's message
ends under the next command. -/
def Chan.landed (c : Chan) (n : Nat) : Chan :=
  { c with wordsDone := if c.aborted && c.state != 0 then c.wordsDone else c.wordsDone + n, flying := 0, prov := [],
           aborted := false }

def State.chan (s : State) (i c : Nat) : Chan := (s.eng i).dm[(Fin.ofNat 4 c : Fin 4)]
def State.modChan (s : State) (i c : Nat) (f : Chan → Chan) : State :=
  s.modEng i (fun e => { e with dm := e.dm.set (Fin.ofNat 4 c : Fin 4) (f e.dm[(Fin.ofNat 4 c : Fin 4)]) })

/-- Halts a channel (R165): 1 MEM_UE, 2 NET_ERR, 3 SETTLE_FAIL, 4 FENCED; with TRAP_EN the trap DM_HALT is raised. -/
def State.dmHalt (s : State) (i c err code : Nat) : State :=
  let x := s.chan i c
  let s := s.modChan i c (fun x => { x with state := 2, err := err, netCode := BitVec.ofNat 8 code, flying := 0, prov := [], aborted := false })
  if x.trapEn then s.modEng i (fun e => { e with dmPend := if e.dmPend = 0 then 1 else e.dmPend }) else s

/-- Writes words that arrived for a channel and counts them. -/
def State.dmStore (s : State) (i c : Nat) (l : List W32) : State :=
  let x := s.chan i c
  let pairs := x.flyIdx.zip l
  let ws := (pairs.map (fun p => xyWord i x.flyY p.1)).eraseDups
  let s := s.forAll ws (fun w s => let m := mergeHalves w i x.flyY pairs; s.maskWrite w m.1 m.2)
  let s := s.svcTouch i (pairs.map (fun p => ⟨x.flyY, p.1, true, p.2⟩))
  s.modChan i c (fun x => x.landed l.length)

/-- Words of little-endian bytes. -/
def words32 : Nat → List Byte → List W32
  | 0, _ => []
  | n + 1, l => BitVec.ofNat 32 (ofBytes (l.take 4)) :: words32 n (l.drop 4)

/-- Whether a command's words meet a held semaphore region: service accesses to it wait (R169). -/
def State.regionBusy (s : State) (i : Nat) (y : Bool) (idx : List Nat) : Bool :=
  (s.eng i).locked && idx.any (fun k => (s.eng i).inRegion y k)

/-- A channel's message failed: the channel halts, unless the message's command was aborted. -/
def State.dmFailed (s : State) (i c err code : Nat) : State :=
  let x := s.chan i c
  if x.state = 1 ∧ !x.aborted then s.dmHalt i c err code else s.modChan i c (fun x => x.landed 0)

/-- The answer to a channel's message: status, and data for a read. -/
def State.dmAnswer (s : State) (i c status : Nat) (data : List Byte) : State :=
  let x := s.chan i c
  if status != 0 then s.dmFailed i c 2 status
  else if x.flyDir then s.modChan i c (fun x => x.landed x.flying)
  else s.dmStore i c (words32 x.flying data)

/-- Frees a tag. -/
def State.freeTag (s : State) (tag : Nat) : State := s.setTxn tag none

/-- Completes the outstanding request under a response's tag (R211, R216): a response without one is late. -/
def State.complete (s : State) (r : Msg) : State :=
  let tag := r.tag.toNat
  match s.txn tag with
  | none =>
    (s.onNet (fun n => { n with quarantine := n.quarantine.filter (fun t => t != tag) })).late
  | some t =>
    let op := r.op.toNat
    if op = opSETTLE then
      let s := (s.freeTag tag)
      match t.who with
      | .port i p =>
        s.onNet (fun n => { n with settle := n.settle.poke (fun _ => []) (portNo i p) (n.settle.peek (fun _ => []) (portNo i p) ++ [(BitVec.ofNat 6 tag, r.status == 0)]) })
      | .dm i c =>
        if r.status = 0 then s.dmStore i c (s.chan i c).prov
        else s.dmFailed i c 3 0
      | .unit v => s.unitReply v r
    else if op = opRDRSP ∧ r.prov then
      let s := s.setTxn tag (some { t with prov := true })
      match t.who with
      | .port i p => s.toPort i p r
      | .dm i c => s.modChan i c (fun x => { x with prov := words32 x.flying r.data })
      | .unit v => s.unitReply v r
    else
      let s := s.freeTag tag
      match t.who with
      | .port i p => s.toPort i p r
      | .dm i c => s.dmAnswer i c (if op = opERR then r.status.toNat else 0) r.data
      | .unit v => s.unitReply v r

/-- An ERR response to a request. -/
def Msg.err (m : Msg) (status : Nat) : Msg :=
  { m with op := BitVec.ofNat 8 opERR, status := BitVec.ofNat 8 status, data := [], operand := 0, len1 := 0, rsv := 0,
           prov := false, poison := false }

/-- Completes a request locally with an error response of the device. -/
def State.failTag (s : State) (m : Msg) (status : Nat) : State := (s.errCount status).complete (m.err status)

/-! ### Ingress (R202, R216) -/

/-- Issues a request at the ingress: recorded under its tag, then held for release or completed with the check's
error. -/
def State.ingress (s : State) (who : Requester) (m : Msg) : State :=
  let code := s.ingressCode who m
  if code != 0 then ((s.record who m).failTag m code) else s.accept who m

/-- Whether a tag is free: neither outstanding nor in quarantine. -/
def State.tagFree (s : State) (tag : Nat) : Bool := s.txn tag == none && !s.net.quarantine.contains tag

/-- The context that occupies an island. -/
def State.occupant (s : State) (i : Nat) : Nat := s.get (SWB_ISL_STAT.CTX i)

/-! ### Data-mover messages (R163, R165, R211) -/

/-- Issues the next message of a channel's current command: up to 256 bytes, stopping before a word that neither code
corrects; it waits for a page under rebuild (R129). -/
def State.dmNext (s : State) (i c : Nat) : State :=
  let x := s.chan i c
  let w0 := x.cur.1
  let n := min 64 (x.len - x.wordsDone)
  let idx := (List.range n).map (fun k => x.word (x.wordsDone + k))
  let tag := 64 * portNo i 1 + 48 + 4 * c
  if x.state != 1 || x.flying != 0 || n == 0 || !s.keRuns i || s.regionBusy i x.memY idx || !s.tagFree tag
      || (x.dir && idx.any (fun k => s.wordHeld (xyWord i x.memY k))) then s
  else
    let trail := fieldOf w0 59 48
    let mk (op len : Nat) (data : List Byte) : Msg :=
      { op := BitVec.ofNat 8 op, trail := BitVec.ofNat 12 trail, tag := BitVec.ofNat 16 tag,
        len1 := BitVec.ofNat 8 (len - 1), addr := BitVec.ofNat 48 (fieldOf w0 47 0 + 4 * x.wordsDone),
        ctx := BitVec.ofNat 10 (s.occupant i), data := data }
    let send (s : State) (k : Nat) (m : Msg) : State := (s.modChan i c (fun x => { x with flying := k, sent := x.cur, first := x.wordsDone })).ingress (.dm i c) m
    if x.dir then
      let op := if vpCtx (s.trail trail).dst then opMSG else opWR
      -- the words before the first uncorrectable one
      let good := (idx.takeWhile (fun k => !(s.loadWord (xyWord i x.memY k)).2.1)).length
      let r := s.readIdx i x.memY [] (idx.take (max 1 good))
      if good = 0 then r.2.2.dmHalt i c 1 0
      else
        let l := r.1
        let s := r.2.2.svcTouch i ((idx.take good).zip l |>.map (fun p => ⟨x.memY, p.1, false, p.2⟩))
        send s good (mk op (4 * good) (l.flatMap (fun v => toBytes 4 v.toNat)))
    else send s n (mk opRD (4 * n) [])

/-- Begins the next queued command of an idle channel, or goes on with the current one (R163). -/
def State.dmStart (s : State) (i c : Nat) : State :=
  let x := s.chan i c
  if x.queue.isEmpty then s
  else if x.state = 0 then
    (s.modChan i c (fun x => { x with
      state := 1, wordsDone := 0, err := 0, tag := BitVec.ofNat 16 (fieldOf x.cur.2 31 16) })).dmNext i c
  else s.dmNext i c

/-! ### Release and responses (R213, R208) -/

/-- Tokens of a reserved trail's bucket now, in 1/32 flit: a unit fills 1/32 flit per ns, up to the burst. -/
def State.tokens (s : State) (t : Trail) : Nat := min (32 * t.fb) (t.tok + t.fu * (s.now - t.tokAt))

/-- Whether the oldest held message of a trail may be released. -/
def State.mayRelease (s : State) (t : Trail) (m : Msg) : Bool :=
  let stalled (v : Nat) : Bool := match s.site v with
    | some x => s.pwr.stall.contains x.die
    | none => false
  (t.state == 1 || t.state == 5) && t.used < t.cred && !s.pwr.stall.contains 7 && !stalled t.src && !stalled t.dst
    && (!t.counts || s.tokens t ≥ 32 * m.flits)

/-- Releases the oldest held message of a trail. -/
def State.release (s : State) (t : Nat) : State :=
  match s.net.held.find? (fun m => m.trail.toNat == t) with
  | none => s
  | some m =>
    let x := s.trail t
    if !s.mayRelease x m then s
    else
      let s := s.setTrail t { x with used := x.used + 1, tok := if x.counts then s.tokens x - 32 * m.flits else x.tok,
                                     tokAt := s.now }
      s.onNet (fun n => { n with held := n.held.erase m, flight := n.flight ++ [{ msg := m, age := s.now % 1024 }] })

/-- Sends a response on a request's trail. -/
def State.respond (s : State) (q : Msg) (op status : Nat) (data : List Byte := []) (operand : BitVec 96 := 0)
    (addr : Nat := 0) (prov : Bool := false) : State :=
  let m : Msg := { q with op := BitVec.ofNat 8 op, status := BitVec.ofNat 8 status, data := data, operand := operand,
                          addr := BitVec.ofNat 48 addr, rsv := 0, prov := prov, poison := false,
                          len1 := if data = [] then 0 else BitVec.ofNat 8 (data.length - 1) }
  let m := if (s.trail q.trail.toNat).crcEn then { m with tcrc := BitVec.ofNat 32 m.crc } else m
  let s := if op = opERR then s.errCount status else s
  s.onNet (fun n => { n with resp := n.resp ++ [{ msg := m, age := s.now % 1024 }] })

/-- Fault source of an endpoint (R217, R406). -/
def State.unitSource (s : State) (v : Nat) : Nat :=
  if vpCtx v then (match s.ctxPort v with | some p => srcIsland p.1 | none => srcSaddle 11)
  else match vpClass v with
    | 0x00 => srcSaddle 0 | 0x01 => srcSaddle 1 | 0x02 => srcSaddle 2 | 0x03 => srcSaddle 3
    | 0x04 | 0x05 | 0x06 | 0x07 => srcBank (vpClass v - 4) (vpInst v)
    | 0x08 => srcIsland (vpInst v)
    | 0x09 => srcSaddle (0x20 + vpInst v / 4) | 0x0A => srcSaddle (0x10 + vpInst v)
    | 0x0B => srcSaddle (0x10 + vpInst v / 4)
    | 0x0C | 0x0D => srcSaddle 5 | 0x0E => srcSaddle 9 | 0x0F => srcSaddle 0x30
    | _ => srcSaddle 11

/-- The egress checks of a message: 0, or POISON (6) or TRAIL_CRC (7) with Cairn's message (R217, R222). -/
def State.egress (s : State) (m : Msg) (at_ : Nat) : Nat × State :=
  if m.poison then (6, s.toCairn 0x11 (s.unitSource at_) sevMajor m.trail.toNat)
  else if (s.trail m.trail.toNat).crcEn && s.armed (s.unitSource at_) 3 then
    (7, (s.useCheck (s.unitSource at_) 3).toCairn 0x12 (s.unitSource at_) sevMajor m.trail.toNat)
  else if (s.trail m.trail.toNat).crcEn && m.crc != m.tcrc.toNat then
    (7, s.toCairn 0x12 (s.unitSource at_) sevMajor m.trail.toNat)
  else (0, s)

/-- The request in flight under a tag, if it may be performed now: no earlier request of its trail overlaps it, and with
ORD none is outstanding (R215); requests to other than a memory endpoint keep their order. -/
def State.dueRequest (s : State) (tag op : Nat) : Option Flight :=
  match s.net.flight.find? (fun f => f.msg.tag.toNat == tag) with
  | none => none
  | some f =>
    let m := f.msg
    let t := s.trail m.trail.toNat
    let before := s.net.flight.takeWhile (fun g => g.msg.tag.toNat != tag)
    let same := before.filter (fun g => g.msg.trail == m.trail)
    let overlap := same.any (fun g => g.msg.addr.toNat < m.addr.toNat + m.len && m.addr.toNat < g.msg.addr.toNat + g.msg.len)
    let earlier := match s.txn tag with
      | some x => s.net.txns.any (fun p => match p.2 with
          | some y => y.trail == x.trail && y.no < x.no
          | none => false)
      | none => false
    let asleep := match s.site t.dst with
      | some st => s.dieAsleep st.die
      | none => false
    if m.op.toNat != op || overlap || (m.ord && earlier) || (!roleMemory t.dst && same != []) || asleep then none else some f

/-- Takes a message out of the flight list. -/
def State.dropFlight (s : State) (f : Flight) : State := s.onNet (fun n => { n with flight := n.flight.erase f })
def State.dropResp (s : State) (f : Flight) : State := s.onNet (fun n => { n with resp := n.resp.erase f })

/-- Performs the request under a tag at its destination, after the egress checks (R211, R217); a message whose trail does
not end there is discarded and counted. -/
def State.serve (s : State) (tag op : Nat) (f : Msg → State → State) : Res :=
  match s.dueRequest tag op with
  | none => notDue s
  | some fl =>
    let s1 := s.dropFlight fl
    if fl.lost then .next s1.late
    else
      let e := s1.egress fl.msg (s.trail fl.msg.trail.toNat).dst
      if e.1 ≠ 0 then .next (e.2.respond fl.msg opERR e.1) else .next (f fl.msg e.2)

/-- Whether an earlier response of the same trail has not been delivered: a trail's responses keep their order (R30, R215). -/
def State.behind (s : State) (tag op : Nat) : Bool :=
  let is (f : Flight) : Bool := f.msg.tag.toNat == tag && f.msg.op.toNat == op
  match s.net.resp.find? is with
  | some f => (s.net.resp.takeWhile (fun g => !is g)).any (fun g => g.msg.trail == f.msg.trail)
  | none => false

/-- Delivers the oldest response with a tag and opcode to its requester, after the egress checks. -/
def State.deliver (s : State) (tag op : Nat) : State :=
  match s.net.resp.find? (fun f => f.msg.tag.toNat == tag && f.msg.op.toNat == op) with
  | none => s
  | some f =>
    let s1 := s.dropResp f
    -- words that arrive for a held semaphore region, or while KE does not run, wait (R169, R171)
    let wait := match s.txn tag with
      | some { who := .dm i c, .. } =>
        let x := s.chan i c
        !s.keRuns i || !x.flyDir && s.regionBusy i x.flyY x.flyIdx
      | _ => false
    if wait then s
    else if f.lost then s1.late
    else
      let e := s1.egress f.msg (s.trail f.msg.trail.toNat).src
      if e.1 != 0 then (e.2.errCount e.1).complete (f.msg.err e.1)
      else
        let s2 := e.2.complete f.msg
        -- a channel goes on with its next message
        match s.txn tag with
        | some { who := .dm i c, .. } => s2.dmNext i c
        | _ => s2

/-! ### Opening and closing (R204, R207–R209) -/

/-- Credits in use at a destination. -/
def State.credUsed (s : State) (dst : Nat) : Nat :=
  s.net.trails.foldl (fun n p => if p.2.state != 0 && p.2.dst == dst then n + p.2.cred else n) 0

/-- The lowest free trail ID below 0xFE0 among `n` downward. -/
def State.freeId (s : State) : Nat → Option Nat
  | 0 => none
  | n + 1 => match s.freeId n with
    | some k => some k
    | none => if (s.trail n).state = 0 then some n else none

/-- Whether a VPID may name a trail's endpoint. -/
def vpOk (v : Nat) : Bool := if vpCtx v then vpCtxId v != 0x3FF else vpFixedOk v

/-- Whether an endpoint is on a lost or isolated die (3), absent (4), moving (2) or placed (1). -/
def State.endState (s : State) (v : Nat) : Nat :=
  if vpCtx v then
    match s.pmapState v with
    | 0 => 1
    | 1 => 2
    | 2 => 4
    | _ => 3
  else if s.dieGone (fixedSite v).die then 3 else 1

/-- The fields of a trail descriptor as a trail, credits still as requested. -/
def trailOf (w0 w1 w3 : W64) : Trail :=
  let res := fieldOf w0 5 5 == 1
  { dst := fieldOf w0 47 32, src := fieldOf w0 31 16, owner := fieldOf w0 15 6, reserved := res,
    crcEn := fieldOf w0 4 4 == 1, assign := fieldOf w0 51 51 == 1, bePrio := fieldOf w0 3 2,
    fu := if res then fieldOf w1 63 57 else 0, ru := if res then fieldOf w1 56 50 else 0,
    fb := if res then fieldOf w1 49 43 else 0, rb := if res then fieldOf w1 42 36 else 0,
    srcBrg := fieldOf w1 35 34, dstBrg := fieldOf w1 33 32,
    cred := max (if fieldOf w1 31 27 = 0 then 8 else fieldOf w1 31 27) (if res then (fieldOf w1 49 43 + 8) / 9 + 1 else 0),
    winBase := fieldOf w3 63 28, winLog2 := fieldOf w3 27 22 }

/-- Whether a context source, or a source without privilege, names an endpoint it may not reach (DENIED). -/
def State.trailDenied (s : State) (x : Trail) : Bool :=
  let dc := vpClass x.dst
  let sc := vpClass x.src
  !vpCtx x.dst && ((vpCtx x.src && (dc == 0x0F || dc == 0x10))
    || (dc == 0x10 && (vpCtx x.src || !(sc == 0x01 || sc == 0x0E || (sc == 0x0F && s.get DBG_STAT.LEVEL == 3)))))

/-- Whether source and destination cannot form a trail (BAD_PAIR): one port, under whatever VPIDs (R206), a kind that cannot
initiate, or a transceiver endpoint whose receive trail is open. -/
def State.badPair (s : State) (x : Trail) : Bool :=
  let sc := vpClass x.src
  x.src == x.dst || (s.site x.src).isSome && s.site x.src == s.site x.dst && s.physPort x.src == s.physPort x.dst || (!vpCtx x.src && (sc == 0x00 || (0x02 ≤ sc && sc ≤ 0x08) || sc == 0x0C || sc == 0x0D || sc == 0x10
    || ((0x09 ≤ sc && sc ≤ 0x0B) && s.net.trails.any (fun p => p.2.state != 0 && p.2.src == x.src))))

/-- BAD_FIELD of R207. -/
def State.badField (s : State) (w0 w1 w2 w3 : W64) : Bool :=
  let x := trailOf w0 w1 w3
  let id := fieldOf w0 63 52
  !vpOk x.dst || !vpOk x.src || fieldOf w0 0 0 != 0 || fieldOf w1 26 0 != 0 || fieldOf w2 31 0 != 0 || fieldOf w3 21 0 != 0
    || x.srcBrg == 3 || x.dstBrg == 3
    || (x.reserved && (x.fu == 0 || x.fu > s.unitsCap || x.ru == 0 || x.ru > s.unitsCap || x.fb < 9 || x.fb > 100
        || x.rb < 9 || x.rb > 100))
    || (1 ≤ x.winLog2 && x.winLog2 ≤ 11) || x.winLog2 ≥ 49
    || (x.winLog2 ≥ 12 && x.winBase * 4096 % 2 ^ x.winLog2 != 0)
    || (fieldOf w0 51 51 == 0 && (id ≥ 0xFE0 || (s.trail id).state != 0))

/-- Opens a trail (R207): result code, the trail's ID, the state after. -/
def State.openTrail (s : State) (w0 w1 w2 w3 : W64) : Nat × Nat × State :=
  let x := trailOf w0 w1 w3
  let assign := fieldOf w0 51 51 == 1
  if s.badField w0 w1 w2 w3 then (1, 0, s)
  else if s.trailDenied x then (5, 0, s)
  else if s.badPair x then (6, 0, s)
  else
    match (if assign then s.freeId 0xFE0 else some (fieldOf w0 63 52)) with
    | none => (2, 0, s)
    | some t =>
      let a := s.endState x.src
      let b := s.endState x.dst
      let st := if a = 3 ∨ b = 3 then 3 else if a = 4 ∨ b = 4 then 4 else if a = 2 ∨ b = 2 then 2 else 1
      let route : Option (Site × Site × Route) := match s.site x.src, s.site x.dst with
        | some p, some q => if st != 1 then none
          else ((s.routes p q x.srcBrg x.dstBrg).find? (fun r => !x.reserved || s.fits r x.fu x.ru x.fb x.rb)).map
            (fun r => (p, q, r))
        | _, _ => none
      if st = 1 ∧ route = none then (3, 0, s)
      else if s.credUsed x.dst + x.cred > buffersOf x.dst then (4, 0, s)
      else
        let s1 := (s.setTrail t { x with state := st, tok := 32 * x.fb, tokAt := s.now }).nextSeq t
        let s2 := match route with
          | some (p, q, r) => s1.placeTrail t p q r
          | none => s1
        (0, t, s2.refreshTrails)

/-- Whether an open names a context that is MOVING (R223). -/
def State.namesMoving (s : State) (w0 : W64) : Bool :=
  let mv (v : Nat) : Bool := vpCtx v && s.pmapState v == 1
  mv (fieldOf w0 47 32) || mv (fieldOf w0 31 16)

/-- Whether requests of a trail are outstanding. -/
def State.trailBusy (s : State) (t : Nat) : Bool :=
  s.net.txns.any (fun p => match p.2 with
    | some x => x.trail == t
    | none => false)

/-- Completes the held messages of the trails that `p` names with an error. -/
def State.failHeld (s : State) (p : Nat → Bool) (code : Nat) : State :=
  let l := s.net.held.filter (fun m => p m.trail.toNat)
  (s.onNet (fun n => { n with held := n.held.filter (fun m => !p m.trail.toNat) })).forAll l (fun m s => s.failTag m code)

/-- Moves a trail to CLOSING; a STALLED or UNPLACED trail's held messages end with TRAIL_CLOSED (R209, R223). -/
def State.closeTrail (s : State) (t : Nat) : State :=
  let x := s.trail t
  let s1 := s.setTrail t { x with state := 5 }
  (if x.state = 2 ∨ x.state = 4 then s1.failHeld (fun k => k == t) 0x09 else s1).refreshTrails

/-- Returns a trail to CLOSED: its units, bursts and credits are released. -/
def State.closed (s : State) (t : Nat) : State :=
  ((s.failHeld (fun k => k == t) 0x09).setTrail t {}).refreshTrails

/-- STATE of a die's system trail (R207): open from the package's identity check on, SUSPENDED while the die is lost. -/
def State.sysState (s : State) (d : Nat) : Nat :=
  if s.cfg.phase = 0 ∨ s.cfg.phase = 7 then 0 else if s.dieGone d then 3 else 1

/-- Words of a system trail (R204, R207): those of the configuration ports are reserved with 32 units each way, from H(2,2) over
one bridge; what else they hold, and what the other system trails are, the manual does not say (assumption log 80). -/
def State.sysWords (s : State) (t : Nat) : Nat × Nat × Nat × Nat :=
  let f (n mask : Nat) : Nat := (Config.systemWord t n).toNat &&& mask
  let d := t - 0xFE0
  if t ≥ 0xFE4 then (f 0 (2 ^ 64 - 2), f 1 (bitsHL 63 27), f 2 (bitsHL 63 32), f 3 (bitsHL 63 22))
  else if s.sysState d = 0 then (0, 0, 0, 0)
  else
    let b := bit (s.sysSouth d)
    (t * 2 ^ 52 + s.sysState d * 2 ^ 48 + f 0 (bitsHL 47 6) + 2 ^ 5 + f 0 (bitsHL 4 2), 32 * 2 ^ 57 + 32 * 2 ^ 50 + f 1 (bitsHL 49 27),
      f 2 (bitsHL 63 47) + hubCount 14 (bridgeRouter d b) * 2 ^ 43 + 2 ^ 41 + f 2 (bitsHL 40 34) + b * 2 ^ 32, f 3 (bitsHL 63 22))

/-- TRL_TQ_W0–W3 of a trail (R204). -/
def State.tqWords (s : State) (t : Nat) : Nat × Nat × Nat × Nat :=
  let x := s.trail t
  if t ≥ 0xFE0 then s.sysWords t
  else if x.state = 0 then (0, 0, 0, 0)
  else
    (t * 2 ^ 52 + bit x.assign * 2 ^ 51 + x.state * 2 ^ 48 + x.dst * 2 ^ 32 + x.src * 2 ^ 16 + x.owner * 2 ^ 6
        + bit x.reserved * 2 ^ 5 + bit x.crcEn * 2 ^ 4 + x.bePrio * 4 + bit x.demoted * 2,
      x.fu * 2 ^ 57 + x.ru * 2 ^ 50 + x.fb * 2 ^ 43 + x.rb * 2 ^ 36 + x.srcBrg * 2 ^ 34 + x.dstBrg * 2 ^ 32 + x.cred * 2 ^ 27,
      x.bound * 2 ^ 52 + x.nr * 2 ^ 47 + x.nh * 2 ^ 43 + x.nb * 2 ^ 41 + x.bmax * 2 ^ 34 + x.sbUsed * 2 ^ 33
        + x.dbUsed * 2 ^ 32,
      x.winBase * 2 ^ 28 + x.winLog2 * 2 ^ 22)

end Sys2Proof.Machine
end

