-- ==== Sys2Proof/Machine/Crypt.lean ====
section
/-!
DEFINITION. Encrypted ranges: the encryption stage, key slots, conversions, and the link keys (R274–R287).
-/

namespace Sys2Proof.Machine

/-! ### Ranges (R274, R281) -/

def State.rngState (s : State) (n : Nat) : Nat := s.get (CRY_RNG_CTL.STATE n)
def State.rngBase (s : State) (n : Nat) : Nat := s.get (CRY_RNG_BASE.BASE n) * 0x200000
def State.rngEnd (s : State) (n : Nat) : Nat := s.rngBase n + s.get (CRY_RNG_BASE.SIZE n) * 0x200000
def State.rngTag (s : State) (n : Nat) : Nat := s.get (CRY_RNG_TAG.TAG_BASE n) * 0x40000
def State.rngTagEnd (s : State) (n : Nat) : Nat := s.rngTag n + s.get (CRY_RNG_BASE.SIZE n) * 0x40000
def State.treeline (s : State) (n : Nat) : Nat := s.get (CRY_RNG_TREE.TREELINE n) * 64

/-- Whether two spans [a, b) and [c, d) share an address. -/
def spansMeet (a b c d : Nat) : Bool := a < d && c < b

/-- The range, not OFF, that holds an address. -/
def State.rangeAt (s : State) (a : Nat) : Option Nat :=
  (List.range 16).find? (fun n => s.rngState n != 0 && s.rngBase n ≤ a && a < s.rngEnd n)

/-- Whether a span meets the tag region of a range that is not OFF: ADDR_ERR for all but the encryption stage (R274). -/
def State.meetsTags (s : State) (a len : Nat) : Bool :=
  (List.range 16).any (fun n => s.rngState n != 0 && spansMeet a (a + len) (s.rngTag n) (s.rngTagEnd n))

/-- The form a line is kept in. -/
inductive LineForm where
  | plain
  | enc (slot epoch : Nat)
  | shut                    -- every access ends with ADDR_ERR
  deriving DecidableEq, Repr

/-- The form in force for a line (R281): by its range's state, on its side of the treeline. -/
def State.lineForm (s : State) (line : Nat) : LineForm :=
  match s.rangeAt (64 * line) with
  | none => .plain
  | some n =>
    let below := 64 * line < s.treeline n
    let cur := LineForm.enc (s.get (CRY_RNG_CTL.SLOT n)) (s.get (CRY_RNG_CTL.EPOCH n))
    match s.rngState n with
    | 1 => if below then cur else if s.get (CRY_RNG_CTL.CONV n) = 1 then .shut else .plain
    | 3 => if below then cur else .enc (s.get (CRY_RNG_CTL.OLD_SLOT n)) (s.get (CRY_RNG_CTL.EPOCH n) - 1)
    | 4 => if below then .plain else cur
    | _ => cur

/-- Address of a line's tag (R276). -/
def State.tagAddr (s : State) (line : Nat) : Nat :=
  match s.rangeAt (64 * line) with
  | some n => s.rngTag n + 8 * (line - s.rngBase n / 64)
  | none => 0

/-- Whether a line is encrypted. -/
def State.lineEnc (s : State) (line : Nat) : Bool := match s.lineForm line with
  | .enc _ _ => true
  | _ => false

/-! ### The encryption stage (R276) -/

/-- Contents of a key slot as byte values: K1, K2, Kt. -/
def State.slotKey (s : State) (k : Nat) : List Nat := (s.cry.slots.peek (fun _ => []) k).map (fun b => b.toNat)

def lineTweak (line epoch : Nat) : Nat := line + epoch * 2 ^ 64

/-- Tag of a ciphertext line: the first 8 bytes of the CMAC over tweak and ciphertext. -/
def lineTag (kt : List Nat) (tweak : Nat) (cipher : List Nat) : List Nat := (cmac kt 4 (leBytes 16 tweak ++ cipher)).take 8

/-- A stored line and tag decrypted: its plaintext and whether the tag verifies. -/
def State.openLine (s : State) (line slot epoch : Nat) (raw tag : List Byte) : List Byte × Bool :=
  let k := s.slotKey slot
  let c := raw.map (fun b => b.toNat)
  let t := lineTweak line epoch
  ((xtsDec (k.take 32) ((k.drop 32).take 32) t c).map (fun b => BitVec.ofNat 8 b),
    lineTag (k.drop 64) t c == tag.map (fun b => b.toNat))

/-- A line encrypted: ciphertext and tag. -/
def State.sealLine (s : State) (line slot epoch : Nat) (data : List Byte) : List Byte × List Byte :=
  let k := s.slotKey slot
  let t := lineTweak line epoch
  let c := xtsEnc (k.take 32) ((k.drop 32).take 32) t (data.map (fun b => b.toNat))
  (c.map (fun b => BitVec.ofNat 8 b), (lineTag (k.drop 64) t c).map (fun b => BitVec.ofNat 8 b))

/-- The security alarm (R277): counter, event, Cairn. -/
def State.authAlarm (s : State) (line trail : Nat) : State :=
  ((s.bump CRY_AUTH_CNT.COUNT).post 0x0603 (64 * line) (trail + (s.rangeAt (64 * line)).getD 0 * 2 ^ 16)).toCairn
    0x16 (srcSaddle 4) sevCritical (64 * line)

/-- A span cut at line boundaries: (line, first byte, bytes), in rising order; `n` bounds the lines. -/
def lineSpans (a len : Nat) : Nat → List (Nat × Nat × Nat)
  | 0 => []
  | n + 1 =>
    if len = 0 then []
    else
      let k := min len (64 - a % 64)
      (a / 64, a, k) :: lineSpans (a + k) (len - k) n

def spansOf (a len : Nat) : List (Nat × Nat × Nat) := lineSpans a len (len / 64 + 2)

/-- What a read through the encryption stage gives: bytes, an uncorrectable word, the first line whose tag failed, whether an
encrypted line was touched. -/
structure SealedRead where
  data : List Byte := []
  ue : Bool := false
  bad : Option Nat := none
  enc : Bool := false
  deriving DecidableEq, Repr

/-- Reads HBM bytes line by line. -/
def State.sealedRead (s : State) : List (Nat × Nat × Nat) → SealedRead × State
  | [] => ({}, s)
  | (line, a, k) :: rest =>
    let one : SealedRead × State :=
      match s.lineForm line with
      | .enc slot epoch =>
        let r := s.load (64 * line) 64
        let t := r.2.2.load (s.tagAddr line) 8
        let o := s.openLine line slot epoch r.1 t.1
        ({ data := (o.1.drop (a % 64)).take k, ue := r.2.1 || t.2.1, bad := if o.2 then none else some line, enc := true }, t.2.2)
      | _ =>
        let r := s.load a k
        ({ data := r.1, ue := r.2.1 }, r.2.2)
    let more := one.2.sealedRead rest
    ({ data := one.1.data ++ more.1.data, ue := one.1.ue || more.1.ue, bad := one.1.bad.or more.1.bad,
       enc := one.1.enc || more.1.enc }, more.2)

/-- Writes HBM bytes line by line (R280): the code of the request, 0, MEM_UE or AUTH_FAIL, and the state after. -/
def State.sealedWrite (s : State) (trail : Nat) (bs : List Byte) : List (Nat × Nat × Nat) → Nat × State
  | [] => (0, s)
  | (line, a, k) :: rest =>
    let part := bs.take k
    let put (s : State) (slot epoch : Nat) (data : List Byte) : State :=
      let c := s.sealLine line slot epoch data
      (s.store (64 * line) c.1).store (s.tagAddr line) c.2
    let one : Nat × State :=
      match s.lineForm line with
      | .enc slot epoch =>
        if k = 64 then (0, put s slot epoch part)
        else
          let r := s.load (64 * line) 64
          let t := r.2.2.load (s.tagAddr line) 8
          let o := s.openLine line slot epoch r.1 t.1
          if r.2.1 || t.2.1 then (4, t.2.2)
          else if o.2 then (0, put t.2.2 slot epoch (o.1.take (a % 64) ++ part ++ o.1.drop (a % 64 + k)))
          else (5, t.2.2.authAlarm line trail)
      | _ => (0, s.store a part)
    let more := one.2.sealedWrite trail (bs.drop k) rest
    (if one.1 ≠ 0 then one.1 else more.1, more.2)

/-- Whether a span lies in one HBM data region (R126, R226). -/
def hbmSpan (a len : Nat) : Bool := inHbm a && a % 0x600000000 + len ≤ 0x5E8000000

/-- HBM addresses that an access to a span touches, line by line: its bytes and the tags of its encrypted lines (R276). -/
def State.touched (s : State) (a len : Nat) : List Nat :=
  (spansOf a len).flatMap (fun p => if s.lineEnc p.1 then [p.2.1, s.tagAddr p.1] else [p.2.1])

/-- The first address of an access that lies in a retired granule (R269, R272). -/
def State.retiredAt (s : State) (a len : Nat) : Option Nat := (s.touched a len).find? (fun x => s.pcRetired (pcOf x))

/-- What keeps an HBM access from being performed: ADDR_ERR, or HBM_ERR for a retired granule of its data or its tags, which
is logged (R269, R272, R281). -/
def State.hbmCheck (s : State) (a len : Nat) : Nat :=
  if !hbmSpan a len || s.meetsTags a len || (spansOf a len).any (fun p => s.lineForm p.1 == .shut) then 3
  else if (s.retiredAt a len).isSome then 15
  else 0

/-! ### Key slots (R275, R284) -/

/-- CRY_SLOT_USE follows the ranges. -/
def State.showSlots (s : State) : State :=
  let l := (List.range 16).flatMap (fun n => match s.rngState n with
    | 0 => []
    | 3 => [s.get (CRY_RNG_CTL.SLOT n), s.get (CRY_RNG_CTL.OLD_SLOT n)]
    | _ => [s.get (CRY_RNG_CTL.SLOT n)])
  s.put CRY_SLOT_USE.IN_USE ((List.range 32).map (fun k => if l.contains k then 2 ^ k else 0)).sum

def State.slotLoaded (s : State) (k : Nat) : Bool := nbit (s.get CRY_SLOT_STAT.LOADED) k
def State.slotInUse (s : State) (k : Nat) : Bool := nbit (s.get CRY_SLOT_USE.IN_USE) k

def State.setSlot (s : State) (k : Nat) (l : List Byte) : State :=
  (s.put CRY_SLOT_STAT.LOADED (setBit (s.get CRY_SLOT_STAT.LOADED) k (l != []))).onCry
    (fun c => { c with slots := c.slots.poke (fun _ => []) k l })

/-- KEY_ZERO (R275). -/
def execKeyZero (d : Desc) (s : State) : Res :=
  let k := d.f 2 4 0
  s.runDesc d 0x39 (d.only 2 (bitsHL 4 0) && d.zeroFrom 3) (fun s =>
    if s.slotInUse k then s.opDone d 5 0 else (s.setSlot k []).opDone d 0 0)

/-! ### Range operations (R281, R284) -/

def State.setTree (s : State) (n a : Nat) : State := s.put (CRY_RNG_TREE.TREELINE n) (a / 64)

def State.showQueue (s : State) : State := s.put CRY_CTL.RKY_QUEUED s.cry.queue.length

/-- Queues a conversion. -/
def State.queueConv (s : State) (j : ConvJob) : State := (s.onCry (fun c => { c with queue := c.queue ++ [j] })).showQueue

/-- BAD_RANGE (R274) for a base, size and tag base in bytes. -/
def State.badRange (s : State) (n : Nat) (host : Bool) (base size tag : Nat) : Bool :=
  let e := base + size
  let te := tag + size / 8
  let place := if host then base ≥ hostBase && e ≤ 2 ^ 48 && tag ≥ hostBase && te ≤ 2 ^ 48
    else hbmSpan base size && hbmSpan tag (size / 8) && hbmStack base == hbmStack tag
  let others := (List.range 16).any (fun m => m != n && s.rngState m != 0
    && (spansMeet base e (s.rngBase m) (s.rngEnd m) || spansMeet base e (s.rngTag m) (s.rngTagEnd m)
      || spansMeet tag te (s.rngBase m) (s.rngEnd m) || spansMeet tag te (s.rngTag m) (s.rngTagEnd m)))
  let regions := [(s.get SWB_IMG_BASE.BASE, s.get SWB_IMG_SIZE.SIZE), (s.get SWB_HBS_BASE.BASE, s.get SWB_HBS_SIZE.SIZE),
    (s.get SWB_PT_BASE.BASE, s.get SWB_PT_SIZE.SIZE), (s.get SWB_POOL_BASE.BASE, s.get SWB_POOL_SIZE.SIZE)]
  size == 0 || !place || others || spansMeet base e tag te
    || regions.any (fun r => spansMeet tag te (r.1 * 0x200000) (r.1 * 0x200000 + r.2 * 0x200000))

/-- RANGE_ENABLE (R281, R284). -/
def execRangeEnable (d : Desc) (s : State) : Res :=
  let n := d.f 2 3 0
  let from_ := d.f 2 7 6
  let ok := d.only 2 (bitsHL 12 0 + bitsHL 30 16) && (from_ == 1 || from_ == 2) && d.only 3 (bitsHL 47 21)
    && d.only 4 (bitsHL 47 18) && d.zeroFrom 5
  s.runDesc d 0x3A ok (fun s =>
    let host := d.f 2 4 4 == 1
    let size := d.f 2 30 16
    if s.rngState n ≠ 0 then s.opDone d 3 0
    else if s.badRange n host (d.f 3 47 0) (size * 0x200000) (d.f 4 47 0) then s.opDone d 1 0
    else if !s.slotLoaded (d.f 2 12 8) then s.opDone d 2 0
    else if s.cry.queue.length ≥ 16 then s.opDone d 8 0
    else
      let s1 := ((((s.putB (CRY_RNG_BASE.HOST n) host).put (CRY_RNG_BASE.SIZE n) size).put (CRY_RNG_BASE.BASE n)
        (d.f 3 47 21)).put (CRY_RNG_TAG.TAG_BASE n) (d.f 4 47 18)).setTree n (d.f 3 47 0)
      let s2 := ((((s1.put (CRY_RNG_CTL.STATE n) 1).put (CRY_RNG_CTL.VERIFY_FIRST n) (d.f 2 5 5)).put (CRY_RNG_CTL.CONV n)
        from_).put (CRY_RNG_CTL.SLOT n) (d.f 2 12 8)).put (CRY_RNG_CTL.EPOCH n) 1
      (s2.showSlots.queueConv { range := n }).opDone d 0 0)

/-- REKEY (R281, R284). -/
def execRekey (d : Desc) (s : State) : Res :=
  let n := d.f 2 3 0
  s.runDesc d 0x3B (d.only 2 (bitsHL 3 0 + bitsHL 12 8) && d.zeroFrom 3) (fun s =>
    let k := d.f 2 12 8
    let old := s.get (CRY_RNG_CTL.SLOT n)
    let ep := s.get (CRY_RNG_CTL.EPOCH n)
    if s.rngState n ≠ 2 then s.opDone d 3 0
    else if !s.slotLoaded k || k == old then s.opDone d 2 0
    else if ep = 0xFFFFFFFF then s.opDone d 6 0
    else if s.cry.queue.length ≥ 16 then s.opDone d 8 0
    else
      let s1 := ((((s.put (CRY_RNG_CTL.STATE n) 3).put (CRY_RNG_CTL.OLD_SLOT n) old).put (CRY_RNG_CTL.SLOT n) k).put
        (CRY_RNG_CTL.EPOCH n) (ep + 1)).setTree n (s.rngBase n)
      (s1.showSlots.queueConv { range := n }).opDone d 0 0)

/-- RANGE_DISABLE (R281, R284): an ACTIVE range becomes DISABLE at once, another when its turn comes. -/
def execRangeDisable (d : Desc) (s : State) : Res :=
  let n := d.f 2 3 0
  let dest := d.f 2 7 6
  s.runDesc d 0x3C (d.only 2 (bitsHL 3 0 + bitsHL 7 6) && (dest == 1 || dest == 2) && d.zeroFrom 3) (fun s =>
    if s.rngState n = 0 then s.opDone d 3 0
    else if s.cry.queue.length ≥ 16 then s.opDone d 8 0
    else
      let s1 := if s.rngState n = 2 then
          ((s.put (CRY_RNG_CTL.STATE n) 4).put (CRY_RNG_CTL.CONV n) dest).setTree n (s.rngBase n)
        else s
      (s1.queueConv { range := n, off := true, dest := dest }).opDone d 0 0)

/-- RANGE_MODE (R284). -/
def execRangeMode (d : Desc) (s : State) : Res :=
  let n := d.f 2 3 0
  s.runDesc d 0x3D (d.only 2 (bitsHL 3 0 + bitsHL 5 5) && d.zeroFrom 3) (fun s =>
    if s.rngState n ≠ 2 then s.opDone d 3 0
    else (s.put (CRY_RNG_CTL.VERIFY_FIRST n) (d.f 2 5 5)).opDone d 0 0)

/-! ### Conversions (R281–R283) -/

/-- Whether a range's memory answers: its stack READY, or the link up for a host range (R287). -/
def State.rangeReady (s : State) (n : Nat) : Bool :=
  if s.flag (CRY_RNG_BASE.HOST n) then s.host.linkUp else s.hbmUp (hbmStack (s.rngBase n))

/-- The next queued conversion begins. -/
def execConversionStart (s : State) : Res :=
  match s.cry.queue with
  | [] => notDue s
  | j :: rest =>
    let s0 := (s.onCry (fun c => { c with queue := rest })).showQueue
    let s1 := if j.off && s.rngState j.range != 4 then
        ((s0.put (CRY_RNG_CTL.STATE j.range) 4).put (CRY_RNG_CTL.CONV j.range) j.dest).setTree j.range (s.rngBase j.range)
      else s0
    whenDue (!s.flag CRY_CTL.RKY_BUSY) s
      (if s.rngState j.range = 0 then s0
       else (s1.showSlots.putB CRY_CTL.RKY_BUSY true).put CRY_CTL.RKY_RANGE j.range)

/-- Bytes written to host memory, by host address. -/
def State.hostPut (s : State) (a : Nat) (l : List Byte) : State :=
  s.onHost (fun h => { h with
    mem := Table.pokes (fun _ => 0) h.mem (((List.range l.length).zip l).map (fun (p : Nat × Byte) => (a + p.1, p.2))) })

/-- Opens lines of host memory from the bytes that the link read: the bytes of a plain line, the line and its tag of an
encrypted one. -/
def State.hostOpen (s : State) (feed : List Byte) : List (Nat × Nat × Nat) → SealedRead
  | [] => {}
  | (line, a, k) :: rest =>
    match s.lineForm line with
    | .enc slot epoch =>
      let o := s.openLine line slot epoch (feed.take 64) ((feed.drop 64).take 8)
      let more := s.hostOpen (feed.drop 72) rest
      { data := (o.1.drop (a % 64)).take k ++ more.data, bad := if o.2 then more.bad else some line, enc := true }
    | _ =>
      let more := s.hostOpen (feed.drop k) rest
      { more with data := feed.take k ++ more.data }

/-- What the link reads for a partial write of encrypted lines that the device has written before: each such line and its tag,
as host memory holds them. -/
def State.heldFeed (s : State) (l : List (Nat × Nat × Nat)) : List Byte :=
  let bytes (a n : Nat) : List Byte := (List.range n).map (fun k => Table.peek (fun _ => (0 : Byte)) s.host.mem (a - hostBase + k))
  l.flatMap (fun p => if s.lineEnc p.1 && p.2.2 != 64 then bytes (64 * p.1) 64 ++ bytes (s.tagAddr p.1) 8 else [])

/-- Writes bytes of host memory line by line (R280): the code, and the state after. A part of an encrypted line is merged with
the line and tag that the link read. -/
def State.hostWrite (s : State) (trail : Nat) (feed bs : List Byte) : List (Nat × Nat × Nat) → Nat × State
  | [] => (0, s)
  | (line, a, k) :: rest =>
    let part := bs.take k
    let put (slot epoch : Nat) (data : List Byte) : State :=
      let c := s.sealLine line slot epoch data
      (s.hostPut (64 * line - hostBase) c.1).hostPut (s.tagAddr line - hostBase) c.2
    let one : Nat × List Byte × State :=
      match s.lineForm line with
      | .enc slot epoch =>
        if k = 64 then (0, feed, put slot epoch part)
        else
          let o := s.openLine line slot epoch (feed.take 64) ((feed.drop 64).take 8)
          if o.2 then (0, feed.drop 72, put slot epoch (o.1.take (a % 64) ++ part ++ o.1.drop (a % 64 + k)))
          else (5, feed.drop 72, s.authAlarm line trail)
      | _ => (0, feed, s.hostPut (a - hostBase) part)
    let more := one.2.2.hostWrite trail one.2.1 (bs.drop k) rest
    (if one.1 ≠ 0 then one.1 else more.1, more.2)

/-- Bytes that the link reads for an access to host memory: for a write, the encrypted lines it covers in part. -/
def State.hostFeed (s : State) (write : Bool) (l : List (Nat × Nat × Nat)) : Nat :=
  (l.map (fun (p : Nat × Nat × Nat) =>
    if s.lineEnc p.1 then (if write && p.2.2 == 64 then 0 else 72) else if write then 0 else p.2.2)).sum

/-- The reads of an access to host memory, as bytes of each: split at 4 KiB boundaries and at the maximum read request size
(R300); an encrypted line is read with its tag. `cur` bytes of a read of plain lines have been counted so far. -/
def State.hostReads (s : State) (write : Bool) (cur : Nat) : List (Nat × Nat × Nat) → List Nat
  | [] => if cur = 0 then [] else [cur]
  | (line, a, k) :: rest =>
    let done := if cur = 0 then [] else [cur]
    if s.lineEnc line then done ++ (if write && k == 64 then [] else [72]) ++ s.hostReads write 0 rest
    else if write then s.hostReads write 0 rest
    else if a % 4096 = 0 ∨ cur + k > 128 * 2 ^ s.host.port.mrrs.val then done ++ s.hostReads write k rest
    else s.hostReads write (cur + k) rest

/-- Asks the host for the reads of a request, which waits in flight for them (R300). -/
def State.askHost (s : State) (m : Msg) (verify : Bool) (reads : List Nat) : State :=
  { s with
    net := { s.net with flight := { msg := m, verify := verify } :: s.net.flight }
    host := { s.host with pending := s.host.pending ++ [{ tag := m.tag.toNat, left := reads }] } }

/-- Whether an IDE stream that is Insecure after an integrity failure blocks the TLPs of an access to host memory: `a` is the
host address, associated with the stream (R286). -/
def State.ideBlocks (s : State) (a n : Nat) : Bool :=
  s.host.ideShut.any (fun k =>
    let g := s.host.ide.peek (fun _ => {}) k
    let within (r : W64 × W64) : Bool := r.1.toNat < a + n && a ≤ r.2.toNat && r.2 != 0
    within g.addr0 || within g.addr1)

/-- What keeps an access to host memory from being performed: ADDR_ERR, or HOST_ERR while the link is down (R300, R322) or its
TLPs are blocked (R286; assumption log 81). -/
def State.hostCode (s : State) (a n : Nat) : Nat :=
  if a < hostBase ∨ a + n > 2 ^ 48 ∨ s.meetsTags a n ∨ (spansOf a n).any (fun p => s.lineForm p.1 == .shut) then 3
  else if !s.host.linkUp ∨ s.ideBlocks (a - hostBase) n then 0x0E else 0

/-- As `runDesc`, for an operation whose unit reads `n` bytes of operand at `a` through the host window: a read that the window
refuses, or that is answered with an error, ends it with the response's code and no effect (R274, R313). -/
def State.runRead (s : State) (d : Desc) (op : Nat) (ok : Bool) (a n rd : Nat) (f : State → State) : Res :=
  s.runDesc d op ok (fun s =>
    let code := if s.hostCode a n ≠ 0 then s.hostCode a n else rd
    if code = 0 then f s else s.endDesc d code 0 0)

/-- KEY_LOAD (R275): `blob` is the 104-byte blob as the host window answers the read, `rd` the code of that answer. -/
def execKeyLoad (d : Desc) (blob : List Byte) (rd : BitVec 8) (s : State) : Res :=
  let k := d.f 2 4 0
  let ok := d.only 2 (bitsHL 4 0) && d.only 3 (bitsHL 47 0) && d.f 3 47 47 == 1 && d.f 3 2 0 == 0 && d.zeroFrom 4
  s.runRead d 0x38 ok (d.f 3 47 0) 104 rd.toNat (fun s =>
    if s.cry.kwk = [] then s.opDone d 7 0
    else if s.slotInUse k then s.opDone d 5 0
    else match kwUnwrap (s.cry.kwk.map (fun b => b.toNat)) 12 (blob.map (fun b => b.toNat)) with
      | none => (s.toCairn 0x17 (srcSaddle 4) sevMajor k).opDone d 4 0
      | some key => (s.setSlot k (key.map (fun b => BitVec.ofNat 8 b))).opDone d 0 0)

/-- The target form of a conversion's lines, `none` for zeros. -/
def State.targetEnc (s : State) (n : Nat) : Option (Nat × Nat) :=
  if s.rngState n = 4 then none else some (s.get (CRY_RNG_CTL.SLOT n), s.get (CRY_RNG_CTL.EPOCH n))

/-- Stores a line and, when encrypted, its tag, inverted for a line that failed (R283). -/
def State.putConverted (s : State) (n line : Nat) (data : List Byte) (bad : Bool) : State :=
  let host := s.flag (CRY_RNG_BASE.HOST n)
  let tag := s.rngTag n + 8 * (line - s.rngBase n / 64)
  let write (s : State) (a : Nat) (l : List Byte) : State :=
    if host then s.hostPut (a - hostBase) l else s.store a l
  match s.targetEnc n with
  | none => write s (64 * line) (if bad then List.replicate 64 0 else data)
  | some (slot, epoch) =>
    let c := s.sealLine line slot epoch data
    write (write s (64 * line) c.1) tag (if bad then c.2.map (fun b => ~~~b) else c.2)

/-- The rekey engine converts the line at the treeline (R282, R283). For a host range `raw` and `tag` are the line and tag as
read over the link. A retired pseudo-channel's granule is skipped. -/
def execLineConversion (raw tag : List Byte) (s : State) : Res :=
  let n := s.get CRY_CTL.RKY_RANGE
  let t := s.treeline n
  let line := t / 64
  let host := s.flag (CRY_RNG_BASE.HOST n)
  let zero := (s.rngState n == 1 || s.rngState n == 4) && s.get (CRY_RNG_CTL.CONV n) == 1
  let due := s.flag CRY_CTL.RKY_BUSY && t < s.rngEnd n && s.rangeReady n
  if !(raw.length == 0 || raw.length == 64) || !(tag.length == 0 || tag.length == 8) then illFormed
  else if host && !zero && (raw.length == 0 || tag.length == 0) then notDue s
  else if !host && s.pcRetired (pcOf t) then
    whenDue due s (s.setTree n (min (s.rngEnd n) ((t / 0x40000 + 1) * 0x40000)))
  else
    let next (s : State) : State := s.setTree n (t + 64)
    whenDue due s
      (if zero then next (s.putConverted n line (List.replicate 64 0) false)
       else
        let src := s.lineForm line
        let r := if host then (raw, false, s) else s.load t 64
        let g := if host then (tag, false, r.2.2) else match src with
          | .enc _ _ => r.2.2.load (s.tagAddr line) 8
          | _ => ([], false, r.2.2)
        let o := match src with
          | .enc slot epoch => s.openLine line slot epoch r.1 g.1
          | _ => (r.1, true)
        let s1 := if o.2 then g.2.2 else if r.2.1 || g.2.1 then g.2.2 else g.2.2.authAlarm line 0
        next (s1.putConverted n line o.1 (!o.2 || r.2.1 || g.2.1)))

/-- The treeline has reached the range's end (R281). -/
def execConversionComplete (s : State) : Res :=
  let n := s.get CRY_CTL.RKY_RANGE
  let fin := if s.rngState n = 4 then 0 else 2
  let s1 := ((s.put (CRY_RNG_CTL.STATE n) fin).putB CRY_CTL.RKY_BUSY false).setTree n
    (if fin = 0 then s.rngBase n else s.rngEnd n)
  whenDue (s.flag CRY_CTL.RKY_BUSY && s.treeline n ≥ s.rngEnd n) s
    (s1.showSlots.post 0x0604 (n + fin * 16) (s.get (CRY_RNG_CTL.EPOCH n)))

/-- Ranges turn OFF and their conversions are abandoned: HBM ranges at Dormant with their events, every range otherwise
(R287). -/
def State.rangesOff (s : State) (all events : Bool) : State :=
  s.forN 16 (fun n s =>
    if s.rngState n = 0 ∨ (!all ∧ s.flag (CRY_RNG_BASE.HOST n)) then s
    else
      let s1 := ((s.put (CRY_RNG_CTL.STATE n) 0).setTree n (s.rngBase n)).onCry (fun c => { c with
        queue := c.queue.filter (fun j => j.range != n) })
      let s2 := if s.flag CRY_CTL.RKY_BUSY ∧ s.get CRY_CTL.RKY_RANGE = n then s1.putB CRY_CTL.RKY_BUSY false else s1
      let s3 := s2.showQueue.showSlots
      if events then s3.post 0x0605 n 0 else s3)

/-! ### Verdicts (R277) -/

/-- The encryption stage finishes the tags of a speculative read: SETTLE, and the alarm on a failure. -/
def execTagVerdict (tag : BitVec 16) (s : State) : Res :=
  match s.cry.verdicts.find? (fun v => v.msg.tag == tag) with
  | none => notDue s
  | some v =>
    let s1 := s.onCry (fun c => { c with verdicts := c.verdicts.erase v })
    let s2 := s1.respond v.msg opSETTLE (if v.ok then 0 else 5)
    .next (if v.ok then s2 else (s2.errCount 5).authAlarm (v.dpa / 64) v.msg.trail.toNat)

/-! ### Link keys (R285, R286) -/

/-- Directional keys from a pairing: KEY_ID 0 both ways (R285; assumption log 81). -/
def State.firstKeys (s : State) : State :=
  ((s.putB CRY_ARL_STAT.KEYED true).put CRY_ARL_STAT.KEY_ID 0).onCry (fun c => { c with
    arlRx := false, arlOld := false, arlFails := 0, arlSent := 0, arlSince := s.now })

/-- Frames sent over the Arête link, under the key in use for transmission (R285). -/
def State.arlSend (s : State) (n : Nat) : State := s.onCry (fun c => { c with arlSent := c.arlSent + n })

/-- Frames sent under the key in use for transmission, with the heartbeat of every 10 µs (R285, R430). -/
def State.arlUsed (s : State) : Nat := s.cry.arlSent + (s.now - s.cry.arlSince) / 10000

/-- The device's direction changes its key, which a KEY frame tells the partner (R285). -/
def State.nextKey (s : State) : State :=
  (s.put CRY_ARL_STAT.KEY_ID (1 - s.get CRY_ARL_STAT.KEY_ID)).onCry (fun c => { c with arlSent := 0, arlSince := s.now })

/-- 2^40 frames have been sent under a key, or the pair asks for new keys (R285): whether it asks is Lookout's matter and a free
value (assumption log 81). -/
def execAreteKeyUpdate (s : State) : Res :=
  whenDue (s.flag CRY_ARL_STAT.KEYED) s
    (if s.arlUsed ≥ 2 ^ 40 then s.nextKey else if s.fresh.getLsbD 0 then s.took.nextKey else s.took)

/-- The partner's direction changes its key; both keys are accepted for a while (R285). -/
def State.newKeys (s : State) : State := s.onCry (fun c => { c with arlRx := !c.arlRx, arlOld := true })

/-- Whether a frame is accepted as its partner's: its tag verifies, under the key of the partner's direction or, for 1 ms after
an update, under the previous one (R285). -/
def State.arlGood (s : State) (h : ArlHead) : Bool := h.ok && (h.key == s.cry.arlRx || s.cry.arlOld)

/-- 1 ms after a key update. -/
def execAreteOldKeyExpiry (s : State) : Res := whenDue s.cry.arlOld s (s.onCry (fun c => { c with arlOld := false }))

/-- An Arête frame that failed its tag: discarded; the sixteenth in a row reaches Cairn (R285). -/
def State.arlFailed (s : State) : State :=
  let n := s.cry.arlFails + 1
  let s1 := (s.bump CRY_ARL_STAT.REJECTED).onCry (fun c => { c with arlFails := n })
  if n = 16 then s1.toCairn 0x19 (srcSaddle 10) sevMajor 0 else s1

/-- An IDE integrity failure: the stream becomes Insecure and its TLPs are blocked (R286). -/
def execIdeCheckFail (k : Fin 2) (s : State) : Res :=
  whenDue (s.flag (CRY_IDE_STAT.SECURE k.val)) s
    ((((s.putB (CRY_IDE_STAT.SECURE k.val) false).bump (CRY_IDE_STAT.CHECK_FAIL k.val)).onHost (fun h => { h with
      aer := h.aer + 1, ideShut := k.val :: h.ideShut.filter (fun n => n != k.val) })).toCairn 0x18 (srcSaddle 0) sevCritical k.val)

/-- IDE_KM switches a sub-stream to a key set: the new keys take effect, which makes the stream Secure and lets its TLPs pass.
KSET shows the set of the sub-stream switched last (R286; assumption log 81). -/
def execKeySetGo (k : IdeSub) (a : IdeSet) (s : State) : Res :=
  let n := k.stream.val
  .next (((s.putB (CRY_IDE_STAT.KSET n) a.kset).putB (CRY_IDE_STAT.SECURE n) true).onHost (fun h => { h with
    ide := h.ide.poke (fun _ => {}) n a.assoc, ideSets := h.ideSets.poke (fun _ => false) (8 * n + k.sub.val) a.kset
    ideShut := h.ideShut.filter (fun j => j != n) }))

end Sys2Proof.Machine
end

