-- ==== Sys2Proof/Machine/Memory.lean ====
section
/-!
DEFINITION. The ports of block memories, the start of page rebuilds, the merge buffer's age and the patrol scrubber
(R112–R141).
-/

namespace Sys2Proof.Machine

/-! ### Ports of block memories (R112–R117) -/

/-- First word of a block memory. -/
def bmBase (i bm : Nat) : Nat := (islandWindow i + 0x4000 * bm) / 8

/-- Row, low bit of the main part and of the extra part, and their widths, of an entry of a port (R113). -/
structure EntryAt where
  row : Nat
  lo : Nat
  w : Nat
  xlo : Nat
  xw : Nat
  deriving DecidableEq, Repr

def BmCfg.entry (c : BmCfg) (portB : Bool) (a : Nat) : EntryAt :=
  let k := if portB then c.wB.val else c.wA.val
  if c.fam72 then
    let m := 2 ^ (min k 3)
    let l := 8 / m
    { row := a / l % 1024, lo := 8 * m * (a % l), w := 8 * m, xlo := m * (a % l), xw := m }
  else
    let w := 2 ^ k
    { row := a / (64 / w) % 1024, lo := w * (a % (64 / w)), w := w, xlo := 0, xw := 0 }

/-- The entry's bits of a row given as data word and extra byte. -/
def EntryAt.take (e : EntryAt) (d : W64) (x : Byte) : BitVec 72 :=
  BitVec.ofNat 72 (d.toNat / 2 ^ e.lo % 2 ^ e.w + x.toNat / 2 ^ e.xlo % 2 ^ e.xw * 2 ^ e.w)

/-- Write mask of an entry over its `w` main bits: one enable below a byte, else one per byte. -/
def EntryAt.wmask (e : EntryAt) (en : Byte) : Nat :=
  if e.w < 8 then (if nbit en.toNat 0 then 2 ^ e.w - 1 else 0)
  else (List.range (e.w / 8)).foldl (fun m b => m + (if nbit en.toNat b then 255 * 256 ^ b else 0)) 0

/-- A row after a write of an entry. -/
def EntryAt.give (e : EntryAt) (d : W64) (x : Byte) (v : BitVec 72) (en : Byte) : W64 × Byte :=
  let m := e.wmask en * 2 ^ e.lo
  let xm := (List.range e.xw).foldl (fun m b => m + (if nbit en.toNat b then 2 ^ (e.xlo + b) else 0)) 0
  let mix (old new mask n : Nat) : Nat := (List.range n).foldl (fun t b =>
    t + (if nbit (if nbit mask b then new else old) b then 2 ^ b else 0)) 0
  (BitVec.ofNat 64 (mix d.toNat (v.toNat % 2 ^ e.w * 2 ^ e.lo) m 64),
   BitVec.ofNat 8 (mix x.toNat (v.toNat / 2 ^ e.w * 2 ^ e.xlo) xm 8))

/-- Key of a port's output registers. -/
def portKey (i bm : Nat) (portB : Bool) : Nat := 2 * (96 * i + bm) + bit portB

def State.portOut (s : State) (k : Nat) : PortOut := s.mem.ports.peek (fun _ => {}) k
def State.setPortOut (s : State) (k : Nat) (o : PortOut) : State :=
  s.onMem (fun m => { m with ports := m.ports.poke (fun _ => {}) k o })

def State.bmOf (s : State) (i bm : Nat) : BmCfg := (s.island i).cfg.bms.peek (fun _ => {}) bm

/-- A read at a port: data, SBE and UE of its output registers. -/
def State.fabricRead (s : State) (portB : Bool) (i bm a : Nat) : State :=
  let c := s.bmOf i bm
  let e := c.entry portB a
  let w := bmBase i bm + e.row
  if c.ecc && !c.fam72 then
    match regionOf (8 * w) with
    | none => s
    | some r =>
      let s1 := s.flushWord r w
      let was := s1.wordState w
      let t := s1.readWord r w
      t.2.2.setPortOut (portKey i bm portB) { data := e.take t.1 0, sbe := was != .clean && !t.2.1, ue := t.2.1 }
  else s.setPortOut (portKey i bm portB) { data := e.take (s.rawWord w) (s.checkAt w) }

/-- The word with merged bytes, as a port shows its own write. -/
def State.mergedView (s : State) (w : Nat) : W64 :=
  match regionOf (8 * w) with
  | some r => match (s.mergeList r.unit).find? (fun x => x.word == w) with
    | some x => mergeWord (s.wordValue w) x.data x.mask
    | none => if s.coded r (8 * w) then s.wordValue w else s.rawWord w
  | none => s.rawWord w

/-- Write mode of a port (R114). -/
def BmCfg.mode (c : BmCfg) (portB : Bool) : Nat := if portB then c.modeB.val else c.modeA.val

/-- A write that a port presents: the port, entry, data, write enables. -/
structure PortWrite where
  portB : Bool
  entry : Nat
  data : BitVec 72
  en : Byte
  deriving DecidableEq, Repr

/-- Stores what a port writes. -/
def State.portStore (s : State) (i bm : Nat) (p : PortWrite) : State :=
  let c := s.bmOf i bm
  let e := c.entry p.portB p.entry
  let w := bmBase i bm + e.row
  if c.fam72 then
    let t := e.give (s.rawWord w) (s.checkAt w) p.data p.en
    (s.setRawWord w t.1).setCheck w t.2
  else if c.ecc then
    let t := e.give 0 0 p.data p.en
    let mask := (List.range 8).foldl (fun m b => m + (if nbit (e.wmask p.en * 2 ^ e.lo) (8 * b) then 2 ^ b else 0)) 0
    s.maskWrite w t.1 (BitVec.ofNat 8 mask)
  else s.setRawWord w (e.give (s.rawWord w) 0 p.data p.en).1

/-- A port shows the data of its entry as they now stand. -/
def State.portShow (s : State) (i bm : Nat) (p : PortWrite) : State :=
  let c := s.bmOf i bm
  let e := c.entry p.portB p.entry
  let w := bmBase i bm + e.row
  s.setPortOut (portKey i bm p.portB) { data := e.take (s.mergedView w) (if c.fam72 then s.checkAt w else 0) }

/-- Writes of one memory's ports on one edge, the one that wins overlapping bytes last (R117). The write mode of each port sets
what it shows (R114): READ_FIRST the data before the edge, WRITE_FIRST those after it. -/
def State.portWrites (s : State) (i bm : Nat) (l : List PortWrite) : State :=
  let s1 := s.forAll (l.filter (fun p => (s.bmOf i bm).mode p.portB == 1)) (fun p s => s.fabricRead p.portB i bm p.entry)
  let s2 := s1.forAll l (fun p s => s.portStore i bm p)
  s2.forAll (l.filter (fun p => (s.bmOf i bm).mode p.portB == 0)) (fun p s => s.portShow i bm p)

/-- Whether a port of a block memory is connected to the fabric (R116) and its clock runs (R114). -/
def State.portOn (s : State) (portB : Bool) (i bm : Nat) : Bool :=
  let c := s.bmOf i bm
  !(portB && c.window) && nbit (s.get (CLK_ISL_STAT.RUNNING i)) (if portB then c.clkB.val else c.clkA.val)

/-- The island of a window address. -/
def islandOf (dpa : Nat) : Nat := match windowOf dpa with
  | some p => p.1
  | none => 0

/-! ### Rebuilds (R128, R129) -/

/-- BUSY of both ports of the block memory that holds a word. -/
def State.setBusy (s : State) (w : Nat) (on : Bool) : State :=
  match windowOf (8 * w) with
  | some (i, o) =>
    if o < 0x180000 then s.forAll [false, true] (fun b s =>
      let k := portKey i (o / 0x4000) b
      s.setPortOut k { s.portOut k with busy := on }) else s
  | none => s

/-- Whether a read of a word starts a rebuild: the inner code cannot correct it and the page guard can. -/
def State.mustRebuild (s : State) (r : Region) (w : Nat) : Bool :=
  let t := s.flushWord r w
  s.coded r (8 * w) && t.wordState w == .bad && !s.isDead w && (t.rebuilt r).isSome

/-- A rebuild of a word's page begins; the access that found the error waits for it. -/
def State.beginRebuild (s : State) (r : Region) (w : Nat) (acc : MemAccess) : State :=
  ((s.flushWord r w).onMem (fun m => { m with rebuilding := m.rebuilding ++ [(r.page, [acc])] })).setBusy w true

/-- An access waits for a rebuild of a page. -/
def State.joinRebuild (s : State) (page : Nat) (acc : MemAccess) : State :=
  s.onMem (fun m => { m with rebuilding := m.rebuilding.map (fun p => if p.1 == page then (p.1, p.2 ++ [acc]) else p) })

/-! ### Accesses of the fabric (R114, R117, R129) -/

/-- Port, island, memory and entry of a fabric access. -/
def MemAccess.port : MemAccess → Option (Bool × Nat × Nat × Nat)
  | .read (.fabric portB i bm) addr => some (portB, i.val, bm.val, addr.toNat)
  | .write (.fabric portB i bm) addr _ _ => some (portB, i.val, bm.val, addr.toNat)
  | _ => none

def MemAccess.isRead : MemAccess → Bool
  | .read _ _ => true
  | .write _ _ _ _ => false

/-- Who makes an access. -/
def MemAccess.who : MemAccess → MemUser
  | .read w _ => w
  | .write w _ _ _ => w

/-- A read at a port: one that finds an error the page guard covers starts its rebuild. -/
def State.portRead (s : State) (portB : Bool) (i bm a : Nat) (acc : MemAccess) : State :=
  let w := bmBase i bm + ((s.bmOf i bm).entry portB a).row
  match regionOf (8 * w) with
  | some r => if s.mustRebuild r w then s.beginRebuild r w acc else s.fabricRead portB i bm a
  | none => s

/-- What ports of one block memory do on one edge: reads take the words before the edge, then the writes, the winner's last. A
port that is not connected or whose clock does not run does nothing, a write needs the WE step of start-up (R340), and while
BUSY is 1 no access is performed. -/
def State.portAccess (s : State) (i bm : Nat) (l : List MemAccess) : State :=
  if (s.portOut (portKey i bm false)).busy then s
  else
    let on (p : Bool × Nat × Nat × Nat) : Bool := s.portOn p.1 i bm
    let s1 := s.forAll l (fun a s => match a, a.port with
      | .read _ _, some p => if on p then s.portRead p.1 i bm p.2.2.2 a else s
      | _, _ => s)
    s1.portWrites i bm (l.filterMap (fun a => match a, a.port with
      | .write _ _ v en, some p => if s.cfg.we && on p then some ⟨p.1, p.2.2.2, v, en⟩ else none
      | _, _ => none))

/-- Sets of a page, by their key: four in HBM, else one. -/
def Region.sets (r : Region) : List Region :=
  if r.stride = 4 then (List.range 4).map (fun k => { r with key := r.page + k, idx := 0 }) else [{ r with key := r.page, idx := 0 }]

/-- A page is rebuilt: every set of it with erasures. -/
def State.rebuildPage (s : State) (r : Region) : State :=
  s.forAll r.sets (fun q s =>
    if s.erased q q.n = [] && s.pState q.key != .bad && s.qState q.key != .bad then s else (s.rebuildSet q false).1)

/-- A merge-buffer entry reaches 64 cycles of its controller (R131). -/
def execMergeFlushAge (addr : BitVec 48) (s : State) : Res :=
  match regionOf addr.toNat with
  | some r => whenDue ((s.mergeList r.unit).any (fun e => e.word == addr.toNat / 8)) s (s.flushWord r (addr.toNat / 8))
  | none => notDue s

/-! ### The patrol scrubber (R132–R134) -/

/-- Words of a scrubber's class and unit, in its order. -/
def scrubWords (cls : Nat) : Nat :=
  match cls with
  | 0 => 64 * 96 * 1024
  | 1 => 0x4000000 / 8
  | 2 => 64 * 0x20000 / 8
  | 3 => 64 * 0x8000 / 8
  | 4 => 0x5E8000000 / 8
  | _ => 0x80000 / 8

/-- The word at a place of a scrubber's walk. -/
def scrubWordAt (cls unit n : Nat) : Nat :=
  match cls with
  | 0 => bmBase (64 * unit + n / (96 * 1024)) (n / 1024 % 96) + n % 1024
  | 1 => (deepBase + unit * 0x4000000) / 8 + n
  | 2 => (islandWindow (64 * unit + n / 16384) + 0x200000) / 8 + n % 16384
  | 3 => (islandWindow (64 * unit + n / 4096) + 0x220000) / 8 + n % 4096
  | 4 => unit * 0x600000000 / 8 + n
  | _ => lkoBase / 8 + n

/-- Whether an island's memories are scrubbed (R134). -/
def State.scrubs (s : State) (i : Nat) : Bool := s.islActive i && !(s.island i).gsr

/-- The next place at or after `n` that the scrubber visits; none beyond the end. `fuel` bounds the skips. -/
def State.scrubNext (s : State) (cls unit n : Nat) : Nat → Option Nat
  | 0 => none
  | fuel + 1 =>
    if n ≥ scrubWords cls then none
    else match cls with
      | 0 =>
        let i := 64 * unit + n / (96 * 1024)
        if !s.scrubs i then s.scrubNext cls unit ((n / (96 * 1024) + 1) * (96 * 1024)) fuel
        else if !(s.bmOf i (n / 1024 % 96)).ecc then s.scrubNext cls unit ((n / 1024 + 1) * 1024) fuel
        else some n
      | 2 => if s.scrubs (64 * unit + n / 16384) then some n else s.scrubNext cls unit ((n / 16384 + 1) * 16384) fuel
      | 3 => if s.scrubs (64 * unit + n / 4096) then some n else s.scrubNext cls unit ((n / 4096 + 1) * 4096) fuel
      | _ => some n

/-- Dies or stacks whose scrubbers walk a class (R132). -/
def scrubUnits (cls : Nat) : List Nat := if cls < 4 then [0, 1, 2, 3] else if cls = 4 then [0, 1] else [0]

/-- Whether a scrubber is paused: its die lost or at Lull, HBM not ready or in self-refresh, PASS_S = 0 (R134, R141). -/
def State.scrubPaused (s : State) (cls unit : Nat) : Bool :=
  s.get (MEM_SCRUB_PASS.PASS_S cls) == 0 || !s.flag HIF_STAT.READY
    || (match cls with
      | 4 => unit ≥ 2 || !(s.get (HBM_STAT.STATE unit) == 2 || s.get (HBM_STAT.STATE unit) == 3)
      | 5 => unit != 0
      | _ => s.dieGone unit || s.dieAsleep unit || s.get PWR_RUNG.CUR ≥ 2)

/-- The guard words at the end of a set: when every word was clean, each that differs is rewritten, counted and logged (R133,
R136). -/
def State.scrubGuard (s : State) (r : Region) (clean : Bool) : State :=
  let t := s.setSums r (fun _ => true) r.n
  let one (bad : Bool) (s : State) : State := if bad then s.guarded r r.key 3 true else s
  let p := s.pState r.key == .bad || s.guardP r.key != t.1
  let q := s.qState r.key == .bad || s.guardQ r.key != t.2
  if clean && (p || q) then one q (one p (s.setGuard r.key t.1 t.2)) else s

/-- A scrubber ends its walk: the class's pass is complete when every scrubber of the class that is not paused has ended its
own, and each starts again at its first word. -/
def State.scrubEnd (s : State) (cls unit : Nat) : State :=
  let done := s.mem.scrubDone ++ [8 * cls + unit]
  let all := (scrubUnits cls).all (fun u => done.contains (8 * cls + u) || s.scrubPaused cls u)
  let s1 := s.onMem (fun m => { m with
    scrub := m.scrub.poke (fun _ => 0) (8 * cls + unit) 0
    scrubDone := if all then done.filter (fun k => k / 8 != cls) else done.eraseDups })
  if all then s1.bump (MEM_SCRUB_CNT.PASSES cls) else s1

/-- The scrubbers of a die's memories start again at page 0 (R134). -/
def State.scrubRestart (s : State) (d : Nat) : State :=
  s.onMem (fun m => { m with scrub := m.scrub.filter (fun p => !(p.1 < 32 && p.1 % 8 == d)) })

/-- Whether a class is being scrubbed: MEM_SCRUB_PASS.ACTIVE (R141). -/
def State.scrubActive (s : State) (cls : Nat) : Bool := (scrubUnits cls).any (fun u => !s.scrubPaused cls u)

/-- The scrubber visits its next word (R133); it waits for a rebuild of the word's page (R129). -/
def execScrubWord (cls : Fin 6) (unit : Fin 4) (s : State) : Res :=
  let k := cls.val * 8 + unit.val
  if s.scrubPaused cls.val unit.val then .next s
  else
    let setPos (s : State) (n : Nat) : State := s.onMem (fun m => { m with scrub := m.scrub.poke (fun _ => 0) k n })
    match s.scrubNext cls.val unit.val (s.mem.scrub.peek (fun _ => 0) k) 8192 with
    | none => .next (s.scrubEnd cls.val unit.val)
    | some n =>
      let w := scrubWordAt cls.val unit.val n
      match regionOf (8 * w) with
      | none => .next (setPos s (n + 1))
      | some r =>
        if (s.rebuildFor r).isSome then .next s else
        let s0 := s.flushWord r w
        let was := s0.wordState w
        let t := s0.readCode r w true
        let s1 := if t.2.1 then t.2.2.uncorrectable r w
          else if was == .clean || was == .bad then t.2.2 else t.2.2.storeWord w t.1
        let s2 := if was == .clean then s1
          else s1.onMem (fun m => { m with scrubDirty := (m.scrubDirty.filter (fun x => x != r.key)) ++ [r.key] })
        let s3 := if r.idx + 1 = r.n then
            (s2.scrubGuard r (!s2.mem.scrubDirty.contains r.key)).onMem (fun m => { m with
              scrubDirty := m.scrubDirty.filter (fun x => x != r.key) })
          else s2
        .next (if n + 1 ≥ scrubWords cls.val then s3.scrubEnd cls.val unit.val else setPos s3 (n + 1))

/-! ### Counters and logs (R141) -/

/-- MEM_CNT_CLR: each bit clears the three counters of a class. -/
def execMemCntClr (clr : BitVec 6) (s : State) : Res :=
  .next (s.forN 6 (fun c s => if nbit clr.toNat c then
      ((s.put (MEM_CE_CNT.COUNT c) 0).put (MEM_PG_CNT.COUNT c) 0).put (MEM_UE_CNT.COUNT c) 0
    else s))

/-- MEM_LOG_CTL.CLEAR: each bit empties a log table and clears its overflow count. -/
def execMemLogClear (clr : BitVec 5) (s : State) : Res :=
  .next (s.forN 5 (fun t s => if nbit clr.toNat t then
      (s.forN 32 (fun e s => (s.setReg (MEM_LOG.ENTRY t e).addr 0).setReg (MEM_LOG_TIME.ENTRY t e).addr 0)).put
        (MEM_LOG_OVF.OVF t) 0
    else s))

end Sys2Proof.Machine
end

