-- ==== Sys2Proof/Machine/NetRows.lean ====
section
/-!
DEFINITION. Commands of the package network: data-mover commands, flits, ports, credits, responses, trails, time-outs and
queries (R163, R198–R225).
-/

namespace Sys2Proof.Machine

/-- A channel begins its next queued command, or its next message (R163). -/
def execDmCommandStart (i : Fin 256) (ch : Fin 4) (s : State) : Res :=
  let x := s.chan i.val ch.val
  whenDue (!x.queue.isEmpty && x.state != 2 && s.islActive i.val && s.keRuns i.val) s (s.dmStart i.val ch.val)

/-- A command finishes its last word: DONE_CNT advances with SIG = 1 and the queue moves up (R163). -/
def execDmCommandComplete (i : Fin 256) (ch : Fin 4) (s : State) : Res :=
  let x := s.chan i.val ch.val
  whenDue (!x.queue.isEmpty && x.state == 1 && x.flying == 0 && x.wordsDone ≥ x.len && s.keRuns i.val) s
    (s.modChan i.val ch.val (fun x => { x with
      queue := x.queue.drop 1, state := 0, doneCnt := if fieldOf x.cur.2 0 0 = 1 then x.doneCnt + 1 else x.doneCnt }))

/-- A router input of the unit with fault source `at_` takes a flit: checked, poisoned on failure, forwarded (R198). An
armed injection makes the check fail (R415). -/
def execFlitForward (at_ : BitVec 12) (tag : BitVec 16) (rsp : Bool) (k : Fin 9) (data : BitVec 256) (side : W32)
    (check : BitVec 16) (s : State) : Res :=
  let l := if rsp then s.net.resp else s.net.flight
  match l.find? (fun f => f.msg.tag == tag) with
  | none => notDue s
  | some f =>
    if k.val ≥ f.msg.flits then notDue s
    else
      let hit := s.armed at_.toNat 2
      let g := f.take k.val data side (if hit then ~~~ BitVec.ofNat 16 (flitCheck data side) else check)
      let l' := l.map (fun x => if x == f then g else x)
      .next ((if hit then s.useCheck at_.toNat 2 else s).onNet (fun n => if rsp then { n with resp := l' } else { n with flight := l' }))

/-- Whether a message waits for the fabric's answer at a port. -/
def State.owes (s : State) (i p : Nat) (m : Msg) : Option Msg :=
  (s.net.rx.peek (fun _ => []) (portNo i p)).find? (fun q => q.op.toNat < 0x80 && q.tag == m.tag && q.trail == m.trail)

/-- Whether a response that the fabric hands over is malformed (R211, R217): an opcode that is not listed, data that do not fit
it, reserved fields. -/
def Msg.badResponse (m : Msg) : Bool :=
  !([opRDRSP, opWRACK, opMSGACK, opALLOCRSP, opFREERSP, opSETTLE, opERR].contains m.op.toNat) || m.rsv != 0
    || (if m.op.toNat = opRDRSP then m.data.length != m.len else m.data != [])

/-- The fabric hands a message to an island port (R202, R211, R216): a request takes its tag and goes to the ingress, a
response answers a request the port delivered, as ERR with BAD_OP where it is malformed. -/
def execIslandPortTxMessage (i : Fin 256) (port : Fin 2) (m : Msg) (s : State) : Res :=
  if m.data.length > 256 then illFormed
  else if !s.islActive i.val then notDue s
  else if m.op.toNat < 0x80 then
    let tag := 64 * portNo i.val port.val + m.tag.toNat % 64
    let m' : Msg := { m with tag := BitVec.ofNat 16 tag, ctx := BitVec.ofNat 10 (s.occupant i.val), prov := false,
                             poison := false }
    -- local tags 48–63 of port 1 belong to the data movers (assumption log 78)
    whenDue (s.tagFree tag && !(port == 1 && m.tag.toNat % 64 ≥ 48)) s (s.ingress (.port i.val port.val) m')
  else match s.owes i.val port.val m with
    | none => notDue s
    | some q =>
      let k := portNo i.val port.val
      let s1 := s.onNet (fun n => { n with rx := n.rx.poke (fun _ => []) k ((n.rx.peek (fun _ => []) k).erase q) })
      let r := if (s.trail m.trail.toNat).crcEn then { m with tcrc := BitVec.ofNat 32 m.crc } else m
      if m.badResponse then .next (s1.respond q opERR 0x0A) else
      .next (s1.onNet (fun n => { n with resp := n.resp ++ [{ msg := { r with prov := false, poison := false }, age := s.now % 1024 }] }))

/-- An ingress releases the oldest held message of a trail against a credit and, on a reserved trail, tokens (R208, R213). -/
def execMessageRelease (t : BitVec 12) (s : State) : Res := .next (s.release t.toNat)

/-- Messages of a trail its destination has not consumed. -/
def State.unconsumed (s : State) (t : Nat) : Nat :=
  (s.net.flight.filter (fun f => f.msg.trail.toNat == t)).length
    + (s.net.rx.map (fun p => (p.2.filter (fun m => m.op.toNat < 0x80 && m.trail.toNat == t)).length)).sum

/-- A destination consumes a message and its credit returns (R208). -/
def execCreditReturn (t : BitVec 12) (s : State) : Res :=
  let x := s.trail t.toNat
  whenDue (x.used > s.unconsumed t.toNat) s (s.setTrail t.toNat { x with used := x.used - 1 })

/-- Delivery of a response of an opcode to its requester, in the order of its trail; SETTLE follows the data it settles (R30,
R215). -/
def State.take (s : State) (tag : BitVec 16) (op : Nat) : Res :=
  let has (op : Nat) : Bool := s.net.resp.any (fun f => f.msg.tag == tag && f.msg.op.toNat == op)
  whenDue (has op && !(op == opSETTLE && has opRDRSP) && !s.behind tag.toNat op) s (s.deliver tag.toNat op)

/-- Read data arrives at the requester, provisional with PROV = 1 (R211, R277). -/
def execRdrsp (tag : BitVec 16) (s : State) : Res := s.take tag opRDRSP
/-- A write completes at its requester (R211). -/
def execWrack (tag : BitVec 16) (s : State) : Res := s.take tag opWRACK
/-- A message completes at its requester (R211). -/
def execMsgack (tag : BitVec 16) (s : State) : Res := s.take tag opMSGACK
/-- An allocator result completes at its requester (R253). -/
def execAllocrsp (tag : BitVec 16) (s : State) : Res := s.take tag opALLOCRSP
/-- An allocator result completes at its requester (R253). -/
def execFreersp (tag : BitVec 16) (s : State) : Res := s.take tag opFREERSP
/-- A settle verdict completes a speculative read (R277, R278). -/
def execSettle (tag : BitVec 16) (s : State) : Res := s.take tag opSETTLE
/-- An error response completes a request (R217). -/
def execErr (tag : BitVec 16) (s : State) : Res := s.take tag opERR

/-! ### Trails -/

/-- Opens a trail for a descriptor and completes it with R207's code. -/
def State.openFor (s : State) (d : Desc) : State :=
  let r := s.openTrail d.w2 d.w3 d.w4 d.w5
  r.2.2.opDone d r.1 (r.2.1 + (r.2.2.trail r.2.1).bound * 2 ^ 16)

/-- TRAIL_OPEN (R207), set aside while it names a MOVING context (R223). -/
def execTrailOpen (d : Desc) (s : State) : Res :=
  s.runDesc d 0x20 (d.zeroFrom 6) (fun s =>
    if s.namesMoving d.w2 then s.onNet (fun n => { n with aside := n.aside ++ [d] }) else s.openFor d)

/-- An open set aside takes its turn when the move has ended (R223). -/
def execTrailOpenResume (d : Desc) (s : State) : Res :=
  whenDue (s.net.aside.contains d && !s.namesMoving d.w2) s
    ((s.onNet (fun n => { n with aside := n.aside.erase d })).openFor d)

/-- TRAIL_CLOSE (R209): CLOSED and system trails answer BAD_FIELD. -/
def execTrailClose (d : Desc) (s : State) : Res :=
  s.runDesc d 0x21 (d.only 2 (bitsHL 11 0) && d.zeroFrom 3) (fun s =>
    let t := d.f 2 11 0
    if t ≥ 0xFE0 ∨ (s.trail t).state = 0 then s.opDone d 1 0
    else
      let s1 := if (s.trail t).state = 5 then s else s.closeTrail t
      s1.modTrail t (fun x => { x with closers := x.closers ++ [d] }))

/-- Completes the descriptors that wait for a close and frees the trail. -/
def State.endClose (s : State) (t : Nat) : State :=
  (s.closed t).forAll (s.trail t).closers (fun d s => s.opDone d 0 0)

/-- The last transaction of a CLOSING trail has completed (R209). -/
def execTrailCloseComplete (t : BitVec 12) (s : State) : Res :=
  whenDue ((s.trail t.toNat).state == 5 && !s.trailBusy t.toNat) s (s.endClose t.toNat)

/-- 4 × TMO_US have passed on a CLOSING trail (R209). -/
def execTrailCloseTimeout (t : BitVec 12) (s : State) : Res :=
  whenDue ((s.trail t.toNat).state == 5) s (s.endClose t.toNat)

/-! ### Time-outs -/

/-- A request reaches TMO_US: it completes with TIMEOUT and its tag is quarantined (R216); the time does not advance while
its trail is STALLED or its destination's die asleep, and requests to the page gateway are not timed. -/
def execRequestTimeout (tag : BitVec 16) (s : State) : Res :=
  match s.txn tag.toNat with
  | none => notDue s
  | some x =>
    let t := s.trail x.trail
    let asleep := match s.site t.dst with
      | some st => s.dieAsleep st.die
      | none => false
    let gateway := !vpCtx t.dst && vpClass t.dst == 0x0C
    let m : Msg := { op := BitVec.ofNat 8 x.op, trail := BitVec.ofNat 12 x.trail, tag := tag }
    let s1 := s.onNet (fun n => { n with
      held := n.held.filter (fun q => q.tag != tag), quarantine := n.quarantine ++ [tag.toNat] })
    whenDue (t.state != 2 && !asleep && !gateway) s (s1.failTag m 8)

/-- A quarantined tag is freed after 4 × TMO_US (R216). -/
def execTagQuarantineEnd (tag : BitVec 16) (s : State) : Res :=
  whenDue (s.net.quarantine.contains tag.toNat) s
    (s.onNet (fun n => { n with quarantine := n.quarantine.filter (fun t => t != tag.toNat) }))

/-! ### Queries (R224, R225) -/

/-- TRL_TQ_SEL captures a trail's descriptor. -/
def execTrlTqSelWrite (v : W32) (s : State) : Res :=
  let t := fieldOf v 11 0
  let w := s.tqWords t
  .next (((((s.put TRL_TQ_SEL.TRAIL_ID t).put (TRL_TQ_W.WORD 0) w.1).put (TRL_TQ_W.WORD 1) w.2.1).put
    (TRL_TQ_W.WORD 2) w.2.2.1).put (TRL_TQ_W.WORD 3) w.2.2.2)

/-- TRL_LQ_SEL captures a link's cap, units and burst; a selection of nothing reads 0. -/
def execTrlLqSelWrite (v : W32) (s : State) : Res :=
  let die := fieldOf v 15 13
  let router := fieldOf v 12 7
  let out := fieldOf v 6 3
  let link := fieldOf v 2 0 + 8 * s.get TRL_LQ_RES.LQ_HI
  let s1 := (((s.put TRL_LQ_SEL.DIE die).put TRL_LQ_SEL.ROUTER router).put TRL_LQ_SEL.OUT out).put TRL_LQ_SEL.LINK
    (fieldOf v 2 0)
  let r := match lqLink die router out link with
    | some l => (s.cap l, s.linkUnits l, s.linkBurst l)
    | none => (0, 0, 0)
  .next (((s1.put TRL_LQ_RES.CAP r.1).put TRL_LQ_RES.UNITS r.2.1).put TRL_LQ_RES.BURST r.2.2)

/-- TRL_PMAP_Q captures a VPID's port map entry. -/
def execTrlPmapQWrite (v : W32) (s : State) : Res :=
  let vp := fieldOf v 15 0
  let st := s.pmapState vp
  let ok := if vpCtx vp then s.registered (vpCtxId vp) else vpFixedOk vp
  .next ((((s.put TRL_PMAP_Q.VPID vp).put TRL_PMAP_Q.PPORT (if ok && st == 0 then s.physPort vp else 0)).putB
    TRL_PMAP_S.VALID ok).put TRL_PMAP_S.STATE (if ok then st else 2))

/-- TRL_CNT_CLR clears the error and late counters. -/
def execTrlCntClr (v : W32) (s : State) : Res :=
  .next (if fieldOf v 0 0 = 1 then
      (s.forN 16 (fun k s => s.put (TRL_ERR_CNT.COUNT (k + 1)) 0)).put TRL_LATE_CNT.COUNT 0
    else s)

end Sys2Proof.Machine
end

