-- ==== Sys2Proof/Machine/Store.lean ====
section
/-!
DEFINITION. Switchback's stores: the context image as bytes (R231), the layout of saved state (R245), and where images and state
slots stand in the image store and the host backing store (R232, R233).
-/

namespace Sys2Proof.Machine

/-! ### The image (R231) -/

/-- A channel entry. -/
def channelOf (w : Nat) : Channel :=
  { valid := nbit w 63, required := nbit w 62, ord := nfield w 61 58, side := nfield w 57 56, group := nfield w 55 52
    partner := nfield w 51 42, pord := nfield w 41 38, rsv := nfield w 37 0 }

/-- The image that bytes are. `islands` is what its frames and its memory segment set, whose layout the manual does not give;
`hashOk` and `sigOk` are the verdicts on IMAGE_HASH and SIGNATURE. -/
def imageOf (l : List Byte) (islands : List IslandCfg) (hashOk sigOk : Bool) : Image :=
  let g (off n : Nat) : Nat := leAt l off n
  let w (off : Nat) : W32 := BitVec.ofNat 32 (g off 4)
  let b (off : Nat) : BitVec 8 := BitVec.ofNat 8 (g off 1)
  let trl := g 0x38 4
  let save := g 0x40 4
  let word (off : Nat) : W64 := BitVec.ofNat 64 (g off 8)
  { magic := w 0x000, fmtVer := BitVec.ofNat 16 (g 0x004 2), hdrLen := BitVec.ofNat 16 (g 0x006 2), deviceId := w 0x008
    shape := b 0x00C, rowClass := b 0x00D, dieMask := b 0x00E, xMask := b 0x00F, yMask := b 0x010, prio := b 0x011
    restore := b 0x012, flags := b 0x013, reqCap := w 0x014, quantumUs := w 0x018, quiesceTmoUs := w 0x01C
    deepQuota := w 0x020, imageLen := w 0x024
    segEnd := ([g 0x028 4 + g 0x02C 4, g 0x030 4 + g 0x034 4, trl + 32 * g 0x03C 2, save + g 0x044 4]).foldl max 512
    trlN := BitVec.ofNat 16 (g 0x03C 2), chnN := BitVec.ofNat 16 (g 0x03E 2), stateBits := w 0x048
    rsv := g 0x04C 20 != 0 || g 0x1F0 16 != 0
    clocks := (List.range 16).map (fun k => word (0x090 + 8 * k))
    channels := (List.range 16).map (fun k => channelOf (g (0x110 + 8 * k) 8))
    trails := (List.range (min (g 0x03C 2) 64)).map (fun k =>
      (word (trl + 32 * k), word (trl + 32 * k + 8), word (trl + 32 * k + 16), word (trl + 32 * k + 24)))
    saveMap := (List.range (min (g 0x044 4 / 16) 16)).map (fun k => BitVec.ofNat 96 (g (save + 16 * k) 12))
    islands := islands, hash := BitVec.ofNat 384 (g 0x060 48), hashOk := hashOk, sigOk := sigOk }

/-! ### Saved state (R245) -/

def Image.stateful (g : Image) : Bool := nbit g.flags.toNat 0
/-- ENG_SAVE and PROG_SAVE, which have no effect without STATEFUL. -/
def Image.engSave (g : Image) : Bool := g.stateful && nbit g.flags.toNat 1
def Image.progSave (g : Image) : Bool := g.stateful && nbit g.flags.toNat 2

/-- Block memories of an ordinal that its save map marks, in order. -/
def Image.bms (g : Image) (k : Nat) : List Nat :=
  (List.range 96).filter (fun b => g.stateful && nbit ((g.saveMap[k]?).getD 0).toNat b)

/-- Bytes of a saved row: 72 bits in the 72 family. -/
def Image.rowBytes (g : Image) (k b : Nat) : Nat :=
  if ((((g.islands[k]?).getD {}).bms).peek (fun _ => {}) b).fam72 then 9 else 8

/-- Where the parts of an ordinal's saved state begin, in bytes: the block memories, engine, program memory, the end. -/
def Image.bmParts (g : Image) (k : Nat) : List (Nat × Nat) :=
  ((g.bms k).foldl (fun (a : Nat × List (Nat × Nat)) b => (a.1 + 1024 * g.rowBytes k b, a.2 ++ [(b, a.1)])) (13824, [])).2
def Image.engPart (g : Image) (k : Nat) : Nat := 13824 + ((g.bms k).map (fun b => 1024 * g.rowBytes k b)).sum
def Image.progPart (g : Image) (k : Nat) : Nat := g.engPart k + (if g.engSave then 1216 + 131072 + 32 else 0)
def Image.islandBytes (g : Image) (k : Nat) : Nat :=
  if g.stateful then g.progPart k + (if g.progSave then 32768 else 0) else 0

/-- Islands of an image's footprint. -/
def Image.count (g : Image) : Nat := (shapeDims g.shape.toNat).1 * (shapeDims g.shape.toNat).2

/-- Where an ordinal's saved state begins in the state slot. -/
def Image.islandAt (g : Image) (k : Nat) : Nat := ((List.range k).map g.islandBytes).sum

/-- Saved-state size of a variant in bits. -/
def Image.savedBits (g : Image) : Nat := 8 * g.islandAt g.count

/-- The engine control record; STATE is that at the fence, or the present one at a checkpoint. -/
def Engine.record (e : Engine) : Nat :=
  let st := if e.state = 0 then e.fencedAs else if e.state = 4 then 1 else e.state
  st % 8 + bit e.inTrap * 2 ^ 3 + bit e.fault * 2 ^ 4 + e.cause.toNat * 2 ^ 5 + bit e.merrTrap * 2 ^ 13 + bit e.trapEn * 2 ^ 14
    + e.startPc.toNat * 2 ^ 15 + e.tpc.toNat * 2 ^ 26 + e.trapCause.toNat * 2 ^ 37 + e.vec.toNat * 2 ^ 45 + bit e.wdogEn * 2 ^ 56
    + bit e.expired * 2 ^ 57 + e.load.toNat * 2 ^ 58 + e.sema.toNat * 2 ^ 90
    + ((List.finRange 4).map (fun c => bit (e.dm[c]).trapEn * 2 ^ (146 + c.val))).sum

/-- The engine with the fields of a control record; its STATE waits for the release. -/
def Engine.ofRecord (e : Engine) (r : Nat) : Engine :=
  let load := BitVec.ofNat 32 (nfield r 89 58)
  { e with
    fencedAs := nfield r 2 0, inTrap := nbit r 3, fault := nbit r 4, cause := BitVec.ofNat 8 (nfield r 12 5), merrTrap := nbit r 13
    trapEn := nbit r 14, startPc := BitVec.ofNat 11 (nfield r 25 15), tpc := BitVec.ofNat 11 (nfield r 36 26)
    trapCause := BitVec.ofNat 8 (nfield r 44 37), vec := BitVec.ofNat 11 (nfield r 55 45), wdogEn := nbit r 56, expired := nbit r 57
    load := load, count := load, sema := BitVec.ofNat 56 (nfield r 145 90)
    dm := Vector.ofFn (fun c => { trapEn := nbit r (146 + c.val) }) }

/-- Lays bytes over words that are zero there. -/
def layBytes (t : Table W64) (off : Nat) : List Byte → Table W64
  | [] => t
  | b :: bs =>
    layBytes (t.poke (fun _ => 0) (off / 8) (t.peek (fun _ => 0) (off / 8) ||| (b.setWidth 64 <<< (8 * (off % 8))))) (off + 1) bs

/-- Bytes of a table of words. -/
def bytesAt (t : Table W64) (off n : Nat) : List Byte :=
  (List.range n).map (fun k => ((t.peek (fun _ => 0) ((off + k) / 8)) >>> (8 * ((off + k) % 8))).setWidth 8)

/-- Words of memory that an island holds and that are listed, by window offset. -/
def State.islandWords (s : State) (i lo hi : Nat) : List Nat :=
  let a := islandWindow i
  let inside (k : Nat) : Bool := a + lo ≤ k && k < a + hi
  ((s.mem.data.filter (fun (p : Nat × Byte) => inside p.1)).map (fun (p : Nat × Byte) => p.1 / 8)
    ++ (s.mem.check.filter (fun (p : Nat × Byte) => inside (8 * p.1))).map (fun (p : Nat × Byte) => p.1)).eraseDups

/-- Reads words for a readback: offsets and values, whether one is uncorrectable, the state after (R346). -/
def State.readback (s : State) (i : Nat) : List Nat → List (Nat × W64) × Bool × State
  | [] => ([], false, s)
  | w :: ws =>
    let r := s.loadWord w
    let t := r.2.2.readback i ws
    ((8 * w - islandWindow i, r.1) :: t.1, r.2.1 || t.2.1, t.2.2)

/-- Saved state of one island: its words in the layout of R245, whether a word was uncorrectable, the state after. -/
def State.saveIsland (s : State) (g : Image) (i k : Nat) : SavedIsland × Bool × State :=
  let parts := g.bmParts k
  let bmWords := parts.flatMap (fun p => s.islandWords i (0x4000 * p.1) (0x4000 * p.1 + 0x2000))
  let engWords := if g.engSave then s.islandWords i 0x200000 0x220000 else []
  let progWords := if g.progSave then s.islandWords i 0x220000 0x228000 else []
  let r := s.readback i (bmWords ++ engWords ++ progWords)
  -- the words of a row, and bits [71:64] of a row of the 72 family
  let place (t : Table W64) (p : Nat × W64) : Table W64 :=
    if p.1 < 0x180000 then match parts.find? (fun q => q.1 == p.1 / 0x4000) with
      | none => t
      | some q =>
        let n := g.rowBytes k q.1
        let row := p.1 % 0x4000 / 8
        layBytes t (q.2 + n * row) (toBytes 8 p.2.toNat ++ (if n = 9 then [s.checkAt ((islandWindow i + p.1) / 8)] else []))
    else if p.1 < 0x220000 then layBytes t (g.engPart k + 1216 + (p.1 - 0x200000)) (toBytes 8 p.2.toNat)
    else layBytes t (g.progPart k + (p.1 - 0x220000)) (toBytes 8 p.2.toNat)
  let flip (t : Table W64) (p : Nat × Bool) : Table W64 :=
    if p.2 then t.poke (fun _ => 0) (p.1 / 64) (t.peek (fun _ => 0) (p.1 / 64) ||| (1 <<< (p.1 % 64))) else t
  let t0 := (s.facing i).settled.ff.foldl flip ([] : Table W64)
  let t1 := if g.engSave then
      layBytes (layBytes t0 (g.engPart k) (s.eng i).area) (g.engPart k + 1216 + 131072) (toBytes 32 (s.eng i).record)
    else t0
  ({ words := if g.stateful then r.1.foldl place t1 else [] }, r.2.1, r.2.2)

/-- The flip-flops of a saved island. -/
def SavedIsland.ffs (v : SavedIsland) : Table Bool :=
  (v.words.filter (fun (p : Nat × W64) => p.1 < 1728)).flatMap (fun p =>
    ((List.range 64).filter (fun b => nbit p.2.toNat b)).map (fun b => (64 * p.1 + b, true)))

/-- Rows of a part of a saved island that hold a byte other than 0: the row and its bytes. -/
def SavedIsland.rows (v : SavedIsland) (start width count : Nat) : List (Nat × List Byte) :=
  let hit := ((v.words.map (fun (p : Nat × W64) => p.1)).flatMap (fun w => (List.range 8).map (fun b => 8 * w + b))).filter (fun a =>
    start ≤ a && a < start + width * count)
  ((hit.map (fun a => (a - start) / width)).eraseDups).map (fun r => (r, bytesAt v.words (start + width * r) width))

/-- Writes words at window offsets, with check bits and guard where the memory carries them. -/
def State.writeWords (s : State) (i : Nat) (l : List (Nat × W64)) : State :=
  s.forAll l (fun p s => s.maskWrite ((islandWindow i + p.1) / 8) p.2 0xFF)

/-- Writes an image's memory contents at the window offsets that `p` names: words, and for rows of the 72 family bits [71:64],
which are data there (R112, R118). -/
def State.writeMem (s : State) (i : Nat) (g : IslandCfg) (p : Nat → Bool) : State :=
  (s.writeWords i (g.mem.filter (fun q => p q.1))).forAll (g.memHi.filter (fun q => p q.1)) (fun q s =>
    let a := islandWindow i + q.1
    if (s.bmCfg a).fam72 && q.1 < 0x180000 && q.1 % 0x4000 < 0x2000 then s.setCheck (a / 8) q.2 else s)

/-- Whether an ordinal's saved state covers a window offset. -/
def Image.covers (g : Image) (k off : Nat) : Bool :=
  if off < 0x180000 then (g.bms k).contains (off / 0x4000)
  else if off < 0x220000 then g.engSave else g.progSave

/-- The memories and the engine of an island take a saved state; what it saves and holds as 0 is 0. -/
def State.restoreIsland (s : State) (g : Image) (i k : Nat) (v : SavedIsland) (e : Engine) : State :=
  let s1 := s.modIsland i (fun x => { x with ff := v.ffs })
  let s2 := s1.forAll (g.bmParts k) (fun p s => s.forAll (v.rows p.2 (g.rowBytes k p.1) 1024) (fun r s =>
    let off := 0x4000 * p.1 + 8 * r.1
    let t := s.writeWords i [(off, BitVec.ofNat 64 (ofBytes (r.2.take 8)))]
    match r.2.drop 8 with
    | [] => t
    | b :: _ => t.setCheck ((islandWindow i + off) / 8) b))
  let words (start n base : Nat) : List (Nat × W64) :=
    (v.rows start 8 n).map (fun r => (base + 8 * r.1, BitVec.ofNat 64 (ofBytes r.2)))
  let s3 := if g.engSave then s2.writeWords i (words (g.engPart k + 1216) 16384 0x200000) else s2
  let s4 := if g.progSave then s3.writeWords i (words (g.progPart k) 4096 0x220000) else s3
  if g.engSave then
    let a := bytesAt v.words (g.engPart k) 1216
    s4.setEng i (({ e.fromArea a with esr := BitVec.ofNat 32 (leAt a 0x498 4) }).ofRecord
      (ofBytes (bytesAt v.words (g.engPart k + 1216 + 131072) 32)))
  else s4.setEng i e

/-! ### The stores (R232, R233) -/

/-- Bytes of a region in the units of its SIZE register. -/
def unit2M : Nat := 0x200000

/-- Whether an HBM region lies in one data region (R126, R262). -/
def hbmRegionOk (base size : Nat) : Bool :=
  base < 0xC00000000 && base % 0x600000000 + size * unit2M ≤ 0x5E8000000

/-- Base and bytes of a store, 0 bytes when its region is absent or invalid. -/
def State.storeRegion (s : State) (inStore : Bool) : Nat × Nat :=
  if inStore then
    let base := s.get SWB_IMG_BASE.BASE * unit2M
    (base, if hbmRegionOk base (s.get SWB_IMG_SIZE.SIZE) then s.get SWB_IMG_SIZE.SIZE * unit2M else 0)
  else
    let base := s.get SWB_HBS_BASE.BASE * unit2M
    let n := s.get SWB_HBS_SIZE.SIZE * unit2M
    (base, if base ≥ hostBase ∧ base + n ≤ 2 ^ 48 then n else 0)

/-- A length rounded up to 4 KiB. -/
def round4K (n : Nat) : Nat := (n + 4095) / 4096 * 4096

/-- Bytes an image and its state slot occupy, each rounded up to 4 KiB: the slot stands after the image (assumption log 35). -/
def Image.bytes (g : Image) : Nat :=
  round4K g.imageLen.toNat + (if g.stateful then round4K ((g.stateBits.toNat + 7) / 8) else 0)

/-- Address of a variant's state slot. -/
def Registered.slot (r : Registered) : Nat := r.addr + round4K r.img.imageLen.toNat

/-- Bytes of one checkpoint slot of a context (R429): STATE_BITS of its variants, rounded up to 4 KiB. -/
def State.ckptSlot (s : State) (c : Nat) : Nat :=
  ((s.swb.images.filter (fun r => r.ctx == c)).map (fun r => round4K ((r.img.stateBits.toNat + 7) / 8))).foldl max 0

/-- Bytes at the top of the image store that checkpoint slots take: two for each context with an interval. -/
def State.ckptBytes (s : State) : Nat :=
  ((s.twin.ckpt.filter (fun p => p.2.interval != 0)).map (fun p => 2 * s.ckptSlot p.1)).sum

/-- Granules of an HBM area that are retired or retiring: no frame is taken there (R271). -/
def State.shutSpans (s : State) (base len : Nat) : List (Nat × Nat) :=
  if !(List.range 64).any s.pcShut then []
  else ((List.range (len / 0x40000 + 1)).map (fun k => (base + k * 0x40000, 0x40000))).filter (fun (p : Nat × Nat) => s.pcShut (pcOf p.1))

/-- Spans of a store that are taken. -/
def State.storeTaken (s : State) (inStore : Bool) : List (Nat × Nat) :=
  let r := s.storeRegion inStore
  let imgs := (s.swb.images.filter (fun q => q.inStore == inStore)).map (fun q => (q.addr, q.img.bytes))
  if inStore then imgs ++ [(r.1 + r.2 - s.ckptBytes, s.ckptBytes)] ++ s.shutSpans r.1 r.2 else imgs

/-- Whether checkpoint slots find room at the top of the image store, beside its images. -/
def State.ckptFits (s : State) : Bool :=
  let r := s.storeRegion true
  s.ckptBytes ≤ r.2 && !(s.swb.images.any (fun q => q.inStore && r.1 + r.2 - s.ckptBytes < q.addr + q.img.bytes))

/-- Bytes of the images in a store, each with its slot. -/
def State.storeUsed (s : State) (inStore : Bool) : Nat :=
  ((s.swb.images.filter (fun q => q.inStore == inStore)).map (fun q => q.img.bytes)).sum

/-- The first place in a store for `z` bytes. -/
def State.storeSpace (s : State) (inStore : Bool) (z : Nat) : Option Nat :=
  let r := s.storeRegion inStore
  let used := s.storeTaken inStore
  (sortBy (fun (a b : Nat) => decide (a ≤ b)) (r.1 :: used.map (fun p => round4K (p.1 + p.2)))).find? (fun a =>
    r.1 ≤ a && a + z ≤ r.1 + r.2 && used.all (fun p => !spansMeet a (a + z) p.1 (p.1 + p.2)))

/-- What the link reads of host memory that the device has written, span by span: the bytes, or an encrypted line and its tag. -/
def State.hostRaw (s : State) (l : List (Nat × Nat × Nat)) : List Byte :=
  let at_ (a n : Nat) : List Byte := (List.range n).map (fun k => Table.peek (fun _ => 0) s.host.mem (a - hostBase + k))
  l.flatMap (fun p => if s.lineEnc p.1 then at_ (64 * p.1) 64 ++ at_ (s.tagAddr p.1) 8 else at_ p.2.1 p.2.2)

/-- Reads bytes of a store: whether a word is uncorrectable or a tag fails, and the bytes. -/
def State.storeRead (s : State) (a n : Nat) : Bool × List Byte × State :=
  if a ≥ hostBase then
    let r := s.hostOpen (s.hostRaw (spansOf a n)) (spansOf a n)
    (r.bad.isSome, r.data, s)
  else
    let r := s.sealedRead (spansOf a n)
    (r.1.ue || r.1.bad.isSome, r.1.data, r.2)

/-- Writes bytes of a store. -/
def State.storeWrite (s : State) (a : Nat) (bs : List Byte) : State :=
  if a ≥ hostBase then (s.hostWrite 0 [] bs (spansOf a bs.length)).2 else (s.sealedWrite 0 bs (spansOf a bs.length)).2

/-- Words of a span of memory that hold something, or wait in a merge buffer. -/
def State.heldWords (s : State) (a n : Nat) : List Nat :=
  let inside (w : Nat) : Bool := a / 8 ≤ w && 8 * w < a + n
  (((s.mem.data.map (fun (p : Nat × Byte) => p.1 / 8)) ++ (s.mem.check.map (fun (p : Nat × Byte) => p.1))
    ++ s.mem.merge.flatMap (fun q => q.2.map (fun e => e.word)) ++ s.mem.dead).filter inside).eraseDups

/-- Reads words one after another: the words, whether one is uncorrectable, the state after. -/
def State.readWords (s : State) : List Nat → List (Nat × W64) × Bool × State
  | [] => ([], false, s)
  | w :: ws =>
    let r := s.loadWord w
    let t := r.2.2.readWords ws
    ((w, r.1) :: t.1, r.2.1 || t.2.1, t.2.2)

/-- Reads a span of a store that holds words: those other than 0 by their place, whether one cannot be had. A plain span of HBM
gives what it holds without its zeros being read one by one. -/
def State.spanRead (s : State) (a n : Nat) : Bool × Table W64 × State :=
  if a ≥ hostBase || (s.rangeAt a).isSome then
    let r := s.storeRead a n
    (r.1, layBytes [] 0 r.2.1, r.2.2)
  else
    let r := s.readWords (s.heldWords a n)
    (r.2.1, Table.pokes (fun _ => 0) [] (r.1.map (fun (p : Nat × W64) => (p.1 - a / 8, p.2))), r.2.2)

/-- Writes a span of a store that is to hold words, the rest of it zero. -/
def State.spanWrite (s : State) (a n : Nat) (t : Table W64) : State :=
  if a ≥ hostBase || (s.rangeAt a).isSome then s.storeWrite a (bytesAt t 0 n)
  else (s.zeroRange a n).forAll t (fun (p : Nat × W64) s => s.store (a + 8 * p.1) (toBytes 8 p.2.toNat))

/-- Changes the record of an image. -/
def State.modImage (s : State) (c v : Nat) (f : Registered → Registered) : State :=
  s.onSwb (fun w => { w with images := w.images.map (fun q => if q.ctx = c ∧ q.variant = v then f q else q) })

/-- Moves an image with its state slot to a place in a store. An uncorrectable word of either marks it (R272). -/
def State.moveImage (s : State) (r : Registered) (inStore : Bool) (a : Nat) : State :=
  let len := round4K r.img.imageLen.toNat
  let i := s.spanRead r.addr len
  let t := i.2.2.spanRead r.slot (r.img.bytes - len)
  ((t.2.2.spanWrite a len i.2.1).spanWrite (a + len) (r.img.bytes - len) t.2.1).modImage r.ctx r.variant (fun q => { q with
    inStore := inStore, addr := a, damaged := q.damaged || i.1, slotBad := q.slotBad || t.1 })

/-- Whether the host backing store can be reached. -/
def State.hbsUp (s : State) : Bool := s.hostCode (s.storeRegion false).1 4096 == 0

/-- Moves images of non-resident, unpinned contexts to the host backing store, least recently loaded first, until there is a
place for `need` bytes in the image store; `n` bounds the moves. -/
def State.makeRoom (s : State) (need : Nat) : Nat → Option (Nat × State)
  | 0 => none
  | n + 1 =>
    match s.storeSpace true need with
    | some a => some (a, s)
    | none =>
      let free (r : Registered) : Bool := r.inStore && !(s.ctx r.ctx).placed && !(s.ctx r.ctx).pinned
        && (s.storeSpace false r.img.bytes).isSome && s.hbsUp
      match leastKey (fun r => [r.lastLoad]) (s.swb.images.filter free) with
      | none => none
      | some r => match s.storeSpace false r.img.bytes with
        | none => none
        | some a => (s.moveImage r false a).makeRoom need n

/-- A load brings its image and state slot back into the image store, where room can be made, and is recorded (R233). -/
def State.fetchImage (s : State) (c v : Nat) : State :=
  let s0 := match s.image c v with
    | some r => if r.inStore || !s.hbsUp then s
      else match s.makeRoom r.img.bytes 4097 with
        | some (a, t) => t.moveImage r true a
        | none => s
    | none => s
  (s0.onSwb (fun w => { w with loadNo := w.loadNo + 1 })).modImage c v (fun q => { q with lastLoad := s0.swb.loadNo + 1 })

/-- The saved state of an ordinal as its slot gives it, and whether a word of it cannot be had. -/
def State.slotRead (s : State) (r : Registered) (k : Nat) : Bool × SavedIsland × State :=
  let t := s.spanRead (r.slot + r.img.islandAt k) (r.img.islandBytes k)
  (t.1 || r.slotBad, { words := t.2.1 }, t.2.2)

/-- Saved state goes into a variant's slot. -/
def State.slotWrite (s : State) (r : Registered) (l : List SavedIsland) : State :=
  (s.forAll ((List.range l.length).zip l) (fun (p : Nat × SavedIsland) s =>
    s.spanWrite (r.slot + r.img.islandAt p.1) (r.img.islandBytes p.1) p.2.words)).modImage r.ctx r.variant (fun q => { q with
      slotBad := false })

end Sys2Proof.Machine
end

