-- ==== Sys2Proof/Machine/Tables.lean ====
section
/-!
DEFINITION. Frames of pages and the page tables that Switchback keeps in HBM (R256, R257).
-/

namespace Sys2Proof.Machine

/-! ### Frames -/

/-- Sets the owner of `n` deep granules from `g` on. -/
def State.own (s : State) (g n who : Nat) : State :=
  s.onSwb (fun w => { w with owners := Table.pokes (fun _ => 0) w.owners ((List.range n).map (fun (k : Nat) => (g + k, who))) })

/-- Gives a page's frame of `z` bytes in deep memory back. -/
def State.freeFrame (s : State) (loc a z : Nat) : State := if loc = 1 then s.own ((a - deepBase) / 4096) (z / 4096) 0 else s

/-- Bytes of a page. -/
def Page.size (p : Page) : Nat := if p.big then 0x200000 else 0x10000

/-- Base and bytes of the page-table area, 0 bytes when absent or invalid (R262). -/
def State.ptRegion (s : State) : Nat × Nat :=
  let base := s.get SWB_PT_BASE.BASE * unit2M
  (base, if hbmRegionOk base (s.get SWB_PT_SIZE.SIZE) then s.get SWB_PT_SIZE.SIZE * unit2M else 0)

/-! ### The page tables in HBM (R256, R257) -/

/-- The key of a table: its level, its space, the DVA bits above those it is indexed by. -/
def tableKey (level space dvaBits : Nat) : Nat := level * 2 ^ 60 + space * 2 ^ 40 + dvaBits
/-- Bytes of a table. -/
def tableSize (key : Nat) : Nat := if key / 2 ^ 60 = 4 then 256 else 4096

/-- Tables that a page's translation goes through. -/
def Page.keys (p : Page) : List Nat :=
  [tableKey 1 p.space 0, tableKey 2 p.space (p.dva / 2 ^ 39), tableKey 3 p.space (p.dva / 2 ^ 30)]
    ++ (if p.big then [] else [tableKey 4 p.space (p.dva / 2 ^ 21)])

/-- The leaf entry of a page. -/
def Page.entry (p : Page) : W64 :=
  BitVec.ofNat 64 (2 ^ 63 + 2 ^ 62 + p.loc % 4 * 2 ^ 60 + bit p.pin * 2 ^ 59 + p.rclass % 4 * 2 ^ 57 + bit p.w * 2 ^ 56 + bit p.d * 2 ^ 55
    + bit p.a * 2 ^ 54 + bit p.dev * 2 ^ 53 + p.addr % 2 ^ 48 / 256 * 256)
/-- An entry that points to a table. -/
def tablePointer (a : Nat) : W64 := BitVec.ofNat 64 (2 ^ 63 + a % 2 ^ 48 / 256 * 256)

/-- Where a table stands, none before it is placed. -/
def State.tableAt (s : State) (key : Nat) : Option Nat :=
  match s.swb.tables.peek (fun _ => 0) key with
  | 0 => none
  | a + 1 => some a

/-- Addresses of the entries that a walk reads for a DVA: root, L1, L2, L3 and, under a pointer, L4. -/
def State.walkPath (s : State) (space dva : Nat) : List Nat :=
  if s.swb.tables = [] then []
  else
    (s.ptRegion.1 + 8 * space) :: ([(tableKey 1 space 0, dva / 2 ^ 39 % 512), (tableKey 2 space (dva / 2 ^ 39), dva / 2 ^ 30 % 512),
      (tableKey 3 space (dva / 2 ^ 30), dva / 2 ^ 21 % 512), (tableKey 4 space (dva / 2 ^ 21), dva / 2 ^ 16 % 32)].filterMap
        (fun (k : Nat × Nat) => (s.tableAt k.1).map (fun a => a + 8 * k.2)))

/-- The entries that translate a page: addresses and values. -/
def State.pageEntries (s : State) (p : Page) : List (Nat × W64) :=
  let path := s.walkPath p.space p.dva
  path.zip ((p.keys.map (fun k => tablePointer ((s.tableAt k).getD 0))) ++ [p.entry])

/-- Spans of the page-table area that are taken: the root array, the tables, retired granules. -/
def State.tablesTaken (s : State) : List (Nat × Nat) :=
  let r := s.ptRegion
  (r.1, 8192) :: s.swb.tables.map (fun p => (p.2 - 1, tableSize p.1)) ++ s.shutSpans r.1 r.2

/-- Zeroes a span of HBM as a store to it does. -/
def State.zeroSealed (s : State) (a n : Nat) : State := s.spanWrite a n []

/-- Places tables, each at the first place free for it and zeroed; none where one has no place. -/
def State.placeTables (s : State) : List Nat → Option State
  | [] => some s
  | k :: rest =>
    let r := s.ptRegion
    let z := tableSize k
    let taken := s.tablesTaken
    let up (a : Nat) : Nat := (a + z - 1) / z * z
    match (sortBy (fun (a b : Nat) => decide (a ≤ b)) (taken.map (fun p => up (p.1 + p.2)))).find? (fun a =>
        a + z ≤ r.1 + r.2 && taken.all (fun p => !spansMeet a (a + z) p.1 (p.1 + p.2))) with
    | none => none
    | some a => ((s.zeroSealed a z).onSwb (fun w => { w with
        tables := w.tables.poke (fun _ => 0) k (a + 1)
        entries := w.entries.clearIf (fun e => a ≤ e && e < a + z) })).placeTables rest

/-- Writes the entries that are to stand in the tables where they differ from those written last. -/
def State.writeEntries (s : State) (want : Table W64) : State :=
  let stale := (s.swb.entries.filter (fun (p : Nat × W64) => want.peek (fun _ => 0) p.1 == 0)).map (fun (p : Nat × W64) => (p.1, (0 : W64)))
  let fresh := want.filter (fun (p : Nat × W64) => s.swb.entries.peek (fun _ => 0) p.1 != p.2)
  (s.forAll (stale ++ fresh) (fun (p : Nat × W64) s => (s.sealedWrite 0 (toBytes 8 p.2.toNat) (spansOf p.1 8)).2)).onSwb (fun w => { w with
    entries := want })

/-- The tables in HBM follow the pages: tables that pages need are placed, others are given up, entries that changed are
written. None where the page-table area has no place for a table. -/
def State.syncTables (s : State) : Option State :=
  let l := s.swb.pages.filter (fun p => p.valid)
  let keys := (l.flatMap Page.keys).eraseDups
  if keys = [] ∧ s.swb.tables = [] then some s
  else
    let s0 := if s.swb.tables = [] then s.zeroSealed s.ptRegion.1 8192 else s
    let s1 := s0.onSwb (fun w => { w with tables := w.tables.clearIf (fun k => !keys.contains k) })
    match s1.placeTables (keys.filter (fun k => (s1.tableAt k).isNone)) with
    | none => none
    | some s2 => some (s2.writeEntries (Table.pokes (fun _ => 0) [] (l.flatMap s2.pageEntries)))

/-- The tables follow the pages, whose number has not grown. -/
def State.syncMaps (s : State) : State := s.syncTables.getD s

/-- The tables follow the pages, and IN_USE of SWB_STAT says whether an image is registered or a mapping exists (R262). -/
def State.showMaps (s : State) : State :=
  s.syncMaps.putB SWB_STAT.IN_USE (s.swb.images != [] || s.swb.pages.any (fun p => p.valid))

end Sys2Proof.Machine
end

