-- ==== Sys2Proof/Machine/Contexts.lean ====
section
/-!
DEFINITION. Contexts: placement, pre-emption, fences, saving, loading and release, and what a move does to trails
(R218, R219, R227–R252, R261).
-/

namespace Sys2Proof.Machine

/-! ### Counts and results -/

/-- SWB_STAT and IMG_USED follow the tables. -/
def State.countCtxs (s : State) : State :=
  let res := (s.swb.ctxs.filter (fun p => p.2.state == 4 || p.2.state == 5)).length
  (((s.put SWB_STAT.QUEUED s.swb.queue.length).put SWB_STAT.RESIDENT res).putB SWB_STAT.IN_USE
    (s.swb.images != [] || s.swb.pages.any (fun p => p.valid))).put SWB_CAP.IMG_USED s.swb.images.length

/-- Linear island number at a context's anchor. -/
def Context.anchor (x : Context) : Nat := islandAt x.die x.ax x.ay

/-- ARG of a request's success and of its events: context, variant, anchor (R313, R318). -/
def State.ctxArg (s : State) (c : Nat) : Nat :=
  let x := s.ctx c
  c + x.variant * 2 ^ 10 + (if x.placed then x.anchor else 0) * 2 ^ 13

/-- Posts one of the context events 0x0501–0x0504. -/
def State.ctxEvent (s : State) (code c : Nat) : State := s.post code (s.ctxArg c)

/-- Completes a request with a code of R236: its descriptor, or the event CTX_REQUEST_DONE of a context's request. -/
def State.reqDone (s : State) (r : LoadReq) (code : Nat) : State :=
  let s1 := match r.desc with
    | some d => s.opDone d code (s.ctxArg r.ctx)
    | none => s
  match r.from_ with
  | some (c, w) => s1.postResult 0x0505 c w.toNat code
  | none => s1

/-! ### Port map and trails (R206, R218, R219) -/

/-- Whether a trail names a context at an end. -/
def Trail.names (t : Trail) (c : Nat) : Bool :=
  (vpCtx t.dst && vpCtxId t.dst == c) || (vpCtx t.src && vpCtxId t.src == c)

/-- Trails in admission order that `p` names, of those not CLOSED or CLOSING. -/
def State.openTrails (s : State) (p : Trail → Bool) : List Nat :=
  (sortBy (fun a b => a.2.seq ≤ b.2.seq)
    (s.net.trails.filter (fun q => q.2.state != 0 && q.2.state != 5 && p q.2))).map (fun q => q.1)

/-- A trail takes the state its endpoints give it (R203, R206): SUSPENDED before UNPLACED before STALLED before ACTIVE,
with its route admitted when both ends are placed and its held messages completed when it has none. -/
def State.retrail (s : State) (cause t : Nat) : State :=
  let x := s.trail t
  let a := s.endState x.src
  let b := s.endState x.dst
  if a = 3 ∨ b = 3 then
    if x.state = 3 then s
    else ((s.setTrail t { x with state := 3, fwd := [], ret := [] }).failHeld (fun k => k == t) 0x01).refreshTrails
  else if a = 4 ∨ b = 4 then
    if x.state = 4 then s
    else ((s.setTrail t { x with state := 4, fwd := [], ret := [] }).failHeld (fun k => k == t) 0x02).refreshTrails
  else if a = 2 ∨ b = 2 then (s.setTrail t { x with state := 2 }).refreshTrails
  else if x.state = 1 then s
  else match s.site x.src, s.site x.dst with
    | some p, some q => s.readmit t p q cause
    | _, _ => s

/-- Sets a context's port map entries and lets its trails follow. -/
def State.setEntries (s : State) (c st cause : Nat) : State :=
  let s1 := s.modCtx c (fun x => { x with pmap := st })
  s1.forAll (s1.openTrails (fun t => t.names c)) (fun t s => s.retrail cause t)

/-- Completes with an error the requests in flight, and those delivered and not answered, of the trails `p` names. -/
def State.failFlights (s : State) (p : Nat → Bool) (code : Nat) : State :=
  let l := (s.net.flight.filter (fun f => p f.msg.trail.toNat)).map (fun f => f.msg)
    ++ s.net.rx.flatMap (fun q => q.2.filter (fun m => m.op.toNat < 0x80 && p m.trail.toNat))
  let s1 := s.onNet (fun n => { n with
    flight := n.flight.filter (fun f => !p f.msg.trail.toNat)
    rx := (n.rx.map (fun q => (q.1, q.2.filter (fun m => !(m.op.toNat < 0x80 && p m.trail.toNat))))).filter
      (fun q => q.2 != []) })
  s1.forAll l (fun m s => (s.modTrail m.trail.toNat (fun x => { x with used := x.used - 1 })).failTag m code)

/-- Whether a trail ends at a port of a context. -/
def Trail.endsAt (t : Trail) (c : Nat) : Bool := vpCtx t.dst && vpCtxId t.dst == c

/-- Trails with such a property, by number. -/
def State.trailIs (s : State) (p : Trail → Bool) (t : Nat) : Bool := p (s.trail t)

/-- Requests that the islands' own ports and channels had outstanding are forgotten; their responses arrive late
(R218). -/
def State.forget (s : State) (is : List Nat) : State :=
  let mine (w : Requester) : Bool := match w with
    | .port i _ => is.contains i
    | .dm i _ => is.contains i
    | .unit _ => false
  let gone := s.net.txns.filter (fun p => match p.2 with
    | some x => mine x.who
    | none => false)
  let tags := gone.map (fun p => p.1)
  s.onNet (fun n => { n with
    txns := n.txns.filter (fun p => !tags.contains p.1), held := n.held.filter (fun m => !tags.contains m.tag.toNat)
    rx := n.rx.filter (fun q => !is.contains (q.1 / 2)) })

/-! ### Sites (R229, R239) -/

/-- Capability word of a die (R24). -/
def State.capWord (s : State) (d : Nat) : Nat := bit (s.flag (HIF_DIE_CAP.RETAIN_REJOIN d)) * 2 + bit (s.flag (HIF_DIE_CAP.SPARE_MON d))

/-- Whether an anchor is valid for an image (R229). -/
def State.validSite (s : State) (g : Image) (d x y : Nat) : Bool :=
  let wh := shapeDims g.shape.toNat
  let w := wh.1
  let h := wh.2
  x + w ≤ 8 && y + h ≤ 8
    && (match g.rowClass.toNat with
      | 0 => 1 ≤ y && y + h ≤ 7
      | 1 => y == 0 && h ≤ 7
      | 2 => 1 ≤ y && y + h == 8
      | 3 => y == 0 && h == 8
      | _ => false)
    && nbit g.dieMask.toNat d && nbit g.xMask.toNat x && nbit g.yMask.toNat y
    && (List.range 32).all (fun k => !nbit g.reqCap.toNat k || nbit (s.capWord d) k)

def State.placeable (s : State) (i : Nat) : Bool := s.flag (SWB_ISL_STAT.PLACEABLE i)
def State.islState (s : State) (i : Nat) : Nat := s.get (SWB_ISL_STAT.STATE i)

/-- Valid sites of an image all of whose islands are placeable. -/
def State.sites (s : State) (c v : Nat) (dieOnly : Option Nat) : List SiteAt :=
  match s.image c v with
  | none => []
  | some r =>
    (List.range 4).flatMap (fun d => (List.range 8).flatMap (fun y => (List.range 8).filterMap (fun x =>
      if (dieOnly.getD d == d) && s.validSite r.img d x y && (footprint r.img.shape.toNat d x y).all s.placeable then
        some { variant := v, die := d, ax := x, ay := y } else none)))

/-- Islands of a site. -/
def State.siteIslands (s : State) (c : Nat) (t : SiteAt) : List Nat :=
  match s.image c t.variant with
  | some r => footprint r.img.shape.toNat t.die t.ax t.ay
  | none => []

/-- Whether a declared channel would connect on a site: the partner's island lies beside, released, with the matching
group in the opposite direction (R87). -/
def State.channelFits (s : State) (g : Image) (is : List Nat) (ch : Channel) : Bool :=
  match is[ch.ord]? with
  | none => false
  | some i => match neighbour i ch.side with
    | none => false
    | some j =>
      let a := (((g.islands[ch.ord]?).getD {}).group (groupKey ch.side ch.group)).mode
      let b := ((s.island j).cfg.group (groupKey (oppositeSide ch.side) ch.group)).mode
      s.islActive j && s.get (SWB_ISL_STAT.CTX j) == ch.partner && s.get (SWB_ISL_STAT.ORDINAL j) == ch.pord
        && ((a == 2 && b == 3) || (a == 3 && b == 2))

/-- Whether every required channel of a site holds. -/
def State.channelsOk (s : State) (g : Image) (is : List Nat) : Bool :=
  g.channels.all (fun ch => !(ch.valid && ch.required && ((s.ctx ch.partner).state == 4 || (s.ctx ch.partner).state == 5))
    || s.channelFits g is ch)

/-- Whether every reserved trail of a context would be admitted on a site. -/
def State.admitsAll (s : State) (c : Nat) (t : SiteAt) (shape : Nat) : Bool :=
  let mine := s.openTrails (fun x => x.names c && x.reserved && !x.demoted)
  let s1 := s.modCtx c (fun x => { x with placed := true, shape := shape, die := t.die, ax := t.ax, ay := t.ay, pmap := 0 })
  let s2 := s1.forAll mine (fun k s => (s.modTrail k (fun x => { x with state := 2, fwd := [], ret := [] })))
  let s3 := s2.forAll mine (fun k s => s.retrail 4 k)
  mine.all (fun k => !(s3.trail k).demoted)

/-- The saved state a load would restore: the later of the last eviction and the last checkpoint (R252). -/
def Context.last (x : Context) : Option SavedState := if x.ckptNewer ∧ x.ckpt.isSome then x.ckpt else x.saved

/-- Candidate variants (R239). -/
def State.candidates (s : State) (r : LoadReq) : List Nat :=
  match (s.ctx r.ctx).last with
  | some sv => if r.fresh then (if r.anyVar then (List.range 8).filter (fun v => (s.image r.ctx v).isSome) else [r.variant])
    else [sv.variant]
  | none => if r.anyVar then (List.range 8).filter (fun v => (s.image r.ctx v).isSome) else [r.variant]

/-- Contexts that occupy islands of a list. -/
def State.occupants (s : State) (is : List Nat) : List Nat :=
  ((is.map s.occupant).filter (fun c => c != 0x3FF)).eraseDups

def Context.recent (x : Context) : Nat := max x.releasedAt x.lastUse

/-- Whether a context may be a victim of a request (R241). -/
def State.mayEvict (s : State) (r : LoadReq) (v : Nat) : Bool :=
  let x := s.ctx v
  x.state == 4 && !x.pinned && v != r.ctx
    && (v == r.victim || (s.flag SWB_POL.PREEMPT && x.prio < (s.ctx r.ctx).prio && s.now ≥ x.releasedAt + 1000 * x.quantumUs))

/-- The keys of step 1 of R240. -/
def State.siteKey (s : State) (c : Nat) (t : SiteAt) : List Nat :=
  match s.image c t.variant with
  | none => []
  | some r =>
    let is := footprint r.img.shape.toNat t.die t.ax t.ay
    let conn := (r.img.channels.filter (fun ch => ch.valid && s.channelFits r.img is ch)).length
    let empty := ((List.range 64).filter (fun k => s.islState (64 * t.die + k) == 0 && s.placeable (64 * t.die + k))).length
    [bit (!s.admitsAll c t r.img.shape.toNat), 16 - conn, empty, t.variant, islandAt t.die t.ax t.ay]

/-- What placing a request comes to. -/
inductive Placing where
  | now (t : SiteAt)
  | preempt (t : SiteAt) (victims : List Nat)
  | fail (code : Nat)
  | wait
  deriving DecidableEq, Repr

/-- Chooses a site for a load (R239, R240). -/
def State.choose (s : State) (r : LoadReq) : Placing :=
  let c := r.ctx
  let all := (s.candidates r).flatMap (fun v => s.sites c v r.dieOnly)
  let img (t : SiteAt) : Image := match s.image c t.variant with
    | some x => x.img
    | none => {}
  let ch := all.filter (fun t => s.channelsOk (img t) (s.siteIslands c t))
  let ok := ch.filter (fun t => !nbit (img t).flags.toNat 3 || s.admitsAll c t (img t).shape.toNat)
  if all = [] then .fail 3
  else if ok = [] ∧ ch ≠ [] then .fail 13
  else
    let awake := ok.filter (fun t => !s.dieAsleep t.die)   -- R261: a sleeping die holds its placements
    let free := awake.filter (fun t => (s.siteIslands c t).all (fun i => s.islState i == 0))
    match leastKey (s.siteKey c) free with
    | some t => .now t
    | none =>
      let pre := awake.filter (fun t => (s.siteIslands c t).all (fun i =>
        s.islState i == 0 || (s.islState i == 3 && s.mayEvict r (s.occupant i))))
      let key (t : SiteAt) : List Nat :=
        let vs := s.occupants (s.siteIslands c t)
        let cls := (vs.map (fun v => (s.ctx v).prio)).foldl max 0
        let n := (vs.map (fun v => (s.islandsOf v).length)).sum
        let use := (vs.map (fun v => (s.ctx v).recent)).foldl min (2 ^ 64)
        [cls, n, use] ++ s.siteKey c t
      match leastKey key pre with
      | some t => .preempt t (s.occupants (s.siteIslands c t))
      | none => .wait

/-! ### Islands -/

/-- The rung in force at an island's die: 0 Run while the ladder is emulated (R103, R105). -/
def State.rungAt (s : State) (i : Nat) : Nat :=
  if s.flag PWR_RUNG.EMULATED then 0 else max (s.get PWR_RUNG.CUR) (s.get PWR_DIE_RUNG.CUR / 8 ^ dieOf i % 8)

def State.showIsland (s : State) (i st c k : Nat) : State :=
  ((s.put (SWB_ISL_STAT.STATE i) st).put (SWB_ISL_STAT.CTX i) c).put (SWB_ISL_STAT.ORDINAL i) k

/-- Positions of a list's elements. -/
def numbered {α : Type} (l : List α) : List (Nat × α) := (List.range l.length).zip l

/-- Debug registers of an engine belong to the island and stay (R245, R468). -/
def Engine.bare (e : Engine) : Engine :=
  { comp := e.comp, brkHalt := e.brkHalt, wdogMin := e.wdogMin, term := e.term }

/-- An engine with the image's initial values (R145, R175). -/
def Engine.init (e : Engine) (g : EngImage) : Engine :=
  { e.bare with
    autoStart := g.autoStart, merrTrap := g.merrTrap, trapEn := g.trapEn, startPc := g.startPc, pc := g.startPc
    vec := g.vec, wdogEn := g.wdogEn, load := g.wdogLoad, count := g.wdogLoad, sema := g.sema, issueCap := e.issueCap }

/-- Bytes of an island's block memories and engine memories in its window. -/
def State.clearMemories (s : State) (i : Nat) : State :=
  (s.zeroRange (islandWindow i) 0x180000).zeroRange (islandWindow i + 0x200000) 0x28000

/-- Clears an island: no configuration, flip-flops and memories 0, engine OFF (R237 EMPTY). -/
def State.clearIsland (s : State) (i : Nat) : State :=
  let x := s.island i
  let s1 := s.setIsland i { droop := x.droop, frameBad := false }
  let s2 := ((s1.setEng i (s.eng i).bare).clearMemories i).onSwb (fun w => { w with retained := w.retained.filter (· != i) })
  (s2.put (CLK_ISL_CFG.SETTING i) 0).put (CLK_ISL_STAT.RAMPING i) 0

/-- An island receives frames, initial memory contents and, for a restore, its saved state with the image and ordinal whose
layout it has (R246 step 5). Memories that the state covers hold it alone, its zeros included. -/
def State.writeIsland (s : State) (i : Nat) (g : IslandCfg) (sv : Option (Image × Nat × SavedIsland)) : State :=
  let s1 := s.clearMemories i
  let x := s.island i
  let y : Island := ({ x with cfg := g, border := [], mac := [], inputs := [] } : Island).hold
  let e := (s.eng i).init g.eng
  match sv with
  | none => ((s1.setIsland i y).writeMem i g (fun _ => true)).setEng i e
  | some (h, k, v) => ((s1.setIsland i y).writeMem i g (fun o => !h.covers k o)).restoreIsland h i k v e

/-! ### Fence, empty, load (R246, R248) -/

/-- Fences an island (R246 step 3): engine, channels, streams, clocks, merge buffers, neighbours, bank. A locked sequence runs
to its UNLK; one that waits breaks with LOCK_LIMIT (R170, R171). -/
def State.fenceIsland (s : State) (i : Nat) : State :=
  let s0 := s.runLock i 64
  let s1 := if (s0.eng i).locked then s0.trapLow i 5 else s0
  let s2 := s1.modEng i (fun e1 =>
    { e1 with
      fencedAs := if e1.state = 4 then 1 else e1.state, state := 0, si := Vector.replicate 2 [], so := Vector.replicate 2 []
      dm := e1.dm.map (fun (c : Chan) => if c.state = 1 then { c with state := 2, err := 4, flying := 0, prov := [], aborted := false } else c) })
  let base := islandWindow i / 8
  let units := (s2.mem.merge.filter (fun p => base ≤ p.1 && p.1 < base + 0x200000)).map (fun p => p.1)
  let s3 := s2.forAll units (fun u s => s.flushUnit u)
  ((((s3.stopClocks i).leaveBorders i).bankFence i).modIsland i (fun x => { x with qreq := false, qack := false })).put
    (SWB_ISL_STAT.STATE i) 5

/-- Adds a job of a configuration port. -/
def State.addJob (s : State) (j : PortJob) : State := s.onSwb (fun w => { w with portJobs := w.portJobs ++ [j] })
/-- Whether a job runs on its port. -/
def State.jobRuns (s : State) (j : PortJob) : Bool := s.swb.portRun.contains j
/-- Ends a job. -/
def State.endJob (s : State) (j : PortJob) : State :=
  s.onSwb (fun w => { w with portRun := w.portRun.filter (fun k => k != j), portJobs := w.portJobs.filter (fun k => k != j) })

/-- The port job of a context's swap. -/
def State.swapJob (s : State) (c : Nat) : PortJob := { die := (s.ctx c).die, rank := 2, ctx := c }

/-- Empties a context's islands. -/
def State.emptyIslands (s : State) (c : Nat) : State :=
  let is := s.islandsOf c
  (s.forAll is (fun i s => (s.clearIsland i).showIsland i (if s.engOut i then 7 else 0) 0x3FF 0)).modCtx c (fun x => { x with placed := false, written := [] })

/-! ### Loads -/

/-- A load begins on a site whose islands are EMPTY (R246), or retained with frames that match (R40): LOADING, entries MOVING. -/
def State.beginLoad (s : State) (r : LoadReq) (t : SiteAt) : State :=
  let c := r.ctx
  let shape := match s.image c t.variant with
    | some x => x.img.shape.toNat
    | none => (s.ctx c).shape
  let s1 := s.modCtx c (fun x => { x with
    state := 3, variant := t.variant, die := t.die, ax := t.ax, ay := t.ay, shape := shape, placed := true
    loading := some r, written := [], waiting := false, restoring := x.last.isSome && !r.fresh
    saved := if r.fresh then none else x.saved, ckptNewer := x.ckptNewer && !r.fresh })
  let s2 := s1.forAll (numbered (s1.islandsOf c)) (fun p s =>
    (if s.swb.retained.contains p.2 then s else s.clearIsland p.2).showIsland p.2 1 c p.1)
  ((((s2.fetchImage c t.variant).addJob (s2.swapJob c))).setEntries c 1 2).countCtxs

/-- Asks a context to reach a quiesce point (R243): QREQ on island ordinal 0. One that was restored and whose QREQ has not been
lowered stands at its quiesce point still. -/
def State.raiseQreq (s : State) (c : Nat) : State :=
  let s1 := s.modCtx c (fun x => { x with state := 5, acked := x.acked && ((s.islandsOf c).take 1).any (fun i => (s.island i).qreq) })
  match s.islandsOf c with
  | i :: _ => (s1.modIsland i (fun x => { x with qreq := true })).put (SWB_ISL_STAT.STATE i) 4 |>.forAll (s.islandsOf c)
      (fun j s => s.put (SWB_ISL_STAT.STATE j) 4)
  | [] => s1

/-- Withdraws a quiesce (R243). -/
def State.lowerQreq (s : State) (c : Nat) : State :=
  let s1 := s.modCtx c (fun x => { x with state := 4, acked := false, evict := none, victimOf := none })
  (s1.forAll (s.islandsOf c) (fun j s => (s.modIsland j (fun x => { x with qreq := false, qack := false })).put
    (SWB_ISL_STAT.STATE j) 3)).countCtxs

/-- Requests in queue order: class, then arrival (R242). -/
def State.queueOrder (s : State) : List LoadReq :=
  sortBy (fun a b => (s.ctx a.ctx).prio > (s.ctx b.ctx).prio
    || ((s.ctx a.ctx).prio == (s.ctx b.ctx).prio && a.seq ≤ b.seq)) s.swb.queue

def State.unqueue (s : State) (c : Nat) : State :=
  (s.onSwb (fun w => { w with queue := w.queue.filter (fun r => r.ctx != c) })).countCtxs

def State.enqueue (s : State) (r : LoadReq) : State :=
  ((s.unqueue r.ctx).onSwb (fun w => { w with queue := w.queue ++ [r] })).countCtxs

/-- Frees a request's victims that have not been fenced. -/
def State.releaseVictims (s : State) (r : LoadReq) : State :=
  s.forAll r.victims (fun v s => if (s.ctx v).state = 5 ∧ (s.ctx v).pmap = 0 then s.lowerQreq v else s)

/-- The state a context without islands and work has: SAVED or IDLE. -/
def Context.rest (x : Context) : Nat := if x.last.isSome then 1 else 0

/-- Acts on a placement: load at once, pre-empt, fail or queue (R240). -/
def State.placeReq (s : State) (r : LoadReq) : State :=
  let c := r.ctx
  let back (s : State) : State := (s.unqueue c).modCtx c (fun x => { x with state := if x.waiting then 7 else x.rest })
  let queued := s.swb.queue.any (fun q => q.ctx == c)
  match s.choose r with
  | .now t => (s.unqueue c).beginLoad r t
  | .preempt t vs =>
    if !queued && s.swb.queue.length ≥ 256 then (back s).reqDone r 11
    else
      let s1 := (s.enqueue { r with site := some t, victims := vs }).modCtx c (fun x => { x with state := 2 })
      let s2 := s1.forAll vs (fun v s => (s.raiseQreq v).modCtx v (fun x => { x with victimOf := some c }))
      (if vs.all (fun v => (s2.ctx v).acked) then s2.forAll vs (fun v s => s.setEntries v 1 2) else s2).countCtxs
  | .fail code => (back s).reqDone r code
  | .wait =>
    if r.noWait then (back s).reqDone r 3
    else if !queued && s.swb.queue.length ≥ 256 then (back s).reqDone r 11
    else (s.enqueue { r with site := none, victims := [] }).modCtx c (fun x => { x with state := 2 })

/-- A load whose victims have all left begins on the site chosen for it, if its islands are free. -/
def State.victimGone (s : State) (v : Nat) : State :=
  match (s.ctx v).victimOf with
  | none => s
  | some c =>
    let s1 := s.modCtx v (fun x => { x with victimOf := none })
    match s1.swb.queue.find? (fun r => r.ctx == c) with
    | none => s1
    | some r =>
      let r' := { r with victims := r.victims.filter (fun k => k != v) }
      match r'.victims, r'.site with
      | [], some t =>
        if !s1.dieAsleep t.die && (s1.siteIslands c t).all (fun i => s1.islState i == 0 && s1.placeable i) then
          (s1.unqueue c).beginLoad { r' with site := none } t
        else s1.enqueue { r' with site := none }
      | _, _ => s1.enqueue r'

/-! ### End of an eviction -/

/-- Frees a context's deep granules. -/
def State.freeGranules (s : State) (c : Nat) : State :=
  s.onSwb (fun w => { w with owners := w.owners.filter (fun p => p.2 != c + 1) })

/-- Removes a context's address space (R235): frames are free, migrations end, and the requests that they held find no page. -/
def State.dropSpace (s : State) (c : Nat) : State :=
  let moves := s.swb.migrations.filter (fun m => m.space == c)
  let size (m : Migration) : Nat := match s.swb.pages.find? (fun p => p.valid && p.space == c && p.dva == m.dva) with
    | some p => p.size
    | none => 0
  let s1 := s.forAll (s.swb.pages.filter (fun p => p.valid && p.space == c && p.loc == 1)) (fun p s => s.freeFrame 1 p.addr p.size)
  let s2 := s1.forAll moves (fun m s => (s.freeFrame m.srcLoc m.srcAddr (size m)).freeFrame m.dstLoc m.dstAddr (size m))
  let s3 := s2.onSwb (fun w => { w with
    pages := w.pages.filter (fun p => p.space != c), migrations := w.migrations.filter (fun m => m.space != c) })
  s3.syncMaps.onNet (fun n => { n with flight := (moves.flatMap (fun m => m.held)).map (fun q => ({ msg := q } : Flight)) ++ n.flight })

/-- Unregisters a context whose islands are empty (R235). -/
def State.dropContext (s : State) (c : Nat) : State :=
  let mine := ((s.ctx c).trails ++ s.openTrails (fun t => t.owner == c)).eraseDups
  let s1 := s.forAll mine (fun t s => if (s.trail t).state = 0 ∨ (s.trail t).state = 5 then s else s.closeTrail t)
  let s2 := ((s1.freeGranules c).dropSpace c).onSwb (fun w => { w with images := w.images.filter (fun r => r.ctx != c) })
  ((s2.setCtx c {}).setEntries c 2 2).countCtxs

/-- A CTX_UNREGISTER completes; requests that waited behind it name a context that is not registered (R236, R261). -/
def State.unregister (s : State) (r : LoadReq) (code : Nat) : State :=
  let later := (s.ctx r.ctx).queue
  ((s.dropContext r.ctx).reqDone r code).forAll later (fun q s => s.reqDone q 2)

/-- Starts an eviction of a RESIDENT context. One that stands at its quiesce point since it was restored goes on to the fence
without a new handshake (R243). -/
def State.startEvict (s : State) (r : LoadReq) : State :=
  let s1 := (s.raiseQreq r.ctx).modCtx r.ctx (fun x => { x with evict := some r })
  (if (s1.ctx r.ctx).acked then s1.setEntries r.ctx 1 2 else s1).countCtxs

/-- Cancels a context's queued load and the loads and pins that wait behind it (R236, R261). -/
def State.cancelLoads (s : State) (c : Nat) : State :=
  let q := s.swb.queue.filter (fun r => r.ctx == c)
  let load (r : LoadReq) : Bool := r.kind == 0 || r.kind == 5
  let w := (s.ctx c).queue.filter load
  let s1 := (s.forAll q (fun r s => s.releaseVictims r)).unqueue c
  let s2 := s1.modCtx c (fun x => { x with queue := x.queue.filter (fun r => !load r) })
  (q ++ w).foldl (fun s r => s.reqDone r 14) s2

/-- Withdraws a lost context's restore policy: SAVED or IDLE (R252). -/
def State.withdraw (s : State) (c : Nat) : State :=
  (s.modCtx c (fun x => { x with waiting := false, state := x.rest })).countCtxs

/-- CTX_POLICY (R235): the values its SET bits name. -/
def State.applyPolicy (s : State) (r : LoadReq) : State :=
  match r.desc with
  | none => s
  | some d =>
    let on (k : Nat) : Bool := nbit (d.f 2 20 16) k
    (s.modCtx r.ctx (fun x => { x with
      prio := if on 0 then d.f 2 26 24 else x.prio
      restore := if on 1 then d.f 2 29 28 else x.restore
      quantumUs := if on 2 then d.f 3 31 0 else x.quantumUs
      quiesceUs := if on 3 then d.f 3 63 32 else x.quiesceUs
      quota := if on 4 then d.f 4 31 0 else x.quota })).endDesc d 0 0 0

/-- Whether islands that joined-mode groups link would receive different settings of the joined clock (R251). -/
def State.joinClash (s : State) (is : List Nat) (w : List W64) : Bool :=
  let new (j : Nat) : Nat := match (numbered is).find? (fun p => p.2 == j) with
    | some p => ((w[p.1]?).getD 0).toNat
    | none => s.setting j
  is.any (fun i => (s.island i).cfg.groups.any (fun p => p.2.mode == 1 && (match neighbour i (p.1 / 16) with
    | none => false
    | some j => is.contains j && clkField (new i) p.2.clk.val !=
        clkField (new j) ((s.island j).cfg.group (groupKey (oppositeSide (p.1 / 16)) (p.1 % 16))).clk.val)))

/-- CTX_CLOCK on a context that is not moving (R251): new settings, ramped where clocks run. -/
def State.applyClocks (s : State) (r : LoadReq) : State :=
  match r.desc with
  | none => s
  | some d =>
    let is := s.islandsOf r.ctx
    if (s.ctx r.ctx).state ≠ 4 then s.opDone d 2 0
    else if (numbered is).any (fun p => s.clockRange ((r.table[p.1]?).getD 0).toNat) || s.joinClash is r.table then
      s.opDone d 6 0
    else (s.forAll (numbered is) (fun p s =>
      (s.applySetting p.2 ((r.table[p.1]?).getD 0)).gateClocks p.2 (s.rungAt p.2))).opDone d 0 0

/-- Whether a context is checkpointed and this device is the backup, which does not run it (R426). -/
def State.heldBack (s : State) (c : Nat) : Bool :=
  (s.get TWN_STAT.ROLE == 3 || s.get TWN_STAT.ROLE == 4)
    && (s.twin.held.any (fun h => h.ctx == c) || (s.twin.ckpt.peek (fun _ => {}) c).interval != 0)

/-- A VICTIM that a load names is evicted whatever its class and quantum, unless it is pinned, when the load is under way or
queued and its site did not take the victim already (R241). -/
def State.evictNamed (s : State) (r : LoadReq) : State :=
  let v := s.ctx r.victim
  if r.victim != 0x3FF && r.victim != r.ctx && v.state == 4 && !v.pinned && ((s.ctx r.ctx).state == 2 || (s.ctx r.ctx).state == 3) then
    s.startEvict { ctx := r.victim, kind := 1 }
  else s

/-- A load or a pin of a context that is not RESIDENT: it ends the wait of a LOST context at once (R252). -/
def State.place (s : State) (r : LoadReq) : State :=
  let c := r.ctx
  ((s.modCtx c (fun x => { x with waiting := false, state := if x.state = 7 then x.rest else x.state })).placeReq r).evictNamed r

/-- Begins an operation on a context that is not busy (R235): IDLE, SAVED, QUEUED, RESIDENT or LOST. -/
def State.handle (s : State) (r : LoadReq) : State :=
  let c := r.ctx
  let x := s.ctx c
  match r.kind with
  | 0 =>
    if x.state = 4 then
      (s.modCtx c (fun x => { x with lastUse := s.now, pinned := x.pinned || r.pin })).reqDone r 0
    else if s.heldBack c then s.reqDone r 9
    else if r.victim != 0x3FF && (s.ctx r.victim).pinned then s.reqDone r 4
    else s.place r
  | 2 =>
    let s1 := if x.state = 2 then s.cancelLoads c else s
    if x.state = 4 then s1.startEvict r
    else s1.unregister r 0
  | 1 =>
    if x.pinned && x.state == 4 then s.reqDone r 4
    else if x.state = 2 then
      let s1 := s.cancelLoads c
      (s1.modCtx c (fun x => { x with state := x.rest, waiting := false })).countCtxs.reqDone r 0
    else if x.state = 7 then (s.withdraw c).reqDone r 0
    else if x.state = 4 then s.startEvict r
    else s.reqDone r 0
  | 5 =>
    if x.state = 4 then (s.modCtx c (fun x => { x with pinned := true })).reqDone r 0
    else if s.heldBack c then s.reqDone r 9
    else s.place { r with kind := 0, pin := true }
  | 6 => (s.modCtx c (fun x => { x with pinned := false })).reqDone r 0
  | 7 => s.applyPolicy r
  | 8 => s.applyClocks r
  | _ => if x.state = 4 then s.startEvict r else s.reqDone r 0

/-- Whether a context is busy with a move: later requests wait (R261). -/
def Context.busy (x : Context) : Bool := x.state == 3 || x.state == 5 || x.state == 6

/-- Takes up the requests that waited, while the context is not busy; `n` bounds them. -/
def State.takeUp (s : State) (c : Nat) : Nat → State
  | 0 => s
  | n + 1 =>
    let x := s.ctx c
    match x.queue with
    | [] => s
    | r :: rest =>
      if x.busy || (x.state == 2 && (r.kind == 0 || r.kind == 5)) then s
      else ((s.setCtx c { x with queue := rest }).handle r).takeUp c n

/-- A request arrives (R234, R235): it waits while its context moves, or behind a queued load when it is a load itself. -/
def State.request (s : State) (r : LoadReq) : State :=
  let r := { r with seq := s.swb.seq }
  let s := s.onSwb (fun w => { w with seq := w.seq + 1 })
  let x := s.ctx r.ctx
  if x.busy || (x.state == 2 && (r.kind == 0 || r.kind == 5)) then s.modCtx r.ctx (fun x => { x with queue := x.queue ++ [r] })
  else s.handle r

/-- Ends an eviction: islands EMPTY, the context at rest, its event and completion, and what follows (R246 step 4). -/
def State.endEvict (s : State) (c : Nat) (failed : Bool) : State :=
  let x := s.ctx c
  let s1 := if failed then s.ctxEvent 0x0504 c else s
  let s2 := s1.ctxEvent 0x0502 c
  let s3 := (s2.emptyIslands c).endJob (s.swapJob c)
  let s4 := (s3.modCtx c (fun x => { x with state := x.rest, evict := none, fenceSave := false, acked := false,
                                            pinned := false, repin := x.pinned && (match x.evict with
                                              | some r => r.kind == 3
                                              | none => false) })).setEntries c 2 2
  let s5 := match x.evict with
    | some r =>
      let s' := if r.kind = 3 then s4.onSwb (fun w => { w with reload := w.reload ++ [c] }) else s4
      if r.kind = 2 then s'.unregister r 0 else s'.reqDone r (if failed then 10 else 0)
    | none => s4
  ((s5.victimGone c).takeUp c 16).countCtxs

/-- The fence of a context's islands (R246 step 3): undelivered messages end with CTX_ABSENT (R218), then state is saved or
the context is IDLE and its islands are emptied. -/
def State.fence (s : State) (c : Nat) (save : Bool) : State :=
  let is := s.islandsOf c
  let s1 := (s.failFlights (s.trailIs (fun t => t.endsAt c)) 0x02).forget is
  let s2 := s1.forAll is (fun i s => s.fenceIsland i)
  let x := s.ctx c
  let stateful := match s.image c x.variant with
    | some r => nbit r.img.flags.toNat 0
    | none => false
  if save && stateful then
    ((s2.modCtx c (fun x => { x with state := 6, fenceSave := true })).addJob (s.swapJob c)).countCtxs
  else (s2.modCtx c (fun x => { x with saved := none, ckptNewer := false })).endEvict c false

/-- Whether a quiescing context's eviction saves state (NO_SAVE). -/
def Context.saves (x : Context) : Bool := match x.evict with
  | some r => !r.noSave
  | none => true

/-- Messages of a moving context that are still under way: released and not delivered, or accepted and unanswered. -/
def State.undrained (s : State) (c : Nat) : Bool :=
  s.net.flight.any (fun f => (s.trail f.msg.trail.toNat).names c)
    || s.net.rx.any (fun q => q.2.any (fun m => m.op.toNat < 0x80 && (s.trail m.trail.toNat).endsAt c))

/-- The contexts that are fenced together with `c`: the victims of its request, or itself. -/
def State.together (s : State) (c : Nat) : List Nat :=
  match (s.ctx c).victimOf with
  | none => [c]
  | some q => match s.swb.queue.find? (fun r => r.ctx == q) with
    | some r => r.victims
    | none => [c]

/-! ### Release (R249) -/

/-- Clock settings of a context, by ordinal. -/
def State.ctxClocks (s : State) (c : Nat) : List W64 :=
  let x := s.ctx c
  match s.image c x.variant with
  | some r => r.img.clocks
  | none => x.bootClocks

/-- An engine's state at release from set/reset (R145). -/
def Engine.released (e : Engine) (restored : Bool) : Engine :=
  { e with state := if restored then e.fencedAs else if e.autoStart then 2 else 1 }

/-- Releases an island: clocks, set/reset, engine, bank (R249 steps 2 to 4). -/
def State.releaseIsland (s : State) (c i k : Nat) (engSaved : Bool) : State :=
  let w := (((s.ctxClocks c)[k]?).getD 0)
  -- a boot context's setting that R96 refuses leaves the clocks as they are (R76)
  let s1 := (if s.clockRange w.toNat then s else s.applySetting i w).gateClocks i (s.rungAt i)
  let s2 := s1.modIsland i (fun x => { x with gsr := false })
  let s3 := ((s2.modEng i (fun e => e.released engSaved)).put (SWB_ISL_STAT.STATE i) 3).joinBorders i
  s3.bankRelease i c (s.island i).cfg

/-- Ends a load without release: islands cleared, entries ABSENT, the request completed. -/
def State.failLoad (s : State) (c code : Nat) : State :=
  let x := s.ctx c
  let s1 := (s.emptyIslands c).endJob (s.swapJob c)
  let s2 := (s1.modCtx c (fun x => { x with state := x.rest, loading := none })).setEntries c 2 2
  let s3 := match x.loading with
    | some r => s2.reqDone r code
    | none => s2
  (s3.takeUp c 16).countCtxs

/-- The release of a context all of whose islands are HELD. -/
def State.releaseCtx (s : State) (c : Nat) : State :=
  let x := s.ctx c
  let is := s.islandsOf c
  if (numbered is).any (fun p => s.clockRange (((s.ctxClocks c)[p.1]?).getD 0).toNat) then s.failLoad c 6
  else
    let engSaved (_ : Nat) : Bool := x.restoring && (match s.image c x.variant with
      | some r => r.img.engSave
      | none => false)
    let s1 := s.forAll (numbered is) (fun p s => s.releaseIsland c p.2 p.1 (engSaved p.1))
    let s2 := s1.modCtx c (fun x => { x with
      state := 4, loading := none, releasedAt := s.now, restoring := false
      pinned := x.pinned || x.repin || (match x.loading with
        | some r => r.pin
        | none => false)
      repin := false, reloading := 0 })
    let s3 := ((s2.endJob (s.swapJob c)).onSwb (fun w => { w with retained := w.retained.filter (fun i => !is.contains i) })).setEntries c 0 2
    -- a restored context comes out with QREQ = 1 and QACK = 1, but for a checkpoint with QUIESCE = 0 (R243, R431)
    let quiet := x.restoring && ((x.last.map (fun v => v.quiesced)).getD true)
    let hold (s : State) (b : Bool) : State :=
      (s.modCtx c (fun y => { y with acked := b })).forAll (is.take 1) (fun i s => s.modIsland i (fun y => { y with qreq := b, qack := b }))
    let s4 := ((if quiet then hold s3 true else s3).ctxEvent 0x0501 c).bump SWB_SWAPS.COUNT
    let s5 := match x.loading with
      | some r => s4.reqDone r 0
      | none => s4
    let s6 := s5.takeUp c 16
    -- QREQ is lowered unless an eviction that waited goes on to the fence
    (if quiet && (s6.ctx c).state == 4 then hold s6 false else s6).countCtxs

/-! ### Die loss (R219, R252, R261) -/

/-- Applies the restore policy of a context whose wait has ended: a load at its class (R252). -/
def State.restoreLoad (s : State) (c : Nat) (dieOnly : Option Nat) : State :=
  let x := s.ctx c
  let s1 := s.modCtx c (fun x => { x with waiting := false, state := x.rest })
  s1.request { ctx := c, variant := x.variant, fresh := x.restore != 2, dieOnly := dieOnly }

/-- A context becomes LOST and follows its restore policy (R252): NONE leaves it SAVED or IDLE with CTX_LOST, the others wait. -/
def State.followPolicy (s : State) (c : Nat) : State :=
  let x := s.ctx c
  if x.restore = 0 then
    (s.modCtx c (fun y => { y with state := y.rest, waiting := false, pinned := false })).post 0x0503
      (c + x.variant * 2 ^ 10 + x.anchor * 2 ^ 13)
  else s.modCtx c (fun y => { y with state := 7, waiting := true, pinned := false })

/-- A load whose victims were being fenced when their die was lost ends with DIE_LOST; its context follows its policy (R261). -/
def State.loseLoad (s : State) (d : Nat) (r : LoadReq) : State :=
  let s1 := ((s.unqueue r.ctx).modCtx r.ctx (fun y => { y with
    state := 7, die := d, ax := (r.site.map (fun t => t.ax)).getD 0, ay := (r.site.map (fun t => t.ay)).getD 0 })).reqDone r 12
  ((s1.followPolicy r.ctx).takeUp r.ctx 16).countCtxs

/-- A context with islands on a lost die (R252, R261). -/
def State.loseCtx (s : State) (c : Nat) : State :=
  let x := s.ctx c
  let swap := match x.victimOf with
    | some q => if x.pmap = 1 ∨ x.state = 6 then s.swb.queue.find? (fun (r : LoadReq) => r.ctx == q) else none
    | none => none
  let is := s.islandsOf c
  let s1 := ((s.forget is).endJob (s.swapJob c)).forAll is (fun i s =>
    ((((s.haltClocks i).modEng i (fun e => { e with state := 0 })).leaveBorders i).bankFence i).put (SWB_ISL_STAT.STATE i) 6)
  let s2 := s1.modCtx c (fun x => { x with
    placed := false, state := 7, loading := none, evict := none, acked := false, fenceSave := false, written := [] })
  let s3 := s2.setEntries c 3 2
  let s4 := match x.loading with
    | some r => s3.reqDone r 12
    | none => s3
  let s5 := match x.evict with
    | some r => s4.reqDone r 12
    | none => s4
  let s6 := s5.followPolicy c
  let s7 := match x.evict with
    | some r => if r.kind = 2 then
        (s6.dropContext c).forAll x.queue (fun q s => s.reqDone q 2)
      else s6
    | none => s6
  let s8 := match swap with
    | some r => (r.victims.foldl (fun (s : State) (v : Nat) => s.modCtx v (fun y => { y with victimOf := none })) s7).loseLoad x.die r
    | none => s7.victimGone c
  (s8.takeUp c 16).countCtxs

/-- Contexts that occupy islands of a die. -/
def State.ctxsOnDie (s : State) (d : Nat) : List Nat :=
  (s.swb.ctxs.filter (fun p => p.2.placed && p.2.die == d)).map (fun p => p.1)

/-- Every context on a lost die; its other islands are LOST too. -/
def State.loseDieCtxs (s : State) (d : Nat) : State :=
  let s1 := s.forAll (s.ctxsOnDie d) (fun c s => s.loseCtx c)
  s1.forN 64 (fun k s => (s.put (SWB_ISL_STAT.STATE (64 * d + k)) (if s.islState (64 * d + k) = 7 then 7 else 6)).put
    (SWB_ISL_STAT.PLACEABLE (64 * d + k)) 0)

/-! ### The queue (R242) -/

/-- Retries the queue in order: each request that can be placed now is. -/
def State.retryQueue (s : State) : State :=
  s.queueOrder.foldl (fun s r =>
    if (s.ctx r.ctx).state = 2 ∧ r.victims = [] ∧ s.swb.queue.any (fun q => q.seq == r.seq && q.ctx == r.ctx) then
      (match s.choose r with
        | .wait => s
        | _ => s.placeReq r)
    else s) s

end Sys2Proof.Machine
end

