-- ==== Sys2Proof/Machine/CtxRows.lean ====
section
/-!
DEFINITION. The rows of context management: registration, requests, quiesce, fence, load, release and the configuration
ports (R218, R227–R252, R261, R262).
-/

namespace Sys2Proof.Machine

/-! ### Registration (R232) -/

/-- BAD_IMAGE (R232), for the length that the descriptor gives. -/
def State.badImage (s : State) (g : Image) (len : Nat) : Bool :=
  let wh := shapeDims g.shape.toNat
  let n := wh.1 * wh.2
  g.magic != 0x5846434D || g.fmtVer != 1 || g.hdrLen != 512
    || g.deviceId.toNat != s.get CFG_IMG_ID.DEVICE_ID || g.imageLen.toNat != len
    || g.shape.toNat > 10 || g.deepQuota.toNat > 65536 || g.trlN.toNat > 64 || g.chnN.toNat > 16
    || g.rsv || g.rowClass.toNat ≥ 4 || g.dieMask.toNat ≥ 16 || g.prio.toNat ≥ 8 || g.restore.toNat ≥ 4
    || g.flags.toNat ≥ 16 || g.segEnd > g.imageLen.toNat
    || (numbered g.clocks).any (fun p => nbit p.2.toNat 60 || (p.1 ≥ n && p.2 != 0))
    || g.channels.any (fun c => c.rsv != 0)
    || (List.range n).any (fun k => (List.range 5).any (fun j => nfield (clkField ((g.clocks[k]?).getD 0).toNat j) 9 3 == 0))
    || g.stateBits.toNat != g.savedBits || !g.hashOk || !g.sigOk

/-- A VPID of an image's trail list: context field 0x3FF stands for the context that registers (R231). -/
def ownVpid (c v : Nat) : Nat := if vpCtx v ∧ vpCtxId v = 0x3FF then 0x8000 + c * 32 + vpOrd v else v

/-- W0 of a trail list entry with the registering context filled in. -/
def ownTrail (c : Nat) (w0 : W64) : W64 :=
  setField (setField w0 47 32 (ownVpid c (fieldOf w0 47 32))) 31 16 (ownVpid c (fieldOf w0 31 16))

/-- Opens a trail list for a context: the code of R207 of the first that fails, and the state after. -/
def State.openList (s : State) (c : Nat) : List (W64 × W64 × W64 × W64) → Nat × State
  | [] => (0, s)
  | (w0, w1, w2, w3) :: rest =>
    let r := s.openTrail (ownTrail c w0) w1 w2 w3
    if r.1 ≠ 0 then (r.1, s)
    else (r.2.2.modCtx c (fun x => { x with trails := x.trails ++ [r.2.1] })).openList c rest

/-- Registers an image that passed its checks: its bytes are copied into the image store, a STATEFUL variant's state slot after
them. -/
def State.register (s : State) (d : Desc) (c v group : Nat) (g : Image) (bytes : List Byte) : State :=
  let first := !s.registered c
  let had := s.swb.images.any (fun r => r.ctx == c)
  match s.makeRoom g.bytes 4097 with
  | none => s.opDone d 7 0
  | some (a, s0) =>
    let s1 := (s0.storeWrite a (bytes.take g.imageLen.toNat)).onSwb (fun w => { w with
      images := w.images ++ [{ ctx := c, variant := v, img := g, addr := a }] })
    let x := s1.ctx c
    let fresh := first || (!had && !x.placed)
    let s2 := if fresh then
        (s1.setCtx c { x with
          state := if x.state = 8 then 0 else x.state, prio := g.prio.toNat, restore := g.restore.toNat, group := group
          quantumUs := g.quantumUs.toNat, quiesceUs := g.quiesceTmoUs.toNat, quota := g.deepQuota.toNat, boot := false })
      else s1
    let r := if fresh then s2.openList c g.trails else (0, s2)
    if r.1 = 0 then r.2.countCtxs.opDone d 0 0
    else
      let opened := (r.2.ctx c).trails
      let s3 := r.2.forAll opened (fun t s => s.closed t)
      let s4 := (s3.onSwb (fun w => { w with images := w.images.filter (fun q => !(q.ctx == c && q.variant == v)) })).setCtx c x
      s4.countCtxs.endDesc d stOpFail 8 r.1

/-- CTX_REGISTER (R232), with the image as read and the code of the read. -/
def execCtxRegister (d : Desc) (q : ImageRead) (rd : BitVec 8) (s : State) : Res :=
  if !q.cfgs.all IslandCfg.legal then illFormed else
  let img := imageOf q.bytes q.cfgs q.hashOk q.sigOk
  let c := d.f 3 41 32
  let v := d.f 3 44 42
  let group := d.f 3 55 48
  let ok := d.only 2 (bitsHL 47 0) && d.f 2 47 47 == 1 && d.only 3 (bitsHL 44 0 + bitsHL 55 48) && d.zeroFrom 4
  s.runRead d 0x28 ok (d.f 2 47 0) (d.f 3 31 0) rd.toNat (fun s =>
    let x := s.ctx c
    let has := s.swb.images.any (fun r => r.ctx == c) || (x.boot && x.placed)
    if c = 0x3FF ∨ (s.image c v).isSome ∨ (x.boot && x.placed && v == 0) ∨ (has && group != x.group) then s.opDone d 2 0
    else if s.swb.images.length ≥ 4096 then s.opDone d 15 0
    else if s.badImage img (d.f 3 31 0) then s.opDone d 1 0
    else s.register d c v group img q.bytes)

/-! ### Requests (R234, R235) -/

/-- Bits of a request word that are not reserved. -/
def requestMask : Nat := bitsHL 47 38 + bitsHL 35 32 + bitsHL 25 16 + bitsHL 11 8 + bitsHL 3 0

/-- A request word as a request. -/
def requestOf (w : W64) (force : Bool) (d : Option Desc) (from_ : Option (Nat × W64)) : LoadReq :=
  let op := fieldOf w 3 0
  { ctx := fieldOf w 25 16, kind := if op = 1 then 0 else if op = 2 then 1 else if op = 3 then 5 else 6
    variant := fieldOf w 10 8, anyVar := fieldOf w 11 11 == 1, fresh := fieldOf w 35 35 == 1, noWait := fieldOf w 34 34 == 1
    pin := fieldOf w 33 33 == 1, noSave := fieldOf w 32 32 == 1, force := force, victim := fieldOf w 47 38
    desc := d, from_ := from_ }

/-- Performs a request of the host or of a context: BAD_CTX, or the operation in its turn. -/
def State.ctxRequest (s : State) (r : LoadReq) : State :=
  let loads := (r.kind == 0 || r.kind == 5) && (s.ctx r.ctx).state != 4
  if r.ctx = 0x3FF || !s.registered r.ctx || (loads && (if r.anyVar then !s.swb.images.any (fun g => g.ctx == r.ctx)
      else (s.image r.ctx r.variant).isNone)) then s.reqDone r 2
  else s.request r

/-- A CTX_REQUEST descriptor with the OP of its row; FORCE goes with CTX_EVICT only (R313). -/
def State.runRequest (s : State) (d : Desc) (op : Nat) : Res :=
  if d.f 2 3 0 != op then notDue s
  else
    let ok := d.only 2 requestMask && d.only 3 (if op = 2 then 1 else 0) && d.zeroFrom 4
    s.runDesc d 0x2A ok (fun s => s.ctxRequest (requestOf d.w2 (d.f 3 0 0 == 1) (some d) none))

/-- CTX_LOAD (R235, R240). -/
def execCtxLoad (d : Desc) (s : State) : Res := s.runRequest d 1
/-- CTX_EVICT (R235). -/
def execCtxEvict (d : Desc) (s : State) : Res := s.runRequest d 2
/-- CTX_PIN (R235). -/
def execCtxPin (d : Desc) (s : State) : Res := s.runRequest d 3
/-- CTX_UNPIN (R235). -/
def execCtxUnpin (d : Desc) (s : State) : Res := s.runRequest d 4

/-- A host-only operation on a context: BAD_CTX when it is not registered, else in its turn. -/
def State.hostRequest (s : State) (d : Desc) (r : LoadReq) : State :=
  if r.ctx = 0x3FF || !s.registered r.ctx then s.opDone d 2 0 else s.request r

/-- CTX_UNREGISTER: evicts with NO_SAVE and FORCE and removes everything of the context (R235). -/
def execCtxUnregister (d : Desc) (s : State) : Res :=
  s.runDesc d 0x29 (d.only 2 (bitsHL 9 0) && d.zeroFrom 3) (fun s =>
    s.hostRequest d { ctx := d.f 2 9 0, kind := 2, noSave := true, force := true, desc := some d })

/-- CTX_POLICY (R235). -/
def execCtxPolicy (d : Desc) (s : State) : Res :=
  let ok := d.only 2 (bitsHL 9 0 + bitsHL 20 16 + bitsHL 26 24 + bitsHL 29 28) && d.only 4 (bitsHL 31 0) && d.zeroFrom 5
  s.runDesc d 0x2B ok (fun s => s.hostRequest d { ctx := d.f 2 9 0, kind := 7, desc := some d })

/-- CTX_CLOCK (R251): the operand is the table as read, `rd` the code of its read. -/
def execCtxClock (d : Desc) (table : List W64) (rd : BitVec 8) (s : State) : Res :=
  let ok := d.only 2 (bitsHL 9 0) && d.only 3 (bitsHL 47 0) && d.f 3 47 47 == 1 && d.zeroFrom 4
  s.runRead d 0x2C ok (d.f 3 47 0) 128 rd.toNat (fun s => s.hostRequest d { ctx := d.f 2 9 0, kind := 8, desc := some d, table := table })

/-- Islands became EMPTY or placeable: the whole queue is tried again in order (R242). -/
def execQueuedLoadStart (s : State) : Res := .next s.retryQueue

/-! ### Quiesce and fence (R243, R244, R218, R246) -/

def State.ckptOf (s : State) (c : Nat) : CkptSet := s.twin.ckpt.peek (fun _ => {}) c
def State.modCkpt (s : State) (c : Nat) (f : CkptSet → CkptSet) : State :=
  { s with twin := { s.twin with ckpt := s.twin.ckpt.poke (fun _ => {}) c (f (s.ckptOf c)) } }

/-- Whether a checkpoint waits for QACK of a RESIDENT context (R429). -/
def State.ckptWaits (s : State) (c : Nat) : Bool := (s.ckptOf c).run == 1 && (s.ctx c).state == 4

/-- The port job of a checkpoint's readback. -/
def State.ckptJob (s : State) (c : Nat) : PortJob := { die := (s.ctx c).die, rank := 3, ctx := c }

/-- A checkpoint that was being taken ends: its job, and QREQ where no eviction holds it. -/
def State.endCkpt (s : State) (c : Nat) : State :=
  let s1 := (s.modCkpt c (fun k => { k with run := 0 })).endJob (s.ckptJob c)
  if (s.ctx c).state = 4 then
    s1.forAll ((s.islandsOf c).take 1) (fun i s => s.modIsland i (fun x => { x with qreq := false, qack := false }))
  else s1

/-- The context raises QACK: its entries and those of the victims fenced with it become MOVING once all have answered. -/
def execQack (c : BitVec 10) (s : State) : Res :=
  let c := c.toNat
  let s1 := (s.modCtx c (fun x => { x with acked := true })).forAll ((s.islandsOf c).take 1) (fun i s =>
    s.modIsland i (fun x => { x with qack := true }))
  let all := s1.together c
  if s.ckptWaits c then
    .next (((s.modCkpt c (fun k => { k with run := 2 })).forAll ((s.islandsOf c).take 1) (fun i s =>
      s.modIsland i (fun x => { x with qack := true }))).addJob (s.ckptJob c))
  else whenDue ((s.ctx c).state == 5 && !(s.ctx c).acked) s
    (if all.all (fun v => (s1.ctx v).acked) then s1.forAll all (fun v s => s.setEntries v 1 2) else s1)

/-- QUIESCE_TMO_US has passed without QACK (R244). -/
def execQuiesceTimeout (c : BitVec 10) (s : State) : Res :=
  let c := c.toNat
  let x := s.ctx c
  let s0 := s.bump SWB_QTMO.COUNT
  if s.ckptWaits c && x.quiesceUs != 0 then .next ((s0.endCkpt c).post 0x0B06 (c + 4 * 256))
  else whenDue (x.state == 5 && !x.acked && x.quiesceUs != 0) s
    (match x.victimOf with
      | some q =>
        match s0.swb.queue.find? (fun r => r.ctx == q) with
        | some r => (s0.releaseVictims r).enqueue { r with site := none, victims := [] }
        | none => s0.lowerQreq c
      | none =>
        match x.evict with
        | some r =>
          if r.kind = 1 ∧ !r.force then ((s0.lowerQreq c).reqDone r 5).takeUp c 16 else s0.fence c false
        | none => s0.lowerQreq c)

/-- Fences the contexts that go together. -/
def State.fenceAll (s : State) (c : Nat) : State :=
  s.forAll ((s.together c).filter (fun v => (s.ctx v).state == 5 && (s.ctx v).pmap == 1)) (fun v s => s.fence v (s.ctx v).saves)

/-- The messages of a moving context have drained (R218 step 4). -/
def execDrainComplete (c : BitVec 10) (s : State) : Res :=
  whenDue ((s.ctx c.toNat).state == 5 && (s.ctx c.toNat).pmap == 1 && (s.together c.toNat).all (fun v => !s.undrained v)) s
    (s.fenceAll c.toNat)

/-- TRL_DRAIN.US has passed (R218 step 4). -/
def execDrainTimeout (c : BitVec 10) (s : State) : Res :=
  whenDue ((s.ctx c.toNat).state == 5 && (s.ctx c.toNat).pmap == 1) s (s.fenceAll c.toNat)

/-- Saved state of a context's islands: the islands, whether a word was uncorrectable, the state after. -/
def State.saveAll (s : State) (g : Image) : List (Nat × Nat) → List SavedIsland × Bool × State
  | [] => ([], false, s)
  | (k, i) :: rest =>
    let a := s.saveIsland g i k
    let b := a.2.2.saveAll g rest
    (a.1 :: b.1, a.2.1 || b.2.1, b.2.2)

/-- The readback of every island has ended (R246 step 4): SAVED, or IDLE with SAVE_FAIL (R261). -/
def execReadbackComplete (c : BitVec 10) (s : State) : Res :=
  let c := c.toNat
  let x := s.ctx c
  whenDue (x.state == 6 && s.jobRuns (s.swapJob c)) s
    (match s.image c x.variant with
      | none => s.endEvict c false
      | some r =>
        let a := s.saveAll r.img (numbered (s.islandsOf c))
        if a.2.1 then (a.2.2.modCtx c (fun x => { x with saved := none, ckptNewer := false })).endEvict c true
        else ((a.2.2.slotWrite r a.1).modCtx c (fun x => { x with
          saved := some { variant := x.variant, islands := a.1 }, ckptNewer := false })).endEvict c false)

/-! ### Load and release (R246, R249) -/

/-- The configuration of a loading context's island: its image's, or a boot context's own. -/
def State.loadCfg (s : State) (c k : Nat) : IslandCfg :=
  let x := s.ctx c
  match s.image c x.variant with
  | some r => (r.img.islands[k]?).getD {}
  | none => (x.bootCfg[k]?).getD {}

/-- Saved state that a load restores into an ordinal, with the image whose layout it has: that of the last checkpoint, or what the
state slot gives; whether a word of the slot cannot be had. `rep` are its lines that on-die ECC reports. -/
def State.restores (s : State) (c k : Nat) (rep : List (BitVec 42)) : Bool × Option (Image × Nat × SavedIsland) × State :=
  let x := s.ctx c
  if !x.restoring then (false, none, s)
  else match s.image c x.variant with
    | none => (false, none, s)
    | some r => match (if x.ckptNewer then x.ckpt else none) with
      | some v => (false, some (r.img, k, (v.islands[k]?).getD {}), s)
      | none =>
        let t := s.slotRead r k
        let hit := if r.inStore then reportsIn rep (r.slot + r.img.islandAt k) (r.img.islandBytes k) else []
        (t.1 || hit != [], some (r.img, k, t.2.1), t.2.2.forAll hit (fun x s => s.odeccError x))

/-- Reads a context's image for a load: whether a word of it cannot be had. `rep` are its lines that on-die ECC reports. -/
def State.imageBad (s : State) (c : Nat) (rep : List (BitVec 42)) : Bool × State :=
  match s.image c (s.ctx c).variant with
  | none => (false, s)
  | some r =>
    let t := s.spanRead r.addr r.img.imageLen.toNat
    let hit := if r.inStore then reportsIn rep r.addr r.img.imageLen.toNat else []
    (t.1 || r.damaged || hit != [], t.2.2.forAll hit (fun x s => s.odeccError x))

/-- What an island of a loading context receives as its configuration: the image's, on a retained island the frames it kept
(R40). -/
def State.framesFor (s : State) (c k i : Nat) : IslandCfg :=
  let g := s.loadCfg c k
  if s.swb.retained.contains i then { (s.island i).cfg with mem := g.mem, memHi := g.memHi } else g

/-- An island of a loading context has been written (R246 step 5), or not, for an image or a state slot with an uncorrectable
word (R236, R261). -/
def execIslandLoadComplete (c : BitVec 10) (k : Fin 16) (imgBad slotBad : List (BitVec 42)) (s : State) : Res :=
  let c := c.toNat
  let x := s.ctx c
  let is := s.islandsOf c
  let im := s.imageBad c imgBad
  let sv := im.2.restores c k.val slotBad
  whenDue (x.state == 3 && s.jobRuns (s.swapJob c) && k.val < is.length && !x.written.contains k.val) s
    (if im.1 then
      (im.2.onSwb (fun w => { w with images := w.images.filter (fun r => !(r.ctx == c && r.variant == x.variant)) })).failLoad c 1
    else if sv.1 then
      let s1 := (sv.2.2.forAll (numbered is) (fun p s => (s.clearIsland p.2).showIsland p.2 1 c p.1)).modCtx c (fun x => { x with
        restoring := false, saved := none, ckptNewer := false, written := [] })
      s1.ctxEvent 0x0504 c
    else match is[k.val]? with
      | none => s
      | some i =>
        ((sv.2.2.writeIsland i (s.framesFor c k.val i) sv.2.1).put (SWB_ISL_STAT.STATE i) 2).modCtx c (fun x => { x with
          written := x.written ++ [k.val] }))

/-- Every island is HELD: the context is released (R249). -/
def execContextRelease (c : BitVec 10) (s : State) : Res :=
  let x := s.ctx c.toNat
  whenDue (x.state == 3 && x.written.length == (s.islandsOf c.toNat).length) s (s.releaseCtx c.toNat)

/-! ### Configuration ports (R250) -/

/-- Rank, class and arrival of a waiting job. -/
def State.jobKey (s : State) (p : Nat × PortJob) : List Nat :=
  [p.2.rank, if p.2.rank = 2 then 7 - (s.ctx p.2.ctx).prio else 0, p.1]

/-- The port of a die starts its highest-ranked waiting job, over a running job of lower rank; it holds while the die is at
Lull or below (R250, R261). Rank 1 clears a die that rejoins. -/
def execConfigPortJobStart (die : Fin 4) (s : State) : Res :=
  let wait := (numbered s.swb.portJobs).filter (fun p => p.2.die == die.val)
  let run := s.swb.portRun.find? (fun j => j.die == die.val)
  match leastKey s.jobKey wait with
  | none => notDue s
  | some p =>
    let mayRun := match run with
      | none => true
      | some j => p.2.rank < j.rank
    whenDue (mayRun && !s.dieAsleep die.val && (if p.2.rank = 1 ∧ p.2.ctx = 0x3FF then s.presence die.val == .rejoining else !s.dieGone die.val)) s
      (s.onSwb (fun w => { w with
        portJobs := run.toList ++ w.portJobs.filter (fun j => j != p.2)
        portRun := p.2 :: w.portRun.filter (fun j => j.die != die.val) }))

/-! ### Restore policy (R252) -/

/-- REJOIN_WAIT has passed for a lost context with policy FRESH or SAVED. -/
def execRejoinWaitExpiry (c : BitVec 10) (s : State) : Res :=
  let x := s.ctx c.toNat
  whenDue (x.state == 7 && x.waiting && (x.restore == 1 || x.restore == 2)) s (s.restoreLoad c.toNat none)

/-! ### Registers (R262) -/

/-- A write of SWB_CTX_SEL captures SWB_CTX_INFO. -/
def execSwbCtxSelWrite (v : W32) (s : State) : Res :=
  let c := fieldOf v 9 0
  let x := s.ctx c
  let s1 := (s.put SWB_CTX_SEL.CTX c).put SWB_CTX_INFO.STATE x.state
  let var := if x.placed then x.variant else match x.last with
    | some sv => sv.variant
    | none => 0
  let used := (s.swb.owners.filter (fun p => p.2 == c + 1)).length
  .next ((((((((s1.put SWB_CTX_INFO.VARIANT var).putB SWB_CTX_INFO.PINNED x.pinned).put SWB_CTX_INFO.PRIO x.prio).put
    SWB_CTX_INFO.RESTORE x.restore).put SWB_CTX_INFO.GROUP x.group).put SWB_CTX_INFO.ANCHOR
    (if x.placed then x.anchor else 0)).put SWB_CTX_INFO.QUOTA x.quota).put SWB_CTX_INFO.USED used)

/-- SWB_CNT_CLR clears the five counters. -/
def execSwbCntClr (v : W32) (s : State) : Res :=
  .next (if fieldOf v 0 0 = 1 then
      ((((s.put SWB_SWAPS.COUNT 0).put SWB_QTMO.COUNT 0).put SWB_PG_FAULTS.COUNT 0).put SWB_PG_MIGS.COUNT 0).put SWB_PG_ERR.COUNT 0
    else s)

end Sys2Proof.Machine
end

