-- ==== Sys2Proof/Machine/Pages.lean ====
section
/-!
DEFINITION. Switchback's allocator of deep memory (R253–R255) and the tables of device virtual memory: frames, MAP and
PAGE_POLICY (R256–R258).
-/

namespace Sys2Proof.Machine

/-! ### Deep memory (R253–R255) -/

/-- Owner of a deep granule, plus 1; 0 when it is not allocated. -/
def State.ownerOf (s : State) (g : Nat) : Nat := s.swb.owners.peek (fun _ => 0) g
/-- Address of a deep granule. -/
def granuleAt (g : Nat) : Nat := deepBase + g * 4096
/-- Whether a deep bank (32·die + bank) is reserved by the bitstream (R120). -/
def State.bankReserved (s : State) (b : Nat) : Bool := nbit (s.get (MEM_DEEP_RSV.RSV (b / 32))) (b % 32)

/-- The first of `n` free granules in a row in a bank, at a multiple of `align`. -/
def State.freeRun (s : State) (b n align : Nat) : Option Nat :=
  if s.bankReserved b || s.swb.shutBanks.contains b then none
  else ((List.range (512 / align)).map (fun k => k * align)).find? (fun k =>
      k + n ≤ 512 && (List.range n).all (fun j => s.ownerOf (b * 512 + k + j) == 0)) |>.map (fun k => b * 512 + k)

/-- Whether a die serves allocations: present and not degraded. -/
def State.dieServes (s : State) (d : Nat) : Bool := !s.dieGone d && !s.pkg.degraded.contains d

/-- Granules a context owns. -/
def State.granulesOf (s : State) (c : Nat) : Nat := (s.swb.owners.filter (fun p => p.2 == c + 1)).length
/-- Granules left in a context's quota, as answered. -/
def State.quotaLeft (s : State) (c : Nat) : Nat := min ((s.ctx c).quota - s.granulesOf c) 0xFFFF

/-- An allocation for context `c`: the reason of R255 and the first granule. `home` is the die of the requesting
island. -/
def State.allocate (s : State) (c n sel die : Nat) (home : Option Nat) : Nat × Nat × State :=
  if c = 0x3FF || !s.registered c || sel = 3 || (sel = 0 && home.isNone) then (4, 0, s)
  else
    let dies := if sel = 1 then (List.range 4).filter s.dieServes else [if sel = 0 then home.getD 0 else die]
    if !dies.all s.dieServes then (5, 0, s)
    else if s.granulesOf c + n > (s.ctx c).quota then (1, 0, s)
    else match dies.findSome? (fun d => (List.range 32).findSome? (fun b => s.freeRun (32 * d + b) n 1)) with
      | none => (2, 0, s)
      | some g => (0, g, (s.zeroRange (granuleAt g) (n * 4096)).own g n (c + 1))

/-- Frees granules for context `c`: the reason of R255. -/
def State.freeDeep (s : State) (c n dpa : Nat) : Nat × State :=
  if c = 0x3FF || !s.registered c || dpa % 4096 ≠ 0 || !inDeep dpa then (4, s)
  else
    let g := (dpa - deepBase) / 4096
    if (List.range n).all (fun k => s.ownerOf (g + k) == c + 1) then (0, s.own g n 0) else (3, s)

/-- Ends a host ALLOC or FREE: QUOTA with the reason, or OK (R313). -/
def State.quotaDone (s : State) (d : Desc) (reason arg : Nat) : State :=
  if reason = 0 then s.endDesc d 0 0 arg else s.endDesc d 0x0D reason 0

/-- ALLOC (R253, R254): from a context by message, from the host for a named context. -/
def execAlloc (o : Origin) (s : State) : Res :=
  match o with
  | .host d =>
    let c := d.f 2 9 0
    s.runDesc d 0x2D (d.only 2 (bitsHL 9 0 + bitsHL 29 16) && d.zeroFrom 3) (fun s =>
      let home := if (s.ctx c).placed then some (s.ctx c).die else none
      let r := s.allocate c (d.f 2 24 16 + 1) (d.f 2 27 26) (d.f 2 29 28) home
      r.2.2.quotaDone d r.1 (granuleAt r.2.1))
  | .msg tag => s.serve tag.toNat opALLOC (fun m s =>
      let p := m.operand.toNat
      let n := nfield p 8 0 + 1
      let c := m.ctx.toNat
      let home := (s.ctxPort (s.trail m.trail.toNat).src).map (fun q => dieOf q.1)
      let r := s.allocate c n (nfield p 11 10) (nfield p 13 12) home
      if r.1 ≠ 0 then s.respond m opERR 0x0D [] (BitVec.ofNat 96 r.1)
      else r.2.2.respond m opALLOCRSP 0 [] (BitVec.ofNat 96 (n - 1 + r.2.1 / 16384 * 2 ^ 12 + r.2.2.quotaLeft c * 2 ^ 32))
        (granuleAt r.2.1))

/-- FREE (R253). -/
def execFree (o : Origin) (s : State) : Res :=
  match o with
  | .host d =>
    s.runDesc d 0x2E (d.only 2 (bitsHL 9 0 + bitsHL 24 16) && d.only 3 (bitsHL 47 0) && d.zeroFrom 4) (fun s =>
      let r := s.freeDeep (d.f 2 9 0) (d.f 2 24 16 + 1) (d.f 3 47 0)
      r.2.quotaDone d r.1 0)
  | .msg tag => s.serve tag.toNat opFREE (fun m s =>
      let c := m.ctx.toNat
      let r := s.freeDeep c (nfield m.operand.toNat 8 0 + 1) m.addr.toNat
      if r.1 ≠ 0 then s.respond m opERR 0x0D [] (BitVec.ofNat 96 r.1)
      else r.2.respond m opFREERSP 0 [] (BitVec.ofNat 96 (r.2.quotaLeft c * 2 ^ 32)))

/-! ### Frames and tables (R256–R258) -/

def pageSize (big : Bool) : Nat := if big then 0x200000 else 0x10000
/-- Whether a page lies at or over a DVA of its space. -/
def Page.holds (p : Page) (space dva : Nat) : Bool := p.space == space && p.dva ≤ dva && dva < p.dva + p.size

/-- The valid page that maps a DVA. -/
def State.pageAt (s : State) (space dva : Nat) : Option Page := s.swb.pages.find? (fun p => p.valid && p.holds space dva)
/-- Changes the pages a predicate names. -/
def State.modPages (s : State) (p : Page → Bool) (f : Page → Page) : State :=
  s.onSwb (fun w => { w with pages := w.pages.map (fun x => if p x then f x else x) })
/-- Whether two entries are one page. -/
def Page.same (p q : Page) : Bool := p.space == q.space && p.dva == q.dva && p.big == q.big

/-- Bytes of the HBM page pool, 0 when absent or invalid (R262). -/
def State.poolCap (s : State) : Nat :=
  if hbmRegionOk (s.get SWB_POOL_BASE.BASE * unit2M) (s.get SWB_POOL_SIZE.SIZE) then s.get SWB_POOL_SIZE.SIZE * unit2M else 0

/-- HBM frames in use: pages there, and both ends of migrations. -/
def State.hbmFrames (s : State) : List (Nat × Nat) :=
  (s.swb.pages.filter (fun p => p.valid && p.loc == 0)).map (fun p => (p.addr, p.size))
    ++ s.swb.migrations.flatMap (fun m =>
      let z := match s.swb.pages.find? (fun p => p.valid && p.space == m.space && p.dva == m.dva) with
        | some p => p.size
        | none => 0
      (if m.srcLoc = 0 then [(m.srcAddr, z)] else []) ++ (if m.dstLoc = 0 then [(m.dstAddr, z)] else []))

/-- Whether a span of the pool touches a pseudo-channel that is retiring or retired: no frame is taken there (R272). -/
def State.spanRetired (s : State) (a z : Nat) : Bool :=
  (List.range (z / 0x40000 + 1)).any (fun k =>
    let b := a + k * 0x40000
    b < a + z && s.pcShut (pcOf b))

/-- Reads bytes of a frame in HBM (`loc` 0) or deep memory: 0, MEM_UE or AUTH_FAIL with its alarm, and the bytes. -/
def State.frameRead (s : State) (loc a n : Nat) : Nat × List Byte × State :=
  if loc = 0 then
    let r := s.sealedRead (spansOf a n)
    if r.1.ue then (4, [], r.2) else match r.1.bad with
      | some line => (5, [], r.2.authAlarm line 0)
      | none => (0, r.1.data, r.2)
  else
    let r := s.load a n
    (if r.2.1 then 4 else 0, r.1, r.2.2)

/-- Writes bytes of a frame. -/
def State.frameWrite (s : State) (loc a : Nat) (bs : List Byte) : Nat × State :=
  if loc = 0 then s.sealedWrite 0 bs (spansOf a bs.length) else (0, s.store a bs)

/-- A page with host backing goes home: its bytes are written back where they are newer, its location is the host. None when
they cannot be read, or the host cannot be reached. -/
def State.pageHome (s : State) (p : Page) : Option State :=
  let place (s : State) : State := (s.modPages (fun q => q.valid && q.same p) (fun q => { q with
    loc := 2, addr := q.backing, d := false, a := false })).freeFrame p.loc p.addr p.size
  if p.dev || p.loc ≥ 2 then none
  else if !p.d then some (place s)
  else if s.hostCode p.backing p.size ≠ 0 then none
  else
    let r := s.frameRead p.loc p.addr p.size
    if r.1 ≠ 0 then none else some (place (r.2.2.hostWrite 0 [] r.2.1 (spansOf p.backing p.size)).2)

/-- The first free frame of the HBM page pool. -/
def State.poolFrame (s : State) (z : Nat) : Option Nat :=
  let base := s.get SWB_POOL_BASE.BASE * unit2M
  let used := s.hbmFrames
  ((List.range (s.poolCap / z)).map (fun k => base + k * z)).find? (fun a =>
    !s.spanRetired a z && !used.any (fun p => spansMeet a (a + z) p.1 (p.1 + p.2)))

/-- Whether a deep bank holds pages. -/
def State.pageBank (s : State) (b : Nat) : Bool := (List.range 512).any (fun k => s.ownerOf (b * 512 + k) == 0x400)

/-- Whether as many deep banks of a die hold pages as its share of DEEP_PAGE_MAX banks lets (R258). -/
def State.deepShareFull (s : State) (d : Nat) : Bool :=
  min (s.get SWB_POL.DEEP_PAGE_MAX) 32 ≤ ((List.range 32).filter (fun b => s.pageBank (32 * d + b))).length

/-- A free frame in deep memory on a die, within its share of DEEP_PAGE_MAX banks (R258). -/
def State.deepFrame (s : State) (d z : Nat) : Option Nat :=
  let full := s.deepShareFull d
  (List.range 32).findSome? (fun b =>
    if s.pageBank (32 * d + b) || !full then
      (s.freeRun (32 * d + b) (z / 4096) (z / 4096)).map granuleAt
    else none)

/-- A migration is abandoned (R259, R261): the page stays at its source and the held requests are performed there. -/
def State.abandonMigration (s : State) (m : Migration) : State :=
  let hit (p : Page) : Bool := p.space == m.space && p.dva == m.dva && p.loc == 3
  let z := match s.swb.pages.find? hit with
    | some p => p.size
    | none => 0
  let s1 := s.modPages hit (fun p => { p with loc := m.srcLoc, addr := m.srcAddr })
  let s2 := (s1.freeFrame m.dstLoc m.dstAddr z).showMaps
  ((s2.onSwb (fun w => { w with
    migrations := w.migrations.erase m, atSource := w.atSource ++ m.held.map (fun q => q.tag.toNat) })).onNet (fun n => { n with
    flight := m.held.map (fun q => ({ msg := q } : Flight)) ++ n.flight })).post 0x0507 m.space m.dva

/-- Reads the entries of a walk: whether one cannot be read, the state after. -/
def State.readEntries (s : State) : List Nat → Bool × State
  | [] => (false, s)
  | a :: rest =>
    let r := s.sealedRead (spansOf a 8)
    let more := r.2.readEntries rest
    (r.1.ue || r.1.bad.isSome || s.hbmCheck a 8 != 0 || more.1, more.2)

/-- A walk for a DVA: whether a table word cannot be read (R259). -/
def State.walk (s : State) (space dva : Nat) : Bool × State := s.readEntries (s.walkPath space dva)

/-- Places the frames of device-only pages one after another; none when the pool is full. -/
def State.placePages (s : State) : List Page → Option State
  | [] => some s
  | p :: rest =>
    if p.dev then
      match s.poolFrame p.size with
      | none => none
      | some a => ((s.zeroRange a p.size).onSwb (fun w => { w with pages := w.pages ++ [{ p with addr := a }] })).placePages rest
    else (s.onSwb (fun w => { w with pages := w.pages ++ [p] })).placePages rest

/-- Whether the page range of a descriptor is well formed: aligned, within the 48-bit space, at least one page. -/
def Desc.pageRange (d : Desc) : Bool :=
  let z := pageSize (d.f 2 10 10 == 1)
  d.f 2 63 32 ≥ 1 && d.f 3 47 0 % z == 0 && d.f 3 47 0 + d.f 2 63 32 * z ≤ 2 ^ 48 && d.only 3 (bitsHL 47 0)

/-- Whether a page lies in a descriptor's range and has its page size. -/
def Desc.covers (d : Desc) (p : Page) : Bool :=
  let z := pageSize (d.f 2 10 10 == 1)
  p.valid && p.space == d.f 2 9 0 && p.big == (d.f 2 10 10 == 1) && d.f 3 47 0 ≤ p.dva && p.dva < d.f 3 47 0 + d.f 2 63 32 * z

/-- Whether a space exists: the host's, or a registered context's. -/
def State.spaceOk (s : State) (c : Nat) : Bool := c = 0x3FF || s.registered c

/-- MAP (R256–R258, R313). -/
def execMap (d : Desc) (s : State) : Res :=
  let dev := d.f 2 14 14 == 1
  let big := d.f 2 10 10 == 1
  let z := pageSize big
  let n := d.f 2 63 32
  let space := d.f 2 9 0
  let rc := d.f 2 13 12
  let back := d.f 4 47 0
  let ok := d.only 2 (bitsHL 14 0 + bitsHL 63 32) && d.pageRange
    && (if dev then d.only 4 0 else d.only 4 (bitsHL 47 0) && back ≥ hostBase && back + n * z ≤ 2 ^ 48) && d.zeroFrom 5
  s.runDesc d 0x30 ok (fun s =>
    let lo := d.f 3 47 0
    if !s.spaceOk space then s.opDone d 2 0
    else if s.swb.pages.any (fun p => p.valid && p.space == space && spansMeet lo (lo + n * z) p.dva (p.dva + p.size)) then
      s.endDesc d stOverlap 0 0
    else if dev && rc = 0 then s.opDone d 7 0
    else
      let fresh := (List.range n).map (fun k => ({
        space := space, dva := lo + k * z, big := big, loc := if dev then 0 else 2, pin := rc == 3, rclass := rc
        w := d.f 2 11 11 == 1, dev := dev, addr := if dev then 0 else back + k * z, backing := if dev then 0 else back + k * z
        : Page }))
      let kept := s.swb.pages.filter (fun p =>
        p.valid || !(p.space == space && spansMeet lo (lo + n * z) p.dva (p.dva + p.size)))
      match (s.onSwb (fun w => { w with pages := kept })).placePages fresh with
      | none => s.opDone d 7 0
      | some s1 => match s1.syncTables with
        | none => s.opDone d 7 0
        | some s2 => s2.showMaps.opDone d 0 0)

/-- PAGE_POLICY (R258, R313): PIN and RCLASS of the valid pages of its range, where their SET bits say so. FIXED pins; HOST of
a device-only page fails as MAP does. -/
def execPagePolicy (d : Desc) (s : State) : Res :=
  let rc := d.f 2 13 12
  let setRc := d.f 2 15 15 == 1
  let setPin := d.f 2 14 14 == 1
  s.runDesc d 0x32 (d.only 2 (bitsHL 15 0 + bitsHL 63 32) && d.pageRange && d.zeroFrom 4) (fun s =>
    if !s.spaceOk (d.f 2 9 0) then s.opDone d 2 0
    else if setRc && rc = 0 && s.swb.pages.any (fun p => d.covers p && p.dev) then s.opDone d 7 0
    else (s.modPages d.covers (fun p => { p with
        rclass := if setRc then rc else p.rclass
        pin := if setRc && rc == 3 then true else if setPin then d.f 2 11 11 == 1 else p.pin })).showMaps.opDone d 0 0)

end Sys2Proof.Machine
end

