-- ==== Sys2Proof/Machine/BstCore.lean ====
section
/-!
DEFINITION. Units of self-test: their codes, how a unit returns to service, how a test ends (R442, R444–R446, R450–R453).
-/

namespace Sys2Proof.Machine

def State.onBst (s : State) (f : Bst → Bst) : State := { s with bst := f s.bst }
def State.modUnit (s : State) (u : Nat) (f : BstUnit → BstUnit) : State :=
  s.onBst (fun b => { b with units := b.units.poke (fun _ => {}) u (f (s.unit u)) })

def unitCls (u : Nat) : Nat := nfield u 15 13
def unitDie (u : Nat) : Nat := nfield u 12 10
def unitBrg (u : Nat) : Nat := nfield u 9 9
def unitIdx (u : Nat) : Nat := nfield u 5 0
/-- Island of a unit of class 0 or 1, bank of class 2, pseudo-channel of class 5. -/
def unitIsland (u : Nat) : Nat := 64 * unitDie u + unitIdx u
def unitBank (u : Nat) : Nat := 32 * unitDie u + unitIdx u
def unitPc (u : Nat) : Nat := 32 * unitDie u + unitIdx u

/-- Whether R442 names a unit by a code. -/
def unitValid (u : Nat) : Bool :=
  nfield u 8 6 == 0 && (unitBrg u == 0 || unitCls u == 3) && (match unitCls u with
    | 0 | 1 => unitDie u < 4
    | 2 => unitDie u < 4 && unitIdx u < 32
    | 3 => unitDie u < 4 && unitIdx u < 16
    | 4 => unitDie u == 0
    | 5 => unitDie u < 2 && unitIdx u < 32
    | _ => false)

/-- Source of the fault messages of a unit (R406, R446). -/
def unitSrc (u : Nat) : Nat :=
  match unitCls u with
  | 0 | 1 => srcIsland (unitIsland u)
  | 2 => srcBank (unitDie u) (unitIdx u)
  | 3 => 512 * unitDie u + 0x60 + unitBrg u
  | 4 => srcSaddle (0x10 + unitIdx u / 4)
  | _ => srcSaddle (2 + unitDie u)

/-- BST_STAT follows the tests. -/
def State.showBst (s : State) : State :=
  let runs (p : BstTest → Bool) : Bool := s.bst.tests.any (fun t => t.state == 2 && p t)
  let dies := ((List.range 4).filter (fun d => runs (fun t => unitCls t.unit ≤ 3 && unitDie t.unit == d))).map (fun d => 2 ^ d)
  let stks := ((List.range 2).filter (fun k => runs (fun t => unitCls t.unit == 5 && unitDie t.unit == k))).map (fun k => 2 ^ k)
  let waits := (s.bst.tests.filter (fun t => t.state != 2 && !t.bypass)).length
  let lanes := (s.bst.tests.filter (fun t => t.state == 2 && unitCls t.unit == 4)).length
  (((s.put BST_STAT.DIE_BUSY dies.sum).put BST_STAT.STACK_BUSY stks.sum).put BST_STAT.QUEUED (min waits 255)).put
    BST_STAT.LANES lanes

/-- Whether an address lies in HBM and its granule or guard frame in a pseudo-channel. -/
def inPc (p a : Nat) : Bool := a < 0xC00000000 && hbmStack a == p / 32 &&
  (let o := a % 0x600000000
   let n := if o < 0x5E8000000 then o / 2 ^ 18 else (o - 0x5E8000000) / 4096
   ((n % 32) ^^^ (n / 32 % 32)) == p % 32)

/-- Every granule of a pseudo-channel and its guard frames are zero. -/
def State.zeroPc (s : State) (p : Nat) : State :=
  s.onMem (fun m => m.wipe (inPc p))

/-- Step 2 and step 5 of a test: everything in the unit is zero (R444). -/
def State.clearUnit (s : State) (u : Nat) : State :=
  match unitCls u with
  | 0 => s.clearIsland (unitIsland u)
  | 1 => (s.setEng (unitIsland u) {}).zeroRange (islandWindow (unitIsland u) + 0x200000) 0x28000
  | 2 => s.zeroRange (granuleAt (512 * unitBank u)) 0x200000
  | 5 => s.zeroPc (unitPc u)
  | _ => s

/-- Whether an island may be placed once its unit is back. -/
def State.dieTakes (s : State) (d : Nat) : Bool := !s.dieGone d && !s.pkg.degraded.contains d

/-- A unit is back in service: an island EMPTY and placeable, an engine with its island or, taken from a context that is
still there, STOPPED; a bank allocated from again (R445, R446). -/
def State.unitBack (s : State) (u : Nat) : State :=
  let i := unitIsland u
  let other := unitOf (1 - unitCls u) (unitDie u) (unitIdx u)
  let s1 := s.modUnit u (fun x => { x with state := 0 })
  match unitCls u with
  | 0 | 1 =>
    if s.islState i ≠ 7 then
      (if unitCls u = 1 then (s1.modEng i (fun e => { e with state := 1 })).put (SWB_ISL_STAT.PLACEABLE i) (bit (s.dieTakes (i / 64)))
       else s1)
    else if (s.unit other).state ≥ 2 then s1
    else (s1.put (SWB_ISL_STAT.STATE i) 0).put (SWB_ISL_STAT.PLACEABLE i) (bit (s.dieTakes (i / 64)))
  | 2 => s1.onSwb (fun w => { w with shutBanks := w.shutBanks.filter (fun b => b != unitBank u) })
  | _ => s1

/-- A unit that a test or a bypass waited for and that it never took is as before. -/
def State.unitSpared (s : State) (u : Nat) : State :=
  let i := unitIsland u
  let s1 := if (s.unit u).state = 1 then s.modUnit u (fun x => { x with state := 0 }) else s
  match unitCls u with
  | 0 | 1 => if s.islState i ≠ 7 then s1.put (SWB_ISL_STAT.PLACEABLE i) (bit (s.dieTakes (i / 64))) else s1
  | 2 => if (s1.unit u).state = 0 then s1.onSwb (fun w => { w with shutBanks := w.shutBanks.filter (fun b => b != unitBank u) }) else s1
  | _ => s1

/-- A unit is OFFLINE, with its event. -/
def State.unitOff (s : State) (u : Nat) : State := (s.modUnit u (fun x => { x with state := 3 })).post 0x0C02 u

/-- Whether BST_OFFLINE and KEEP_OFF can take a unit out (R447). -/
def canBypass (u : Nat) : Bool := unitCls u != 3 && unitCls u != 5

/-- Records the end of a test for BST_UNIT_INFO, with BST_DONE. RESULT: 0 PASS, 1 FAIL, 3 ABORTED. -/
def State.testEnded (s : State) (t : BstTest) (result sig : Nat) : State :=
  let s1 := s.modUnit t.unit (fun x => { x with
    result := result, sig := sig, ended := s.now, runs := if result = 3 then x.runs else min (x.runs + 1) (2 ^ 21 - 1) })
  let s2 := if result = 1 then s1.bump BST_FAIL_CNT.COUNT else s1
  s2.post 0x0C01 (t.unit + result * 2 ^ 16) sig

/-- Takes a test off the list. -/
def State.dropTest (s : State) (t : BstTest) : State := (s.onBst (fun b => { b with tests := b.tests.erase t })).showBst

/-- Ends a test ABORTED: a unit that was taken is re-initialised and returns to service unless KEEP_OFF is set (R450). -/
def State.abortTest (s : State) (t : BstTest) : State :=
  let s1 := s.dropTest t
  let s2 := if t.bypass then s1 else s1.testEnded t 3 0
  if t.state = 2 then
    let s3 := s2.clearUnit t.unit
    if t.keepOff ∧ canBypass t.unit then s3.unitOff t.unit else s3.unitBack t.unit
  else s2.unitSpared t.unit

/-- Ends the tests that `p` names, their descriptors with ABORTED. -/
def State.abortTests (s : State) (p : BstTest → Bool) : State :=
  s.forAll (s.bst.tests.filter p) (fun t s => (s.abortTest t).opDone t.desc 3 0)

/-- A park ends the tests; their descriptors end after recovery (R451). -/
def State.parkTests (s : State) : State :=
  s.forAll (s.bst.tests.filter (fun t => t.state == 2)) (fun t s =>
    (s.abortTest t).onBst (fun b => { b with owed := b.owed ++ [(t.desc, 0)] }))

/-- What a park left to be posted. -/
def State.payOwed (s : State) : State :=
  (s.onBst (fun b => { b with owed := [] })).forAll s.bst.owed (fun p s => s.opDone p.1 3 0)

/-- The tests on some dies that a rung transition to Lull or deeper ends; 7 names the package. -/
def State.rungEndsTests (s : State) (scope : Nat) : State :=
  s.abortTests (fun t => t.state == 2 && (scope == 7 || (unitCls t.unit ≤ 3 && unitDie t.unit == scope)))

end Sys2Proof.Machine
end

