-- ==== Sys2Proof/Machine/Pins.lean ====
section
/-!
DEFINITION. Transceiver lanes, Ethernet ports, JESD204C links, raw lanes, and the monitors of the GPIO banks (chapter 12).
-/

namespace Sys2Proof.Machine

def State.onPins (s : State) (f : Pins → Pins) : State := { s with pins := f s.pins }

/-- Whether twin mode is enabled: the device has a role other than SINGLE. -/
def State.twinOn (s : State) : Bool := s.get TWN_STAT.ROLE != 0

/-! ### Lanes (R351–R354) -/

/-- OWNER of a lane: 5–7 act as 0. -/
def State.laneOwner (s : State) (l : Nat) : Nat := let o := s.get (IOB_LANE_CFG.OWNER l); if o ≥ 5 then 0 else o
def State.quadLocked (s : State) (q : Nat) : Bool := s.flag (IOB_QPLL.LOCKED q)
/-- Whether a lane's transceiver works: owned, its PLL locked. -/
def State.laneOn (s : State) (l owner : Nat) : Bool := s.laneOwner l == owner && s.quadLocked (l / 4)
/-- Whether a lane receives. -/
def State.laneHears (s : State) (l : Nat) : Bool := s.quadLocked (l / 4) && !s.flag (IOB_LANE_STAT.LOS l)

/-- Whether a lane rate is one of R352: 2 × F_Q / D in units of 12.5 MBd, the divisor `2^d`. -/
def rateOk (fb d : Nat) (pam4 : Bool) : Bool :=
  let r := 2 * fb / 2 ^ d
  if pam4 then d ≤ 1 && 2125 * 2 ^ d ≤ 2 * fb && 2 * fb ≤ 4480 * 2 ^ d
  else d ≤ 4 && 100 * 2 ^ d ≤ 2 * fb && 2 * fb ≤ 2560 * 2 ^ d && r > 0

/-- Symbol rate of a lane in units of 12.5 MBd, and whether it is PAM4 (R352). -/
def State.laneRate (s : State) (l : Nat) : Nat × Bool :=
  (2 * s.get (IOB_QPLL.FB (l / 4)) / 2 ^ s.get (IOB_LANE_CFG.D l), s.flag (IOB_LANE_CFG.PAM4 l))

/-- Whether a lane has the rate of an Ethernet mode: PAM4 at 106.25 or 53.125 Gbit/s (R356). -/
def State.ethRate (s : State) (e l : Nat) : Bool :=
  s.laneRate l == (if [3, 5].contains (s.get (IOB_ETH_CFG.MODE e)) then 2125 else 4250, true)

/-- Whether a lane has a rate of a JESD204C link: NRZ at 6.0 to 32.5 Gbit/s (R360). -/
def State.jesdRate (s : State) (l : Nat) : Bool := 480 ≤ (s.laneRate l).1 && (s.laneRate l).1 ≤ 2600 && !(s.laneRate l).2

/-- Ports and lanes per port of an Ethernet mode (R356). -/
def ethShape : Nat → Nat × Nat
  | 1 => (1, 4) | 2 => (2, 2) | 3 => (2, 4) | 4 => (4, 1) | 5 => (4, 2) | _ => (0, 0)

/-- Lanes of an Ethernet port under the engine's mode; none for a port the mode has not. -/
def State.ethLanes (s : State) (e p : Nat) : List Nat :=
  let m := ethShape (s.get (IOB_ETH_CFG.MODE e))
  if p < m.1 then (List.range m.2).map (fun k => 16 * e + 4 * s.get (IOB_ETH_CFG.QSEL e) + p * m.2 + k) else []

/-- Whether an engine's ports end within its quads; in twin mode engine 3 has Q12 and Q13 only. -/
def State.ethFits (s : State) (e : Nat) : Bool :=
  let m := ethShape (s.get (IOB_ETH_CFG.MODE e))
  4 * s.get (IOB_ETH_CFG.QSEL e) + m.1 * m.2 ≤ (if e = 3 && s.twinOn then 8 else 16)

/-- Whether an engine's mode needs a lane it does not own. -/
def State.ethConflict (s : State) (e : Nat) : Bool :=
  s.ethFits e && (List.range 4).any (fun p => (s.ethLanes e p).any (fun l => s.laneOwner l != 1))

/-- Whether a port exists and its engine is not OFF. -/
def State.ethOn (s : State) (e p : Nat) : Bool := s.ethLanes e p != [] && s.ethFits e && !s.ethConflict e

/-- Lanes of a quad's JESD204C link: L = 3 acts as 0. -/
def State.jesdLanes (s : State) (q : Nat) : List Nat :=
  let n := match s.get (IOB_JESD_CFG.L q) with | 1 => 2 | 2 => 4 | _ => 1
  (List.range n).map (fun k => 4 * q + k)
def State.jesdConflict (s : State) (q : Nat) : Bool :=
  s.flag (IOB_JESD_CFG.EN q) && (s.jesdLanes q).any (fun l => s.laneOwner l != 2)
def State.jesdOn (s : State) (q : Nat) : Bool := s.flag (IOB_JESD_CFG.EN q) && !s.jesdConflict q && s.quadLocked q

/-- An Ethernet port's link goes up or down, with its event. -/
def State.setLink (s : State) (e p : Nat) (up : Bool) : State :=
  let x := s.get (IOB_ETH_STAT.LINK_UP e)
  if nbit x p == up then s
  else (s.put (IOB_ETH_STAT.LINK_UP e) (setBit x p up)).post 0x0803 (e + 4 * p) (bit up)

/-- A JESD204C link loses synchronisation. -/
def State.jesdLost (s : State) (q : Nat) (misaligned : Bool) : State :=
  let s1 := if misaligned then s.onPins (fun x => { x with aligned := x.aligned.filter (· != q) }) else s
  if s.flag (IOB_JESD_STAT.SYNC q) then (s1.putB (IOB_JESD_STAT.SYNC q) false).post 0x0804 q (bit misaligned) else s1

/-- Links that the lanes named by `p` carry go down. -/
def State.dropLinks (s : State) (p : Nat → Bool) : State :=
  let s1 := s.forN 16 (fun k s => if (s.ethLanes (k / 4) (k % 4)).any p then s.setLink (k / 4) (k % 4) false else s)
  s1.forN 16 (fun q s => if s.flag (IOB_JESD_CFG.EN q) && (s.jesdLanes q).any p then s.jesdLost q false else s)

/-- CONFLICT of every engine and link; an engine or link that is not on has no link up. -/
def State.showConflicts (s : State) : State :=
  let s1 := s.forN 4 (fun e s => s.putB (IOB_ETH_STAT.CONFLICT e) (s.ethConflict e))
  let s2 := s1.forN 16 (fun q s => s.putB (IOB_JESD_STAT.CONFLICT q) (s.jesdConflict q))
  let s3 := s2.forN 16 (fun k s => if s.ethOn (k / 4) (k % 4) then s else s.setLink (k / 4) (k % 4) false)
  s3.forN 16 (fun q s => if s.jesdOn q then s else s.jesdLost q false)

/-- LINK_HALF: one of the Arête link's quads works (R420). -/
def State.showHalf (s : State) : State :=
  if s.twinOn then s.putB TWN_STAT.LINK_HALF (s.quadLocked 14 != s.quadLocked 15) else s

/-- A quad PLL unlocks (R353). -/
def State.quadUnlock (s : State) (q : Nat) : State :=
  let s1 := (s.putB (IOB_QPLL.LOCKED q) false).showHalf.forN 4 (fun k s => s.putB (IOB_LANE_STAT.CDR_LOCK (4 * q + k)) false)
  let s2 := (s1.post 0x0801 q).toCairn 0x09 (srcSaddle (0x10 + q)) sevMinor 0
  (s2.dropLinks (fun l => l / 4 == q)).onClk (fun c => { c with unlocked := (c.unlocked ++ [q]).eraseDups })

/-- A quad PLL unlocks. -/
def execQuadPllLossOfLock (q : Fin 16) (s : State) : Res := whenDue (s.quadLocked q.val) s (s.quadUnlock q.val)

/-- A quad PLL locks: its transmitters leave electrical idle and its receivers work again. -/
def execQuadPllRelock (q : Fin 16) (s : State) : Res :=
  whenDue (!s.quadLocked q.val && s.flag CLK_REF_STAT.REF_OK) s
    (((s.putB (IOB_QPLL.LOCKED q.val) true).showHalf.forN 4 (fun k s =>
        let l := 4 * q.val + k
        s.putB (IOB_LANE_STAT.CDR_LOCK l) (s.laneOwner l != 0 && !s.flag (IOB_LANE_STAT.LOS l)))).onClk
      (fun c => { c with unlocked := c.unlocked.filter (· != q.val) }))

/-- A write of IOB_QPLL (R353): only while every lane of the quad is OFF, and only with FB in range; the PLL relocks. -/
def State.qpllWrite (s : State) (q fb : Nat) : State :=
  if fb < 640 ∨ fb > 2240 ∨ !(List.range 4).all (fun k => s.laneOwner (4 * q + k) == 0) then s
  else
    let s1 := if s.quadLocked q then s.quadUnlock q else s
    s1.put (IOB_QPLL.FB q) fb
def execIobQpllWrite (q : Fin 16) (v : W32) (s : State) : Res := .next (s.qpllWrite q.val (fieldOf v 11 0))

/-- A lane setting (R352, R354, R446): ignored with ERR on an invalid rate, while the lane is not OFF, or for an OWNER of a
lane that self-test holds or has failed. -/
def State.laneWrite (s : State) (l : Nat) (v : W32) : State :=
  let s := if fieldOf v 31 31 = 1 then s.putB (IOB_LANE_CFG.ERR l) false else s
  if s.twinOn && l ≥ 56 then s
  else if (s.unit (unitOf 4 0 l)).state != 0 && fieldOf v 2 0 != 0 then s.putB (IOB_LANE_CFG.ERR l) true
  else if s.laneOwner l != 0 || !rateOk (s.get (IOB_QPLL.FB (l / 4))) (fieldOf v 6 4) (fieldOf v 7 7 == 1) then
    s.putB (IOB_LANE_CFG.ERR l) true
  else
    let err := s.get (IOB_LANE_CFG.ERR l)
    let w := BitVec.ofNat 64 (fieldOf v 11 4 * 2 ^ 4 + fieldOf v 2 0 + err * 2 ^ 31)
    let s1 := (s.setReg (IOB_LANE_CFG.ERR l).addr w)
    (s1.putB (IOB_LANE_STAT.CDR_LOCK l) (s1.laneOwner l != 0 && s1.laneHears l)).showConflicts
def execIobLaneCfgWrite (l : Fin 64) (v : W32) (s : State) : Res := .next (s.laneWrite l.val v)

/-- A lane receiver loses or regains signal (R367). -/
def execLossOfSignal (l : Fin 64) (lost : Bool) (s : State) : Res :=
  whenDue (s.laneOwner l.val != 0 && s.flag (IOB_LANE_STAT.LOS l.val) != lost) s
    (let s1 := (s.putB (IOB_LANE_STAT.LOS l.val) lost).post 0x0802 l.val (bit (!lost))
     let s2 := s1.putB (IOB_LANE_STAT.CDR_LOCK l.val) (s1.laneHears l.val)
     if lost then s2.dropLinks (· == l.val) else s2)

/-! ### Delivery to trails (R355, R358, R361) -/

/-- The receive trail of an endpoint: the trail with it as source that is not CLOSED. -/
def State.receiveTrail (s : State) (v : Nat) : Option Nat :=
  (s.net.trails.find? (fun q => q.2.state != 0 && q.2.src == v)).map (fun q => q.1)

/-- Tags of the transceiver endpoints. -/
def pinTag (tag : Nat) : Bool := 0xE000 ≤ tag && tag < 0xF800

/-- Whether `n` messages of an endpoint can be taken at once: an ACTIVE receive trail with credits for them. -/
def State.canReceive (s : State) (v n : Nat) : Option Nat :=
  match s.receiveTrail v with
  | none => none
  | some t =>
    let x := s.trail t
    let held := (s.net.held.filter (fun m => m.trail.toNat == t)).length
    if x.state = 1 && x.used + held + n ≤ x.cred then some t else none

/-- A message of an endpoint, handed to its ingress under a tag. -/
def State.fromPin (s : State) (v t tag addr : Nat) (data : List Byte) (operand : Nat) : State :=
  s.ingress (.unit v) { op := BitVec.ofNat 8 opMSG, trail := BitVec.ofNat 12 t, tag := BitVec.ofNat 16 tag
                        len1 := BitVec.ofNat 8 (data.length - 1), addr := BitVec.ofNat 48 addr, data := data
                        operand := BitVec.ofNat 96 operand }

/-- Bytes of a RAW lane as its polarity setting has them: inverted, or as they are (R355, R369). -/
def polarised (inv : Bool) (l : List Byte) : List Byte := if inv then l.map (fun b => ~~~b) else l

/-- The IDLE pattern of a RAW lane, one 64-bit word (R355, R369); for IDLE = 3 the spec names none: a free value (assumption
log 83). -/
def State.idleWord (s : State) (l : Nat) : List Byte × State :=
  match s.get (IOB_LANE_CFG.IDLE l) with
  | 0 => (List.replicate 8 0x55, s)
  | 1 => (List.replicate 8 0, s)
  | 2 => (List.replicate 8 0xFF, s)
  | _ => (toBytes 8 s.fresh.toNat, s.took)

/-- Hands bytes to the line of an endpoint. -/
def State.toLine (s : State) (v : Nat) (l : List Byte) : State := s.onPins (fun p => { p with tx := p.tx.poke (fun _ => []) v l })

/-- A RAW lane delivers 256 bytes or drops them (R355). -/
def execRawReceive (l : Fin 64) (tag : BitVec 16) (data : List Byte) (s : State) : Res :=
  if data.length != 256 then illFormed
  else whenDue (s.laneOn l.val 3 && s.laneHears l.val && pinTag tag.toNat && s.tagFree tag.toNat) s
    (match s.canReceive (0xB00 + l.val) 1 with
      | some t => s.fromPin (0xB00 + l.val) t tag.toNat 0 (polarised (s.flag (IOB_LANE_CFG.RXPOL l.val)) data) 0
      | none => s.bump (IOB_LANE_STAT.OVERRUN l.val))

/-- A RAW lane has no data to send: it sends its IDLE pattern (R355). -/
def execRawUnderrun (l : Fin 64) (s : State) : Res :=
  whenDue (s.laneOn l.val 3) s
    (let w := s.idleWord l.val
     (w.2.bump (IOB_LANE_STAT.UNDERRUN l.val)).toLine (0xB00 + l.val) (polarised (s.flag (IOB_LANE_CFG.TXPOL l.val)) w.1))

/-- A receive JESD204C link delivers 32 blocks; without a trail or a credit the message is dropped (R361). -/
def execJesdReceive (q : Fin 16) (tag : BitVec 16) (data : List Byte) (s : State) : Res :=
  if data.length != 256 then illFormed
  else whenDue (s.jesdOn q.val && !s.flag (IOB_JESD_CFG.DIR q.val) && s.flag (IOB_JESD_STAT.SYNC q.val)
      && pinTag tag.toNat && s.tagFree tag.toNat) s
    (match s.canReceive (0xA00 + q.val) 1 with
      | some t => s.fromPin (0xA00 + q.val) t tag.toNat 0 data 0
      | none => s.bump (IOB_JESD_STAT.UNDERRUN q.val))

/-- A transmit JESD204C link sends scrambled zero blocks (R361). -/
def execJesdUnderrun (q : Fin 16) (s : State) : Res :=
  whenDue (s.jesdOn q.val && s.flag (IOB_JESD_CFG.DIR q.val)) s
    ((s.bump (IOB_JESD_STAT.UNDERRUN q.val)).toLine (0xA00 + q.val) (List.replicate 256 0))

/-- A SYSREF pulse aligns the links that use the pin; a lost die's pin gives none (R361, R367). -/
def execSysref (d : Fin 4) (s : State) : Res :=
  whenDue (!s.dieGone d.val) s (s.onPins (fun x => { x with aligned := (x.aligned
    ++ (List.range 16).filter (fun q => s.flag (IOB_JESD_CFG.EN q) && s.get (IOB_JESD_CFG.SREF q) == d.val)).eraseDups }))

/-- A link loses extended multiblock lock or SYSREF alignment (R361). -/
def execExtendedMultiblockLockLoss (q : Fin 16) (misaligned : Bool) (s : State) : Res :=
  whenDue (s.flag (IOB_JESD_STAT.SYNC q.val)) s (s.jesdLost q.val misaligned)

/-- A link has extended multiblock lock and SYSREF alignment (R361). -/
def execExtendedMultiblockLockGain (q : Fin 16) (s : State) : Res :=
  whenDue (s.jesdOn q.val && (s.jesdLanes q.val).all s.jesdRate && s.pins.aligned.contains q.val) s (s.putB (IOB_JESD_STAT.SYNC q.val) true)

/-! ### Ethernet (R356–R359) -/

/-- An Ethernet port's link comes up, where its engine is on and its lanes hear at the mode's rate, or goes down. -/
def execEthLinkStateChange (e p : Fin 4) (up : Bool) (s : State) : Res :=
  whenDue (!up || (s.ethOn e.val p.val && (s.ethLanes e.val p.val).all (fun l => s.laneHears l && s.ethRate e.val l))) s (s.setLink e.val p.val up)

/-- ADDR of a message of a frame (R358). -/
def frameAddr (flen off : Nat) : Nat := flen * 2 ^ 20 + off * 2 ^ 6

/-- The messages of a received frame, 256 bytes each, the first with the timestamp. -/
def State.frameOut (s : State) (v t tag flen off ts : Nat) (l : List Byte) : Nat → State
  | 0 => s
  | n + 1 =>
    if l = [] then s
    else (s.fromPin v t tag (frameAddr flen off) (l.take 256) (if off = 0 then ts else 0)).frameOut v t (tag + 1) flen
      (off + 256) ts (l.drop 256) n

/-- An Ethernet port receives a frame (R357–R359). -/
def execEthFrameReceive (e p : Fin 4) (tag : BitVec 16) (frame : List Byte) (fcs mine : Bool) (ts : W64) (s : State) : Res :=
  let n := (frame.length + 255) / 256
  let v := 0x900 + 4 * e.val + p.val
  let tags := (List.range n).all (fun k => pinTag (tag.toNat + k) && s.tagFree (tag.toNat + k))
  let clock := mine && s.get HIF_TB_CTL.SRC == 2 && s.get IOB_PTP_CTL.ENGINE == e.val && s.get IOB_PTP_CTL.PORT == p.val
    && (frame.drop 12).take 2 == [0x88, 0xF7]
  whenDue (nbit (s.get (IOB_ETH_STAT.LINK_UP e.val)) p.val && tags) s
    (if !fcs || frame.length < 60 || frame.length > 9216 then s.bump (IOB_ETH_STAT.RX_DROP e.val)
     else if clock then s.onPins (fun x => { x with ptp := frame })
     else match s.canReceive v n with
      | none => s.bump (IOB_ETH_STAT.RX_DROP e.val)
      | some t => s.frameOut v t tag.toNat frame.length 0 ts.toNat frame n)

/-- The correctionField of a PTP header at byte `off` of a frame, advanced by `corr` (R359). -/
def oneStep (frame : List Byte) (off corr : Nat) : List Byte :=
  let old := ofBytes ((frame.drop (off + 8)).take 8).reverse
  if off + 16 ≤ frame.length then
    frame.take (off + 8) ++ (toBytes 8 (old + corr)).reverse ++ frame.drop (off + 16)
  else frame

/-- A message reaches an Ethernet port's transmitter (R358, R359): whether it ended a frame that was sent, and the state
after. `corr` is the residence and transmit time of a one-step update. -/
def State.ethTx (s : State) (port : Nat) (m : Msg) (corr : Nat) : Bool × State :=
  let e := port / 4
  let a := m.addr.toNat
  let flen := nfield a 33 20
  let off := nfield a 19 6
  let x := s.pins.eth.peek (fun _ => {}) port
  let put (s : State) (x : EthTx) : State := s.onPins (fun y => { y with eth := y.eth.poke (fun _ => {}) port x })
  let ends := off + m.len ≥ flen
  let badCnt (s : State) : State := s.bump (IOB_ETH_STAT.BAD_FRAME e)
  -- the messages of a frame discarded before are only acknowledged
  if x.skip && off ≠ 0 && x.flen = flen then (false, if ends then put s {} else s)
  else
    -- a frame left incomplete is discarded
    let s0 := if x.data ≠ [] ∧ (off = 0 ∨ x.flen ≠ flen) then badCnt (put s {}) else s
    let y := if off = 0 ∨ x.flen ≠ flen then { flen := flen } else x
    let bad := flen > 9216 || off ≠ y.data.length || off + m.len > flen
    if bad then (false, put (badCnt s0) (if ends then {} else { flen := flen, skip := true }))
    else
      let z : EthTx := { y with data := y.data ++ m.data
                                oneStep := if off = 0 then (if nbit a 4 then some (nfield m.operand.toNat 15 0) else none)
                                           else y.oneStep }
      if !ends then (false, put s0 z)
      else
        let whole := z.data ++ List.replicate (60 - z.data.length) 0
        let sent := match z.oneStep with
          | some o => oneStep whole o corr
          | none => whole
        let up := nbit (s.get (IOB_ETH_STAT.LINK_UP e)) (port % 4)
        (up, (put s0 {}).onPins (fun y => if up then { y with tx := y.tx.poke (fun _ => []) (0x900 + port) sent } else y))

/-! ### GPIO banks (R365, R366) -/

/-- Source of a GPIO bank's fault messages (R406). -/
def srcGpio (b : Nat) : Nat := b / 8 * 512 + 0x68 + b % 8

/-- A measurement of a bank's VCCIO (R365). A bank whose class is 0 is unused and kept high-impedance. -/
def execVccioMonitor (b : Fin 32) (mv : BitVec 12) (s : State) : Res :=
  let n := b.val
  let nominal := 50 * s.get (IOB_BANK_STAT.VCLASS n)
  let v := mv.toNat
  let ok := nominal ≠ 0 ∧ 10 * v ≤ 11 * nominal ∧ 9 * nominal ≤ 10 * v
  let s1 := (s.put (IOB_BANK_STAT.VCCIO_MV n) (v / 4)).putB (IOB_BANK_STAT.VCCIO_OK n) ok
  let s2 := (s1.modBank n (fun x => { x with vccioBad := !ok })).showBank n
  .next (if nominal ≠ 0 ∧ !ok ∧ !(s.bank n).vccioBad then (s2.post 0x0806 n v).toCairn 0x0B (srcGpio n) sevMajor v else s2)

/-- A bank's PLL reports loss of lock (R366). -/
def State.bankUnlock (s : State) (b : Nat) : State :=
  let s1 := (s.putB (IOB_BANK_STAT.PLL_LOCK b) false).modBank b (fun x => { x with pllLost := true })
  (((s1.showBank b).post 0x0805 b).toCairn 0x0A (srcGpio b) sevMajor 0).onClk
    (fun c => { c with unlocked := (c.unlocked ++ [32 + b]).eraseDups })

/-- A bank's PLL unlocks. -/
def execBankPllLossOfLock (b : Fin 32) (s : State) : Res :=
  whenDue (s.flag (IOB_BANK_STAT.PLL_LOCK b.val)) s (s.bankUnlock b.val)

/-- A bank's PLL locks again: outputs return at the first edge. -/
def execBankPllRelock (b : Fin 32) (s : State) : Res :=
  whenDue ((s.bank b.val).pllEn && !s.flag (IOB_BANK_STAT.PLL_LOCK b.val) && s.flag CLK_REF_STAT.REF_OK) s
    ((((s.putB (IOB_BANK_STAT.PLL_LOCK b.val) true).modBank b.val (fun x => { x with pllLost := false })).showBank b.val).onClk
      (fun c => { c with unlocked := c.unlocked.filter (· != 32 + b.val) }))

end Sys2Proof.Machine
end

