-- ==== Sys2Proof/Machine/Power.lean ====
section
/-!
DEFINITION. Budgets and throttling, supply monitors, and the power ladder (R370–R380, R383–R390).
-/

namespace Sys2Proof.Machine

def State.onPwr (s : State) (f : Power → Power) : State := { s with pwr := f s.pwr }
def State.dieP (s : State) (d : Fin 4) : DiePower := s.pwr.dies[d]
def State.modDieP (s : State) (d : Fin 4) (f : DiePower → DiePower) : State :=
  s.onPwr (fun p => { p with dies := p.dies.set d (f p.dies[d]) })

def dies4 : List (Fin 4) := [0, 1, 2, 3]

/-- Fault source of a die power controller, and of the governor and monitors (R406). -/
def srcDiePower (d : Nat) : Nat := d * 512 + 0x62
def srcPower : Nat := srcSaddle 8

/-! ### A die that resets or loses its clocks (R36, R38, R39) -/

def State.setPresence (s : State) (d : Nat) (p : Presence) : State :=
  s.onPkg (fun x => { x with presence := x.presence.poke (fun _ => .present) d p })

/-- How a die's GPIO banks behave while it is lost. -/
def State.banksLost (s : State) (d how : Nat) : State :=
  s.forN 8 (fun n s => (s.modBank (8 * d + n) (fun x => { x with lost := how })).showBank (8 * d + n))

/-- A die resets, or with `clock` loses its forwarded clocks: it stops answering. Before its re-admission this is no new
loss (R39); a reset ends what a clock loss would have retained. -/
def State.dieStops (s : State) (d : Nat) (clock : Bool) : State :=
  let was := s.presence d
  let keep := clock && (was == .present || s.pkg.byClock.contains d)
  let s1 := s.onPkg (fun x => { x with
    byClock := if keep then (x.byClock ++ [d]).eraseDups else x.byClock.filter (· != d) })
  match was with
  | .present => (s1.setPresence d .silent).banksLost d (if clock then 2 else 1)
  | .rejoining => ((s1.setPresence d .lost).endJob { die := d, rank := 1, ctx := 0x3FF }).banksLost d (if keep then 2 else 1)
  | .isolated => if clock then (if (s.bank (8 * d)).lost = 3 then s1.banksLost d 2 else s1) else s1.banksLost d 1
  | _ => if keep then s1 else s1.banksLost d 1

/-! ### Budgets (R373–R375) -/

/-- Whether a die is throttled. -/
def DiePower.throttled (x : DiePower) : Bool := x.tf > 8 || x.cap < 8
/-- Budget in force: the governor's less the thermal cut. -/
def DiePower.inForce (x : DiePower) : Nat := x.budget * (16 - x.cut) / 16

/-- The package cap in W: 60–400, and SAG_CAP_W at most during a sag (R373, R380). -/
def State.capW (s : State) : Nat :=
  let c := max 60 (min 400 (s.get PWR_CAP.CAP_W))
  if s.pwr.sag then min c (s.get PWR_BUS_CFG.SAG_CAP_W) else c

def State.showBudget (s : State) (d : Fin 4) : State := s.put (PWR_DIE.BUDGET d.val) (s.dieP d).inForce

/-- The governor's reply (R373), in 1/8 W: `report` the averages of the dies. -/
def State.budgets (s : State) (saddle hbm : Nat) (report : Fin 4 → Nat) : State :=
  let here := dies4.filter (fun d => !s.dieGone d.val)
  let demand (d : Fin 4) : Nat := 8 * report d + (if (s.dieP d).throttled then report d else 0)
  let total := (here.map demand).sum
  let pool : Int := 8 * (s.capW : Int) - 40 - saddle - hbm
  let low := pool < 256
  let rest := (pool - 256).toNat
  let give (d : Fin 4) : Nat :=
    if !here.contains d then 0
    else if low then 64
    else min 600 (64 + (if total = 0 then rest / here.length else rest * demand d / total))
  let s1 := s.forAll dies4 (fun d s => (s.modDieP d (fun x => { x with budget := give d, average := report d })).showBudget d)
  let s2 := if low ∧ !s.pwr.poolLow ∧ here ≠ [] then s1.post 0x0905 7 64 else s1
  s2.onPwr (fun p => { p with poolLow := low && here != [] })

/-- Every 100 µs: reports and budgets; a die throttled for longer than 1 ms posts BUDGET_LIMIT once. -/
def execBudgetUpdate (saddle hbm p0 p1 p2 p3 : BitVec 12) (late : BitVec 4) (s : State) : Res :=
  let r (d : Fin 4) : Nat := ([p0, p1, p2, p3][d.val]?.getD 0).toNat
  let s1 := (s.put PWR_SHB.SADDLE_P saddle.toNat).put PWR_SHB.HBM_P hbm.toNat
  let s2 := s1.forAll dies4 (fun d s => if s.dieGone d.val then s else s.put (PWR_DIE.POWER d.val) (r d))
  let s3 := s2.budgets saddle.toNat hbm.toNat r
  .next (s3.forAll dies4 (fun d s =>
    let x := s.dieP d
    if !x.throttled then s.modDieP d (fun x => { x with limited := false })
    else if nbit late.toNat d.val && !x.limited && !s.dieGone d.val then
      (s.modDieP d (fun x => { x with limited := true })).post 0x0905 d.val x.inForce
    else s))

/-- Every 1 µs a die power controller measures its current. -/
def execCurrentSample (d : Fin 4) (sample average : BitVec 12) (s : State) : Res :=
  whenDue (!s.dieGone d.val) s
    (s.modDieP d (fun x => { x with sample := sample.toNat, average := average.toNat }))

/-- Applies a die's TF and ISSUE_CAP to its islands and engines. -/
def State.applyThrottle (s : State) (d : Fin 4) : State :=
  let x := s.dieP d
  s.forN 64 (fun k s =>
    let i := 64 * d.val + k
    let s1 := if s.pwr.paced.contains i then s else s.setTf i x.tf
    s1.modEng i (fun e => { e with issueCap := x.cap }))

/-- A step of tightening (R374): while the average exceeds the budget or the last sample 1.25 times it. -/
def execThrottleTighten (d : Fin 4) (s : State) : Res :=
  let x := s.dieP d
  let exceeds := x.average > x.inForce || 4 * x.sample > 5 * x.inForce
  whenDue (exceeds && !s.dieGone d.val) s
    ((s.modDieP d (fun x => if x.tf < 32 then { x with tf := x.tf + 1 }
        else { x with cap := if x.cap > 1 then x.cap - 1 else 1 })).applyThrottle d)

/-- A step of relaxing (R374): ISSUE_CAP first, then TF. -/
def execThrottleRelax (d : Fin 4) (s : State) : Res :=
  let x := s.dieP d
  whenDue (10 * x.average < 9 * x.inForce && x.throttled && !s.dieGone d.val) s
    ((s.modDieP d (fun x => if x.cap < 8 then { x with cap := x.cap + 1 } else { x with tf := x.tf - 1 })).applyThrottle d)

/-- CRIT_C and HIGH_C as they act. -/
def State.critC (s : State) : Nat := min 115 (s.get PWR_THERM.CRIT_C)
def State.highC (s : State) : Nat := min (s.get PWR_THERM.HIGH_C) s.critC

/-- The hottest sensor of a die (R375). -/
def execTemperatureSample (d : Fin 4) (sensor : Fin 9) (t : BitVec 8) (ms : Bool) (s : State) : Res :=
  let v := signedOf 8 t.toNat
  let arg := t.toNat
  let hot : Bool := v > (s.highC : Int)
  let cool : Bool := v ≤ (s.highC : Int) - 2
  let crit : Bool := v ≥ (s.critC : Int)
  let low : Bool := v < (if s.get HIF_GRADE.TEMP = 1 then (-40 : Int) else 0)
  let x := s.dieP d
  let s1 := (s.put (PWR_DIE.TEMP_MAX d.val) t.toNat).modDieP d (fun x => { x with
    cut := if !ms then x.cut else if x.high && !cool || hot then min 16 (x.cut + 1) else x.cut - 1
    high := hot || (x.high && !cool), crit := crit, low := low, hotAt := sensor.val })
  let s2 := s1.showBudget d
  let s3 := if hot ∧ !x.high then s2.post 0x0903 d.val arg else s2
  let s4 := if crit ∧ !x.crit then s3.toCairn 0x04 (srcDiePower d.val) sevMajor sensor.val else s3
  let s5 := if low ∧ !x.low then s4.post 0x0904 d.val arg else s4
  whenDue (!s.dieGone d.val) s (if v ≥ 120 then s5.dieStops d.val false else s5)

/-- A paced island start is admitted (R376): the first island that started at TF = 4 takes the TF in force, with its join group
(R101). -/
def execCurrentChangeAdmit (s : State) : Res :=
  match s.pwr.paced with
  | [] => notDue s
  | i :: rest =>
    let group := s.joined i
    .next ((s.onPwr (fun p => { p with paced := rest.filter (fun j => !group.contains j) })).forAll group (fun j s =>
      s.setTf j (s.dieP (Fin.ofNat 4 (i / 64))).tf))

/-! ### Monitors (R378–R380) -/

/-- A droop detector has been fired for 10 µs. -/
def execDroopPersists (i : Fin 256) (s : State) : Res :=
  whenDue (s.island i.val).droop s ((s.post 0x0909 i.val).toCairn 0x05 (srcIsland i.val) sevMinor 0)

/-- Operating range of a rail in mV (R370), by its bit in PWR_RAIL_STAT. -/
def railRange : Nat → Nat × Nat
  | 4 => (825, 876) | 5 => (776, 824) | 6 => (873, 927) | 7 => (1164, 1236) | 8 => (1067, 1133) | 9 => (1710, 1890)
  | 10 => (475, 525) | _ => (728, 773)

/-- A sample of a rail (R379). -/
def execRailSample (r : Fin 11) (mv : BitVec 12) (s : State) : Res :=
  let g := railRange r.val
  let ok := g.1 ≤ mv.toNat && mv.toNat ≤ g.2
  let n := if ok then 0 else min 3 (s.pwr.railBad.peek (fun _ => 0) r.val + 1)
  let s1 := s.onPwr (fun p => { p with railBad := p.railBad.poke (fun _ => 0) r.val n })
  let bits := s.get PWR_RAIL_STAT.OK
  .next (if ok then s1.put PWR_RAIL_STAT.OK (setBit bits r.val true)
    else if n = 3 ∧ s.pwr.railBad.peek (fun _ => 0) r.val = 2 then
      (((s1.put PWR_RAIL_STAT.OK (setBit bits r.val false)).putB PWR_RAIL_STAT.OOT true).post 0x0906 r.val mv.toNat).toCairn
        0x03 srcPower sevCritical r.val
    else s1)

/-- A sample of VSENSE_BUS (R380): the converter's code over 1.0 V, times DIV, in units of 100 mV. A swell ends when the
bus is no longer above SWELL_DV. -/
def execBusSample (code : BitVec 12) (s : State) : Res :=
  let div := s.get PWR_BUS_CFG.DIV
  let v := min 4095 (code.toNat * div * 10 / 4096)
  let s1 := s.put PWR_BUS_STAT.NOW v
  let s2 := if s.pwr.busSeen then
      (s1.put PWR_BUS_STAT.MIN (min (s.get PWR_BUS_STAT.MIN) v)).put PWR_BUS_STAT.MAX (max (s.get PWR_BUS_STAT.MAX) v)
    else (s1.put PWR_BUS_STAT.MIN v).put PWR_BUS_STAT.MAX v
  let s3 := s2.onPwr (fun p => { p with busSeen := true })
  whenDue (div != 0) s
    (if s.pwr.swell ∧ v ≤ s.get PWR_BUS_CFG.SWELL_DV then
      (s3.onPwr (fun p => { p with swell := false })).post 0x0908 v 0
     else s3)

def State.busNow (s : State) : Nat := s.get PWR_BUS_STAT.NOW
def State.busOn (s : State) : Bool := s.get PWR_BUS_CFG.DIV != 0 && s.pwr.busSeen

def execBusSagEnter (s : State) : Res :=
  let t := s.get PWR_BUS_CFG.SAG_DV
  whenDue (s.busOn && t != 0 && s.busNow < t && !s.pwr.sag) s
    ((s.onPwr (fun p => { p with sag := true })).post 0x0907 s.busNow 1)

def execBusSagExit (s : State) : Res :=
  whenDue (s.busOn && s.pwr.sag && s.busNow > s.get PWR_BUS_CFG.SAG_DV + 10) s
    ((s.onPwr (fun p => { p with sag := false })).post 0x0907 s.busNow 0)

def execBusSwellTimer (s : State) : Res :=
  let t := s.get PWR_BUS_CFG.SWELL_DV
  whenDue (s.busOn && t != 0 && s.busNow > t && !s.pwr.swell) s
    (((s.onPwr (fun p => { p with swell := true })).post 0x0908 s.busNow 1).toCairn 0x06 srcPower sevMinor s.busNow)

/-- PWR_BUS_STAT.CLR: MIN and MAX become NOW. -/
def execPwrBusStatClr (s : State) : Res := .next ((s.put PWR_BUS_STAT.MIN s.busNow).put PWR_BUS_STAT.MAX s.busNow)
/-- PWR_CNT_CLR clears the droop counters. -/
def execPwrCntClr (s : State) : Res := .next (s.forN 4 (fun d s => s.put (PWR_DROOP_CNT.COUNT d) 0))

/-! ### Rungs (R383–R387) -/

/-- Effective rung of a die: the deeper of the package rung and its own (R383). -/
def State.effective (s : State) (pkg : Nat) (d : Fin 4) : Nat := max pkg (s.dieP d).own
/-- Reports the effective rungs. -/
def State.showRungs (s : State) (pkg : Nat) : State :=
  (s.put PWR_RUNG.CUR pkg).put PWR_DIE_RUNG.CUR ((dies4.map (fun d => s.effective pkg d * 8 ^ d.val)).sum)

/-- A refused rung request: WHY and RUNG_REFUSED (R386). -/
def State.refuseRung (s : State) (r why : Nat) : State := (s.put PWR_RUNG.WHY why).post 0x0902 (r + why * 16)

/-- Bytes the host backing store must take at Dormant: every image with its slot, and the page tables. -/
def State.dormantBytes (s : State) : Nat :=
  s.storeUsed true + s.storeUsed false + (if s.swb.tables = [] then 0 else 8192 + (s.swb.tables.map (fun p => tableSize p.1)).sum)

/-- Why a package rung request is refused (R386); 0 where it is taken. -/
def State.rungWhy (s : State) (r : Nat) : Nat :=
  if r ≥ 5 then 5
  else if !s.flag HIF_STAT.READY then 3
  else if s.flag FLT_STAT.PARKED && r < 3 then 6
  else if r = 4 && s.twinOn then 1
  else if r = 4 && s.dormantBytes > (s.storeRegion false).2 then 2
  else 0

/-- A request for a package rung, from software, a D-state or a wake source (R383, R386). After a power-fail nothing is
taken (R382). -/
def State.requestRung (s : State) (r : Nat) : State :=
  if s.pwr.failed then s
  else
    let why := s.rungWhy r
    if why ≠ 0 then s.refuseRung r why
    else (s.put PWR_RUNG.REQ r).onPwr (fun p => { p with want := some r })

/-- Whether the device is at Lull or deeper, or on its way there. -/
def State.asleep (s : State) : Bool :=
  s.get PWR_RUNG.CUR ≥ 2 || (match s.pwr.run with
    | some m => m.scope == 7 && m.new ≥ 2
    | none => false)

/-- A wake source asks for Run (R386); while PARKED none acts. -/
def State.wake (s : State) : State := if s.asleep && !s.flag FLT_STAT.PARKED then s.requestRung 0 else s

def execPwrRungRequest (r : BitVec 3) (s : State) : Res := .next (s.requestRung r.toNat)

/-- PWR_DIE_RUNG: each die whose field changes (R383, R386). -/
def execPwrDieRungRequest (v : BitVec 8) (s : State) : Res :=
  .next (s.forAll dies4 (fun d s =>
    let r := nfield v.toNat (2 * d.val + 1) (2 * d.val)
    let old := nfield (s.get PWR_DIE_RUNG.REQ) (2 * d.val + 1) (2 * d.val)
    if r = old || s.pwr.failed then s
    else if r = 3 || s.dieGone d.val then s.refuseRung r 4
    else if !s.flag HIF_STAT.READY then s.refuseRung r 3
    else if s.flag FLT_STAT.PARKED then s.refuseRung r 6
    else (s.put PWR_DIE_RUNG.REQ (s.get PWR_DIE_RUNG.REQ - old * 4 ^ d.val + r * 4 ^ d.val)).onPwr
      (fun p => { p with dieWant := p.dieWant.poke (fun _ => none) d.val (some r) })))

/-- Whether a Switchback swap or migration runs on one of some dies. -/
def State.swapRuns (s : State) (ds : List Nat) : Bool :=
  s.swb.ctxs.any (fun p => p.2.placed && ds.contains p.2.die && ((p.2.state == 3 && p.2.reloading == 0) || p.2.state == 5 || p.2.state == 6))
    || s.swb.migrations != []

/-- Islands of a die. -/
def islandsOn (d : Nat) : List Nat := (List.range 64).map (fun k => 64 * d + k)
/-- Whether an island is kept running: a resident context's, with a clock under DEEP_EN (R103). -/
def State.keptRun (s : State) (i : Nat) : Bool :=
  let c := s.occupant i
  c != 0x3FF && keptRunning (s.setting i) && (s.ctx c).state != 3

/-- Contexts to be quiesced and evicted before Park or Dormant (R261). -/
def State.toEvict (s : State) : List Nat :=
  (s.swb.ctxs.filter (fun p => p.2.placed && !p.2.boot && !(s.islandsOf p.1).any (fun i => keptRunning (s.setting i)))).map
    (fun p => p.1)

/-- Dies that a move concerns. -/
def RungMove.dies (m : RungMove) : List Nat := if m.scope = 7 then [0, 1, 2, 3] else [m.scope]

/-- What an entry begins with (R385): at Hold and Lull the clocks are asked to stop; from Lull on the ingresses stall; Park
and Dormant evict first. -/
def State.beginEntry (s : State) (m : RungMove) : State :=
  if m.new ≥ 3 && m.old < 3 then
    let s1 := s.forAll s.toEvict (fun c s => s.request { ctx := c, kind := 3, force := true })
    if s.flag PWR_RUNG.EMULATED then s1
    else s1.forAll ((m.dies.flatMap islandsOn).filter s1.keptRun) (fun i s => s.gateClocks i 2)
  else
    let s1 := if m.new ≥ 2 then s.onPwr (fun p => { p with
        stall := (p.stall ++ (if m.scope = 7 then [7] else [m.scope])).eraseDups }) else s
    if s.flag PWR_RUNG.EMULATED then s1
    else s1.forAll (m.dies.flatMap islandsOn) (fun i s => s.gateClocks i (max m.new (s.dieP (Fin.ofNat 4 (i / 64))).own))

/-- PWR_RUNG.EMULATED follows an attached debugger while every die is at Run (R387; assumption log 40). -/
def State.showEmulated (s : State) : State :=
  if s.get PWR_RUNG.CUR = 0 ∧ s.get PWR_DIE_RUNG.CUR = 0 then s.putB PWR_RUNG.EMULATED (s.flag DBG_STAT.ATTACHED) else s

/-- HBM contents are lost; Switchback writes its tables anew when HBM is back (R385). -/
def State.hbmGone (s : State) : State :=
  (s.onMem (fun x => x.wipe inHbm)).onSwb (fun w => { w with tables := [], entries := [] })

/-- A rung transition starts: the package's request before those of the dies, in order. A debugger makes it emulated. -/
def execRungTransitionStart (s : State) : Res :=
  let pick : Option (RungMove × (Power → Power)) := match s.pwr.want with
    | some r => some ({ scope := 7, old := s.get PWR_RUNG.CUR, new := r }, fun p => { p with want := none })
    | none => (dies4.findSome? (fun d => (s.pwr.dieWant.peek (fun _ => none) d.val).map (fun r =>
        ({ scope := d.val, old := (s.dieP d).own, new := r },
         fun (p : Power) => { p with dieWant := p.dieWant.poke (fun _ => none) d.val none }))))
  match pick with
  | none => notDue s
  | some (m, take) =>
    let s0 := s.onPwr take
    if s.pwr.run.isSome || s.pwr.failed || s.swapRuns m.dies then notDue s
    else if m.old = m.new then .next s0
    else
      let s1 := ((s0.onPwr (fun p => { p with run := some m })).putB PWR_RUNG.BUSY true).showEmulated
      .next (if m.new > m.old then (if m.new ≥ 2 then s1.rungEndsTests m.scope else s1).beginEntry m else s1)

/-- Flushes the merge buffers of an island or a die's banks (R140). -/
def State.flushDie (s : State) (d : Nat) : State :=
  let inD (k : Nat) : Bool := match regionOf (8 * k) with
    | some r => r.cls ≤ 3 && r.unit == d || (islandOf (8 * k) / 64 == d && 8 * k ≥ windowBase && 8 * k < controlBase)
    | none => false
  (s.mem.merge.filter (fun p => inD p.1)).foldl (fun s p => s.flushUnit p.1) s

/-- HBM takes a rung's state, where power actions are not emulated: power-down at Hold, self-refresh, deep self-refresh,
off (R384). -/
def State.hbmRung (s : State) (r : Nat) : State :=
  if s.flag PWR_RUNG.EMULATED then s
  else s.forN 2 (fun k s =>
    let st := s.get (HBM_STAT.STATE k)
    if st = 0 ∨ st = 1 then s
    else s.put (HBM_STAT.STATE k) (match r with | 0 => 2 | 1 => 3 | 2 => 4 | 3 => 5 | _ => 0))

/-- Pages at Dormant (R385): written back where dirty and host-backed, their location the host; device-only pages are lost,
with PAGE_LOST per space. -/
def State.dormantPages (s : State) : State :=
  let spaces := ((s.swb.pages.filter (fun p => p.valid && p.dev)).map (fun p => p.space)).eraseDups
  let s2 := s.forAll (s.swb.pages.filter (fun p => p.valid && !p.dev && p.loc != 2)) (fun p s =>
    (s.pageHome p).getD ((s.modPages (fun q => q.valid && q.same p) (fun q => { q with
      loc := 2, addr := q.backing, d := false, a := false })).freeFrame p.loc p.addr p.size))
  let s3 := s2.forAll spaces (fun c t =>
    t.post 0x0508 c (s.swb.pages.filter (fun p => p.valid && p.dev && p.space == c)).length)
  (s3.modPages (fun p => p.valid && p.dev) (fun p => { p with valid := false, lost := true })).showMaps

/-- Copies the page tables out to the host backing store, after its images. -/
def State.tablesOut (s : State) : State :=
  if s.swb.tables = [] then s
  else
    let spans := (s.ptRegion.1, 8192) :: s.swb.tables.map (fun p => (p.2 - 1, tableSize p.1))
    match s.storeSpace false ((spans.map (fun p => p.2)).sum) with
    | none => s
    | some a => ((spans.foldl (fun (t : Nat × State) p =>
        let r := t.2.spanRead p.1 p.2
        (t.1 + p.2, r.2.2.spanWrite t.1 p.2 r.2.1)) (a, s))).2

/-- Images and their state slots go to the host backing store for Dormant, or come back from it (R385). -/
def State.moveImages (s : State) (inStore : Bool) (l : List (Nat × Nat)) : State :=
  s.forAll l (fun p s => match s.image p.1 p.2 with
    | none => s
    | some r => match s.storeSpace inStore r.img.bytes with
      | some a => if s.hbsUp then s.moveImage r inStore a else s
      | none => s)

/-- A boot context is held in set/reset while its islands have no memory contents (R342, R385). -/
def State.holdBoot (s : State) (c why : Nat) : State :=
  let is := s.islandsOf c
  let s1 := ((s.failFlights (s.trailIs (fun t => t.endsAt c)) 0x02).forget is).forAll is (fun i s =>
    ((((s.haltClocks i).modIsland i (fun x => { (x.hold) with gsr := true, qreq := false, qack := false })).modEng i (fun e =>
      e.bare)).leaveBorders i).put (SWB_ISL_STAT.STATE i) 2)
  ((s1.modCtx c (fun x => { x with state := 3, reloading := why })).setEntries c 1 2).countCtxs

/-- Boot contexts that are placed on some dies. -/
def State.bootOn (s : State) (ds : List Nat) : List Nat :=
  (s.swb.ctxs.filter (fun p => p.2.placed && p.2.boot && ds.contains p.2.die)).map (fun p => p.1)

/-- Banks follow Park: those of islands that are not kept running drive safe states. -/
def State.parkBanks (s : State) (on : Bool) (all : Bool) : State :=
  s.forN 32 (fun b s => (s.modBank b (fun x => { x with parked := on && (all || !s.keptRun (bankIsland b)) })).showBank b)

/-- A free value for every flip-flop and MAC register of an island whose rail was off (R384), its engine as after reset
(assumption log 77). -/
def State.loseIsland (s : State) (i : Nat) : State :=
  let x := s.island i
  let v (k : Nat) : W64 := Config.freeValue (s.free + k)
  let keys := x.cfg.cells.flatMap (fun p => [2 * p.1, 2 * p.1 + 1]) ++ x.cfg.tiles.flatMap (fun p => (List.range 4).map (mcKey p.1))
  let n := keys.length
  let mac (k : Nat) : MacRegs :=
    { u := (v k).setWidth 27, v := (v (k + 1)).setWidth 27, m := (v (k + 2)).setWidth 27, k := v (k + 3), pre := (v (k + 4)).setWidth 27
      mbal := (v (k + 5)).setWidth 27, prod := v (k + 6), op := (v (k + 7)).setWidth 3, sum := v (k + 8), ovf := (v (k + 9)).getLsbD 0 }
  let s1 := s.setIsland i { x with
    ff := x.ff.pokes (fun _ => false) ((numbered keys).map (fun p => (p.2, (v p.1).getLsbD 0)))
    mac := Table.pokes (fun _ => {}) [] ((numbered x.cfg.macs).map (fun p => (p.2.1, mac (n + 10 * p.1)))) }
  { s1.modEng i Engine.bare with free := s.free + n + 10 * x.cfg.macs.length }

/-- Entry to a rung is complete: what the rung switches off (R384, R385). -/
def State.endEntry (s : State) (m : RungMove) : State :=
  let s0 := if m.scope = 7 then s else s.modDieP (Fin.ofNat 4 m.scope) (fun x => { x with own := m.new })
  let pkg := if m.scope = 7 then m.new else s.get PWR_RUNG.CUR
  let real := !s.flag PWR_RUNG.EMULATED
  let s1 := if m.new ≥ 2 then s0.forAll m.dies (fun d s => s.flushDie d) else s0
  let s2 := if m.new ≥ 3 ∧ real then
      s1.forAll ((List.range 256).filter (fun i => !s1.keptRun i)) (fun i s =>
        let t := s.stopClocks i
        if (t.island i).gsr then t else t.loseIsland i) else s1
  let s3 := if m.scope = 7 ∧ m.new = 4 then
      let moved := (s2.swb.images.filter (fun g => g.inStore)).map (fun g => (g.ctx, g.variant))
      (((s2.dormantPages.moveImages false moved).tablesOut).onPwr
        (fun p => { p with moved := moved, hbmOff := real })).rangesOff false true
    else s2
  let s4 := if m.scope = 7 ∧ m.new = 4 ∧ real then s3.hbmGone else s3
  let s5 := if m.scope = 7 ∧ m.new ≥ 3 then
      (s4.forAll (s4.bootOn [0, 1, 2, 3]) (fun c s =>
        if !real || (s.islandsOf c).any (fun i => keptRunning (s.setting i)) then s else s.holdBoot c 0)).parkBanks true false
    else s4
  let s6 := if m.scope = 7 then s5.hbmRung m.new else s5
  let s7 := if m.scope = 7 ∧ m.new = 4 ∧ real then s6.lkoSleep true else s6
  s7.showRungs pkg

/-- Whether the messages that a stalled entry waits for have been delivered. -/
def State.quietFor (s : State) (m : RungMove) : Bool :=
  let touches (t : Nat) : Bool :=
    let x := s.trail t
    m.scope == 7 || (match s.site x.src with
      | some a => a.die == m.scope
      | none => false) || (match s.site x.dst with
      | some a => a.die == m.scope
      | none => false)
  !s.net.flight.any (fun f => touches f.msg.trail.toNat) && !s.net.resp.any (fun f => touches f.msg.trail.toNat)

/-- Ends a transition: RUNG_CHANGED with its time (R389). -/
def State.rungChanged (s : State) (m : RungMove) (ns : Nat) : State :=
  (((s.putB PWR_RUNG.BUSY false).onPwr (fun p => { p with run := none })).showEmulated.post 0x0901 (m.new + m.old * 8 + m.scope * 64) ns)

/-- Entry to Hold, Lull, Park or Dormant completes: contexts evicted, messages delivered, clocks stopped. -/
def execRungEntryComplete (ns : BitVec 32) (s : State) : Res :=
  match s.pwr.run with
  | none => notDue s
  | some m =>
    let stopped := s.flag PWR_RUNG.EMULATED || ((m.dies.flatMap islandsOn).filter (fun i => m.new < 3 || s.keptRun i)).all (fun i =>
      (s.island i).stopping == 0)
    let gone := m.new < 3 || m.old ≥ 3 || s.toEvict == []
    let s0 := if m.new ≥ 2 then s.onPwr (fun p => { p with
        stall := (p.stall ++ (if m.scope = 7 then [7] else [m.scope])).eraseDups }) else s
    if m.new ≤ m.old || !stopped || !gone then notDue s
    else if m.new ≥ 2 && !s.quietFor m then .next s0
    else .next ((s0.endEntry m).rungChanged m ns.toNat)

/-- Island clocks start for a rung, staggered in island order at TF = 4, each then waiting for its admission (R376, R385). -/
def State.startClocks (s : State) (ds : List Nat) : State :=
  if s.flag PWR_RUNG.EMULATED then s
  else
    let is := (ds.flatMap islandsOn).filter (fun i => let st := s.islState i; st == 3 || st == 4)
    let s1 := s.forAll is (fun i s => (if s.keptRun i then s else s.setTf i 32).gateClocks i (s.rungAt i))
    s1.onPwr (fun p => { p with paced := (p.paced ++ is.filter (fun i => !s.keptRun i)).eraseDups })

/-- The memories of islands that were switched off, and every deep bank, are zeroed at the exit from Park (R140). -/
def State.zeroParked (s : State) : State :=
  if s.flag PWR_RUNG.EMULATED then s
  else
    let s1 := s.forN 4 (fun d s => s.zeroRange (granuleAt (16384 * d)) 0x4000000)
    s1.forN 256 (fun i s => if s.keptRun i then s else s.clearMemories i)

/-- Switchback reloads the contexts it evicted for Park or Dormant, by class, with their saved state and pins (R261). -/
def State.reloadAll (s : State) : State :=
  let l := s.swb.reload
  let order := (List.range 8).reverse.flatMap (fun k => l.filter (fun c => (s.ctx c).prio == k))
  (s.onSwb (fun w => { w with reload := [] })).forAll order (fun c s =>
    if (s.ctx c).state = 8 then s else s.request { ctx := c, variant := (s.ctx c).variant, pin := (s.ctx c).repin })

/-- Exit to a shallower rung (R385). -/
def State.endExit (s : State) (m : RungMove) : State :=
  let s0 := if m.scope = 7 then s else s.modDieP (Fin.ofNat 4 m.scope) (fun x => { x with own := m.new })
  let pkg := if m.scope = 7 then m.new else s.get PWR_RUNG.CUR
  let left := m.scope = 7 && m.old ≥ 3 && m.new < 3
  let s1 := if left then s0.zeroParked else s0
  let s2 := s1.showRungs pkg
  let s3 := if m.scope = 7 then
      (if m.old = 4 ∧ s2.pwr.hbmOff ∨ s2.pwr.hbmOff ∧ m.new < 3 then
        (s2.forN 2 (fun k s => s.put (HBM_STAT.STATE k) 1)).onPwr (fun p => { p with hbmOff := false })
       else s2.hbmRung m.new)
    else s2
  let s4 := if m.scope = 7 ∧ m.old = 4 then
      ((s3.moveImages true (s3.pwr.moved.filter (fun p => s3.swb.images.any (fun g =>
        g.ctx == p.1 && g.variant == p.2 && !g.inStore)))).syncMaps).onPwr (fun p => { p with moved := [] })
    else s3
  let s5 := if m.new < 2 then s4.onPwr (fun p => { p with
      stall := if m.scope = 7 then ((dies4.filter (fun d => (s4.dieP d).own ≥ 2)).map (fun d => d.val))
               else p.stall.filter (· != m.scope) }) else s4
  let s6 := s5.startClocks (m.dies.filter (fun d => s5.effective pkg (Fin.ofNat 4 d) < m.old || m.scope = d))
  let s7 := if left then (s6.parkBanks false false).forAll (s6.bootOn [0, 1, 2, 3]) (fun c s =>
      if (s.ctx c).state = 3 ∧ (s.ctx c).reloading = 0 then s.modCtx c (fun x => { x with reloading := 1 }) else s) else s6
  (if left then s7.reloadAll else s7).lkoSleep false

/-- The PWR_WAKE timer reaches 0. -/
def execPwrWakeExpiry (s : State) : Res :=
  whenDue (s.get PWR_WAKE.MS != 0 && s.get PWR_RUNG.CUR ≥ 2) s ((s.put PWR_WAKE.MS 0).wake)

/-! ### Park without saving (R261, R385, R388) -/

/-- A context's residency ends without a save: SAVED where it has a saved state fully written, else IDLE; its requests end
CANCELLED. -/
def State.dropForPark (s : State) (c : Nat) : State :=
  let x := s.ctx c
  let is := s.islandsOf c
  let s1 := ((s.failFlights (s.trailIs (fun t => t.endsAt c)) 0x02).forget is).forAll is (fun i s =>
    ((s.haltClocks i).leaveBorders i).bankFence i)
  let s2 := (s1.emptyIslands c).endJob (s.swapJob c)
  let s3 := s2.modCtx c (fun x => { x with
    saved := if x.fenceSave then none else x.saved, loading := none, evict := none, fenceSave := false, acked := false
    pinned := false, victimOf := none, restoring := false })
  let s4 := (s3.modCtx c (fun x => { x with state := x.rest })).setEntries c 2 2
  let s5 := match x.loading with
    | some r => s4.reqDone r 14
    | none => s4
  let s6 := match x.evict with
    | some r => if r.kind = 2 then s5.unregister r 0 else s5.reqDone r 14
    | none => s5
  s6.countCtxs

/-- The package enters Park without saving: any transition is abandoned, every island's rail goes off (R103, R385, R416).
`ns` is the time for the event, which is posted while the link is up. -/
def State.parkNow (s : State) (ns : Nat) : State :=
  let old := s.get PWR_RUNG.CUR
  let deep := max old 3
  let s0 := (s.onPwr (fun p => { p with run := none, want := none, dieWant := [], stall := (p.stall ++ [7]).eraseDups })).putB
    PWR_RUNG.BUSY false
  let s1 := (s0.putB PWR_RUNG.EMULATED false).parkTests
  let cs := (s1.swb.ctxs.filter (fun p => p.2.placed && !p.2.boot)).map (fun p => p.1)
  let s2 := s1.forAll cs (fun c s => s.dropForPark c)
  let s3 := s2.forAll (s2.bootOn [0, 1, 2, 3]) (fun c s => s.holdBoot c 0)
  let s4 := (s3.forN 256 (fun i s => s.haltClocks i)).parkBanks true true
  let s5 := (s4.hbmRung deep).showRungs deep
  let s6 := s5.forAll s5.swb.migrations (fun m s => s.abandonMigration m)
  if old < 3 ∧ s.host.linkUp then s6.post 0x0901 (3 + old * 8 + 7 * 64) ns else s6

end Sys2Proof.Machine
end

