-- ==== Sys2Proof/Machine/Cairn.lean ====
section
/-!
DEFINITION. Cairn: fault messages and their reactions, leaving the fault state, injection, the ring, SAFE_REQ_N
(R404–R419).
-/

namespace Sys2Proof.Machine

/-! ### Kinds and causes (R407) -/

/-- SEV that the source of a kind sends. -/
def kindSev (k : Nat) : Nat :=
  if [0x02, 0x03, 0x16, 0x18, 0x1D].contains k then sevCritical
  else if [0x05, 0x06, 0x09, 0x25].contains k then sevMinor else sevMajor

/-- Whether R407 lists a code. -/
def kindListed (k : Nat) : Bool := (1 ≤ k && k ≤ 0x22 && k != 0x1E && k != 0x1F) || k == 0x24 || k == 0x25

/-- Source of Cairn itself. -/
def srcCairn : Nat := srcSaddle 0x1FF

/-- Whether the ring segment of a die is ignored: from its declared loss until its rejoin (R404). -/
def State.segmentOff (s : State) (g : Nat) : Bool := g < 4 && s.dieGone g
/-- Ring segments whose token is missing and counts. -/
def State.ringOut (s : State) : List Nat := s.cairn.missing.filter (fun g => !s.segmentOff g)
def State.showRing (s : State) : State := s.putB FLT_STAT.RING_OK (s.ringOut == [])

/-- The persisting causes of R407: source, kind, ADDR. -/
def State.causes (s : State) : List (Nat × Nat × Nat) :=
  let one (b : Bool) (x : Nat × Nat × Nat) : List (Nat × Nat × Nat) := if b then [x] else []
  let all (n : Nat) (b : Nat → Bool) (x : Nat → Nat × Nat × Nat) : List (Nat × Nat × Nat) := ((List.range n).filter b).map x
  one (s.flag FLT_STAT.SAFE_REQ) (srcSaddle 0xC, 0x01, 0)
    ++ one s.pwr.failed (srcPower, 0x02, 0)
    ++ all 11 (fun r => s.pwr.railBad.peek (fun _ => 0) r == 3) (fun r => (srcPower, 0x03, r))
    ++ all 4 (fun d => (s.dieP (Fin.ofNat 4 d)).crit) (fun d => (srcDiePower d, 0x04, (s.dieP (Fin.ofNat 4 d)).hotAt))
    ++ all 256 (fun i => (s.island i).droop) (fun i => (srcIsland i, 0x05, 0))
    ++ one s.pwr.swell (srcPower, 0x06, s.busNow)
    ++ one (s.clk.holdover == 1 || s.clk.holdover == 2) (srcSaddle 7, 0x07, 0)
    ++ one (s.clk.unlocked.contains 16) (srcSaddle 0, 0x08, 0)
    ++ all 2 (fun k => s.clk.unlocked.contains (17 + k)) (fun k => (srcSaddle (2 + k), 0x08, 0))
    ++ all 16 (fun q => s.clk.unlocked.contains q) (fun q => (srcSaddle (0x10 + q), 0x09, 0))
    ++ all 32 (fun b => s.clk.unlocked.contains (32 + b)) (fun b => (srcGpio b, 0x0A, 0))
    ++ all 32 (fun b => (s.bank b).vccioBad) (fun b => (srcGpio b, 0x0B, 4 * s.get (IOB_BANK_STAT.VCCIO_MV b)))
    ++ all 4 s.dieGone (fun d => (512 * d + 0x7F, 0x0C, 0))
    ++ all 2 (fun k => popCount 32 (s.get (HBM_PC_RET.RETIRED k)) ≥ 8) (fun k => (srcSaddle (2 + k), 0x10, k))
    ++ all 256 (fun i => (s.eng i).fault && !((s.eng i).cause == 7 && (s.eng i).count == 0)) (fun i => (srcIsland i, 0x13, 0))
    ++ all 256 (fun i => (s.eng i).fault && (s.eng i).cause == 7 && (s.eng i).count == 0) (fun i => (srcIsland i, 0x14, 0))
    ++ all 2 (fun k => !s.flag (CRY_IDE_STAT.SECURE k) && s.get (CRY_IDE_STAT.CHECK_FAIL k) != 0) (fun k => (srcSaddle 0, 0x18, k))
    ++ one (!s.host.linkUp) (srcSaddle 0, 0x1A, 0)
    ++ s.ringOut.map (fun g => (srcCairn, 0x1D, g))
    ++ one (s.flag DBG_STAT.LOCKOUT) (srcSaddle 0x30, 0x25, 0)

/-- The cause of the lowest SOURCE, the lowest KIND among those of one source. -/
def firstCause (l : List (Nat × Nat × Nat)) : Option (Nat × Nat × Nat) :=
  l.foldl (fun (a : Option (Nat × Nat × Nat)) x => match a with
    | none => some x
    | some y => if x.1 < y.1 || x.1 == y.1 && x.2.1 < y.2.1 then some x else a) none

def State.reacts (s : State) (k bit : Nat) : Bool := nbit (s.get (FLT_KIND_CFG.REACT k)) bit
/-- Effective severity of a message of a kind (R408). -/
def State.severity (s : State) (k sev : Nat) : Nat := max sev (s.get (FLT_KIND_CFG.SEV_FLOOR k))

/-! ### Reactions (R410–R412) -/

/-- ALIVE toggles while nothing critical stands, past OUT, and not after a power-fail or a Cairn park (R412). -/
def State.showAlive (s : State) : State :=
  s.putB FLT_STAT.ALIVE_RUN (s.cfg.out && !s.flag FLT_STAT.CRIT && !s.flag FLT_STAT.PARKED && !s.pwr.failed)

/-- Reaction S: every GPIO pin takes its safe state. -/
def State.forceSafe (s : State) : State := (s.putB FLT_STAT.SAFE true).showBanks

/-- Whether reaction S holds the transmitter of a lane in electrical idle. -/
def State.laneIdle (s : State) (l : Nat) : Bool := s.flag FLT_STAT.SAFE && s.flag FLT_CTL.TX_IDLE && s.laneOwner l != 4

/-- NOTICE, sent three times over the Arête link (R430): 0 power-fail, 1 park, 2 TWN_UNPAIR, 3 reset, 4 TAKEOVER. -/
def State.notice (s : State) (cause : Nat) : State :=
  if s.twinOn then { s with
    twin := { s.twin with notices := s.twin.notices ++ [cause, cause, cause] }, cry := { s.cry with arlSent := s.cry.arlSent + 3 } }
  else s

/-- Reaction P. -/
def State.cairnPark (s : State) (ns : Nat) : State :=
  let s1 := s.forceSafe.putB FLT_STAT.PARKED true
  if s.flag FLT_STAT.PARKED || s.pwr.failed then s1.showAlive else ((s1.notice 1).parkNow ns).showAlive

/-- Reaction D: a Ridge die is held in reset; ignored before its re-admission. From the Saddle it acts as S. -/
def State.cairnReset (s : State) (source : Nat) : State :=
  let d := source / 512
  if d ≥ 4 then s.forceSafe
  else if s.dieGone d || s.pkg.dieReset.contains d then s
  else (s.onPkg (fun p => { p with dieReset := p.dieReset ++ [d] })).dieStops d false

/-- Writes the first-message registers. -/
def State.latch (s : State) (source kind sev addr : Nat) (inj relatch : Bool) : State :=
  let s1 := (((s.put FLT_FIRST_MSG.SOURCE source).put FLT_FIRST_MSG.KIND kind).put FLT_FIRST_MSG.SEV sev).putB FLT_FIRST_MSG.INJ inj
  (((s1.putB FLT_FIRST_MSG.RELATCH relatch).put FLT_FIRST_ADDR.VALUE addr).put FLT_FIRST_TIME.VALUE s.now).putB FLT_STAT.LATCHED true

/-- ARG1 of FAULT (R417). -/
def faultArg (source kind sev : Nat) (inj latched relatch : Bool) : Nat :=
  source + kind * 2 ^ 12 + sev * 2 ^ 18 + (if inj then 2 ^ 20 else 0) + (if latched then 2 ^ 21 else 0)
    + (if relatch then 2 ^ 22 else 0)

/-- Whether FAULT of a kind may be posted: at most once each 1 ms (R410). -/
def State.faultDue (s : State) (k : Nat) : Bool :=
  let t := s.cairn.posted.peek (fun _ => 0) k
  t == 0 || s.now + 1 ≥ t + 1000000

/-- Cairn takes a message (R409): count, latch, severity, reactions. `ns` is the time a park takes. -/
def State.cairnTakes (s : State) (m : FaultMsg) (ns : Nat) : State :=
  let k := m.kind
  let s0 := s.bump (FLT_KIND_CNT.COUNT k)
  if s.flag (FLT_KIND_CFG.MASK k) then s0
  else
    let sev := s.severity k m.sev
    let first := !s.flag FLT_STAT.LATCHED
    let s1 := if first then s0.latch m.source k sev m.addr m.inj false else s0.putB FLT_STAT.OVF true
    let s2 := (if sev = 3 then s1.putB FLT_STAT.CRIT true else s1).showAlive
    let s3 := if s.reacts k 3 then s2.forceSafe else s2
    let s4 := if s.reacts k 4 then s3.cairnPark ns else s3
    let s5 := if s.reacts k 5 then s4.cairnReset m.source else s4
    let s6 := if s.reacts k 1 && s.faultDue k then
        (s5.onCairn (fun c => { c with posted := c.posted.poke (fun _ => 0) k (s.now + 1) })).post 0x0A01 m.addr
          (faultArg m.source k sev m.inj first false)
      else s5
    s6.tellLookout m (s.get (FLT_KIND_CFG.REACT k))

/-- Cairn takes the oldest message; one that fails its parity is discarded and raises RING_FAULT (R405). -/
def execCairnMessage (parityOk : Bool) (ns : BitVec 32) (s : State) : Res :=
  match s.inbox with
  | [] => notDue s
  | m :: rest =>
    let s1 : State := { s with inbox := rest }
    .next (if parityOk then s1.cairnTakes m ns.toNat
      else s1.toCairn 0x1D srcCairn sevCritical (if m.source / 512 < 4 then m.source / 512 else 4))

/-- The 100 µs of a die reset end; the die then rejoins (R39, R410). -/
def execDieResetRelease (d : Fin 4) (s : State) : Res :=
  whenDue (s.pkg.dieReset.contains d.val && s.dieGone d.val) s
    (s.onPkg (fun p => { p with dieReset := p.dieReset.filter (· != d.val) }))

/-! ### The ring and SAFE_REQ_N (R404, R413) -/

/-- The token of a segment does not return within 2 µs, or with `back` circulates again. -/
def execRingTokenTimeout (g : Fin 5) (back : Bool) (s : State) : Res :=
  if back then
    whenDue (s.cairn.missing.contains g.val) s
      (s.onCairn (fun c => { c with missing := c.missing.filter (· != g.val) })).showRing
  else
    whenDue (!s.segmentOff g.val && !s.cairn.missing.contains g.val) s
      (((s.onCairn (fun c => { c with missing := c.missing ++ [g.val] })).showRing).toCairn 0x1D srcCairn sevCritical g.val)

/-! ### Leaving the fault state (R414) -/

/-- Clears the bits that are 1 in `w`, laid out as FLT_STAT, as far as no persisting cause holds them. -/
def State.fltClear (s : State) (w : Nat) : State :=
  let cs := s.causes.filter (fun c => !s.flag (FLT_KIND_CFG.MASK c.2.1))
  let park := cs.any (fun c => s.reacts c.2.1 4)
  let safe := park || cs.any (fun c => s.reacts c.2.1 3)
  let crit := cs.any (fun c => s.severity c.2.1 (kindSev c.2.1) == 3)
  let off (b : Nat) (held : Bool) (f : Fld) : Bool := nbit w b && !held && s.flag f
  let l := off 31 (cs != []) FLT_STAT.LATCHED
  let o := off 30 false FLT_STAT.OVF
  let c := off 29 crit FLT_STAT.CRIT
  let a := off 28 safe FLT_STAT.SAFE
  let p := off 27 park FLT_STAT.PARKED
  let drop (s : State) (b : Bool) (f : Fld) : State := if b then s.putB f false else s
  let s1 := drop (drop (drop (drop (drop s l FLT_STAT.LATCHED) o FLT_STAT.OVF) c FLT_STAT.CRIT) a FLT_STAT.SAFE) p FLT_STAT.PARKED
  let s2 := match (if nbit w 31 then firstCause cs else none) with
    | some x =>
      let sev := s.severity x.2.1 (kindSev x.2.1)
      (s1.latch x.1 x.2.1 sev x.2.2 false true).post 0x0A01 x.2.2 (faultArg x.1 x.2.1 sev false true true)
    | none => s1
  let s3 := s2.showBanks.showAlive
  let bits := (if l then 2 ^ 31 else 0) + (if o then 2 ^ 30 else 0) + (if c then 2 ^ 29 else 0) + (if a then 2 ^ 28 else 0)
    + (if p then 2 ^ 27 else 0)
  if bits = 0 then s3 else s3.post 0x0A02 bits 0

/-- A W1C write of FLT_STAT. -/
def execFltStatClear (w : W32) (s : State) : Res := .next (s.fltClear w.toNat)

/-- SAFE_REQ_N has passed its filter. -/
def execSafeReqNLow (s : State) : Res :=
  whenDue (!s.flag FLT_STAT.SAFE_REQ) s ((s.putB FLT_STAT.SAFE_REQ true).toCairn 0x01 (srcSaddle 0xC) sevMajor 0)

/-- SAFE_REQ_N rises: with REQ_AUTO = 1, the clear of SAFE and LATCHED. -/
def execSafeReqNRise (s : State) : Res :=
  let s1 := s.putB FLT_STAT.SAFE_REQ false
  whenDue (s.flag FLT_STAT.SAFE_REQ) s (if s.flag FLT_CTL.REQ_AUTO then s1.fltClear (2 ^ 31 + 2 ^ 28) else s1)

/-! ### Injection and counters (R415, R419) -/

/-- A write of FLT_INJ: its fields, and with GO the injection. ADDR of a forced message is not stated: a free value. -/
def execFltInjGo (w : W64) (s : State) : Res :=
  let set (s : State) (f : Fld) : State := s.put f (fieldOf w f.hi f.lo)
  let s1 := set (set (set (set (set s FLT_INJ.MODE) FLT_INJ.SOURCE) FLT_INJ.KIND) FLT_INJ.CHK) FLT_INJ.COUNT
  let s2 := if fieldOf w 58 58 = 1 then s1.putB FLT_INJ.ERR false else s1
  let mode := fieldOf w 61 60
  let allow := nbit (s.get FLT_INJ.ALLOW) (mode - 1)
  let kind := fieldOf w 45 40
  let chk := fieldOf w 39 37
  .next (if fieldOf w 59 59 = 0 || mode = 0 || mode = 3 then s2
    else if !allow || (mode = 1 && !kindListed kind) || (mode = 2 && chk ≥ 6) then s2.putB FLT_INJ.ERR true
    else if mode = 1 then
      { s2.took with inbox := s2.inbox ++ [{ kind, source := fieldOf w 57 46, sev := kindSev kind, inj := true
                                             addr := s2.fresh.toNat % 2 ^ 48 }] }
    else s2.onCairn (fun c => { c with checks := c.checks ++ [(fieldOf w 57 46, chk, max 1 (fieldOf w 36 29))] }))

/-- FLT_CNT_CLR: the kind counters and LKO_OVF. -/
def execFltCntClr (s : State) : Res :=
  .next ((s.forN 64 (fun k s => s.put (FLT_KIND_CNT.COUNT k) 0)).put FLT_STAT.LKO_OVF 0)

end Sys2Proof.Machine
end

