-- ==== Sys2Proof/Machine/ImgCheck.lean ====
section
/-!
DEFINITION. Slot tables, image headers, segment tokens: what the configuration controller and Lookout both check
(R328–R336, R392, R393).
-/

namespace Sys2Proof.Machine

/-! ### Slot tables (R328, R392) -/

/-- Whether a slot-table copy is valid. -/
def tableOk (t : List Byte) : Bool :=
  t.length == 64 && leAt t 0 4 == 0x534C4F54 && leAt t 4 2 == 1 && leAt t 6 1 ≤ 1 && leAt t 0x3C 4 == crc32c (t.take 0x3C)

/-- Whether a copy with SEQ `a` is newer than one with SEQ `b`: serial-number arithmetic. -/
def seqNewer (a b : Nat) : Bool :=
  let d := (a + 2 ^ 32 - b) % 2 ^ 32
  1 ≤ d && d < 2 ^ 31

/-- The copy in use. -/
def pickTable (a b : List Byte) : Option (List Byte) :=
  match tableOk a, tableOk b with
  | true, true => some (if seqNewer (leAt b 8 4) (leAt a 8 4) then b else a)
  | true, false => some a
  | false, true => some b
  | false, false => none

/-- ACTIVE slot of a target: the bitstream's, or the firmware's, of which values above 1 act as 0. -/
def activeSlot (t : List Byte) (target : Nat) : Nat :=
  if target = 0 then leAt t 6 1 else if leAt t 0x1C 1 = 1 then 1 else 0

/-- Flash offset and size of a slot of a target. -/
def slotBase (t : List Byte) (target slot : Nat) : Nat :=
  if target = 0 then leAt t (if slot = 0 then 0x0C else 0x14) 4 else leAt t (if slot = 0 then 0x20 else 0x24) 4
def slotSize (t : List Byte) (target slot : Nat) : Nat :=
  if target = 0 then leAt t (if slot = 0 then 0x10 else 0x18) 4 else leAt t 0x28 4

/-- A table copy with another ACTIVE slot of a target and SEQ, its CRC renewed. -/
def retable (t : List Byte) (target slot seq : Nat) : List Byte :=
  let a := if target = 0 then t.set 6 (BitVec.ofNat 8 slot) else t.set 0x1C (BitVec.ofNat 8 slot)
  let b := a.take 8 ++ toBytes 4 seq ++ (a.drop 12).take 48
  b ++ toBytes 4 (crc32c b)

/-! ### Headers (R330, R336, R339) -/

/-- Whether STARTUP.ORDER names each step once with LOCK before GSR and WE. -/
def orderOk (order : Nat) : Bool :=
  let l := (List.range 4).map (fun k => nfield order (2 * k + 1) (2 * k))
  (List.range 4).all (fun c => l.contains c) && l.idxOf 0 < l.idxOf 1 && l.idxOf 0 < l.idxOf 2

/-- Codes 5 to 10, 11 against a slot size, and for a bitstream 13; 0 where the header passes. -/
def State.headerCode (s : State) (h : List Byte) (device : Nat) (size : Option Nat) (boot : Bool) : Nat :=
  if leAt h 0 4 ≠ 0x5AA50F4D then 5
  else if leAt h 0x7C 4 ≠ crc32c (h.take 0x7C) then 6
  else if leAt h 4 2 ≠ 1 ∨ leAt h 6 2 ≠ 128 ∨ leAt h 0x0C 4 ≥ 4 ∨ leAt h 0x10 8 % 4 ≠ 0 ∨ leAt h 0x64 24 ≠ 0
      ∨ leAt h 0x25 1 ≠ 0 ∨ leAt h 0x27 1 ≠ 0 then 7
  else if leAt h 8 4 ≠ device then 8
  else if (s.fuses.keyHash ≠ [] ∧ (h.drop 0x28).take 48 ≠ s.fuses.keyHash)
      ∨ (nbit (leAt h 0x0C 4) 1 ∧ s.fuses.bitKey = []) then 9
  else if leAt h 0x20 4 < s.get MGT_ARB.COUNT then 10
  else if leAt h 0x10 8 > size.getD (leAt h 0x10 8) then 11
  else if boot ∧ !orderOk (leAt h 0x24 1) then 13
  else 0

/-! ### Compressed payloads (R334) -/

/-- `n` words copied from `d` words back in the output. -/
def copyBack (d : Nat) : Nat → List W32 → List W32
  | 0, out => out
  | n + 1, out => copyBack d n (out ++ [out.getD (out.length - d) 0])

/-- Expands tokens to `raw` words; `look` gives the output of an earlier ISLAND segment. None is error DECOMP. -/
def inflate (look : Nat → Option (List W32)) (raw : Nat) : Nat → List W32 → List W32 → Option (List W32)
  | _, [], out => if out.length = raw then some out else none
  | 0, _ :: _, _ => none
  | fuel + 1, t :: rest, out =>
    let n := fieldOf t 29 0
    if out.length + n > raw then none
    else match fieldOf t 31 30 with
      | 0 => if rest.length < n then none else inflate look raw fuel (rest.drop n) (out ++ rest.take n)
      | 1 => inflate look raw fuel rest (out ++ List.replicate n 0)
      | 2 => match rest with
        | d :: rest' =>
          if d.toNat = 0 ∨ d.toNat > out.length then none else inflate look raw fuel rest' (copyBack d.toNat n out)
        | [] => none
      | _ => match rest with
        | i :: rest' => match look i.toNat with
          | some l => if l.length ≠ n then none else inflate look raw fuel rest' (out ++ l)
          | none => none
        | [] => none

/-- Payload of a segment after decompression: header FLAGS[0] and the segment's RAW_LEN. -/
def unpack (look : Nat → Option (List W32)) (seg : List Byte) (payload : List W32) : Option (List W32) :=
  if nbit (leAt seg 3 1) 0 then inflate look (leAt seg 8 4 / 4) payload.length payload [] else some payload

/-- Whether reserved bytes of a segment header are zero and its lengths fit the payload. -/
def segOk (seg : List Byte) (payload : List W32) (compressed : Bool) : Bool :=
  let flags := leAt seg 3 1
  seg.length == 32 && leAt seg 4 4 == 4 * payload.length && leAt seg 8 4 % 4 == 0 && leAt seg 0x0E 2 == 0 && leAt seg 0x18 8 == 0
    && flags ≤ (if compressed then 1 else 0) && (flags == 1 || leAt seg 8 4 == leAt seg 4 4)

/-! ### Firmware images (R393) -/

/-- Bytes of words. -/
def bytesOf (l : List W32) : List Byte := l.flatMap (fun w => toBytes 4 w.toNat)

/-- Checks a firmware slot as read: code 0 with its words, or the code that it fails with. A segment that is no LKO
segment of at most 384 KiB followed by END is code 14. -/
def State.firmwareCode (s : State) (size : Nat) (v : FwView) : Nat × List W32 :=
  let c := s.headerCode v.header 0x41264A6F (some size) false
  let flags := leAt v.header 0x0C 4
  if c ≠ 0 then (c, [])
  else if leAt v.header 0x10 8 ≠ 128 + 32 + 4 * v.payload.length + 32 + 224 then (11, [])
  else if !segOk v.seg v.payload (nbit flags 0) ∨ leAt v.seg 0 1 ≠ 5 ∨ leAt v.seg 8 4 > 384 * 1024 ∨ v.last.length ≠ 32
      ∨ leAt v.last 0 1 ≠ 4 ∨ leAt v.last 4 8 ≠ 0 then (14, [])
  else match unpack (fun _ => none) v.seg v.payload with
    | none => (16, [])
    | some w =>
      if !v.trailer.crcOk then (17, []) else if !v.trailer.sigOk then (18, [])
      else if nbit flags 1 ∧ !v.trailer.gcmOk then (19, []) else (0, w)

end Sys2Proof.Machine
end

