-- ==== Sys2Proof/Machine/Lookout.lean ====
section
/-!
DEFINITION. Lookout: firmware load and restart, the log in flash, updates and fuses, the mailbox and its commands
(R391–R403).
-/

namespace Sys2Proof.Machine

/-! ### The log (R395, R396) -/

/-- An entry's 32 bytes. -/
def LogEntry.bytes (e : LogEntry) : List Byte :=
  let data := if e.typ = 1 then toBytes 14 e.info else toBytes 14 (Config.logData e.typ e.info).toNat
  let l := toBytes 8 e.time ++ toBytes 4 e.seq ++ toBytes 2 e.typ ++ data
  l ++ toBytes 4 (crc32c l)

/-- Log sectors that are not retired. -/
def State.usableSectors (s : State) : List Nat :=
  (List.range 8).filter (fun k => (s.lko.sectors.toList.getD k {}).state != 2)

/-- A vector with one element changed. -/
def vmod {α : Type} {n : Nat} (v : Vector α n) (k : Nat) (f : α → α) : Vector α n :=
  if h : k < n then v.set k (f v[k]) else v

def State.modSector (s : State) (k : Nat) (f : Sector → Sector) : State :=
  s.onLko (fun l => { l with sectors := vmod l.sectors k f })

def State.showSectors (s : State) : State := s.put MGT_STAT.SECTORS s.usableSectors.length

/-- The sector that the log continues in when the current one is full: an empty one, else the one with the oldest entries. -/
def State.nextSector (s : State) : Option Nat :=
  let l := s.usableSectors.filter (fun k => some k != s.lko.cur)
  let at_ (k : Nat) : Sector := s.lko.sectors.toList.getD k {}
  match l.find? (fun k => (at_ k).state == 0) with
  | some k => some k
  | none => l.foldl (fun (a : Option Nat) k => match a with
      | none => some k
      | some j => if (at_ k).first < (at_ j).first then some k else a) none

/-- The log turns to its next sector: erased, counted, its header written with the present retired sets; at 100,000
erasures the sector is retired, and with fewer than two usable ones the log stays in RAM. -/
def State.turnSector (s : State) (first : Nat) : State :=
  match s.nextSector with
  | none => s
  | some k =>
    let x : Sector := s.lko.sectors.toList.getD k {}
    let n := if x.state = 0 then x.erases else x.erases + 1
    let old := x.state ≠ 0 ∧ n ≥ 100000
    let s1 := ((s.modSector k (fun _ => { state := if old then 2 else 1, erases := n, first, sets := s.hbm.record })).onLko
      (fun l => { l with cur := some k })).showSectors
    let s2 := if old then s1.post 0x0A03 k n else s1
    if s2.usableSectors.length < 2 then
      let s3 := s2.putB MGT_STAT.RAM_ONLY true
      if s3.lko.toldRam then s3 else (s3.onLko (fun l => { l with toldRam := true })).post 0x0A04 s2.usableSectors.length
    else s2

/-- Copies the oldest entry that is not in flash. -/
def State.copyEntry (s : State) : State :=
  match s.lko.log.find? (fun e => e.seq ≥ s.lko.copied) with
  | none => s
  | some e =>
    let full : Bool := match s.lko.cur with
      | some k => (s.lko.sectors.toList.getD k {}).entries.length ≥ 2046
      | none => true
    let s1 := if full then s.turnSector e.seq else s
    match s1.lko.cur with
    | some k =>
      if s1.flag MGT_STAT.RAM_ONLY then s1
      else (s1.modSector k (fun x => { x with entries := x.entries ++ [e] })).onLko (fun l => { l with copied := e.seq + 1 })
    | none => s1

/-- Whether an entry waits for its copy. -/
def State.uncopied (s : State) : Bool := s.lko.log.any (fun e => e.seq ≥ s.lko.copied) && !s.flag MGT_STAT.RAM_ONLY

/-- The retired sets have changed: in RAM-only operation the remaining sector's header is written again (R396). -/
def State.setsChanged (s : State) : State :=
  if s.flag MGT_STAT.RAM_ONLY then
    s.forAll s.usableSectors (fun k s => s.modSector k (fun x => { x with sets := s.hbm.record }))
  else s

/-- Whether the configuration controller has the flash: before DONE or CFG_ERR, or while a boot context's contents are read
again (R342, R348). -/
def State.cfgHasFlash (s : State) : Bool :=
  s.cfg.phase < 4 || s.cfg.phase == 6 || s.swb.ctxs.any (fun p => p.2.reloading == 2 || p.2.reloading == 4)

/-- Lookout copies a log entry to flash. -/
def execLogFlashCopy (s : State) : Res := whenDue (s.lkoServes && s.uncopied && !s.cfgHasFlash) s s.copyEntry

/-- The power-fail sequence writes the tail of the RAM log (R381, R395). -/
def State.copyTail (s : State) : State := s.forN s.lko.log.length (fun _ s => if s.uncopied then s.copyEntry else s)

/-- Entries of the log, in flash or in RAM, by SEQ. -/
def State.logEntries (s : State) : List LogEntry :=
  let oldest := ((s.lko.log.map (fun e => e.seq)).head?).getD s.lko.seq
  let insert (l : List LogEntry) (e : LogEntry) : List LogEntry := l.takeWhile (fun x => x.seq < e.seq) ++ [e] ++ l.dropWhile (fun x => x.seq < e.seq)
  let flash := (s.lko.sectors.toList.flatMap (fun x => x.entries)).filter (fun e => e.seq < oldest)
  flash.foldl insert [] ++ s.lko.log

/-! ### The mailbox (R401–R403) -/

/-- Commands of R401. -/
def mgtCmds : List Nat := [1, 2, 3, 4, 5, 0x10, 0x11, 0x12, 0x13, 0x14, 0x15, 0x20, 0x30, 0x40, 0x50, 0x51, 0x52]

def MgtReq.cmd (r : MgtReq) : Nat := leAt r.body 0 2

/-- A response message. -/
def mgtMessage (cmd status seq : Nat) (payload : List Byte) : List Byte :=
  toBytes 2 cmd ++ toBytes 2 status ++ toBytes 4 seq ++ toBytes 4 payload.length ++ List.replicate 4 0 ++ payload

/-- A request's response; that of a session's request travels in the session, as the payload of an SPDM response. -/
def MgtReq.answer (r : MgtReq) (status : Nat) (payload : List Byte) : List Byte :=
  let m := mgtMessage r.cmd status (leAt r.body 4 4) payload
  if r.session then mgtMessage 0x30 0 (leAt r.body 4 4) m else m

/-- Words of bytes, the last filled with zeros. -/
def wordsOf : Nat → List Byte → List W32
  | 0, _ => []
  | n + 1, l => if l = [] then [] else BitVec.ofNat 32 (ofBytes (l.take 4)) :: wordsOf n (l.drop 4)

/-- The mailbox registers follow the FIFOs. -/
def State.showMbx (s : State) : State :=
  let s1 := (s.put MGT_MBX_STAT.TX_FREE (1024 - s.lko.tx.length)).put MGT_MBX_STAT.RX_WORDS s.lko.rx.length
  match s.lko.rx with
  | w :: _ => (s1.putB MGT_MBX_RX.VALID true).put MGT_MBX_RX.DATA w.toNat
  | [] => (s1.putB MGT_MBX_RX.VALID false).put MGT_MBX_RX.DATA 0

/-- Whether a register response of `n` bytes fits the RX FIFO. -/
def State.rxRoom (s : State) (n : Nat) : Bool := s.lko.rx.length + 1 + (n + 3) / 4 ≤ 1024

/-- Sends a response to where its request came from. To a descriptor at most RSP_MAX bytes, cut with STATUS BAD_LEN; a write of
the buffer that the host window refuses, or that fails there, ends the descriptor with the code. -/
def State.mgtSend (s : State) (src : MgtFrom) (m : List Byte) : State :=
  match src with
  | .regs => (s.onLko (fun l => { l with rx := l.rx ++ [BitVec.ofNat 32 m.length] ++ wordsOf m.length m })).showMbx
  | .mctp => s.onLko (fun l => { l with outbox := l.outbox ++ [m] })
  | .desc d =>
    let n := d.f 4 28 16
    let m' := if m.length > n then (m.take 2 ++ [2, 0] ++ m.drop 4).take n else m
    let a := d.f 3 47 0
    let code := s.hostCode a m'.length
    let sp := spansOf a m'.length
    let w := s.hostWrite 0 (s.heldFeed sp) m' sp
    if code ≠ 0 then s.endDesc d code 0 0 else if w.1 ≠ 0 then w.2.endDesc d w.1 0 0 else w.2.endDesc d 0 0 m'.length

/-- A request arrives: one that is too short, or whose CMD is not listed, is answered at once. -/
def State.mgtAccept (s : State) (r : MgtReq) : State :=
  if r.body.length < 16 then s.mgtSend r.src (r.answer 2 [])
  else if !mgtCmds.contains r.cmd then s.mgtSend r.src (r.answer 1 [])
  else s.onLko (fun l => { l with reqs := l.reqs ++ [r] })

/-- Whether Lookout's core runs slower than its bus, so that a pop of its receive register loses a word (R109). -/
def State.lkoSlow (s : State) : Bool := max 1 (s.get CLK_LKO.CORE_DIV) > max 1 (s.get CLK_LKO.BUS_DIV)

/-- Lookout takes words of the register mailbox while no register request waits; `n` bounds them. -/
def State.pump (s : State) : Nat → State
  | 0 => s
  | n + 1 =>
    match s.lko.tx with
    | [] => s
    | w :: rest =>
      if !s.lkoServes || s.lko.reqs.any (fun r => r.src == .regs) || !s.rxRoom 16 then s
      else
        let s1 := s.onLko (fun l => { l with tx := if s.lkoSlow then rest.drop 1 else rest })
        let a := match s.lko.asm with
          | none => (fieldOf w 12 0, [])
          | some a => (a.1, a.2 ++ [w])
        let s2 := if 4 * a.2.length ≥ a.1 then
            (s1.onLko (fun l => { l with asm := none })).mgtAccept { body := (bytesOf a.2).take a.1, src := .regs }
          else s1.onLko (fun l => { l with asm := some a })
        s2.showMbx.pump n

/-- MGT_MBX_TX: a push, dropped when the FIFO is full. -/
def execMgtMbxTxPush (w : W32) (s : State) : Res :=
  .next (if s.lko.tx.length ≥ 1024 then s.putB MGT_MBX_STAT.TX_DROP true
    else ((s.onLko (fun l => { l with tx := l.tx ++ [w] })).showMbx).pump 1025)

/-- MGT_MBX_RX: a read returns the head word and pops it, unless OBS = 1. -/
def execMgtMbxRxPop (obs : Bool) (s : State) : Res :=
  let s1 := s.onMem (fun m => { m with lastRead := toBytes 8 (s.reg 0x90018).toNat, lastStatus := 0 })
  .next (if obs || s.lko.rx == [] then s1 else ((s1.onLko (fun l => { l with rx := l.rx.drop 1 })).showMbx).pump 1025)

/-- Commands served in RECOVERY (R393). -/
def mgtRecovery (cmd : Nat) : Bool := cmd == 1 || (0x10 ≤ cmd && cmd ≤ 0x13) || cmd == 0x15

/-- Performs the command at the front of Lookout's requests when it is `cmd`: what every command has in common (R401,
R402). Commands 0x50–0x52 are accepted only in a session; a payload shorter than the layout's `n` bytes is BAD_LEN. `f`
answers STATUS, payload and the state after; `post` acts once the response is sent. -/
def State.mgt (s : State) (cmd n : Nat) (f : MgtReq → List Byte → State → Nat × List Byte × State)
    (post : State → State := id) : Res :=
  match s.lko.reqs with
  | [] => notDue s
  | r :: rest =>
    if !s.lkoServes || r.cmd != cmd then notDue s
    else
      let s0 := s.onLko (fun l => { l with reqs := rest })
      let p := r.body.drop 16
      let t := if cmd ≥ 0x50 && !r.session then (6, [], s0)
        else if s.get MGT_STAT.STATE = 4 && !mgtRecovery cmd then (3, [], s0)
        else if p.length < n then (2, [], s0)
        else f r p s0
      let m := r.answer t.1 t.2.1
      if r.src == .regs && !s.rxRoom m.length then notDue s
      else .next (post ((t.2.2.mgtSend r.src m).pump 1025))

/-! ### Firmware load and restart (R393, R394) -/

/-- An update is abandoned: its slot is invalid (R397). -/
def State.dropUpdate (s : State) : State :=
  match s.lko.update, pickTable s.lko.tableA s.lko.tableB with
  | some u, some t =>
    s.onLko (fun l => { l with
      update := none, slots := vmod l.slots (2 * u.target + (1 - activeSlot t u.target)) (fun x => { x with state := 2 }) })
  | _, _ => s.onLko (fun l => { l with update := none })

/-- Lookout restarts from the boot ROM: 0 command, 1 watchdog, 2 trap. Requests of descriptors wait, the register mailbox
is emptied, a debugger's halt ends (R469). -/
def State.restartLookout (s : State) (cause : Nat) : State :=
  let s1 := (s.dropUpdate.put MGT_STAT.STATE 3).putB MGT_STAT.SPDM false
  let isDesc (r : MgtReq) : Bool := match r.src with
    | .desc _ => !r.session
    | _ => false
  (s1.onLko (fun l => { l with
    loaded := false, cause := cause, tx := [], rx := [], asm := none, reqs := l.reqs.filter isDesc })).lkoFree.showMbx

def State.lkoRuns (s : State) : Bool := s.get MGT_STAT.STATE == 1 || s.get MGT_STAT.STATE == 4

/-- Loads the firmware: the FW_ACTIVE slot, else the other one, else RECOVERY. `a`, `b` are the slots as read. -/
def State.loadFirmware (s : State) (ta tb : List Byte) (a b : FwView) : State :=
  let s0 := s.onLko (fun l => { l with tableA := ta, tableB := tb })
  let seen (s : State) (k code sec : Nat) : State :=
    s.onLko (fun l => { l with slots := vmod l.slots (2 + k) (fun _ => { state := if code = 0 then 1 else 2, secVer := sec }) })
  let run (s : State) (k : Nat) (v : FwView) (w : List W32) : State :=
    ((((s.store lkoBase (bytesOf w)).onLko (fun l => { l with recover := false, secVer := leAt v.header 0x20 4 })).put
      MGT_STAT.FW_SLOT k).put MGT_FW_VER.VERSION v.version.toNat)
  match pickTable ta tb with
  | none => s0.onLko (fun l => { l with recover := true })
  | some t =>
    let k := activeSlot t 1
    let view (k : Nat) : FwView := if k = 0 then a else b
    let x := s0.firmwareCode (slotSize t 1 k) (view k)
    let s1 := seen s0 k x.1 (leAt (view k).header 0x20 4)
    if x.1 = 0 then run s1 k (view k) x.2
    else
      let y := s1.firmwareCode (slotSize t 1 (1 - k)) (view (1 - k))
      let s2 := seen s1 (1 - k) y.1 (leAt (view (1 - k)).header 0x20 4)
      if y.1 = 0 then run s2 (1 - k) (view (1 - k)) y.2 else s2.onLko (fun l => { l with recover := true })

/-- Lookout begins to serve after its boot ROM. LKO_RECOVERY is posted once the link is up. -/
def State.lkoBegins (s : State) : State :=
  let s1 := (s.put MGT_STAT.STATE (if s.lko.recover then 4 else 1)).showSectors
  let s2 := if s.lko.recover then
      (if s.host.linkUp then s1.post 0x0A08 else s1.onLko (fun l => { l with owes := true })) else s1
  s2.drainFifo.pump 1025

/-- The boot ROM loads and checks the firmware, at power-up or within a restart. -/
def execLookoutFirmwareLoad (ta tb : List Byte) (a b : FwView) (s : State) : Res :=
  let st := s.get MGT_STAT.STATE
  if st = 0 then .next (s.loadFirmware ta tb a b).lkoBegins
  else if st = 3 ∧ !s.lko.loaded then .next ((s.loadFirmware ta tb a b).onLko (fun l => { l with loaded := true }))
  else notDue s

/-- The restart ends: the event, and work resumes. -/
def execLookoutRestartComplete (s : State) : Res :=
  whenDue (s.get MGT_STAT.STATE == 3 && s.lko.loaded) s
    ((((s.onLko (fun l => { l with loaded := false })).lkoBegins).logAdd 5 s.lko.cause).post 0x0A07 s.lko.cause
      (s.get MGT_FW_VER.VERSION))

/-- The watchdog expires; a halted Lookout's is frozen. -/
def execLkoWatchdogExpiry (pc : W32) (s : State) : Res :=
  whenDue (s.lkoRuns && !s.flag DBG_LKO_CTL.HALTED) s ((s.restartLookout 1).toCairn 0x1B (srcSaddle 9) sevMajor pc.toNat)

/-- A trap of the core. -/
def execLookoutTrap (pc : W32) (s : State) : Res :=
  whenDue (s.lkoRuns && !s.flag DBG_LKO_CTL.HALTED) s ((s.restartLookout 2).toCairn 0x1C (srcSaddle 9) sevMajor pc.toNat)

/-- MGT_CTL.RESTART; without effect while Lookout boots or restarts. -/
def execMgtCtlRestart (s : State) : Res :=
  .next (if s.lkoRuns || s.get MGT_STAT.STATE == 2 then s.restartLookout 0 else s)

/-! ### Commands (R401, R402) -/

/-- GET_INFO. -/
def execGetInfo (s : State) : Res :=
  s.mgt 0x01 0 (fun _ _ s =>
    let t := (pickTable s.lko.tableA s.lko.tableB).getD (List.replicate 64 0)
    let f := s.fuses
    let has (l : List Byte) : Nat := if l = [] then 0 else 1
    (0, toBytes 4 (s.get MGT_FW_VER.VERSION) ++ toBytes 1 (s.get MGT_STAT.FW_SLOT) ++ [t.getD 6 0, t.getD 0x1C 0]
      ++ toBytes 1 (s.get MGT_ARB.COUNT) ++ toBytes 1 s.usableSectors.length ++ List.replicate 7 0
      ++ s.lko.slots.toList.flatMap (fun x => toBytes 4 x.state ++ toBytes 4 x.secVer)
      ++ toBytes 1 (has f.keyHash + 2 * has f.bitKey + 4 * has f.debugHash + 8 * has f.pwHash), s))

/-- Numbers of the sensors other than FLT_STAT and the rung, in order. -/
def sensorNumbers : List Nat :=
  List.range 36 ++ [0x30, 0x31] ++ (List.range 11).map (fun k => 0x40 + k) ++ (List.range 32).map (fun k => 0x50 + k) ++ [0x70]
    ++ [0x80, 0x81, 0x82]

/-- The 87 sensor records. -/
def State.sensorBytes (s : State) (vals : Vector W32 85) : List Byte :=
  let one (n v : Nat) : List Byte := toBytes 4 n ++ toBytes 4 v
  ((sensorNumbers.zip vals.toList).flatMap (fun p => one p.1 p.2.toNat)) ++ one 0x90 (s.reg 0xA0000).toNat
    ++ one 0x91 (s.get PWR_RUNG.CUR)

/-- GET_SENSORS: `vals` are the measurements. -/
def execGetSensors (vals : Vector W32 85) (s : State) : Res := s.mgt 0x02 0 (fun _ _ s => (0, s.sensorBytes vals, s))

/-- Up to 127 entries from a SEQ on. -/
def State.logFrom (s : State) (first : Nat) : List Byte :=
  ((s.logEntries.filter (fun e => e.seq ≥ first)).take 127).flatMap LogEntry.bytes

/-- READ_LOG. -/
def execReadLog (s : State) : Res := s.mgt 0x03 4 (fun _ p s => (0, s.logFrom (leAt p 0 4), s))

/-- LANE_HEALTH: the counters of a group's lanes in one direction. R402 does not say in which; `q.dir` does (assumption log 75).
`q.eyes` are the margins measured, horizontal in [15:0], vertical in [31:16]. -/
def execLaneHealth (q : LaneEyes) (s : State) : Res :=
  s.mgt 0x04 3 (fun _ p s =>
    let d := leAt p 0 1
    let b := leAt p 1 1
    let g := leAt p 2 1
    if d ≥ 4 ∨ b ≥ 2 ∨ g ≥ 16 then (1, [], s)
    else
      let lg := 2 * (16 * (2 * d + b) + g) + q.dir.val
      let seen := (List.range 34).zip q.eyes.toList
      (0, seen.flatMap (fun x => toBytes 4 (s.pkg.laneErr.peek (fun _ => 0) (34 * lg + x.1)) ++ toBytes 4 x.2.toNat),
        s.onPkg (fun p => { p with eyes := Table.pokes (fun _ => 0) p.eyes (seen.map (fun (x : Nat × W32) => (34 * lg + x.1, x.2))) })))

/-- GET_CFG_ATTEMPTS. A failed identity check has no slot: byte 1 then gives the die position and byte 4 the check, 1 ID_CRC,
2 DIE_POS, 3 the stepping combination (R22; assumption log 74). -/
def execGetCfgAttempts (s : State) : Res :=
  s.mgt 0x05 0 (fun _ _ s =>
    let a := s.cfg.attempts
    let one (k : Nat) : List Byte := let x := a.getD k (0, 0); toBytes 1 x.1 ++ toBytes 1 x.2
    let l := match s.pkg.idBad with
      | some (chk, pos) => toBytes 1 a.length ++ toBytes 1 pos ++ toBytes 1 1 ++ toBytes 1 0 ++ toBytes 1 chk
      | none => toBytes 1 a.length ++ one 0 ++ one 1
    (0, l, s))

/-- UPDATE_BEGIN: erases the inactive slot. -/
def State.updateBegin (s : State) (p : List Byte) : Nat × List Byte × State :=
  let g := leAt p 0 1
  let n := leAt p 4 4
  if g ≥ 2 then (1, [], s)
  else if s.lko.update.isSome ∨ s.cfgHasFlash then (9, [], s)
  else match pickTable s.lko.tableA s.lko.tableB with
    | none => (7, [], s)
    | some t =>
      let k := 1 - activeSlot t g
      let lo := slotBase t g k
      let size := slotSize t g k
      if n = 0 ∨ n > size then (2, [], s)
      else (0, [], (s.onLko (fun l => { l with
        update := some { target := g, len := n }, flash := l.flash.filter (fun c => c.1 < lo || c.1 ≥ lo + size)
        slots := vmod l.slots (2 * g + k) (fun _ => { state := 0 }) })).logAdd 3 (g + 2 * k))

def execUpdateBegin (s : State) : Res := s.mgt 0x10 8 (fun _ p s => s.updateBegin p)

/-- UPDATE_DATA: the next part of the image, in order. -/
def State.updateData (s : State) (p : List Byte) : Nat × List Byte × State :=
  let off := leAt p 0 4
  let data := p.drop 8
  match s.lko.update, pickTable s.lko.tableA s.lko.tableB with
  | some u, some t =>
    if data.length > 4064 ∨ off % 4 ≠ 0 ∨ off + data.length > u.len then (2, [], s)
    else if off ≠ u.got then (3, [], s)
    else
      let k := 1 - activeSlot t u.target
      let base := slotBase t u.target k + off
      (0, [], s.onLko (fun l => { l with
        update := some { u with got := off + data.length }
        flash := Table.pokes (fun _ => 0xFF) l.flash (((List.range data.length).zip data).map (fun (q : Nat × Byte) => (base + q.1, q.2)))
        slots := vmod l.slots (2 * u.target + k) (fun _ => { state := 3 }) }))
  | _, _ => (3, [], s)

def execUpdateData (s : State) : Res := s.mgt 0x11 8 (fun _ p s => s.updateData p)

/-- Bytes of the flash as Lookout has written them. -/
def State.flashBytes (s : State) (a n : Nat) : List Byte := (List.range n).map (fun k => Table.peek (fun _ => 0xFF) s.lko.flash (a + k))

/-- Checks the slot that was written: header codes and the CRC are computed from what stands in flash; the walk over the
segments (`segCode`, 0 where it passes) and the signature are verdicts. -/
def State.slotCode (s : State) (u : Update) (base size segCode : Nat) (sigOk : Bool) : Nat × Nat :=
  let h := s.flashBytes base 128
  let c := s.headerCode h (if u.target = 0 then 0x41264A60 else 0x41264A6F) (some size) false
  let total := leAt h 0x10 8
  let img := s.flashBytes base (min total size)
  let walk := if segCode = 11 ∨ (u.target = 1 ∧ (segCode = 14 ∨ segCode = 16)) then segCode else 0
  let code := if c ≠ 0 then c else if total < 352 then 11 else if walk ≠ 0 then walk
    else if leAt img (total - 224) 4 ≠ 0xE11D0A7C ∨ leAt img (total - 8) 4 ≠ crc32c (img.take (total - 8)) then 17
    else if !sigOk then 18 else 0
  (code, leAt h 0x20 4)

/-- UPDATE_END: reads the slot back and checks it. -/
def State.updateEnd (s : State) (segCode : Nat) (sigOk : Bool) : Nat × List Byte × State :=
  match s.lko.update, pickTable s.lko.tableA s.lko.tableB with
  | some u, some t =>
    let k := 1 - activeSlot t u.target
    let x := s.slotCode u (slotBase t u.target k) (slotSize t u.target k) segCode sigOk
    let st := if x.1 = 0 then 0 else if x.1 = 10 then 5 else 4
    let s1 := s.onLko (fun l => { l with
      update := none
      slots := vmod l.slots (2 * u.target + k) (fun _ => { state := if x.1 = 0 then 1 else 2, secVer := x.2 }) })
    (st, toBytes 1 x.1, (s1.logAdd 3 (u.target + 2 * k + 4 * st)).post 0x0A06 (u.target + 2 * k + 256 * st) x.2)
  | _, _ => (3, [], s)

def execUpdateEnd (segCode : Fin 32) (sigOk : Bool) (s : State) : Res :=
  s.mgt 0x12 0 (fun _ _ s => s.updateEnd segCode.val sigOk)

/-- SLOT_ACTIVATE: the older table copy is written first, then the other with the same contents. -/
def State.slotActivate (s : State) (p : List Byte) : Nat × List Byte × State :=
  let g := leAt p 0 1
  let k := leAt p 1 1
  if g ≥ 2 ∨ k ≥ 2 then (1, [], s)
  else if s.lko.update.isSome ∨ s.cfgHasFlash then (9, [], s)
  else match pickTable s.lko.tableA s.lko.tableB with
    | none => (7, [], s)
    | some t =>
      if (s.lko.slots.toList.getD (2 * g + k) {}).state ≠ 1 then (3, [], s)
      else
        let n := retable t g k ((leAt t 8 4 + 1) % 2 ^ 32)
        let cells (a : Nat) : List (Nat × Byte) := ((List.range 64).zip n).map (fun (q : Nat × Byte) => (a + q.1, q.2))
        (0, [], (s.onLko (fun l => { l with
          tableA := n, tableB := n, flash := Table.pokes (fun _ => 0xFF) l.flash (cells 0 ++ cells 0x10000) })).logAdd 3
            (g + 2 * k + 256))

def execSlotActivate (s : State) : Res := s.mgt 0x13 2 (fun _ p s => s.slotActivate p)

/-- Whether VAUX is in range, which fuse writes need (R399). -/
def State.vauxOk (s : State) : Bool := s.pwr.railBad.peek (fun _ => 0) 9 != 3

/-- ARB_ADVANCE (R398). Without a running bitstream the SEC_VER that runs counts as 0 (assumption log 86). -/
def State.arbAdvance (s : State) (v : Nat) : Nat × List Byte × State :=
  let c := s.get MGT_ARB.COUNT
  let run := min (if s.cfg.phase = 4 then s.get CFG_IMG_ID.SEC_VER else 0) s.lko.secVer
  let n := max c (min v 64)
  if c = 64 then (8, [], s.post 0x0A05 64)
  else if v > run ∨ !s.vauxOk then (3, [], s)
  else (0, toBytes 1 n, ((s.put MGT_ARB.COUNT n).putB MGT_ARB.SPENT (n == 64)).logAdd 6 n)

def execArbAdvance (s : State) : Res := s.mgt 0x14 1 (fun _ p s => s.arbAdvance (leAt p 0 1))

/-- LKO_RESTART: the response is sent before the restart. -/
def execLkoRestart (s : State) : Res := s.mgt 0x15 0 (fun _ _ s => (0, [], s)) (fun s => s.restartLookout 0)

/-- FLT_CLEAR (R414). -/
def execFltClear (s : State) : Res :=
  s.mgt 0x20 4 (fun _ p s => let t := s.fltClear (leAt p 0 4); (0, toBytes 4 (t.reg 0xA0000).toNat, t))

/-- SPDM: one message to the responder. `reply` is its answer; `opens` says whether a secured session is open afterwards;
`app` is the management request that the message carries as application data of an open session: it is served next, and
its answer travels back in the session. -/
def execSpdm (reply : List Byte) (opens : Option Bool) (app : Option (List Byte)) (s : State) : Res :=
  let sess (s : State) : State := match opens with
    | some b => s.putB MGT_STAT.SPDM b
    | none => s
  match s.lko.reqs, app with
  | r :: rest, some body =>
    if s.lkoServes && r.cmd == 0x30 && !r.session && s.get MGT_STAT.STATE == 1 && s.flag MGT_STAT.SPDM
        && (r.src != .regs || s.rxRoom 32) then
      let q : MgtReq := { body, src := r.src, session := true }
      let s0 := s.onLko (fun l => { l with reqs := rest })
      .next (sess (if body.length < 16 ∨ !mgtCmds.contains q.cmd ∨ q.cmd = 0x30 then
          s0.mgtSend q.src (q.answer (if body.length < 16 then 2 else 1) [])
        else s0.onLko (fun l => { l with reqs := q :: rest })))
    else s.mgt 0x30 0 (fun _ _ s => (3, [], s))
  | _, _ => s.mgt 0x30 0 (fun _ _ s => (0, reply, sess s))

/-- PTP_CFG. -/
def execPtpCfg (s : State) : Res :=
  s.mgt 0x40 2 (fun _ p s => (0, [], s.onLko (fun l => { l with ptpOn := leAt p 0 1 != 0, ptpDomain := leAt p 1 1 })))

/-- HBM_PC_CLEAR: empties the recorded set for the next initialisation (R273). -/
def execHbmPcClear (s : State) : Res :=
  s.mgt 0x50 8 (fun _ p s =>
    let k := leAt p 0 1
    if k ≥ 2 then (1, [], s)
    else
      let m := leAt p 4 4
      (0, [], ((s.onHbm (fun h => { h with
        record := h.record.filter (fun x => !(x / 32 == k && nbit m (x % 32))) })).setsChanged).logAdd 7 (k + 2 * m)))

/-- FUSE_PROGRAM (R399): each fuse once, with VAUX in range. -/
def State.fuseProgram (s : State) (p : List Byte) : Nat × List Byte × State :=
  let k := leAt p 0 1
  let c := p.drop 4
  let f := s.fuses
  let need := if k = 2 then 32 else if k = 4 then 49 else 48
  let old := if k = 1 then f.keyHash else if k = 2 then f.bitKey else if k = 3 then f.debugHash else f.pwHash
  if k = 0 ∨ k > 4 then (1, [], s)
  else if c.length < need then (2, [], s)
  else if k = 4 ∧ (leAt c 48 1 = 0 ∨ leAt c 48 1 > 3) then (1, [], s)
  else if old ≠ [] then (8, [], s)
  else if !s.vauxOk then (3, [], s)
  else
    let g : Fuses := if k = 1 then { f with keyHash := c.take 48 } else if k = 2 then { f with bitKey := c.take 32 }
      else if k = 3 then { f with debugHash := c.take 48 } else { f with pwHash := c.take 48, pwLevel := leAt c 48 1 }
    let s1 : State := { s with fuses := g }
    let s2 := if k = 1 then s1.forN 6 (fun n s => s.put (CFG_KEY_HASH.HASH n) (leAt c (8 * n) 8)) else s1
    (0, [], (s2.putB DBG_STAT.OPEN (g.debugHash = [] ∧ g.pwHash = [])).logAdd 6 (256 * k))

def execFuseProgram (s : State) : Res := s.mgt 0x51 4 (fun _ p s => s.fuseProgram p)

/-- SET_KWK: the key-wrapping key (R275). -/
def execSetKwk (s : State) : Res :=
  s.mgt 0x52 32 (fun _ p s => (0, [], (s.onCry (fun c => { c with kwk := p.take 32 })).putB CRY_CTL.KWK true))

/-! ### Descriptors and MCTP -/

/-- MBX (R314): Lookout takes the request of one mailbox descriptor of a ring at a time; `body` is what the read of host
memory returns and `rd` its status. -/
def execMbx (d : Desc) (rd : Byte) (body : List Byte) (s : State) : Res :=
  let inHost (a : Nat) : Bool := a ≥ hostBase
  let n := d.f 4 12 0
  let max := d.f 4 28 16
  let ok := d.only 2 (bitsHL 47 0) && d.only 3 (bitsHL 47 0) && d.only 4 (bitsHL 12 0 + bitsHL 28 16) && d.zeroFrom 5
    && inHost (d.f 2 47 0) && inHost (d.f 3 47 0) && 1 ≤ n && n ≤ 4096 && max ≤ 4096
  if !s.lkoServes then notDue s
  else s.runRead d 0x60 ok (d.f 2 47 0) n rd.toNat (fun s => s.mgtAccept { body := body.take n, src := .desc d })

/-- An MCTP message reaches Lookout (R400). -/
def execMctpMessage (m : Mctp) (s : State) : Res :=
  let reply (l : List Byte) : Res := .next (s.onLko (fun x => { x with outbox := x.outbox ++ [l] }))
  let take (body : List Byte) (ok : Bool) : Res :=
    if body.length < 16 || !ok then notDue s else .next (s.mgtAccept { body, src := .mctp })
  match m with
  | .wake => .next s.wake
  | .setEid e => whenDue s.lkoServes s (s.onLko (fun x => { x with eid := e.toNat }))
  | .discover => if s.lkoServes then reply [0, 2, 5] else notDue s
  | .sensors v => if s.get MGT_STAT.STATE = 1 ∧ s.lkoServes then reply (s.sensorBytes v) else notDue s
  | .log n => if s.get MGT_STAT.STATE = 1 ∧ s.lkoServes then reply (s.logFrom n.toNat) else notDue s
  | .update b => let c := leAt b 0 2; take b (s.lkoServes && (0x10 ≤ c && c ≤ 0x13))
  | .spdm b => take b (s.lkoServes && leAt b 0 2 == 0x30)

end Sys2Proof.Machine
end

