-- ==== Sys2Proof/Machine/RegWrite.lean ====
section
/-!
DEFINITION. Writes of set-up registers: what a write of RW fields does, and the records of a SADDLE segment (R14, R331,
R408).
-/

namespace Sys2Proof.Machine

/-- The state a command leaves, or the one before where it stops. -/
def landed (s : State) : Res → State
  | .next t => t
  | _ => s

/-- Bits of a register's fields of an access type. -/
def RegRow.bitsOf (r : RegRow) (p : Acc → Bool) : Nat :=
  (r.fields.filter (fun (f : Nat × Nat × Acc) => p f.2.2)).foldl
    (fun n (f : Nat × Nat × Acc) => n + (2 ^ (f.1 + 1) - 2 ^ f.2.1)) 0

/-- Bits of a register that plain writes set. -/
def rwBits (off : Nat) : Nat :=
  match regRow? off with
  | some r => r.bitsOf (· == .rw)
  | none => 0

/-- A register with the bits of `m` taken from `v`. -/
def State.setBits (s : State) (off m v : Nat) : State :=
  s.setReg off (BitVec.ofNat 64 ((s.reg off).toNat - ((s.reg off).toNat &&& m) + (v &&& m)))

/-- The reactions and masks that R408 keeps: kinds 1 and 0x1D keep reaction S and, like kind 2, are never masked. -/
def State.keepKinds (s : State) : State :=
  let s1 := ([1, 0x1D].foldl (fun (s : State) k =>
    (s.put (FLT_KIND_CFG.REACT k) (setBit (s.get (FLT_KIND_CFG.REACT k)) 3 true)).put (FLT_KIND_CFG.MASK k) 0) s)
  s1.put (FLT_KIND_CFG.MASK 2) 0

/-- What follows a write of RW fields: the kinds' fixed bits, and the owners of transceiver lanes. -/
def State.afterWrite (s : State) (off : Nat) : State :=
  if 0xA0100 ≤ off ∧ off < 0xA0200 then s.keepKinds
  else if off / 0x10000 = 13 then s.showConflicts
  else s

/-- A write of the RW fields of a register under a mask. -/
def State.writeRw (s : State) (off v mask : Nat) : State := (s.setBits off (rwBits off &&& mask) v).afterWrite off

/-- The timebase loses its lock on a source: TB_UNLOCKED with the last offset. -/
def State.tbUnlock (s : State) (src : Nat) : State :=
  (s.putB HIF_TB_STAT.LOCKED false).post 0x0105 src ((BitVec.ofNat 31 (s.get HIF_TB_STAT.OFFSET)).signExtend 64).toNat

/-- IOB_PTP_CTL names the port of the PTP clock: another port while it is the source clears LOCKED (R367). -/
def State.ptpPort (s : State) (v : Nat) : State :=
  let same := nfield v 3 2 == s.get IOB_PTP_CTL.ENGINE && nfield v 1 0 == s.get IOB_PTP_CTL.PORT
  let s1 := (s.put IOB_PTP_CTL.ENGINE (nfield v 3 2)).put IOB_PTP_CTL.PORT (nfield v 1 0)
  if !same ∧ s.get HIF_TB_CTL.SRC = 2 ∧ s.flag HIF_TB_STAT.LOCKED then
    s1.tbUnlock 2
  else s1

/-- Whether an offset is a record target: an RW field of the CLK_, TRL_, MEM_, HBM_, PWR_, FLT_ or IOB_ block, SWB_POL, or
FLT_INJ.ALLOW (R331). Fields whose writes are rows of their own count. -/
def recordTarget (off : Nat) : Bool :=
  ([1, 3, 4, 7, 8, 0xA, 0xD].contains (off / 0x10000) && rwBits off != 0) || off == SWB_POL.PREEMPT.addr
    || [(CLK_BASE.FMUL 0).addr, (CLK_BASE.FMUL 1).addr, (CLK_BASE.FMUL 2).addr, PWR_RUNG.REQ.addr, PWR_DIE_RUNG.REQ.addr,
        IOB_PTP_CTL.PORT.addr, TRL_TQ_SEL.TRAIL_ID.addr, TRL_LQ_SEL.DIE.addr, TRL_PMAP_Q.VPID.addr, FLT_INJ.ALLOW.addr].contains off
    || ((IOB_QPLL.FB 0).addr ≤ off && off ≤ (IOB_QPLL.FB 15).addr && off % 4 == 0)
    || ((IOB_LANE_CFG.D 0).addr ≤ off && off ≤ (IOB_LANE_CFG.D 63).addr && off % 4 == 0)

/-- One record of a SADDLE segment; none: error SEGMENT. -/
def State.saddleRecord (s : State) (off v : Nat) : Option State :=
  if !recordTarget off then none
  else
    let w := BitVec.ofNat 32 v
    some (
      if off = FLT_INJ.ALLOW.addr then (s.put FLT_INJ.ALLOW (v / 2 ^ 62)).writeRw off v (2 ^ 64 - 1)
      else if (CLK_BASE.FMUL 0).addr ≤ off ∧ off ≤ (CLK_BASE.FMUL 2).addr then
        landed s (execClkBaseWrite (Fin.ofNat 4 ((off - (CLK_BASE.FMUL 0).addr) / 4)) (BitVec.ofNat 9 v) s)
      else if off = PWR_RUNG.REQ.addr then landed s (execPwrRungRequest (BitVec.ofNat 3 v) s)
      else if off = PWR_DIE_RUNG.REQ.addr then landed s (execPwrDieRungRequest (BitVec.ofNat 8 v) s)
      else if off = IOB_PTP_CTL.PORT.addr then s.ptpPort v
      else if off = TRL_TQ_SEL.TRAIL_ID.addr then landed s (execTrlTqSelWrite w s)
      else if off = TRL_LQ_SEL.DIE.addr then landed s (execTrlLqSelWrite w s)
      else if off = TRL_PMAP_Q.VPID.addr then landed s (execTrlPmapQWrite w s)
      else if (IOB_QPLL.FB 0).addr ≤ off ∧ off ≤ (IOB_QPLL.FB 15).addr then s.qpllWrite ((off - (IOB_QPLL.FB 0).addr) / 4) (v % 4096)
      else if (IOB_LANE_CFG.D 0).addr ≤ off ∧ off ≤ (IOB_LANE_CFG.D 63).addr then
        s.laneWrite ((off - (IOB_LANE_CFG.D 0).addr) / 4) w
      else s.writeRw off v (2 ^ 64 - 1))

/-- The records of a SADDLE segment, in order: 16 bytes each. -/
def State.saddleRecords (s : State) : List W32 → Option State
  | [] => some s
  | a :: _ :: lo :: hi :: rest =>
    match s.saddleRecord a.toNat (lo.toNat + hi.toNat * 2 ^ 32) with
    | none => none
    | some t => t.saddleRecords rest
  | _ => none

end Sys2Proof.Machine
end

