-- ==== Sys2Proof/Machine/Boot.lean ====
section
/-!
DEFINITION. The identity check, full reset, configuration and start-up, the reload of boot contexts and the frame sweep
(R20–R25, R35, R325–R350).
-/

namespace Sys2Proof.Machine

/-! ### Identity (R20, R22, R23) -/

/-- One bit of the CRC of an identity record, most significant bit first. -/
def idCrcGo (x : Nat) (c : Nat) : Nat → Nat
  | 0 => c
  | n + 1 =>
    let fb := nbit c 15 != nbit x n
    let c' := c * 2 % 0x10000
    idCrcGo x (if fb then c' ^^^ 0x1021 else c') n

/-- ID_CRC of a record: polynomial 0x1021, initial value 0xFFFF, over bits [63:16]. -/
def idCrc (r : W64) : Nat := idCrcGo (r.toNat / 2 ^ 16) 0xFFFF 48

def idPos (r : W64) : Nat := fieldOf r 63 61
def idStep (r : W64) : Nat := fieldOf r 60 56

/-- Whether R23 marks a Saddle stepping and a Ridge stepping supported together. -/
def steppingOk (saddle ridge : Nat) : Bool := (saddle == 1 && ridge == 0x12) || (saddle == 2 && (ridge == 0x12 || ridge == 0x13))

/-- The first failing identity check of the records of Saddle, F0, F1, F2, F3, and the die position: 1 ID_CRC, 2 DIE_POS, 3
the stepping combination. -/
def idFault (l : List W64) : Option (Nat × Nat) :=
  let at_ (k : Nat) : Nat := if k = 0 then 7 else k - 1
  let saddle := idStep (l.getD 0 0)
  match (List.range 5).find? (fun k => fieldOf (l.getD k 0) 15 0 != idCrc (l.getD k 0)) with
  | some k => some (1, at_ k)
  | none => match [7, 0, 1, 2, 3].find? (fun p => (l.filter (fun r => idPos r == p)).length != 1) with
    | some p => some (2, p)
    | none => (l.find? (fun r => idPos r != 7 && !steppingOk saddle (idStep r))).map (fun r => (3, idPos r))

/-- Configuration starts: an attempt is due, and HBM training begins (R268, R343). -/
def State.beginConfig (s : State) : State :=
  (s.onCfg (fun c => { c with phase := 1 })).forN 2 (fun k s => s.put (HBM_STAT.STATE k) 1)

/-- Samples the straps (R326). -/
def State.strap (s : State) (mode : Nat) (pullN : Bool) : State :=
  s.onCfg (fun c => { c with mode := mode, pullDown := pullN })

/-- The identity check at power-up, when what is fused is read (R21): the `grades` have the speed in [1:0] and the temperature in
[3:2]. A speed of 0 is grade 1 (R25). -/
def execIdentityCheck (fused : Fused) (grades : BitVec 4) (mode : BitVec 3) (pullN : Bool) (s : State) : Res :=
  let l := fused.records.toList
  let pos (d : Nat) : W64 := (l.find? (fun r => idPos r == d)).getD (l.getD (d + 1) 0)
  let bad := idFault l
  let s1 := (s.onPkg (fun p => { p with records := l, idBad := bad })).setReg HIF_SADDLE_ID.RECORD.addr (l.getD 0 0)
  let s2 := s1.forN 4 (fun d s => (s.setReg (HIF_DIE_ID.RECORD d).addr (pos d)).setReg (HIF_DIE_CAP.SPARE_MON d).addr
    (if idStep (l.getD 0 0) = 2 ∧ idStep (pos d) = 0x13 then 3 else 0))
  let s3 := (((s2.onBst (fun b => { b with
    gold := Table.pokes (fun _ => 0) b.gold (fused.gold.map (fun (p : BitVec 16 × W32) => (p.1.toNat, p.2.toNat)))
    part := fused.part })).put HIF_GRADE.SPEED (max 1 (fieldOf grades 1 0))).put HIF_GRADE.TEMP (fieldOf grades 3 2)).strap mode.toNat pullN
  whenDue (s.cfg.phase == 0) s
    (match bad with
      | some _ => s3.onCfg (fun c => { c with phase := 7, attempts := [(0, 1)] })
      | none => if s.cfg.progLow ∨ s.host.perst then s3.onCfg (fun c => { c with phase := 6 }) else s3.beginConfig)

/-! ### Full reset (R35, R348) -/

/-- Registers that a full reset leaves: the timebase, what is fused, Lookout's, what the board drives. -/
def keptReg (off : Nat) : Bool :=
  off == HIF_TB.NS.addr || (8 ≤ off && off < 0x40) || off == HIF_GRADE.SPEED.addr || (0x60040 ≤ off && off < 0x60070)
    || off / 0x10000 == 9 || (0xE0400 ≤ off && off < 0xE0500) || off == BST_SADDLE_RES.RESULT.addr

/-- Full reset: everything the package holds but the timebase, fuses and straps, Lookout and its log, and pin levels. The manual
does not say what it does to the chain select bits, which only test-logic reset, TRST_N, a loss and a rejoin change (R27): the
model keeps them, and gives the dies that were lost or isolated theirs back (DESIGN CHOICE, assumption log 74). -/
def State.fullReset (s : State) : State :=
  let t : State := { State.reset with
    pending := s.pending, free := s.free, fuses := s.fuses
    regs := s.regs.filter (fun (p : Nat × W64) => keptReg p.1)
    mem := { s.mem.wipe (fun a => a < lkoBase) with
             rebuilding := s.mem.rebuilding.filter (fun p => lkoBase ≤ 8 * p.1), ports := [], scrub := [], scrubDone := []
             scrubDirty := [], logAt := [], lastRead := [], lastStatus := 0 }
    pkg := { records := s.pkg.records, idBad := s.pkg.idBad, ir := s.pkg.ir, scan := s.pkg.scan, scanId := s.pkg.scanId
             -- the dies are present again; the other chain select bits stay (assumption log 74)
             bypass := s.pkg.bypass &&& ~~~(BitVec.ofNat 4 ((((List.range 4).filter s.dieGone).map (fun d => 2 ^ d)).sum)) }
    clk := { holdover := s.clk.holdover, unlocked := s.clk.unlocked.filter (fun k => 16 ≤ k && k < 32) }
    hbm := { record := s.hbm.record }
    cairn := { fifo := s.cairn.fifo, missing := s.cairn.missing }
    pwr := { railBad := s.pwr.railBad, busSeen := s.pwr.busSeen, dies := s.pwr.dies.map (fun (x : DiePower) => { hotAt := x.hotAt }) }
    host := { mem := s.host.mem, perst := s.host.perst, tbAcc := s.host.tbAcc }
    cfg := { phase := 6, progLow := s.cfg.progLow, mode := s.cfg.mode, pullDown := s.cfg.pullDown }
    lko := { s.lko with reqs := s.lko.reqs.filter (fun r => match r.src with
      | .desc _ => false
      | _ => true) }
    twin := { notices := s.twin.notices }
    bst := { gold := s.bst.gold, part := s.bst.part }
    dbg := { last := s.dbg.last } }
  let t1 := ((t.put CLK_REF_STAT.PPM_ERR (s.get CLK_REF_STAT.PPM_ERR)).put CLK_REF_STAT.REF_OK (s.get CLK_REF_STAT.REF_OK)).put
    CLK_REF_STAT.HOLDOVER (s.get CLK_REF_STAT.HOLDOVER)
  let t2 := ((t1.put FLT_STAT.SAFE_REQ (s.get FLT_STAT.SAFE_REQ)).put FLT_STAT.SAFE (s.get FLT_STAT.SAFE_REQ)).showRing
  (((t2.lkoFree.put DBG_STAT.OPEN (s.get DBG_STAT.OPEN)).put DBG_STAT.FAILS (s.get DBG_STAT.FAILS)).put DBG_STAT.LOCKOUT
    (s.get DBG_STAT.LOCKOUT)).drainFifo

/-- PROG_N has been low for 32 filter cycles (R343, R348). Before the identity check only the pin's level is known, and after
a failed one nothing starts (R22). -/
def execProgNLow (s : State) : Res :=
  let low (t : State) : State := t.onCfg (fun c => { c with progLow := true })
  whenDue (!s.cfg.progLow) s (low (if s.cfg.phase = 0 ∨ s.cfg.phase = 7 then s else (s.notice 3).fullReset))

/-- PROG_N rises: the straps are sampled and a first attempt starts when PERST_N is high too. -/
def execProgNRise (mode : BitVec 3) (pullN : Bool) (s : State) : Res :=
  let s1 := (s.onCfg (fun c => { c with progLow := false })).strap mode.toNat pullN
  whenDue s.cfg.progLow s (if s.cfg.phase = 6 ∧ !s.host.perst then s1.beginConfig else s1)

/-- A write of CFG_RECONF: with the key and GO, as PROG_N, loading the slot it names with no retry. -/
def execCfgReconf (v : W32) (s : State) : Res :=
  whenDue (s.cfg.phase == 4) s
    (if fieldOf v 15 8 = 0xA5 ∧ fieldOf v 0 0 = 1 ∧ !s.pwr.failed then
      (((s.notice 3).fullReset).onCfg (fun c => { c with forced := some (fieldOf v 1 1) })).beginConfig
     else s)

/-! ### Attempts (R327–R337) -/

/-- Whether clearing puts a register's written fields back: the targets of SADDLE records. -/
def clearsReg (off : Nat) : Nat :=
  if off = PWR_RUNG.REQ.addr then 7 else if off = PWR_DIE_RUNG.REQ.addr then 0xFF
  else if !recordTarget off then 0
  else if rwBits off = 0 then 2 ^ 64 - 1 else if off = FLT_INJ.ALLOW.addr then 2 ^ 64 - 1 else rwBits off

/-- Clears every configuration cell: what an attempt has written is undone. -/
def State.clearConfig (s : State) : State :=
  let undo := (s.regs.map (fun (p : Nat × W64) => p.1)).filter (fun o => clearsReg o != 0)
  let s1 := s.forAll undo (fun o s => s.setBits o (clearsReg o) (regReset o).toNat)
  let gone (o : Nat) : Bool := (0x71000 ≤ o && o < 0x73000) || (0x21000 ≤ o && o < 0x22000)
    || ((MEM_DEEP_RSV.RSV 0).addr ≤ o && o < (MEM_DEEP_RSV.RSV 0).addr + 16)
  let s2 : State := { s1 with
    regs := s1.regs.filter (fun (p : Nat × W64) => !gone p.1), isl := [], engines := [], banks := []
    swb := { s1.swb with ctxs := [], owners := [] }
    mem := s1.mem.wipe (fun a => !(inHbm a || lkoBase ≤ a))
    pwr := { s1.pwr with want := none, dieWant := [] }
    cfg := { s1.cfg with outs := [], boots := [], dieRecs := [], digest := [], pos := 0, next := 0, step := 0
                         locked := false, gsr := false, we := false, out := false } }
  (s2.forN 32 (fun b s => ((s.put (IOB_BANK_STAT.VCLASS b) 0).put (IOB_BANK_STAT.PLL_LOCK b) 0).put (IOB_BANK_STAT.CTX b)
    0x3FF)).showBanks

/-- Codes with a retry (R336). -/
def retryCode (c : Nat) : Bool := 5 ≤ c && c ≤ 20

/-- An attempt fails: recorded and cleared, and either one retry from the other slot or the failure state. -/
def State.cfgFail (s : State) (code : Nat) : State :=
  let c := s.cfg
  let s1 := (s.clearConfig.onCfg (fun x => { x with attempts := x.attempts ++ [(c.slot, code)] })).logAdd 2 (c.slot + 2 * code)
  if retryCode code && !c.retry && c.forced.isNone && (c.mode == 0 || c.mode == 2) then
    s1.onCfg (fun x => { x with phase := 1, retry := true, slot := 1 - c.slot })
  else s1.onCfg (fun x => { x with phase := 5 })

/-- A configuration attempt (R327–R330): mode, flash, slot table and header, before anything is written. -/
def execConfigAttempt (v : FlashView) (s : State) : Res :=
  let c := s.cfg
  let load (slot bus : Nat) (fallback : Bool) (size : Option Nat) : State :=
    let s1 := s.onCfg (fun x => { x with slot, bus, fallback })
    let code := s1.headerCode v.header 0x41264A60 size true
    if code ≠ 0 then s1.cfgFail code
    else
      let h := v.header
      s1.onCfg (fun x => { x with
        phase := 2, compressed := nbit (leAt h 0x0C 4) 0, encrypted := nbit (leAt h 0x0C 4) 1, total := leAt h 0x10 8
        secVer := leAt h 0x20 4, startup := leAt h 0x24 4, pos := 128, next := 0 })
  whenDue (c.phase == 1) s
    (if c.mode ≥ 6 then s.cfgFail 2
     else if c.mode = 4 then load 0 2 false none
     else if !v.answers then s.cfgFail 3
     else match pickTable v.tableA v.tableB with
      | none => s.cfgFail 4
      | some t =>
        let octal := c.mode = 0 ∨ c.mode = 1 ∨ c.mode = 5
        let slot := if c.retry then c.slot else c.forced.getD (if c.mode = 5 then 1 else activeSlot t 0)
        load slot (if octal ∧ v.octalOk then 0 else 1) (octal ∧ !v.octalOk) (some (slotSize t 0 slot)))

/-! ### Segments (R331–R334) -/

/-- What a segment does: the state after, or an error code. -/
inductive SegRes where
  | ok (t : State)
  | err (code : Nat)

/-- The order of segments (R332): whether TYPE may follow, and the next place. -/
def segNext (next typ die : Nat) : Option Nat :=
  match typ with
  | 1 => if next = 0 ∧ die = 7 then some 1 else none
  | 2 => if 1 ≤ next ∧ next ≤ 4 ∧ die + 1 = next then some (next + 1) else none
  | 3 => if 2 ≤ next ∧ next ≤ 5 ∧ die + 2 = next then some next else none
  | 4 => if next = 5 ∧ die = 0 then some 6 else none
  | _ => none

/-- Bank records of a DIE segment (R365), 32 bytes each, for the banks of a die in order. -/
def State.bankRecord (s : State) (b : Nat) (r : List Byte) : State :=
  let safe := BitVec.ofNat 96 (leAt r 4 12)
  let pll := nbit (leAt r 1 1) 0
  (s.modBank b (fun x => { x with pllEn := pll, pllMul := BitVec.ofNat 16 (leAt r 2 2), dflt := safe, safe := safe, pllLost := pll })).put
    (IOB_BANK_STAT.VCLASS b) (leAt r 0 1)

/-- A DIE segment: the deep memory reservation mask and eight bank records. -/
def State.dieSegment (s : State) (d : Nat) (l : List W32) : SegRes :=
  let b := bytesOf l
  if b.length ≠ 8 + 8 * 32 then .err 14
  else .ok (((s.put (MEM_DEEP_RSV.RSV d) (leAt b 0 4)).onCfg (fun c => { c with
      dieRecs := c.dieRecs.poke (fun _ => []) d ((List.range 32).map (fun k => BitVec.ofNat 64 (leAt b (8 + 8 * k) 8))) })).forN 8
    (fun n s => s.bankRecord (8 * d + n) ((b.drop (8 + 32 * n)).take 32)))

/-- An ISLAND segment: frames and initial memory contents, the island held in set/reset. -/
def State.islandSegment (s : State) (i boot : Nat) (clock : W64) (g : IslandCfg) (l : List W32) : SegRes :=
  let c := boot % 1024
  if boot ≥ 2 ^ 14 ∨ c = 0x3FF ∨ s.cfg.boots.any (fun x => x.2.2.1 == i) then .err 14
  else .ok ((s.writeIsland i g none).onCfg (fun x => { x with
    outs := x.outs.poke (fun _ => []) i l, boots := x.boots ++ [(c, boot / 1024, i, clock, g)] }))

/-- The site of a boot context: shape and anchor whose footprint is its islands by ordinal (R228, R230). -/
def bootShape (l : List (Nat × Nat)) : Option (Nat × Nat × Nat × Nat) :=
  let is := (List.range l.length).filterMap (fun k => (l.find? (fun p => p.1 == k)).map (fun p => p.2))
  match is with
  | [] => none
  | i :: _ =>
    let d := dieOf i
    (List.range 11).findSome? (fun sh => (List.range 64).findSome? (fun k =>
      let w := shapeDims sh
      if is.length = l.length ∧ k % 8 + w.1 ≤ 8 ∧ k / 8 + w.2 ≤ 8 ∧ footprint sh d (k % 8) (k / 8) = is then
        some (sh, d, k % 8, k / 8) else none))

def Cfg.bootIds (c : Cfg) : List Nat := (c.boots.map (fun x => x.1)).eraseDups
def Cfg.bootIslands (c : Cfg) (b : Nat) : List (Nat × Nat) :=
  (c.boots.filter (fun x => x.1 == b)).map (fun x => (x.2.1, x.2.2.1))

/-- A segment: its header, its payload as stored after decryption, and what an ISLAND payload configures. -/
def execConfigSegment (hdr : List Byte) (payload : List W32) (g : IslandCfg) (s : State) : Res :=
  if !g.legal then illFormed else
  let c := s.cfg
  let typ := leAt hdr 0 1
  let die := leAt hdr 1 1
  let isl := leAt hdr 2 1
  let last := c.total - 224
  let size := 32 + 4 * payload.length
  let i := 64 * die + isl
  let look (k : Nat) : Option (List W32) :=
    if c.boots.any (fun x => x.2.2.1 == k) then some (c.outs.peek (fun _ => []) k) else none
  let run : SegRes :=
    if c.pos + 32 > last then .err 11
    else if !segOk hdr payload c.compressed then .err 14
    else match segNext c.next typ die with
      | none => .err 14
      | some n =>
        if (typ ≠ 3 ∧ isl ≠ 0) ∨ isl > 63 ∨ (typ = 4 ∧ leAt hdr 4 8 ≠ 0) then .err 14
        else if c.pos + size > last ∨ (typ = 4 ∧ c.pos + size ≠ last) then .err 11
        else if (typ = 2 ∨ typ = 3) ∧ s.dieGone die then .err 15
        else match unpack look hdr payload with
          | none => .err 16
          | some l =>
            let s1 := s.onCfg (fun x => { x with pos := c.pos + size, next := n })
            match typ with
            | 1 => (match s1.saddleRecords l with
              | some t => .ok t
              | none => .err 14)
            | 2 => s1.dieSegment die l
            | 3 => s1.islandSegment i (leAt hdr 0x0C 2) (BitVec.ofNat 64 (leAt hdr 0x10 8)) g l
            | _ => if c.bootIds.all (fun b => (bootShape (c.bootIslands b)).isSome) then .ok s1 else .err 14
  whenDue (c.phase == 2 && c.next ≤ 5) s
    (match run with
      | .ok t => t
      | .err code => s.cfgFail code)

/-- A boot context takes its islands (R333): registered, pinned, PRIO 7, held in set/reset until GSR. -/
def State.placeBoot (s : State) (b : Nat) : State :=
  let mine := s.cfg.boots.filter (fun x => x.1 == b)
  let by_ (k : Nat) := mine.find? (fun x => x.2.1 == k)
  match bootShape (s.cfg.bootIslands b) with
  | none => s
  | some (sh, d, x, y) =>
    let s1 := s.setCtx b { state := 3, pinned := true, prio := 7, placed := true, shape := sh, die := d, ax := x, ay := y, boot := true
                           bootCfg := (List.range mine.length).map (fun k => ((by_ k).map (fun z => z.2.2.2.2)).getD {})
                           bootClocks := (List.range mine.length).map (fun k => ((by_ k).map (fun z => z.2.2.2.1)).getD 0) }
    (s1.forAll mine (fun z s => s.showIsland z.2.2.1 2 b z.2.1)).setEntries b 1 2

/-- The trailer's checks (R336); with them passed the start-up steps begin. -/
def execTrailerCheck (v : TrailerView) (s : State) : Res :=
  let code := if !v.crcOk then 17 else if !v.sigOk then 18 else if s.cfg.encrypted ∧ !v.gcmOk then 19 else 0
  whenDue (s.cfg.phase == 2 && s.cfg.next == 6) s
    (if code ≠ 0 then s.cfgFail code
     else (s.cfg.bootIds.foldl (fun t b => t.placeBoot b) s).onCfg (fun c => { c with phase := 3, step := 0, digest := v.digest }))

/-- No byte has arrived for 50 ms. -/
def execConfigIdleTimeout (s : State) : Res := whenDue (s.cfg.phase == 2) s (s.cfgFail 12)

/-! ### Start-up (R339–R341) -/

/-- The step that is due: 0 LOCK, 1 GSR, 2 WE, 3 OUT. -/
def Cfg.dueStep (c : Cfg) : Option Nat :=
  if c.phase = 3 ∧ c.step < 4 then some (nfield c.startup (2 * c.step + 1) (2 * c.step)) else none

def State.stepDone (s : State) : State := s.onCfg (fun c => { c with step := c.step + 1 })

/-- LOCK: base clocks and enabled PLLs report lock, and the boot contexts' island clocks start. It waits while the PCIe or an
HBM PHY PLL reports loss of lock. -/
def execStartupLock (s : State) : Res :=
  let s1 := (s.put CLK_REF_STAT.REF_OK 1).forN 4 (fun n s => s.put (CLK_BASE.LOCKED n) 1)
  let s2 := s1.forN 16 (fun q s => if (List.range 4).any (fun k => s.laneOwner (4 * q + k) != 0) then
    landed s (execQuadPllRelock (Fin.ofNat 16 q) s) else s)
  let s3 := s2.forN 32 (fun b s => if (s.bank b).pllEn then landed s (execBankPllRelock (Fin.ofNat 32 b) s) else s)
  let s4 := s3.forAll s3.cfg.boots (fun z s =>
    if s.clockRange z.2.2.2.1.toNat then s else (s.applySetting z.2.2.1 z.2.2.2.1).gateClocks z.2.2.1 (s.rungAt z.2.2.1))
  whenDue (s.cfg.dueStep == some 0 && !s.clk.unlocked.any (fun k => 16 ≤ k && k < 32)) s
    ((s4.onCfg (fun c => { c with locked := true })).stepDone)

/-- Lock is not reached within 10 ms. -/
def execStartupLockTimeout (s : State) : Res := whenDue (s.cfg.dueStep == some 0) s (s.cfgFail 20)

/-- GSR: the boot contexts leave set/reset. An engine with AUTO_START stays STOPPED until WE has run too. -/
def execStartupGsr (s : State) : Res :=
  let s1 := s.forAll s.cfg.boots (fun z s =>
    let t := s.releaseIsland z.1 z.2.2.1 z.2.1 false
    if s.cfg.we then t else t.modEng z.2.2.1 (fun e => { e with state := 1 }))
  let s2 := s.cfg.bootIds.foldl (fun t b => (t.modCtx b (fun x => { x with state := 4, releasedAt := s.now })).setEntries b 0 2) s1
  whenDue (s.cfg.dueStep == some 1) s ((s2.onCfg (fun c => { c with gsr := true })).stepDone)

/-- WE: fabric writes to memories are enabled, and engines with AUTO_START that GSR has released run. -/
def execStartupWe (s : State) : Res :=
  let s1 := s.onCfg (fun c => { c with we := true })
  let s2 := if s.cfg.gsr then s1.forAll s1.cfg.boots (fun z s => s.modEng z.2.2.1 (fun e =>
      if e.autoStart ∧ e.state = 1 then { e with state := 2 } else e)) else s1
  whenDue (s.cfg.dueStep == some 2) s s2.stepDone

/-- OUT: user pins take their bank configuration, transmitters leave electrical idle, ALIVE goes to Cairn. -/
def execStartupOut (s : State) : Res :=
  whenDue (s.cfg.dueStep == some 3) s (((s.onCfg (fun c => { c with out := true })).showBanks).showAlive).stepDone

/-- DONE is released and READY becomes 1. `us` is the time since configuration start. -/
def execDoneRelease (us : W32) (s : State) : Res :=
  let c := s.cfg
  let first := if c.retry then (c.attempts.head?.map (fun a => a.2)).getD 0 else 0
  let stat := bit (s.fuses.keyHash == []) * 2 ^ 31 + bit c.fallback * 2 ^ 30 + bit c.retry * 2 ^ 29
    + (if c.bus = 2 then 0 else c.slot) * 2 ^ 28 + c.bus * 2 ^ 26 + first * 2 ^ 21 + c.mode * 2 ^ 13
  let s1 := (s.onCfg (fun x => { x with phase := 4, attempts := x.attempts ++ [(c.slot, 0)] })).logAdd 2 c.slot
  let s2 := ((((s1.put HIF_STAT.READY 1).setReg CFG_STAT.MODE.addr (BitVec.ofNat 64 stat)).setReg CFG_IMG_ID.SEC_VER.addr
    (BitVec.ofNat 64 (c.secVer * 2 ^ 32 + 0x41264A60))).put CFG_BOOT_TIME.US us.toNat).setReg CFG_STARTUP.ORDER.addr
    (BitVec.ofNat 64 (nfield c.startup 23 16 * 2 ^ 16 + nfield c.startup 7 0))
  let s3 := s2.forN 6 (fun k s => (s.setReg (CFG_IMG_HASH.HASH k).addr (BitVec.ofNat 64 (leAt c.digest (8 * k) 8))).setReg
    (CFG_KEY_HASH.HASH k).addr (BitVec.ofNat 64 (leAt s.fuses.keyHash (8 * k) 8)))
  let s4 := s3.forN 256 (fun i s => if s.dieGone (i / 64) ∨ s.pkg.degraded.contains (i / 64) then s else s.put (SWB_ISL_STAT.PLACEABLE i) 1)
  let s5 := if c.bus = 2 then s4 else s4.onLko (fun l => { l with
    slots := vmod l.slots (c.slot % 2) (fun x => { x with state := 1, secVer := c.secVer }) })
  whenDue (c.phase == 3 && c.step == 4 && s.get (HBM_STAT.STATE 0) == 2 && s.get (HBM_STAT.STATE 1) == 2) s s5.countCtxs

/-- An error that ends a running attempt: a die lost (15), the reference lost (21). Outside an attempt nothing follows. -/
def State.cfgError (s : State) (code : Nat) : State :=
  if 1 ≤ s.cfg.phase ∧ s.cfg.phase ≤ 3 then s.cfgFail code else s

/-! ### Boot context reload (R342) -/

/-- The port job that reads a boot context's memory contents again. -/
def State.reloadJob (s : State) (c : Nat) : PortJob := { die := (s.ctx c).die, rank := 1, ctx := c }

/-- The configuration controller begins to read a boot context's memory contents again, after the exit from Park or Dormant
or after a retained rejoin. -/
def execBootContextReload (c : BitVec 10) (s : State) : Res :=
  let x := s.ctx c.toNat
  whenDue (x.boot && (x.reloading == 1 || x.reloading == 3)) s
    ((s.modCtx c.toNat (fun x => { x with reloading := x.reloading + 1 })).addJob (s.reloadJob c.toNat))

/-- The reload ends: `digest` is the signed digest of the image in the slot that was booted from, none when the read failed. Unless
it is the digest of the image that was loaded, and where that came over the test access chain, the memories stay zero. The
context is released as at GSR. -/
def execBootReloadComplete (c : BitVec 10) (digest : Option (List Byte)) (s : State) : Res :=
  let n := c.toNat
  let x := s.ctx n
  let ok := digest == some s.cfg.digest && s.cfg.bus != 2
  let is := numbered (s.islandsOf n)
  let s1 := s.forAll is (fun p s =>
    let g := (x.bootCfg[p.1]?).getD {}
    let t := s.clearMemories p.2
    ((if ok then t.writeMem p.2 g (fun _ => true) else t).modEng p.2 (fun e => e.init g.eng)))
  let s2 := s1.forAll is (fun p s => s.releaseIsland n p.2 p.1 false)
  let s3 := ((s2.modCtx n (fun x => { x with state := 4, reloading := 0, releasedAt := s.now })).endJob (s.reloadJob n)).setEntries n 0 2
  whenDue (x.boot && (x.reloading == 2 || x.reloading == 4) && s.jobRuns (s.reloadJob n)) s
    ((s3.post 0x0702 (n + bit (!ok) * 2 ^ 16) (if x.reloading = 4 then 1 else 0)).takeUp n 16).countCtxs

/-! ### Frame sweep (R347) -/

/-- Whether the frame sweep may check a frame of an island: EN, configured, and no job of a higher rank at its port. -/
def State.sweeps (s : State) (i : Nat) : Bool :=
  let st := s.islState i
  s.flag CFG_SWEEP.EN && s.cfg.phase == 4 && 2 ≤ st && st ≤ 5 && !s.dieGone (i / 64)
    && !s.swb.portRun.any (fun j => j.die == i / 64) && !s.swb.portJobs.any (fun j => j.die == i / 64)

/-- The sweep checks a frame; `last` is the pass's last. -/
def execFrameSweepCheck (i : Fin 256) (idx : W32) (bad last : Bool) (s : State) : Res :=
  let s1 := (s.put CFG_SWEEP.ACTIVE 1).onCfg (fun c => { c with sweepAt := some (i.val, idx.toNat + 1) })
  let s2 := if bad then
      (((s1.bump CFG_FRAME_CNT.COUNT).post 0x0701 i.val idx.toNat).toCairn 0x15 (srcIsland i.val) sevMajor idx.toNat).modIsland i.val
        (fun x => { x with frameBad := true })
    else s1
  let s3 := if last then ((s2.bump CFG_SWEEP_CNT.COUNT).put CFG_SWEEP.ACTIVE 0).onCfg (fun c => { c with sweepAt := none }) else s2
  let inOrder := match s.cfg.sweepAt with
    | some (j, n) => j < i.val || (j == i.val && n ≤ idx.toNat)
    | none => true
  whenDue (s.sweeps i.val && inOrder) s s3

end Sys2Proof.Machine
end

