-- ==== Sys2Proof/Machine/HostLink.lean ====
section
/-!
DEFINITION. The PCIe link and its resets, D-states, the reference, rings and doorbells, event queues and interrupts, the
device timebase (R91, R290–R306, R315–R324).
-/

namespace Sys2Proof.Machine

/-! ### The link (R293, R294, R322) -/

/-- Fault source of the host interface and the PCIe PLL (R406). -/
def srcHost : Nat := srcSaddle 0

/-- Host reads that the link still owes end with HOST_ERR (R300, R322). -/
def State.failHostReads (s : State) : State :=
  let l := s.net.flight.filter (fun f => s.hostAwaits f.msg.tag.toNat)
  (s.onHost (fun h => { h with pending := [] })).forAll l (fun f s => (s.dropFlight f).respond f.msg opERR 0x0E)

/-- Sends a vector's message, or marks it pending while it is masked or messages are held (R317, R322). -/
def State.signal (s : State) (v : Nat) : State :=
  if s.flag (HIF_MSIX_DATA.MASK v) || s.recsHeld then s.put HIF_MSIX_PBA.PENDING (setBit (s.get HIF_MSIX_PBA.PENDING) v true)
  else s.onHost (fun h => { h with msix := h.msix ++ [v] })

/-- Pending messages of vectors that software has unmasked, when messages are not held. -/
def State.unmasked (s : State) : State :=
  if s.get HIF_MSIX_PBA.PENDING = 0 then s
  else s.forN 64 (fun v s =>
    if nbit (s.get HIF_MSIX_PBA.PENDING) v && !s.flag (HIF_MSIX_DATA.MASK v) && !s.recsHeld then
      (s.put HIF_MSIX_PBA.PENDING (setBit (s.get HIF_MSIX_PBA.PENDING) v false)).signal v else s)

/-- The link goes down. -/
def State.linkDown (s : State) : State :=
  if s.host.linkUp then
    ((s.onHost (fun h => { h with linkUp := false, ptmOut := false })).failHostReads).toCairn 0x1A srcHost sevMajor 0
  else s

def execPcieLinkDown (s : State) : Res := whenDue s.host.linkUp s s.linkDown

/-- Words of configuration space that the spec fixes (R290), by byte offset: Device ID and Vendor ID, class code. -/
def cfgSpaceWord (off : Nat) : BitVec 32 :=
  if off = 0 then 0x4126#16 ++ Config.pciVendor else if off = 8 then 0x12000000 else 0

/-- The link trains, in D0; Flit mode is always on at 64 GT/s. Rate, width and Flit mode below that are settled with the partner:
free values (assumption log 82). A PCIe PLL without lock, or PERST_N low, keeps the link down (R290, R293). -/
def execPcieLinkUp (s : State) : Res :=
  let v := s.fresh.toNat
  let s1 := s.took.onHost (fun h => { h with
    linkUp := true, d3 := false
    port := { h.port with rate := Fin.ofNat 6 v, width := Fin.ofNat 4 (v / 8), flit := nbit v 5 || v % 6 == 5 } })
  whenDue (!s.host.linkUp && !s.host.perst && !s.clk.unlocked.contains 16) s
    (if s.lko.owes then (s1.post 0x0A08).onLko (fun l => { l with owes := false }) else s1).unmasked

/-- PERST_N goes low: full reset, and configuration waits for both pins (R294, R348). -/
def State.perstLow (s : State) : State :=
  let low (t : State) : State := t.onHost (fun h => { h with perst := true })
  if s.cfg.phase = 0 ∨ s.cfg.phase = 7 then low (s.onHost (fun h => { h with linkUp := false })) else low ((s.notice 3).fullReset)

def execPerstN (s : State) : Res := whenDue (!s.host.perst) s s.perstLow

/-- PERST_N rises: a first attempt starts when PROG_N is high too. -/
def execPerstNRelease (s : State) : Res :=
  let s1 := s.onHost (fun h => { h with perst := false })
  whenDue s.host.perst s (if s.cfg.phase = 6 ∧ !s.cfg.progLow then s1.beginConfig else s1)

/-- HIF_ registers that a hot reset or FLR leaves: the timebase's, and those that report what the device is and what state it is
in, which the reset does not change (R294; assumption log 82). -/
def hotKept (off : Nat) : Bool :=
  off ≥ 0x10000 || (8 ≤ off && off < 0x50) || off == HIF_STAT.READY.addr || off == HIF_GRADE.SPEED.addr || (0x100 ≤ off && off < 0x120)

/-- Hot reset or FLR (R294): the host interface but for the timebase; descriptors in flight are abandoned. -/
def execHotReset (s : State) : Res :=
  let s1 := s.failHostReads
  let s2 : State := { s1 with
    regs := s1.regs.filter (fun (p : Nat × W64) => hotKept p.1)
    host := { mem := s1.host.mem, perst := s1.host.perst, linkUp := s1.host.linkUp, aer := s1.host.aer, tbAcc := s1.host.tbAcc
              port := { rate := s1.host.port.rate, width := s1.host.port.width, flit := s1.host.port.flit } } }
  whenDue (!s.host.perst) s (s2.put HIF_STAT.RINGS_ON 0)

/-- Entry to D3hot (R294, R383): D3_RUNG 1–4 is requested, another value acts as 2. -/
def execD3hot (s : State) : Res :=
  let r := s.get PWR_CTL.D3_RUNG
  whenDue (s.host.linkUp && !s.host.d3) s
    ((s.onHost (fun h => { h with d3 := true })).requestRung (if 1 ≤ r ∧ r ≤ 4 then r else 2))

/-- D3cold acts as the removal of power or PERST_N (R294). -/
def execD3cold (s : State) : Res := whenDue (!s.host.perst) s s.perstLow

/-- Return to D0: records go on, and Run is requested (R383, R386). -/
def execReturnToD0 (s : State) : Res :=
  let s1 := (s.onHost (fun h => { h with d3 := false })).unmasked
  whenDue s.host.d3 s (if s.flag FLT_STAT.PARKED then s1 else s1.requestRung 0)

/-- VAUX is removed: everything is lost but fuses and what is in flash (R395, R459). -/
def execVauxRemoval (s : State) : Res :=
  let l := s.lko
  let t : State := { State.reset with
    pending := s.pending, free := s.free, fuses := s.fuses
    regs := s.regs.filter (fun (p : Nat × W64) => p.1 == MGT_ARB.COUNT.addr || (0x60040 ≤ p.1 && p.1 < 0x60070)
      || p.1 == BST_SADDLE_RES.RESULT.addr)
    hbm := { record := s.hbm.record }, host := { mem := s.host.mem }, bst := { gold := s.bst.gold, part := s.bst.part }
    lko := { tableA := l.tableA, tableB := l.tableB, slots := l.slots, flash := l.flash, sectors := l.sectors, cur := l.cur
             seq := l.copied, copied := l.copied } }
  .next (t.put DBG_STAT.OPEN (s.get DBG_STAT.OPEN))

/-! ### The reference and the privileged PLLs (R91, R94) -/

/-- PLL `k` of those that report to Cairn as PLL_UNLOCK: 16 PCIe, 17 and 18 the HBM PHYs. The PCIe PLL's loss takes the
link down (R322). -/
def State.pllUnlock (s : State) (k : Nat) : State :=
  if s.clk.unlocked.contains k then s
  else
    let s1 := (s.onClk (fun c => { c with unlocked := c.unlocked ++ [k] })).toCairn 0x08
      (if k = 16 then srcHost else srcSaddle (k - 15)) sevMajor 0
    if k = 16 then s1.linkDown else s1

/-- A PCIe or HBM PHY PLL loses lock. -/
def execPllLossOfLock (k : Fin 3) (s : State) : Res :=
  whenDue (!s.clk.unlocked.contains (16 + k.val)) s (s.pllUnlock (16 + k.val))

/-- It locks again, with the reference present. -/
def execPrivilegedPllRelock (k : Fin 3) (s : State) : Res :=
  whenDue (s.clk.unlocked.contains (16 + k.val) && s.clk.holdover == 0) s
    (s.onClk (fun c => { c with unlocked := c.unlocked.filter (· != 16 + k.val) }))

/-- The reference is lost (R91): holdover, every privileged PLL reports loss of lock, Cairn receives REF_LOST; during
configuration it ends the attempt (R336). -/
def execRefLost (s : State) : Res :=
  let s1 := ((((s.put CLK_REF_STAT.REF_OK 0).put CLK_REF_STAT.HOLDOVER 1).put CLK_REF_STAT.REF_LOST 1).onClk
    (fun c => { c with holdover := 1 })).toCairn 0x07 (srcSaddle 7) sevMajor 0
  let s2 := s1.forN 16 (fun q s => if s.quadLocked q then s.quadUnlock q else s)
  let s3 := s2.forN 32 (fun b s => if s.flag (IOB_BANK_STAT.PLL_LOCK b) then s.bankUnlock b else s)
  whenDue (s.clk.holdover == 0) s ((((s3.pllUnlock 16).pllUnlock 17).pllUnlock 18).cfgError 21)

/-! ### Rings (R301–R306, R322) -/

/-- Whether a BAR access reaches the function. -/
def State.barUp (s : State) : Bool := s.host.linkUp && !s.host.d3

/-- A doorbell write; `whole`: it is one aligned 32-bit access. -/
def execRingDoorbell (r : Fin 256) (v : W32) (whole : Bool) (s : State) : Res :=
  let n := s.ringSize r.val
  let st := s.ringState r.val
  let p := s.ringPending r.val
  let p' := s.ringCount r.val v.toNat
  let s1 := if s.flag PWR_CTL.DB_WAKE then s.wake else s
  whenDue s.barUp s
    (if !whole || st == 0 || st == 3 || st == 4 then s1.bump HIF_DB_DROP.COUNT
     else if v.toNat ≥ 2 * n then s1.ringError r.val 3
     else if p' > n then s1.ringError r.val 1
     else if p' < p then s1.ringError r.val 2
     else (s1.put (HIF_RING_TAIL.INDEX r.val) v.toNat).onHost (fun h => { h with
       bells := h.bells.poke (fun _ => 0) r.val v.toNat }))

/-- Setting ENABLE of a ring (R301). A ring that is not OFF, or a device that is not READY, ignores it. -/
def ringEnable (r : Fin 256) (s : State) : Res :=
  let k := r.val
  let base := s.get (HIF_RING_BASE.BASE k) * 64
  let s1 := (((s.put (HIF_RING_CTL.ENABLE k) 1).put (HIF_RING_HEAD.INDEX k) 0).put (HIF_RING_TAIL.INDEX k) 0).put
    (HIF_RING_STAT.ERR_WHY k) 0
  let s2 := s1.onHost (fun h => { h with fetching := h.fetching.poke (fun _ => 0) k 0 })
  if s.ringState k ≠ 0 ∨ !s.flag HIF_STAT.READY then .next s
  else if base % min (64 * s.ringSize k) 4096 ≠ 0 then .next (s2.ringError k 5)
  else .next (s2.setRingState k 1)

/-- Clearing ENABLE (R322): what has not started is dropped without records, the rest completes. -/
def ringDisable (r : Fin 256) (s : State) : Res :=
  let k := r.val
  let s1 := (s.put (HIF_RING_CTL.ENABLE k) 0).onHost (fun h => { h with fetching := h.fetching.poke (fun _ => 0) k 0 })
  if s.ringState k = 0 then .next s
  else .next ((s1.setSlots k ((s1.slots k).filter (fun x => x.started))).setRingState k 4)

/-- The descriptors in flight of a STOPPING ring have completed. -/
def execRingStopComplete (r : Fin 256) (s : State) : Res :=
  whenDue (s.ringState r.val == 4 && (s.slots r.val).isEmpty) s (s.setRingState r.val 0)

/-- RESUME of a HALTED ring; without effect on another. -/
def ringResume (r : Fin 256) (s : State) : Res :=
  if s.ringState r.val = 2 then .next ((s.setRingState r.val 1).dropBad r.val 8) else .next s

/-- FLUSH of a HALTED ring whose started descriptors have ended: `rest` are the descriptors from HEAD to TAIL as read. -/
def ringFlush (r : Fin 256) (rest : List Desc) (s : State) : Res :=
  let k := r.val
  let l := s.slots k
  let h := s.get (HIF_RING_HEAD.INDEX k)
  let n2 := 2 * s.ringSize k
  let fits := rest.length == s.ringPending k
    && (numbered rest).all (fun p => p.2.ring == r && p.2.index.toNat == (h + p.1) % n2)
  let s1 := l.foldl (fun t x => match x.done with
    | some (st, res, arg) => t.postCompletion x.desc st res arg
    | none => t.postCompletion x.desc stFlushed 0 0) (s.setSlots k [])
  let s2 := rest.foldl (fun t d => t.postCompletion d stFlushed 0 0) s1
  let s3 := (s2.put (HIF_RING_HEAD.INDEX k) (s.get (HIF_RING_TAIL.INDEX k))).onHost (fun h => { h with
    fetching := h.fetching.poke (fun _ => 0) k 0 })
  if s.ringState k ≠ 2 then .next s
  else whenDue (fits && l.all (fun x => !x.started || x.done.isSome)) s (s3.setRingState k 1)

/-- Whether rings fetch: the link up in D0, no forced safe state or park, no power-fail, above Lull (R322, R385). -/
def State.ringsAdmit (s : State) : Bool :=
  s.barUp && !s.flag FLT_STAT.SAFE && !s.flag FLT_STAT.PARKED && !s.pwr.failed && s.bst.saddle != 2 && s.get PWR_RUNG.CUR < 2

/-- Descriptors from a ring's oldest incomplete one to the next to be read; the device holds at most 8 (R305). -/
def State.ringAhead (s : State) (k : Nat) : Nat :=
  let n2 := 2 * s.ringSize k
  let h := s.get (HIF_RING_HEAD.INDEX k)
  s.host.fetching.peek (fun _ => 0) k + (match s.slots k with
    | x :: _ => (h + n2 - x.desc.index.toNat % n2) % n2
    | [] => 0)

/-- Whether the host engine may read a ring's next descriptor (R302, R305). -/
def State.ringFetches (s : State) (k : Nat) : Bool :=
  s.ringState k == 1 && s.ringAhead k < 8 && s.host.fetching.peek (fun _ => 0) k < s.ringPending k

/-- Fetches of rings of a PRIO in this round. -/
def State.turnsOf (s : State) (p : Nat) : Nat := s.host.turns.peek (fun _ => 0) p

/-- Whether a PRIO has used up its weight of 1, 2, 4 or 8. -/
def State.turnsUsed (s : State) (p : Nat) : Bool := s.turnsOf p ≥ 2 ^ p

/-- Whether it is a ring's turn: its PRIO has weight left in this round, or no other that fetches has (R305). -/
def State.ringTurn (s : State) (k : Nat) : Bool :=
  !s.turnsUsed (s.get (HIF_RING_CFG.PRIO k)) || (List.range 256).all (fun j => !s.ringFetches j || s.turnsUsed (s.get (HIF_RING_CFG.PRIO j)))

/-- The rounds after a fetch of a ring: a new one when its PRIO has used up its weight (R305; assumption log 82). -/
def State.nextTurns (s : State) (k : Nat) : Table Nat :=
  let p := s.get (HIF_RING_CFG.PRIO k)
  if s.turnsUsed p then [(p, 1)] else s.host.turns.poke (fun _ => 0) p (s.turnsOf p + 1)

/-- The host engine reads a ring's next descriptor, in index order, by the weights of the rings (R305). -/
def execDescriptorFetch (r : Fin 256) (s : State) : Res :=
  let k := r.val
  whenDue (s.ringsAdmit && s.ringFetches k && s.ringTurn k && s.hostOut < 4096) s
    (s.onHost (fun h => { h with
      fetching := h.fetching.poke (fun _ => 0) k (h.fetching.peek (fun _ => 0) k + 1), turns := s.nextTurns k }))

/-- A descriptor read returns, in index order; `ok`: it succeeded (R302, R304). -/
def execDescriptorReadComplete (d : Desc) (ok : Bool) (s : State) : Res :=
  let k := d.ring.val
  let n := s.host.fetching.peek (fun _ => 0) k
  let h := s.get (HIF_RING_HEAD.INDEX k)
  let set (t : State) (m : Nat) : State := t.onHost (fun x => { x with fetching := x.fetching.poke (fun _ => 0) k m })
  whenDue (n != 0 && d.index.toNat == h) s
    (if !ok || !s.host.linkUp then (set s 0).ringError k 4
     else (((set s (n - 1)).put (HIF_RING_HEAD.INDEX k) ((h + 1) % (2 * s.ringSize k))).setSlots k
       (s.slots k ++ [{ desc := d }])).dropBad k 8)

/-- A NOP completes OK (R308). -/
def execNopDescriptor (d : Desc) (s : State) : Res := s.runDesc d 0 true (fun s => s.endDesc d 0 0 0)

/-! ### Event queues and interrupts (R315–R319) -/

/-- Records since a queue's last message, and whether one had IRQ = 1; kept as twice their number plus the mark. -/
def State.since (s : State) (q : Nat) : Nat × Bool :=
  let x := s.host.since.peek (fun _ => 0) q
  (x / 2, x % 2 == 1)

def State.setSince (s : State) (q n : Nat) (irq : Bool) : State :=
  s.onHost (fun h => { h with since := h.since.poke (fun _ => 0) q (2 * n + bit irq) })

/-- A queue sends its message. -/
def State.sendMsi (s : State) (q : Nat) : State :=
  (((s.put (HIF_EQ_STAT.ARMED q) 0).setSince q 0 false).onHost (fun h => { h with firstAt := h.firstAt.poke (fun _ => 0) q 0 })).signal
    (s.get (HIF_EQ_CFG.VECTOR q))

/-- The conditions of moderation (R317). -/
def State.moderate (s : State) (q : Nat) : State :=
  let p := s.since q
  let first := s.host.firstAt.peek (fun _ => 0) q
  let t := s.get (HIF_EQ_MOD.TIME_US q)
  let late := t ≠ 0 && first ≠ 0 && s.now + 1 ≥ first + 1000 * t
  if s.flag (HIF_EQ_STAT.ARMED q) && p.1 ≠ 0 && (p.1 ≥ max 1 (s.get (HIF_EQ_MOD.COUNT q)) || p.2 || late) then s.sendMsi q else s

/-- W3 of a record (R316). -/
def Rec.w3 (r : Rec) (phase : Bool) : Nat :=
  bit phase * 2 ^ 63 + bit r.compl * 2 ^ 62 + r.ring % 256 * 2 ^ 49 + r.index % 2 ^ 17 * 2 ^ 32 + r.code % 2 ^ 16 * 2 ^ 16
    + r.result % 256 * 2 ^ 8 + r.status % 256

/-- Writes one record at a queue's TAIL. -/
def State.writeRec (s : State) (q : Nat) (r : Rec) : State :=
  let n := s.eqSize q
  let t := s.get (HIF_EQ_TAIL.INDEX q) % (2 * n)
  let a := s.get (HIF_EQ_BASE.BASE q) * 32 + 32 * (t % n)
  let bytes := toBytes 8 s.now ++ toBytes 8 r.w1.toNat ++ toBytes 8 r.w2.toNat ++ toBytes 8 (r.w3 (t < n))
  let s1 := ((s.hostPut a bytes).onHost (fun h => { h with wrRelaxed := false })).put (HIF_EQ_TAIL.INDEX q) ((t + 1) % (2 * n))
  let s2 := s1.putB (HIF_EQ_STAT.FULL q) (s1.eqFill q == n)
  let p := s.since q
  let s3 := (s2.setSince q (p.1 + 1) (p.2 || r.irq)).onHost (fun h =>
    if p.1 = 0 then { h with firstAt := h.firstAt.poke (fun _ => 0) q (s.now + 1) } else h)
  s3.moderate q

/-- Removes the first record of a queue from those that wait. -/
def dropRec (q : Nat) : List Rec → List Rec
  | [] => []
  | r :: rs => if r.queue = q then rs else r :: dropRec q rs

/-- A record is written when its queue has room and records are not held: after lost events EQ_OVERFLOW first (R319). -/
def execEventRecordWrite (q : Fin 64) (s : State) : Res :=
  let k := q.val
  let lost := s.host.lostNow.peek (fun _ => 0) k
  let at_ := s.get (HIF_EQ_BASE.BASE k) * 32 + 32 * (s.get (HIF_EQ_TAIL.INDEX k) % s.eqSize k)
  let room := s.eqOn k && !s.recsHeld && s.eqFill k < s.eqSize k && !s.ideBlocks at_ 32
  if lost ≠ 0 then
    whenDue room s ((s.onHost (fun h => { h with lostNow := h.lostNow.poke (fun _ => 0) k 0 })).writeRec k
      { queue := k, compl := false, w1 := BitVec.ofNat 64 k, w2 := BitVec.ofNat 64 lost, code := 0x0102 })
  else match s.host.recs.find? (fun r => r.queue == k) with
    | none => notDue s
    | some r => whenDue room s ((s.onHost (fun h => { h with recs := dropRec k h.recs })).writeRec k r)

/-- TIME_US have passed since the first of a queue's records that no message announced. -/
def execEqModerationTimer (q : Fin 64) (s : State) : Res :=
  whenDue (s.get (HIF_EQ_MOD.TIME_US q.val) != 0 && s.flag (HIF_EQ_STAT.ARMED q.val) && (s.since q.val).1 != 0 && !s.recsHeld) s
    (s.sendMsi q.val)

/-- Rings whose completions go to a queue try again to post them. -/
def State.retireFor (s : State) (q : Nat) : State :=
  s.forAll (s.host.slots.map (fun p => p.1)) (fun r s =>
    if s.get (HIF_RING_CFG.EQ r) = q then (s.retire r 8).dropBad r 8 else s)

/-- Setting ENABLE of an event queue (R315). -/
def eqEnable (q : Fin 64) (s : State) : Res :=
  let k := q.val
  let base := s.get (HIF_EQ_BASE.BASE k) * 32
  let s1 := ((((s.put (HIF_EQ_CFG.ENABLE k) 1).put (HIF_EQ_TAIL.INDEX k) 0).put (HIF_EQ_HEAD.INDEX k) 0).put
    (HIF_EQ_STAT.LOST k) 0).put (HIF_EQ_STAT.ARMED k) 1
  let s2 := ((s1.put (HIF_EQ_STAT.FULL k) 0).setSince k 0 false).onHost (fun h => { h with
    firstAt := h.firstAt.poke (fun _ => 0) k 0, lostNow := h.lostNow.poke (fun _ => 0) k 0 })
  if s.eqOn k ∨ !s.flag HIF_STAT.READY then .next s
  else if base % min (32 * s.eqSize k) 4096 ≠ 0 then .next (s.put (HIF_EQ_STAT.BAD_BASE k) 1)
  else .next s2

/-- Clearing ENABLE: records that wait for the queue are discarded and counted (R322). -/
def eqDisable (q : Fin 64) (s : State) : Res :=
  let k := q.val
  let s1 := ((s.put (HIF_EQ_CFG.ENABLE k) 0).bump HIF_EVT_DROP.COUNT (s.eqWaiting k)).onHost (fun h => { h with
    recs := h.recs.filter (fun r => r.queue != k), lostNow := h.lostNow.poke (fun _ => 0) k 0 })
  whenDue (s.eqOn k) s (s1.retireFor k)

/-- A head doorbell (R315): HEAD in [16:0], ARM in [31]. -/
def execEqHeadDoorbell (q : Fin 64) (v : W32) (s : State) : Res :=
  let k := q.val
  let n2 := 2 * s.eqSize k
  let hd := fieldOf v 16 0
  let left := (s.get (HIF_EQ_TAIL.INDEX k) + n2 - hd % n2) % n2
  let bad := fieldOf v 30 17 ≠ 0 || hd ≥ n2 || left > s.eqFill k
  let s1 := (s.put (HIF_EQ_HEAD.INDEX k) hd).onHost (fun h => { h with bells := h.bells.poke (fun _ => 0) (256 + k) v.toNat })
  let s2 := s1.putB (HIF_EQ_STAT.FULL k) (s1.eqFill k == s1.eqSize k)
  let s3 := if fieldOf v 31 31 = 1 then (s2.put (HIF_EQ_STAT.ARMED k) 1).moderate k else s2
  whenDue (s.barUp && s.eqOn k) s (if bad then s.put (HIF_EQ_STAT.BAD_HEAD k) 1 else s3.retireFor k)

/-! ### Device timebase (R320, R321, R323) -/

/-- HIF_TB_ADJ: the rate adjustment of a free-running timebase, in billionths, clamped (R320, R323). -/
def State.tbAdjust (s : State) : Int :=
  let src := s.get HIF_TB_CTL.SRC
  if src = 1 ∨ src = 2 then 0 else max (-500000) (min 500000 (BitVec.ofNat 32 (s.get HIF_TB_ADJ.PPB)).toInt)

/-- The nanosecond of REFCLK that passes while no command waits (assumption log 1): HIF_TB advances by it, and by a nanosecond
more or less whenever the rate adjustment has added up to one (R320). -/
def State.tick (s : State) : State :=
  let acc := s.host.tbAcc + s.tbAdjust
  let ns : Int := if acc ≥ 1000000000 then 2 else if acc ≤ -1000000000 then 0 else 1
  (s.setReg HIF_TB.NS.addr (s.reg HIF_TB.NS.addr + BitVec.ofInt 64 ns)).onHost (fun h => { h with
    tbAcc := acc - (ns - 1) * 1000000000 })

/-- The timebase steps forward to a value, with TB_STEP; it never runs backward. -/
def State.stepTb (s : State) (v : Nat) : State :=
  if v > s.now then (s.setReg HIF_TB.NS.addr (BitVec.ofNat 64 v)).post 0x0104 s.now v else s

/-- A write of HIF_TB_SET: 0 all 8 bytes, 1 the low half, which is held, 2 the high half. -/
def tbSet (part : Fin 3) (v : W64) (s : State) : Res :=
  match part with
  | 1 => .next (s.onHost (fun h => { h with tbLow := some (BitVec.ofNat 32 v.toNat) }))
  | 2 => .next ((s.onHost (fun h => { h with tbLow := none })).stepTb (v.toNat % 2 ^ 32 * 2 ^ 32 + (s.host.tbLow.getD 0).toNat))
  | _ => .next ((s.onHost (fun h => { h with tbLow := none })).stepTb v.toNat)

/-- PTM_INT ms have passed with PTM as the source. -/
def execPtmRequest (s : State) : Res :=
  whenDue (s.get HIF_TB_CTL.SRC == 1 && s.barUp) s (s.onHost (fun h => { h with ptmOut := true }))

/-- OFFSET, saturating at 31 bits signed. -/
def offsetOf (x : Int) : Nat := ((max (-(2 ^ 30)) (min (2 ^ 30 - 1) x)) % 2 ^ 31).toNat

/-- A PTM response. `offset` is the timebase less the PTM master time; `locks`: the loop is within its bound. A lag above
STEP_US is stepped; what remains is slewed, which takes time only. -/
def execPtmResponse (offset : W64) (locks : Bool) (s : State) : Res :=
  let x := offset.toInt
  let s1 := (s.onHost (fun h => { h with ptmOut := false, ptmMissed := 0 })).put HIF_TB_STAT.OFFSET (offsetOf x)
  let s2 := if -x > 1000 * (max 1 (s.get HIF_TB_CTL.STEP_US) : Nat) then s1.stepTb (s.now + (-x).toNat) else s1
  whenDue (s.host.ptmOut && s.barUp) s
    (if locks && !s.flag HIF_TB_STAT.LOCKED then (s2.putB HIF_TB_STAT.LOCKED true).post 0x0106 1 offset.toNat else s2)

/-- A PTM request goes unanswered; the third in a row clears LOCKED. -/
def execPtmResponseTimeout (s : State) : Res :=
  let n := s.host.ptmMissed + 1
  let s1 := s.onHost (fun h => { h with ptmOut := false, ptmMissed := n })
  whenDue s.host.ptmOut s (if n ≥ 3 && s.flag HIF_TB_STAT.LOCKED then s1.tbUnlock 1 else s1)

/-- A write of IOB_PTP_CTL (R367). -/
def execPtpPortChange (v : BitVec 4) (s : State) : Res := .next (s.ptpPort v.toNat)

/-- HIF_CNT_CLR clears the three counters. -/
def hifCntClr (v : W32) (s : State) : Res :=
  .next (if fieldOf v 0 0 = 1 then ((s.put HIF_DB_DROP.COUNT 0).put HIF_EVT_DROP.COUNT 0).put HIF_BAR4_ERR.COUNT 0 else s)

/-! ### Writes of BAR0 by the host: none reaches the function while the link is down or in D3hot (R294) -/

/-- Runs a write of BAR0 where it reaches the function. -/
def viaBar0 (f : State → Res) (s : State) : Res := if s.barUp then f s else notDue s

/-- RING_ENABLE by the host. -/
def execRingEnable (r : Fin 256) (s : State) : Res := viaBar0 (ringEnable r) s
/-- RING_DISABLE by the host. -/
def execRingDisable (r : Fin 256) (s : State) : Res := viaBar0 (ringDisable r) s
/-- RING_RESUME by the host. -/
def execRingResume (r : Fin 256) (s : State) : Res := viaBar0 (ringResume r) s
/-- RING_FLUSH by the host. -/
def execRingFlush (r : Fin 256) (rest : List Desc) (s : State) : Res := viaBar0 (ringFlush r rest) s
/-- EQ_ENABLE by the host. -/
def execEqEnable (q : Fin 64) (s : State) : Res := viaBar0 (eqEnable q) s
/-- EQ_DISABLE by the host. -/
def execEqDisable (q : Fin 64) (s : State) : Res := viaBar0 (eqDisable q) s
/-- HIF_TB_SET by the host. -/
def execHifTbSet (part : Fin 3) (v : W64) (s : State) : Res := viaBar0 (tbSet part v) s
/-- HIF_CNT_CLR by the host. -/
def execHifCntClr (v : W32) (s : State) : Res := viaBar0 (hifCntClr v) s

end Sys2Proof.Machine
end

