-- ==== Sys2Proof/Machine/Twin.lean ====
section
/-!
DEFINITION. The Arête link and twin mode: pairing, mirrored regions, checkpoints, failure detection and promotion
(R420–R438).
-/

namespace Sys2Proof.Machine

/-! ### The pair -/

/-- Fault source of the Arête link unit (R406). -/
def srcArete : Nat := srcSaddle 10

def roleOff : Nat := 0
def rolePairing : Nat := 1
def rolePrimary : Nat := 2
def roleBackup : Nat := 3
def rolePromoting : Nat := 4

def State.role (s : State) : Nat := s.get TWN_STAT.ROLE
def State.partnerUp (s : State) : Bool := s.flag TWN_STAT.PARTNER_UP

/-- Whether the link can carry frames: a quad of it has lock. -/
def State.areteUp (s : State) : Bool := s.quadLocked 14 || s.quadLocked 15

/-- A mirror operation ends (R422, R423). -/
def State.twinDone (s : State) (d : Desc) (code : Nat) : State := s.opDone d code 0

/-- The operation that waits ends. -/
def State.twinEnd (s : State) (code arg : Nat) : State :=
  match s.twin.desc with
  | some d => (s.onTwin (fun t => { t with desc := none })).opDone d code arg
  | none => s

/-- Lanes 56–63 go to an owner: ARETE at 112 Gbit/s, or OFF. -/
def State.areteLanes (s : State) (on : Bool) : State :=
  let s1 := s.forN 8 (fun k s => s.setReg (IOB_LANE_CFG.OWNER (56 + k)).addr (if on then 4 + 2 ^ 7 else 0))
  if on then s1.forN 2 (fun k s =>
      let t := if s.get (IOB_QPLL.FB (14 + k)) = 2240 then s else (if s.quadLocked (14 + k) then s.quadUnlock (14 + k) else s)
      t.put (IOB_QPLL.FB (14 + k)) 2240)
  else s1

/-- Region registers. -/
def State.regionSt (s : State) (n : Nat) : Nat := s.get (TWN_REG.STATE n)
def State.regionBase (s : State) (n : Nat) : Nat := s.get (TWN_REG.BASE n) * unit2M
def State.regionEnd (s : State) (n : Nat) : Nat := s.regionBase n + s.get (TWN_REG.SIZE n) * unit2M

/-- A region's STATE, its IN_SYNC bit, and TWN_REGION where it changes. -/
def State.setRegion (s : State) (n st : Nat) : State :=
  let s1 := (s.put (TWN_REG.STATE n) st).put TWN_STAT.IN_SYNC (setBit (s.get TWN_STAT.IN_SYNC) n (st == 2))
  if s.regionSt n = st then s1 else s1.post 0x0B04 (n + st * 16)

/-- A region starts its sweep at its base. -/
def State.startSweep (s : State) (n : Nat) : State :=
  (s.onTwin (fun t => { t with sweep := t.sweep.poke (fun _ => 0) n (s.regionBase n) })).setRegion n 1

/-- Writes that wait for an acknowledgement return WRACK: those of the frames that `p` names, which leave the buffer. -/
def State.settleFrames (s : State) (p : TwinFrame → Bool) : State :=
  let gone := s.twin.out.filter p
  (s.onTwin (fun t => { t with out := t.out.filter (fun f => !p f) })).forAll gone (fun f s => match f.wrack with
    | some m => s.respond m opWRACK 0
    | none => s)

/-- Twin mode ends: role OFF, no mirroring, no checkpoints, the lanes free (R424). -/
def State.twinOff (s : State) : State :=
  let s1 := (s.settleFrames (fun _ => true)).forN 16 (fun n s => s.setRegion n 0 |>.setReg (TWN_REG.STATE n).addr 0)
  let s2 := (s1.put TWN_STAT.ROLE roleOff).put TWN_STAT.PARTNER_UP 0 |>.put TWN_STAT.LINK_HALF 0
  let s3 := ((s2.put TWN_VER.ACTIVE 0).put TWN_VER.PEER_MAX 0).put TWN_VER.PEER_MIN 0 |>.putB CRY_ARL_STAT.KEYED false
  let running := s3.twin.ckpt.filter (fun p => p.2.run != 0)
  let s4 := s3.forAll running (fun p s => s.endCkpt p.1)
  (s4.onTwin (fun t => { notices := t.notices, desc := t.desc })).areteLanes false

/-- Pairing fails (R424). -/
def State.pairFail (s : State) (code : Nat) : State := s.twinOff.twinEnd code 0

/-- TWN_PAIR: `hash` is the 48-byte hash as the host window answers the read at W3, `rd` the code of that answer. -/
def execTwnPair (d : Desc) (hash : List Byte) (rd : BitVec 8) (s : State) : Res :=
  let ok := d.only 2 1 && d.only 3 (bitsHL 47 0) && d.f 3 47 47 == 1 && d.zeroFrom 4
  s.runRead d 0x48 ok (d.f 3 47 0) 48 rd.toNat (fun s =>
    if s.role ≠ roleOff then s.twinDone d 1
    else if (List.range 8).any (fun k => s.get (IOB_LANE_CFG.OWNER (56 + k)) != 0) then s.twinDone d 2
    else ((s.areteLanes true).put TWN_STAT.ROLE rolePairing).onTwin (fun t => { t with
      hash := hash, desc := some d, asked := rolePrimary + d.f 2 0 0, stage := 1 }))

/-- The version both devices use (R425). -/
def State.negotiate (s : State) : Option Nat :=
  let lo := max (s.get TWN_VER.LOCAL_MIN) (s.get TWN_VER.PEER_MIN)
  let hi := min (s.get TWN_VER.LOCAL_MAX) (s.get TWN_VER.PEER_MAX)
  let pin := s.get TWN_VER.PINNED
  if pin ≠ 0 ∧ lo ≤ pin ∧ pin ≤ hi then some pin else if hi ≥ lo then some hi else none

/-- A HELLO of the partner: its role (0 primary, 1 backup) and version range, and whether its key matches the hash of
TWN_PAIR and its signature holds. From a paired partner it renews the range; one that was lost pairs again, with new keys and
sequence numbers (R285). -/
def execHello (role : Fin 2) (vmin vmax : Byte) (authOk : Bool) (s : State) : Res :=
  let s1 := (s.put TWN_VER.PEER_MIN vmin.toNat).put TWN_VER.PEER_MAX vmax.toNat
  if s.role = rolePairing then
    whenDue (s.twin.stage == 1 && s.areteUp) s
      (if !authOk then s.pairFail 3
       else if s.twin.asked = rolePrimary + role.val then s.pairFail 7
       else s1.firstKeys.onTwin (fun t => { t with stage := 2 }))
  else whenDue (s.role ≥ 2 && s.areteUp && authOk) s
    (if s.partnerUp ∨ s.role = rolePrimary + role.val then s1
     else s1.firstKeys.onTwin (fun t => { t with sendSeq := 0, gotSeq := 0, gotOther := 0 }))

/-- No HELLO is answered within 100 ms. -/
def execHelloTimeout (s : State) : Res := whenDue (s.role == rolePairing && s.twin.stage == 1) s (s.pairFail 6)

/-- The versions are negotiated; role, heartbeats and event. -/
def execPairingComplete (s : State) : Res :=
  whenDue (s.role == rolePairing && s.twin.stage == 2) s
    (match s.negotiate with
      | none => s.pairFail 4
      | some v =>
        let s1 := ((s.put TWN_STAT.ROLE s.twin.asked).put TWN_STAT.PARTNER_UP 1).put TWN_VER.ACTIVE v
        (((s1.onTwin (fun t => { t with stage := 0, lastBeat := s.now, sendSeq := 0, gotSeq := 0, gotOther := 0, out := [] })).post 0x0B01
          (s.twin.asked + v * 256))).showHalf.twinEnd 0 v)

/-- VERSION_SET: the pin takes effect at the next heartbeat. -/
def execVersionSet (d : Desc) (s : State) : Res :=
  s.runDesc d 0x4E (d.only 2 (bitsHL 7 0) && d.zeroFrom 3) (fun s => (s.put TWN_VER.PINNED (d.f 2 7 0)).twinDone d 0)

/-! ### Mirrored regions (R427, R428) -/

/-- Spans of HBM that a mirrored region may not meet: other regions, the image store, the page-table area, the page pool. -/
def State.takenSpans (s : State) : List (Nat × Nat) :=
  let regs := ((List.range 16).filter (fun n => s.regionSt n != 0)).map (fun n => (s.regionBase n, s.regionEnd n))
  let area (b z : Nat) : List (Nat × Nat) := if z = 0 then [] else [(b * unit2M, (b + z) * unit2M)]
  regs ++ area (s.get SWB_IMG_BASE.BASE) (s.get SWB_IMG_SIZE.SIZE) ++ area (s.get SWB_PT_BASE.BASE) (s.get SWB_PT_SIZE.SIZE)
    ++ area (s.get SWB_POOL_BASE.BASE) (s.get SWB_POOL_SIZE.SIZE)

/-- MIRROR_ADD; `peerOk`: the region meets no Switchback region of the partner. -/
def execMirrorAdd (d : Desc) (peerOk : Bool) (s : State) : Res :=
  let sync := d.f 2 4 4
  let lag := d.f 2 31 16
  let ok := d.only 2 (bitsHL 31 16 + bitsHL 4 0) && d.only 3 (bitsHL 47 0) && d.only 4 (bitsHL 14 0) && d.zeroFrom 5
    && (sync == 1 || lag ≥ 10)
  s.runDesc d 0x4A ok (fun s =>
    let n := d.f 2 3 0
    let base := d.f 3 47 0
    let size := d.f 4 14 0
    let bad := size = 0 ∨ base % unit2M ≠ 0 ∨ !hbmRegionOk base size ∨ s.regionSt n ≠ 0 ∨ !peerOk
      ∨ s.takenSpans.any (fun p => spansMeet base (base + size * unit2M) p.1 p.2)
    if s.role ≠ rolePrimary then s.twinDone d 1
    else if bad then s.twinDone d 5
    else
      let s1 := (((s.put (TWN_REG.SYNC n) sync).put (TWN_REG.SIZE n) size).put (TWN_REG.BASE n) (base / unit2M)).put
        (TWN_REG.LAG_US n) (if sync = 1 then 0 else lag)
      (if s.partnerUp then s1.startSweep n else s1.setRegion n 3).twinDone d 0)

/-- MIRROR_REMOVE. -/
def execMirrorRemove (d : Desc) (s : State) : Res :=
  s.runDesc d 0x4B (d.only 2 (bitsHL 3 0) && d.zeroFrom 3) (fun s =>
    let n := d.f 2 3 0
    if s.role ≠ rolePrimary then s.twinDone d 1
    else if s.regionSt n = 0 then s.twinDone d 5
    else
      let s1 := s.settleFrames (fun f => f.kind == 3 && f.region == n)
      ((s1.setRegion n 0).setReg (TWN_REG.STATE n).addr 0).twinDone d 0)

/-- The sweep of a region has copied it: its frames take their numbers, and it is IN_SYNC. -/
def execMirrorSweepComplete (n : Fin 16) (s : State) : Res :=
  whenDue (s.role == rolePrimary && s.partnerUp && s.regionSt n.val == 1) s
    (((s.arlSend (s.get (TWN_REG.SIZE n.val) * 4096)).onTwin (fun t => { t with
      sendSeq := t.sendSeq + s.get (TWN_REG.SIZE n.val) * 4096
      sweep := t.sweep.poke (fun _ => 0) n.val (s.regionEnd n.val) })).setRegion n.val 2)

/-- Sends a lossless frame. -/
def State.sendFrame (s : State) (f : TwinFrame) : State :=
  (s.arlSend 1).onTwin (fun t => { t with out := t.out ++ [{ f with seq := t.sendSeq, time := s.now }], sendSeq := t.sendSeq + 1 })

/-- The mirrored region that holds an address. -/
def State.regionAt (s : State) (dpa : Nat) : Option Nat :=
  (List.range 16).find? (fun n => s.regionSt n != 0 && s.regionBase n ≤ dpa && dpa < s.regionEnd n)

/-- Whether a write from a requester to a span of HBM is refused: mirrored regions are read-only on a backup (R426). -/
def State.mirrorDenied (s : State) (a len : Nat) : Bool :=
  (s.role == roleBackup || s.role == rolePromoting)
    && (List.range 16).any (fun n => s.regionSt n != 0 && spansMeet a (a + len) (s.regionBase n) (s.regionEnd n))

/-- Whether a write to a span is forwarded: by the primary with its partner up, outside what the sweep has yet to copy. -/
def State.mirrors (s : State) (a : Nat) : Option Nat :=
  if s.role ≠ rolePrimary ∨ !s.partnerUp then none
  else match s.regionAt a with
    | some n => if s.regionSt n = 2 ∨ (s.regionSt n = 1 ∧ a < s.twin.sweep.peek (fun _ => 0) n) then some n else none
    | none => none

/-- Whether a forwarded write must wait: the sender's buffer of 8,192 frames is full, or the region is async and its oldest
unacknowledged write is LAG_US old (R420, R427). -/
def State.mirrorWaits (s : State) (a : Nat) : Bool :=
  match s.mirrors a with
  | none => false
  | some n => s.twin.out.length ≥ 8192 || (!s.flag (TWN_REG.SYNC n)
      && s.twin.out.any (fun f => f.kind == 3 && f.region == n && s.now ≥ f.time + 1000 * s.get (TWN_REG.LAG_US n)))

/-! ### Frames that arrive (R420, R421) -/

/-- A frame that passed its tag. -/
def State.frameGood (s : State) : State := s.onCry (fun c => { c with arlFails := 0 })

/-- A frame whose number does not exceed the last accepted one: discarded and counted (R285, R289). -/
def State.replayed (s : State) : State := s.frameGood.bump CRY_ARL_STAT.REJECTED

def State.say (s : State) (kind seq : Nat) : State := (s.arlSend 1).onTwin (fun t => { t with reply := some (kind, seq) })

/-- The header of a frame by its SEQ and what stands with it. -/
def ArlTag.head (t : ArlTag) (seq : Nat) : ArlHead := { key := t.key, seq := seq, ok := t.ok }

/-- A lossless frame in SEQ order: applied and its number taken; a failed one or one beyond a gap is answered with NAK for
the first missing, an old one is discarded. -/
def State.inOrder (s : State) (h : ArlHead) (f : State → State) : State :=
  let n := s.twin.gotSeq
  if !s.arlGood h then s.arlFailed.say 5 n
  else if h.seq < n then s.replayed
  else if h.seq > n then s.frameGood.say 5 n
  else f (s.frameGood.onTwin (fun t => { t with gotSeq := n + 1 }))

/-- A frame that is never resent: a failed one is discarded, and so is one whose number does not exceed the last accepted one of
such frames (R285, R420; assumption log 81). -/
def State.inTurn (s : State) (h : ArlHead) (f : State → State) : State :=
  if !s.arlGood h then s.arlFailed
  else if h.seq < s.twin.gotOther then s.replayed
  else f (s.frameGood.onTwin (fun t => { t with gotOther := h.seq + 1 }))

/-- The bytes of a mask as runs: offset and data of each. -/
def runsOf : Nat → List (Bool × Byte) → List (Nat × List Byte)
  | _, [] => []
  | k, (false, _) :: l => runsOf (k + 1) l
  | k, (true, b) :: l =>
    match runsOf (k + 1) l with
    | (j, bs) :: rest => if j = k + 1 then (k, b :: bs) :: rest else (k, [b]) :: (j, bs) :: rest
    | [] => [(k, [b])]

/-- A forwarded write at the backup: its bytes under the mask; a failure is answered with NAK (R428). -/
def State.applyMirror (s : State) (seq dpa : Nat) (mask : List Bool) (data : List Byte) : State :=
  let go := (runsOf 0 (mask.zip data)).foldl (fun (r : Nat × State) (p : Nat × List Byte) =>
    if r.1 ≠ 0 then r
    else
      let a := dpa + p.1
      let c := r.2.hbmCheck a p.2.length
      if c ≠ 0 then (c, r.2) else r.2.sealedWrite 0 p.2 (spansOf a p.2.length)) (0, s)
  if go.1 = 0 then go.2.say 4 seq else go.2.say 5 seq

/-- MIRROR_WR. -/
def execMirrorWr (region : Fin 16) (seq : Nat) (dpa : BitVec 48) (mask : List Bool) (data : List Byte) (ok : ArlTag) (s : State) : Res :=
  if mask.length != data.length || data.length > 512 || data == [] then illFormed
  else whenDue (s.role == roleBackup && s.areteUp && s.regionSt region.val != 0) s
    (s.inOrder (ok.head seq) (fun s => s.applyMirror seq dpa.toNat mask data))

/-- Whether a TAKEOVER has its final checkpoints at the backup. -/
def State.drained (s : State) : Bool := s.twin.drain == [] && !s.twin.out.any (fun f => f.kind == 6)

def State.takingOver (s : State) : Bool :=
  match s.twin.desc with
  | some d => s.role == rolePrimary && d.opcode == 0x4D
  | none => false

/-- The primary hands over: NOTICE, and it becomes the backup (R435). -/
def State.handOver (s : State) : State :=
  if s.takingOver ∧ s.drained then ((s.notice 4).put TWN_STAT.ROLE roleBackup).twinEnd 0 0 else s

/-- ACK: every frame up to `seq` is acknowledged. `skew`: for a completed checkpoint, the partner's IMAGE_HASH differs. -/
def execAck (seq : Nat) (skew : Bool) (h : ArlHead) (s : State) : Res :=
  whenDue (s.role ≥ 2 && s.areteUp) s (s.inTurn h (fun s =>
    let s1 := s.settleFrames (fun f => f.seq ≤ seq)
    let done := s.twin.ckpt.filter (fun p => match p.2.lastFrame with
      | some n => n ≤ seq
      | none => false)
    (s1.forAll done (fun p s => s.modCkpt p.1 (fun k => { k with lastFrame := none, peerOk := true, skew := skew }))).handOver))

/-- A mirrored write did not take effect at the backup: it completes, its region sweeps again, and Cairn learns of it (R428). -/
def State.mirrorFailed (s : State) (seq : Nat) : State :=
  match s.twin.out.find? (fun f => f.seq == seq && f.kind == 3) with
  | none => s
  | some f =>
    let s1 := s.settleFrames (fun g => g.seq == seq)
    let s2 := s1.startSweep f.region
    (if s1.regionSt f.region = 0 then s1 else if s1.regionSt f.region = 1 then s2.post 0x0B04 (f.region + 16) else s2).toCairn
      0x22 srcArete sevMajor 0

/-- NAK: the sender resends from `seq`; with `failed` the write under `seq` did not take effect at the backup (R420, R428). -/
def execNak (seq : Nat) (failed : Bool) (h : ArlHead) (s : State) : Res :=
  let again := (s.twin.out.filter (fun f => f.seq ≥ seq)).length
  whenDue (s.role ≥ 2 && s.areteUp) s (s.inTurn h (fun s =>
    if failed then s.mirrorFailed seq else (s.bump TWN_LINK.RETX again).arlSend again))

/-- KEY: the partner's direction changes its key (R285). -/
def execKey (h : ArlHead) (s : State) : Res :=
  whenDue (s.flag CRY_ARL_STAT.KEYED && s.areteUp) s (s.inTurn h State.newKeys)

/-! ### Checkpoints (R429) -/

/-- Whether a context is registered with a STATEFUL variant. -/
def State.stateful (s : State) (c : Nat) : Bool := s.swb.images.any (fun r => r.ctx == c && nbit r.img.flags.toNat 0)

/-- CKPT_SET. -/
def execCkptSet (d : Desc) (s : State) : Res :=
  s.runDesc d 0x4C (d.only 2 (bitsHL 32 16 + bitsHL 9 0) && d.zeroFrom 3) (fun s =>
    let c := d.f 2 9 0
    let ms := d.f 2 31 16
    let s1 := s.modCkpt c (fun k => { k with interval := ms, quiesce := d.f 2 32 32 == 1 })
    if s.role ≠ rolePrimary then s.twinDone d 1
    else if !s.stateful c then s.twinDone d 8
    else if ms = 0 then ((s.endCkpt c).onTwin (fun t => { t with ckpt := t.ckpt.poke (fun _ => {}) c {} })).twinDone d 0
    else if !s1.ckptFits then s.twinDone d 9
    else s1.twinDone d 0)

/-- INTERVAL_MS has passed: the readback is asked for, with QUIESCE = 1 after QACK. -/
def execCheckpointInterval (c : BitVec 10) (s : State) : Res :=
  let n := c.toNat
  let k := s.ckptOf n
  whenDue (s.role == rolePrimary && k.interval != 0 && k.run == 0 && (s.ctx n).state == 4 && !s.takingOver) s
    (if k.quiesce then (s.modCkpt n (fun k => { k with run := 1 })).forAll ((s.islandsOf n).take 1) (fun i s =>
      s.modIsland i (fun x => { x with qreq := true }))
     else (s.modCkpt n (fun k => { k with run := 2 })).addJob (s.ckptJob n))

/-- A checkpoint goes into the older local slot and, in parts of one island, to the partner. -/
def State.keepCkpt (s : State) (c : Nat) (sv : SavedState) : State :=
  let k := s.ckptOf c
  let no := k.no + 1
  let older : Bool := match k.slotA, k.slotB with
    | none, _ => true
    | some _, none => false
    | some a, some b => a.1 ≤ b.1
  let s1 := (s.modCkpt c (fun k => if older then { k with slotA := some (no, sv), no := no } else { k with slotB := some (no, sv), no := no })).modCtx
    c (fun x => { x with ckpt := some sv, ckptNewer := true })
  if s.partnerUp then
    let s2 := s1.forN sv.islands.length (fun _ s => s.sendFrame { kind := 6, seq := 0, time := 0, ctx := c })
    s2.modCkpt c (fun k => { k with lastFrame := some (s2.twin.sendSeq - 1), sentAt := s.now })
  else s1

/-- A checkpoint is given up: 1 fence, 2 uncorrectable word, 4 quiesce time-out. -/
def State.failCkpt (s : State) (c why : Nat) : State := (s.endCkpt c).post 0x0B06 (c + why * 256)

/-- The readback of a checkpoint ends, or the final one of a TAKEOVER, which the context's eviction has saved. -/
def execCheckpointReadbackComplete (c : BitVec 10) (s : State) : Res :=
  let n := c.toNat
  let x := s.ctx n
  let left (t : State) : State := (t.onTwin (fun t => { t with drain := t.drain.filter (· != n) })).handOver
  if s.takingOver ∧ s.twin.drain.contains n then
    whenDue (!x.placed) s (match x.saved with
      | some sv => left (s.keepCkpt n sv)
      | none => left (s.post 0x0B06 (n + 4 * 256)))
  else
    let began := s.jobRuns (s.ckptJob n)
    let img := match s.image n x.variant with
      | some r => r.img
      | none => {}
    let take := s.saveAll img (numbered (s.islandsOf n))
    if (s.ckptOf n).run = 0 then notDue s
    else if x.state = 4 then
      whenDue ((s.ckptOf n).run == 2 && began) s
        (if take.2.1 then take.2.2.failCkpt n 2
         else (take.2.2.endCkpt n).keepCkpt n { variant := x.variant, islands := take.1, quiesced := (s.ckptOf n).quiesce })
    else if x.state = 6 ∧ !began ∧ (s.ckptOf n).run = 2 ∧ !take.2.1 then
      .next ((take.2.2.endCkpt n).keepCkpt n { variant := x.variant, islands := take.1, quiesced := (s.ckptOf n).quiesce })
    else .next (s.failCkpt n 1)

/-- A part of a checkpoint at the backup: complete when every part has arrived. Under version 2 an island that is not sent is
that of the checkpoint held. -/
def State.storePart (s : State) (p : CkptPart) : State :=
  let c := p.ctx.toNat
  let old := s.twin.held.find? (fun h => h.ctx == c)
  let base : Table SavedIsland := if s.get TWN_VER.ACTIVE ≥ 2 then (match old with
    | some h => if h.variant = p.variant.val then h.islands else []
    | none => []) else []
  let fresh : HeldCkpt := { ctx := c, variant := p.variant.val, hash := p.hash, quiesce := p.quiesce, time := p.time.toNat
                            no := p.no, parts := p.parts, got := 0, islands := base }
  let cur : HeldCkpt := match s.twin.rx with
    | some r => if r.ctx = c ∧ r.no = p.no then r else fresh
    | none => fresh
  let now : HeldCkpt := { cur with got := cur.got + 1, islands := cur.islands.pokes (fun _ => {}) p.islands }
  if now.got ≥ now.parts then
    s.onTwin (fun t => { t with rx := none, held := t.held.filter (fun h => h.ctx != c) ++ [now] })
  else s.onTwin (fun t => { t with rx := some now })

/-- CKPT: a context the backup has not registered is dropped. -/
def execCkpt (p : CkptPart) (seq : Nat) (ok : ArlTag) (s : State) : Res :=
  whenDue (s.role == roleBackup && s.areteUp) s
    (s.inOrder (ok.head seq) (fun s =>
      (if s.registered p.ctx.toNat then s.storePart p else s.post 0x0B06 (p.ctx.toNat + 3 * 256)).say 4 seq))

/-! ### Failure detection and promotion (R430–R434) -/

/-- A backup begins its promotion: partial frames and incomplete checkpoints are discarded. -/
def State.startPromotion (s : State) : State :=
  (s.put TWN_STAT.ROLE rolePromoting).onTwin (fun t => { t with rx := none, promoted := s.now })

/-- The contexts a TAKEOVER has evicted are loaded again when it fails. -/
def State.reloadDrained (s : State) : State :=
  s.forAll ((s.twin.ckpt.filter (fun p => p.2.interval != 0)).map (fun p => p.1)) (fun c s =>
    let x := s.ctx c
    if x.placed ∨ x.saved = none ∨ x.state ≠ 1 then s else s.request { ctx := c, variant := x.variant })

/-- A takeover is given up. -/
def State.endTakeover (s : State) : State :=
  if s.takingOver then ((s.onTwin (fun t => { t with drain := [] })).twinEnd 1 0).reloadDrained else s

/-- TWN_UNPAIR, legal while paired. An operation that waits ends with BAD_STATE (assumption log 84). -/
def execTwnUnpair (d : Desc) (s : State) : Res :=
  s.runDesc d 0x49 (d.zeroFrom 2) (fun s =>
    if s.role < 2 then s.twinDone d 1 else ((((s.notice 2).endTakeover).twinOff).twinEnd 1 0).twinDone d 0)

/-- The partner is declared lost (R430): cause 0 heartbeats, 1 NOTICE, 2 versions. -/
def State.partnerLost (s : State) (cause : Nat) : State :=
  let s1 := ((s.put TWN_STAT.PARTNER_UP 0).post 0x0B02 cause s.twin.lastBeat).toCairn 0x20 srcArete sevMajor 0
  if s.role = rolePrimary then
    let s2 := (s1.settleFrames (fun _ => true)).forN 16 (fun n s => if s.regionSt n = 0 then s else s.setRegion n 3)
    s2.endTakeover
  else if s.flag TWN_CTL.AUTO_PROMOTE ∨ cause = 1 then s1.startPromotion
  else s1.onTwin (fun t => { t with rx := none })

/-- A heartbeat of the partner: its role, `missed` intervals before it, and at a backup the partner's region settings. A valid
one renews the version; without a common one the partner counts as lost. -/
def execHeartbeat (role : Fin 5) (missed : Fin 5) (regions : List (Fin 16 × W64)) (h : ArlHead) (s : State) : Res :=
  whenDue ((s.role == rolePrimary || s.role == roleBackup) && s.areteUp) s (s.inTurn h (fun s =>
    let s0 := (s.bump TWN_LINK.MISSED missed.val).onTwin (fun t => { t with lastBeat := s.now })
    let s1 := if s.role = roleBackup then s0.forAll regions (fun p s => s.setReg (TWN_REG.STATE p.1.val).addr p.2) else s0
    let s2 := if s.role = roleBackup then s1.put TWN_STAT.IN_SYNC ((List.range 16).foldl (fun n k =>
        setBit n k (s1.regionSt k == 2)) 0) else s1
    let back (t : State) : State :=
      if s.partnerUp then t
      else (t.put TWN_STAT.PARTNER_UP 1).forN 16 (fun n s => if s.role = rolePrimary ∧ s.regionSt n ≠ 0 then s.startSweep n else s)
    if s.role = rolePrimary ∧ role.val = rolePrimary then
      (if s.flag TWN_STAT.DUAL then s0
       else ((s0.put TWN_STAT.DUAL 1).put TWN_STAT.PARTNER_UP 0).forN 16 (fun n s =>
         if s.regionSt n = 0 then s else s.setRegion n 3) |>.settleFrames (fun _ => true) |>.post 0x0B07)
    else match s.negotiate with
      | none => if s.partnerUp then s2.partnerLost 2 else s2
      | some v =>
        let old := s.get TWN_VER.ACTIVE
        back (if v = old then s2 else (s2.put TWN_VER.ACTIVE v).post 0x0B08 v old)))

/-- Five heartbeat intervals have passed without a valid heartbeat. -/
def execPartnerHeartbeatTimeout (s : State) : Res :=
  whenDue ((s.role == rolePrimary || s.role == roleBackup) && s.partnerUp) s ((s.bump TWN_LINK.MISSED 5).partnerLost 0)

/-- NOTICE: 0 power-fail, 1 park, 2 TWN_UNPAIR, 3 reset, 4 TAKEOVER. A partner already lost is not declared again, and one
that unpairs leaves both devices OFF (R424). -/
def execNotice (cause : Fin 5) (seq : Nat) (ok : ArlTag) (s : State) : Res :=
  whenDue ((s.role == rolePrimary || s.role == roleBackup) && s.areteUp) s
    (s.inOrder (ok.head seq) (fun s =>
      let s1 := s.say 4 seq
      if cause = 2 then
        (((s1.put TWN_STAT.PARTNER_UP 0).post 0x0B02 1 s.twin.lastBeat).toCairn 0x20 srcArete sevMajor 0).endTakeover.twinOff
      else if s.partnerUp then s1.partnerLost 1 else s1))

/-- PROMOTE. -/
def execPromote (d : Desc) (s : State) : Res :=
  s.runDesc d 0x4F (d.zeroFrom 2) (fun s =>
    if s.role ≠ roleBackup ∨ s.partnerUp then s.twinDone d 1
    else s.startPromotion.onTwin (fun t => { t with desc := some d }))

/-- Promotion ends: regions writable, ROLE = PRIMARY, and the checkpointed contexts are loaded, fresh where the registered
variant's IMAGE_HASH differs. -/
def execPromotionComplete (s : State) : Res :=
  let bad := (List.range 16).foldl (fun n k => setBit n k (s.regionSt k == 1 || s.regionSt k == 3)) 0
  let s1 := ((s.put TWN_STAT.ROLE rolePrimary).forN 16 (fun n s => if s.regionSt n = 0 then s else s.setRegion n 3))
  let s2 := (s1.post 0x0B03 bad (s.now - s.twin.promoted)).toCairn 0x21 srcArete sevMajor 0
  let held := (List.range 8).reverse.flatMap (fun p => s.twin.held.filter (fun h => (s.ctx h.ctx).prio == p && s.registered h.ctx))
  let s3 := s2.onTwin (fun t => { t with held := [], ckpt := [] })
  let s4 := s3.forAll held (fun h s =>
    let same := match s.image h.ctx h.variant with
      | some r => r.img.hash == h.hash
      | none => false
    if same then
      (s.modCtx h.ctx (fun x => { x with
        ckpt := some { variant := h.variant, islands := h.islands.map (fun p => p.2), quiesced := h.quiesce }, ckptNewer := true })).request
        { ctx := h.ctx, variant := h.variant }
    else (s.post 0x0B05 h.ctx).request { ctx := h.ctx, variant := h.variant, fresh := true })
  whenDue (s.role == rolePromoting) s (s4.twinEnd 0 0)

/-- TAKEOVER: every checkpointed resident context is quiesced and saved, then the primary hands over. -/
def execTakeover (d : Desc) (s : State) : Res :=
  s.runDesc d 0x4D (d.zeroFrom 2) (fun s =>
    let bad := (List.range 16).any (fun n => s.regionSt n != 0 && s.regionSt n != 2)
    let cs := ((s.twin.ckpt.filter (fun p => p.2.interval != 0)).map (fun p => p.1)).filter (fun c =>
      (s.ctx c).state == 4 || (s.ctx c).state == 5)
    if s.role ≠ rolePrimary ∨ bad ∨ !s.partnerUp ∨ s.twin.desc.isSome then s.twinDone d 1
    else
      let s1 := s.forAll cs (fun c s => (if (s.ckptOf c).run = 0 then s else s.failCkpt c 1).request { ctx := c, kind := 4, force := true })
      (s1.onTwin (fun t => { t with desc := some d, drain := cs })).handOver)

/-! ### Registers (R438) -/

/-- TWN_CKPT_SEL captures TWN_CKPT_INFO. -/
def execTwnCkptSelWrite (v : W32) (s : State) : Res :=
  let c := fieldOf v 9 0
  let k := s.ckptOf c
  let h := s.twin.held.find? (fun h => h.ctx == c)
  let at_ := match h with
    | some x => x.time
    | none => k.sentAt
  let peer := k.peerOk || h.isSome
  let skew := k.skew || (match h with
    | some x => (match s.image c x.variant with
      | some r => r.img.hash != x.hash
      | none => true)
    | none => false)
  let s1 := (((s.put TWN_CKPT_SEL.CTX c).put TWN_CKPT_INFO.INTERVAL_MS k.interval).putB TWN_CKPT_INFO.LOCAL_OK
    (k.slotA.isSome || k.slotB.isSome)).putB TWN_CKPT_INFO.PEER_OK peer
  .next (((s1.putB TWN_CKPT_INFO.SKEW skew).putB TWN_CKPT_INFO.QUIESCE k.quiesce).put TWN_CKPT_INFO.AGE_MS
    (if peer then min ((s.now - at_) / 1000000) (2 ^ 32 - 1) else 0))

/-- TWN_CNT_CLR clears TWN_LINK. -/
def execTwnCntClr (v : W32) (s : State) : Res :=
  .next (if fieldOf v 0 0 = 1 then (s.put TWN_LINK.MISSED 0).put TWN_LINK.RETX 0 else s)

end Sys2Proof.Machine
end

