-- ==== Sys2Proof/Machine/Debug.lean ====
section
/-!
DEFINITION. Debug: authorisation, relock, Lookout run control and the trace buffer (R454–R461, R469–R473).
-/

namespace Sys2Proof.Machine

def State.onDbg (s : State) (f : Debug → Debug) : State := { s with dbg := f s.dbg }

def srcDebug : Nat := srcSaddle 0x30

def State.level (s : State) : Nat := s.get DBG_STAT.LEVEL

/-! ### Relock (R460, R461) -/

/-- ATTACH clears: what the rung that PWR_RUNG reports does to rails, clocks and HBM is done now (R461). -/
def State.detach (s : State) : State :=
  let s0 := (s.put DBG_CTL.ATTACH 0).putB DBG_STAT.ATTACHED false
  if !s0.flag PWR_RUNG.EMULATED then s0
  else
    let s1 := s0.putB PWR_RUNG.EMULATED false
    let r := s1.get PWR_RUNG.CUR
    let s2 := s1.forN 256 (fun i s =>
      let e := s1.rungAt i
      if e ≥ 3 then (if s1.keptRun i then s else s.stopClocks i) else if e ≥ 1 then s.gateClocks i e else s)
    let s3 := if r ≥ 3 then s2.forAll (s2.bootOn [0, 1, 2, 3]) (fun c s =>
        if (s.islandsOf c).any (fun i => keptRunning (s.setting i)) then s else s.holdBoot c 0) else s2
    let s4 := if r ≥ 1 then s3.hbmRung r else s3
    if r ≥ 4 then (s4.hbmGone.onPwr (fun p => { p with hbmOff := true })).lkoSleep true else s4

/-- Tracing stops; packets not yet written are dropped. -/
def State.traceOff (s : State) : State :=
  { (s.bump DBG_TRC_LOST.COUNT s.trace.length).putB DBG_TRC_CTL.EN false with trace := [] }

/-- Lookout leaves a debugger's halt and goes on with what waited. -/
def State.lkoGoes (s : State) : State := if s.flag DBG_LKO_CTL.HALTED then (s.lkoFree.drainFifo).pump 1025 else s

/-- Relock: 0 command, 1 reset, 2 power-fail, 3 Saddle self-test. Level 0 has nothing to give back. -/
def State.relock (s : State) (cause : Nat) : State :=
  if s.level = 0 then s
  else
    let s1 := s.forAll (s.engines.map (fun p => p.1)) (fun i s =>
      (s.modEng i (fun e => { e with comp := e.comp.map (fun w => w &&& 0x7FFFFFFFFFFFFFFF), haltPend := 0 })).engResume i)
    let s2 := (s1.lkoGoes.traceOff.detach)
    let s3 := (s2.forAll s2.dbg.trails (fun p s => s.closeTrail p.2)).onDbg (fun d => { d with trails := [] })
    ((s3.put DBG_STAT.LEVEL 0).put DBG_STAT.SCOPE 0).post 0x0D02 cause

/-! ### Authorisation (R455–R459) -/

def State.dbgByte (s : State) (n : Nat) : Nat := nfield (s.get (DBG_BUF.BYTES (n / 8))) (8 * (n % 8) + 7) (8 * (n % 8))

/-- A command ends: DBG_BUF is zeroed. -/
def State.dbgDone (s : State) : State := s.forN 32 (fun k s => s.put (DBG_BUF.BYTES k) 0)

/-- A level is granted. `method`: 0 challenge, 1 password. -/
def State.grant (s : State) (level scope method : Nat) (pcie : Bool) : State :=
  let sc := if level = 3 then 0x3FF else scope
  (((s.put DBG_STAT.LEVEL level).put DBG_STAT.SCOPE sc).put DBG_STAT.RESULT 0).post 0x0D01
    (level + method * 4 + (if pcie then 8 else 0)) sc

/-- A counted failure; the eighth locks out. -/
def State.authFail (s : State) (code : Nat) : State :=
  let n := min 8 (s.get DBG_STAT.FAILS + 1)
  let s1 := (((s.put DBG_STAT.RESULT code).put DBG_STAT.FAILS n).onDbg (fun d => { d with last := some s.now })).post 0x0D03
    (code + n * 256)
  if n = 8 ∧ !s.flag DBG_STAT.LOCKOUT then
    ((s1.putB DBG_STAT.LOCKOUT true).post 0x0D04 8).toCairn 0x25 srcDebug sevMinor 0
  else s1

/-- What keeps an attempt from being checked: LOCKED_OUT, RATE. -/
def State.authBar (s : State) : Nat :=
  let soon : Bool := match s.dbg.last with
    | some t => s.now - t < 1000000000
    | none => false
  if s.flag DBG_STAT.LOCKOUT then 6 else if soon then 7 else 0

/-- CHALLENGE: the nonce is four free values. -/
def State.challenge (s : State) : State :=
  let bar := s.authBar
  let code := if bar ≠ 0 then bar else if s.fuses.debugHash = [] ∧ !s.flag DBG_STAT.OPEN then 5 else 0
  (((s.forN 4 (fun k s => (s.put (DBG_NONCE.BYTES k) s.fresh.toNat).took)).put DBG_STAT.RESULT code).onDbg
    (fun d => { d with nonce := true })).dbgDone

/-- RESPOND: `keyHash` is SHA-384 of the key in the buffer, `sigOk` the verdict on the signature. -/
def State.respondAuth (s : State) (pcie : Bool) (keyHash : List Byte) (sigOk : Bool) : State :=
  let s0 := s.onDbg (fun d => { d with nonce := false })
  let level := s.dbgByte 97
  let scope := (s.dbgByte 98 + 256 * s.dbgByte 99) % 1024
  let ranged := 1 ≤ level ∧ level ≤ 3
  let bar := s.authBar
  State.dbgDone (
    if s.flag DBG_STAT.OPEN ∧ ranged then s0.grant level scope 0 pcie
    else if bar ≠ 0 then s0.put DBG_STAT.RESULT bar
    else if !s.dbg.nonce then s0.put DBG_STAT.RESULT 4
    else if s.fuses.debugHash = [] ∧ !s.flag DBG_STAT.OPEN then s0.put DBG_STAT.RESULT 5
    else if keyHash ≠ s.fuses.debugHash ∧ !s.flag DBG_STAT.OPEN then s0.authFail 1
    else if !sigOk ∨ !ranged then s0.authFail 2
    else s0.grant level scope 0 pcie)

/-- PASSWORD: `hash` is SHA-384 of the password in the buffer. -/
def State.password (s : State) (pcie : Bool) (hash : List Byte) : State :=
  let len := s.dbgByte 64
  let bar := s.authBar
  State.dbgDone (
    if bar ≠ 0 then s.put DBG_STAT.RESULT bar
    else if s.fuses.pwHash = [] then s.put DBG_STAT.RESULT 5
    else if len < 16 ∨ 64 < len ∨ hash ≠ s.fuses.pwHash then s.authFail 3
    else s.grant s.fuses.pwLevel 0x3FF 1 pcie)

def execChallenge (s : State) : Res := .next s.challenge

def execRespond (pcie : Bool) (keyHash : List Byte) (sigOk : Bool) (s : State) : Res := .next (s.respondAuth pcie keyHash sigOk)

def execPassword (pcie : Bool) (hash : List Byte) (s : State) : Res := .next (s.password pcie hash)

/-- 10 s after CHALLENGE. -/
def execNonceExpiry (s : State) : Res := whenDue s.dbg.nonce s (s.onDbg (fun d => { d with nonce := false }))

def execDbgLock (s : State) : Res := .next (s.relock 0).dbgDone

/-- A write of DBG_CTL.ATTACH; ignored at level 0. -/
def State.setAttach (s : State) (on : Bool) : State :=
  if s.level = 0 then s
  else if on then ((s.put DBG_CTL.ATTACH 1).putB DBG_STAT.ATTACHED true).showEmulated
  else if s.flag DBG_STAT.ATTACHED then s.detach
  else s

def execAttach (on : Bool) (s : State) : Res := .next (s.setAttach on)

/-! ### Lookout run control (R469) -/

/-- Lookout is halted at a PC: its registers are free values, and a clock meter that it holds is released. -/
def State.lkoHalt (s : State) (why pc : Nat) : State :=
  let s1 := s.forN 5 (fun m s => if s.flag (CLK_MTR_CTL.OWNER m) then
    landed s (execLookoutClockSupervision (Fin.ofNat 5 m) false s) else s)
  let s2 := ((s1.putB DBG_LKO_CTL.HALTED true).put DBG_LKO_PC.PC pc).forN 31 (fun n s =>
    (s.put (DBG_LKO_GPR.X (n + 1)) s.fresh.toNat).took)
  s2.post 0x0D05 (0xFF + why * 256) pc

/-- HALT; `pc` is the instruction that comes next. -/
def execLkoHalt (pc : W32) (s : State) : Res :=
  .next (if s.level ≥ 2 ∧ s.lkoServes then s.lkoHalt 1 pc.toNat else s)

/-- STEP; `pc` is the instruction after the one stepped. -/
def execLkoStep (pc : W32) (s : State) : Res :=
  .next (if s.level ≥ 2 ∧ s.flag DBG_LKO_CTL.HALTED then s.lkoHalt 2 pc.toNat else s)

/-- RESUME. The watchdog's remaining time is at least WDOG_MIN (assumption log 1: no time passes here). -/
def execLkoResume (s : State) : Res := .next (if s.level ≥ 2 then s.lkoGoes else s)

/-- Lookout comes to a break address. -/
def execLkoBreakpointHit (n : Fin 2) (s : State) : Res :=
  whenDue (s.level ≥ 2 && s.lkoServes && s.flag (DBG_LKO_BRK.EN n.val)) s (s.lkoHalt 3 (2 * s.get (DBG_LKO_BRK.PC n.val)))

/-! ### The trace buffer (R471) -/

/-- Whether the trace region lies in an HBM data region clear of Switchback's, mirrored, encrypted and tag regions. -/
def State.traceRegionOk (s : State) : Bool :=
  let a := s.get DBG_TRC_BASE.BASE * 4096
  let len := s.get DBG_TRC_CTL.SIZE * 4096
  len != 0 && hbmSpan a len && !s.takenSpans.any (fun p => spansMeet a (a + len) p.1 p.2) && !s.meetsTags a len
    && !(List.range 16).any (fun n => s.rngState n != 0 && spansMeet a (a + len) (s.rngBase n) (s.rngEnd n))

/-- A write of DBG_TRC_CTL. -/
def State.trcWrite (s : State) (v : Nat) : State :=
  let s1 := if nbit v 29 then s.putB DBG_TRC_CTL.FULL false else s
  let s2 := (if nbit v 28 then s1.putB DBG_TRC_CTL.ERR false else s1).putB DBG_TRC_CTL.WRAP (nbit v 30)
  if s.flag DBG_TRC_CTL.EN then (if nbit v 31 then s2 else s2.traceOff)
  else
    let s3 := s2.put DBG_TRC_CTL.SIZE (nfield v 23 0)
    if !nbit v 31 then s3
    else if s3.traceRegionOk then (s3.putB DBG_TRC_CTL.EN true).put DBG_TRC_PTR.PTR 0
    else s3.putB DBG_TRC_CTL.ERR true

/-- A write of DBG_TRC_CTL with EN = 1; over JTAG it needs level 3. -/
def execTraceEnable (v : W32) (jtag : Bool) (s : State) : Res :=
  whenDue (nbit v.toNat 31) s (if jtag ∧ s.level ≠ 3 then s else s.trcWrite v.toNat)

/-- The 16 bytes of a packet. -/
def TracePkt.bytes (p : TracePkt) : List Byte :=
  toBytes 8 (p.data.toNat + (if p.write then 2 ^ 32 else 0) + (if p.memY then 2 ^ 33 else 0) + p.loc % 2 ^ 14 * 2 ^ 34
    + p.cmp % 16 * 2 ^ 48 + p.kind % 16 * 2 ^ 52 + p.island % 256 * 2 ^ 56) ++ toBytes 8 p.time

/-- The oldest packet is written; one that HBM does not take is lost. -/
def execTracePacketWrite (s : State) : Res :=
  match s.trace with
  | [] => notDue s
  | p :: rest =>
    let ptr := s.get DBG_TRC_PTR.PTR
    let a := s.get DBG_TRC_BASE.BASE * 4096 + 16 * ptr
    let s0 : State := { s with trace := rest }
    let r : Nat × State := if s.hbmCheck a 16 ≠ 0 then (1, s0) else s0.sealedWrite 0xFFF p.bytes (spansOf a 16)
    let next := ptr + 1
    let full := 16 * next ≥ s.get DBG_TRC_CTL.SIZE * 4096
    let t := if r.1 ≠ 0 then r.2.bump DBG_TRC_LOST.COUNT
      else if !full then r.2.put DBG_TRC_PTR.PTR next
      else if s.flag DBG_TRC_CTL.WRAP then r.2.put DBG_TRC_PTR.PTR 0
      else
        let f := ((r.2.put DBG_TRC_PTR.PTR next).putB DBG_TRC_CTL.FULL true).traceOff
        f.post 0x0D06 0 (f.get DBG_TRC_LOST.COUNT)
    whenDue (s.flag DBG_TRC_CTL.EN && s.hbmUp (hbmStack a)) s t

end Sys2Proof.Machine
end

