-- ==== Sys2Proof/Machine/Hbm.lean ====
section
/-!
DEFINITION. The HBM controllers: scheduling, refresh, training, parity errors and the retirement of pseudo-channels
(R263–R273).
-/

namespace Sys2Proof.Machine

/-! ### Requests (R266, R269, R277, R280) -/

def HbmReq.isRead (r : HbmReq) : Bool := r.msg.op.toNat == opRD

def HbmReq.meets (r q : HbmReq) : Bool :=
  spansMeet r.msg.addr.toNat (r.msg.addr.toNat + r.msg.len) q.msg.addr.toNat (q.msg.addr.toNat + q.msg.len)

/-- Whether a span touches one of the 16 lines that the rekey engine is converting (R282). -/
def State.converting (s : State) (a len : Nat) : Bool :=
  let n := s.get CRY_CTL.RKY_RANGE
  let t := s.treeline n
  s.flag CRY_CTL.RKY_BUSY && spansMeet a (a + len) t (min (t + 1024) (s.rngEnd n)) && t < s.rngEnd n

/-- Whether reads of a request that arrives now are held back until their tags have verified (R277, R279, R284): VERIFY_FIRST
of a range it touches, or a read of the debug bus master. -/
def State.verifyFirst (s : State) (m : Msg) : Bool :=
  vpClass (s.trail m.trail.toNat).src == 0x0F && !vpCtx (s.trail m.trail.toNat).src
    || (spansOf m.addr.toNat m.len).any (fun p => match s.rangeAt (64 * p.1) with
      | some n => s.flag (CRY_RNG_CTL.VERIFY_FIRST n)
      | none => false)

/-- Refuses an access at the memory switch: a retired granule is logged (R269). -/
def State.hbmRefused (s : State) (code a len : Nat) : State :=
  let x := (s.retiredAt a len).getD a
  if code = 15 then s.hbmLog 6 (pcOf x) x else s

/-- Answers a read of the encryption stage: at once with SETTLE to follow, or after its tags with `first`. -/
def State.answerSealed (s : State) (m : Msg) (first : Bool) (r : SealedRead) : State :=
  if r.ue then s.respond m opERR 4
  else if r.enc && !first then
    (s.respond m opRDRSP 0 r.data 0 0 true).onCry (fun c => { c with
      verdicts := c.verdicts ++ [{ msg := m, ok := r.bad.isNone, dpa := 64 * r.bad.getD 0
                                   range := (s.rangeAt (64 * r.bad.getD 0)).getD 0 }] })
  else match r.bad with
    | some line => (s.authAlarm line m.trail.toNat).respond m opERR 5
    | none => s.respond m opRDRSP 0 r.data

/-- The mask of a mirrored write: every byte of its message. -/
def wholeMask (n : Nat) : List Bool := List.replicate n true

/-- A write to HBM by a requester, as far as memory goes, and its forwarding by a primary (R280, R427): the code, the number
of the sync region that withholds WRACK, the state. -/
def State.hbmStore (s : State) (trail a : Nat) (bs : List Byte) : Nat × Bool × State :=
  let r := s.sealedWrite trail bs (spansOf a bs.length)
  if r.1 ≠ 0 then (r.1, false, r.2)
  else match s.mirrors a with
    | none => (0, false, r.2)
    | some n => (0, s.flag (TWN_REG.SYNC n), r.2.sendFrame { kind := 3, seq := 0, time := 0, region := n, dpa := a, data := bs })

/-- Performs a write request. -/
def State.hbmWrite (s : State) (m : Msg) : State :=
  let a := m.addr.toNat
  let r := s.hbmStore m.trail.toNat a m.data
  if r.1 ≠ 0 then r.2.2.respond m opERR r.1
  else if r.2.1 then
    r.2.2.onTwin (fun t => { t with out := t.out.dropLast ++ (t.out.getLast?.map (fun f => { f with wrack := some m })).toList })
  else r.2.2.respond m opWRACK 0

/-- Takes a request out of its queue. -/
def State.unqueueHbm (s : State) (r : HbmReq) : State := s.onHbm (fun h => { h with queue := h.queue.erase r })

/-- The queue of a pseudo-channel. -/
def State.pcQueue (s : State) (p : Nat) : List HbmReq := s.hbm.queue.filter (fun r => r.pc == p)

/-- Key of the bank that holds an address: consecutive 1 KiB rows lie in consecutive bank groups (R265), of which a
pseudo-channel has four (assumption log 27). -/
def bankKey (p a : Nat) : Nat := 1024 * p + 4 * (Config.hbmBank (a / 4096)).toNat + a / 1024 % 4

/-- Whether a request hits an open row. -/
def State.rowHit (s : State) (r : HbmReq) : Bool :=
  s.hbm.rows.peek (fun _ => 0) (bankKey r.pc r.msg.addr.toNat) == r.msg.addr.toNat / 1024 + 1

/-- Whether a request may be issued: no earlier one on overlapping bytes (a read passes queued writes, from which it is
served), no line of it being converted, and a mirrored write admitted. -/
def State.mayIssue (s : State) (r : HbmReq) : Bool :=
  let before := s.hbm.queue.takeWhile (fun q => q != r)
  let block := before.any (fun q => q.meets r && !(r.isRead && !q.isRead))
  !block && !s.converting r.msg.addr.toNat r.msg.len && (r.isRead || !s.mirrorWaits r.msg.addr.toNat)

/-- The request a controller issues next: promoted ones first, then row hits, each oldest first; reads, or writes during a
batch. -/
def State.pickHbm (s : State) (p : Nat) : Option HbmReq :=
  let l := (s.pcQueue p).filter s.mayIssue
  let kind := l.filter (fun r => r.isRead != s.hbm.batch.contains p)
  (l.find? (fun r => r.promoted)).or ((kind.find? s.rowHit).or kind.head?)

/-- A request after it has been issued: its row is open, and a batch ends with the last write. -/
def State.issuedHbm (s : State) (r : HbmReq) : State :=
  let s1 := s.unqueueHbm r
  let more := (s1.pcQueue r.pc).any (fun q => !q.isRead)
  s1.onHbm (fun h => { h with
    rows := h.rows.poke (fun _ => 0) (bankKey r.pc r.msg.addr.toNat) (r.msg.addr.toNat / 1024 + 1)
    batch := if more then h.batch else h.batch.filter (fun q => q != r.pc) })

/-- Under a trail's name, for the error log. -/
def State.underTrail (s : State) (t : Nat) (f : State → State) : State :=
  (f (s.onHbm (fun h => { h with serving := some t }))).onHbm (fun h => { h with serving := none })

/-- Performs a request. A read that earlier queued writes overlap is served from them. -/
def State.performHbm (s : State) (r : HbmReq) : State :=
  let m := r.msg
  let a := m.addr.toNat
  (s.issuedHbm r).underTrail m.trail.toNat (fun t =>
    let code := t.hbmCheck a m.len
    if code ≠ 0 then (t.hbmRefused code a m.len).respond m opERR code
    else if !r.isRead then t.hbmWrite m
    else
      let rd := t.sealedRead (spansOf a m.len)
      let late := (s.hbm.queue.takeWhile (fun q => q != r)).filter (fun q => q.meets r && !q.isRead)
      if late = [] then rd.2.answerSealed m r.verify rd.1
      else
        let u := t.forAll late (fun q s => (s.sealedWrite 0 q.msg.data (spansOf q.msg.addr.toNat q.msg.len)).2)
        rd.2.answerSealed m r.verify (u.sealedRead (spansOf a m.len)).1)

/-- A request enters its queue, where its address exists; writes to a mirrored region of a backup are refused (R426). -/
def State.enqueueHbm (s : State) (m : Msg) : State :=
  let a := m.addr.toNat
  let code := s.hbmCheck a m.len
  if code ≠ 0 then (s.underTrail m.trail.toNat (fun s => s.hbmRefused code a m.len)).respond m opERR code
  else if m.op.toNat = opWR ∧ s.mirrorDenied a m.len then s.respond m opERR 0x0B
  else s.onHbm (fun h => { h with queue := h.queue ++ [{ msg := m, pc := pcOf a, since := s.now, verify := s.verifyFirst m }] })

/-- Whether a queue has room for a message: 64 reads and 64 writes. -/
def State.hbmRoom (s : State) (m : Msg) : Bool :=
  ((s.pcQueue (pcOf m.addr.toNat)).filter (fun r => r.msg.op == m.op)).length < 64

/-- Requests queued on bytes of a span are performed, in order of arrival: what a direct access sees (R215). -/
def State.drainHbm (s : State) (a len : Nat) : State :=
  s.forAll (s.hbm.queue.filter (fun r => spansMeet a (a + len) r.msg.addr.toNat (r.msg.addr.toNat + r.msg.len))) (fun r s =>
    s.performHbm r)

def pcNo (st : Fin 2) (pc : Fin 32) : Nat := 32 * st.val + pc.val

/-- A read whose line is uncorrectable: logged under its kind, counted, reported and answered with MEM_UE (R139, R269). -/
def State.badLine (s : State) (r : HbmReq) (kind : Nat) : State :=
  let a := r.msg.addr.toNat
  let s1 := (s.issuedHbm r).underTrail r.msg.trail.toNat (fun s => s.hbmUe kind a)
  ((s1.bump (MEM_UE_CNT.COUNT 4)).toCairn 0x0D (srcSaddle (2 + r.pc / 32)) sevMajor a).respond r.msg opERR 4

/-- A controller issues its next request. An uncorrected severity that the stack's on-die ECC reports for its read is a data error
of the line (R264, R269). -/
def execHbmRequestIssue (st : Fin 2) (q : PcIssue) (s : State) : Res :=
  match s.pickHbm (pcNo st q.pc) with
  | none => notDue s
  | some r => whenDue (s.hbmUp st.val) s
      (if q.odecc && r.isRead && s.hbmCheck r.msg.addr.toNat r.msg.len == 0 then s.badLine r 7 else s.performHbm r)

/-- The oldest request not yet promoted is 2 µs old. -/
def execRequestPromotion (st : Fin 2) (pc : Fin 32) (s : State) : Res :=
  match (s.pcQueue (pcNo st pc)).find? (fun r => !r.promoted) with
  | none => notDue s
  | some r => .next (s.onHbm (fun h => { h with queue := h.queue.map (fun q => if q = r then { q with promoted := true } else q) }))

/-- A batch of writes starts: 48 are queued, or no read is. -/
def execWriteBatchStart (st : Fin 2) (pc : Fin 32) (s : State) : Res :=
  let p := pcNo st pc
  let w := ((s.pcQueue p).filter (fun r => !r.isRead)).length
  whenDue (!s.hbm.batch.contains p && w > 0 && (w ≥ 48 || !(s.pcQueue p).any (fun r => r.isRead))) s
    (s.onHbm (fun h => { h with batch := h.batch ++ [p] }))

/-! ### Refresh and training (R268) -/

/-- A bank is refreshed, its row closed first. -/
def execPerBankRefresh (st : Fin 2) (pc : Fin 32) (bank : BitVec 10) (s : State) : Res :=
  whenDue (s.hbmUp st.val) s
    (s.onHbm (fun h => { h with rows := h.rows.poke (fun _ => 0) (1024 * pcNo st pc + bank.toNat) 0 }))

/-- The stack's temperature is read. A rotation starts when it is RETRAIN_DC or more from the last rotation's. -/
def execHbmTempRead (st : Fin 2) (t : BitVec 8) (s : State) : Res :=
  let k := st.val
  let s1 := (s.put (HBM_STAT.TEMP k) t.toNat).putB (HBM_STAT.HOT k) (decide (t.toInt > 85))
  let was := (BitVec.ofNat 8 (s.hbm.rotTemp.peek (fun _ => 0) k)).toInt
  let far := (t.toInt - was).natAbs ≥ max 1 (s.get HBM_POL.RETRAIN_DC)
  whenDue (s.get (HBM_STAT.STATE k) != 0) s
    (if far then s1.onHbm (fun h => { h with
       rotTemp := h.rotTemp.poke (fun _ => 0) k t.toNat, rotLeft := h.rotLeft.poke (fun _ => 0) k 32 }) else s1)

/-- Training of a pseudo-channel: 0 it passes, 1 after a lane is remapped, else it fails. -/
def State.trained (s : State) (p result : Nat) : State :=
  if result = 0 then s
  else if result = 1 then s.hbmLog 8 p 0
  else ((s.hbmLog 5 p 0).putB (HBM_STAT.TRAIN_FAIL (p / 32)) true).retirePc p

/-- The next pseudo-channel of the rotation retrains: periodically, or in a rotation that temperature started. -/
def execPeriodicTrainingStep (st : Fin 2) (result : Fin 3) (s : State) : Res :=
  let k := st.val
  let n := s.hbm.rotNext.peek (fun _ => 0) k
  let left := s.hbm.rotLeft.peek (fun _ => 0) k
  whenDue (s.hbmUp k && (s.get HBM_POL.TRAIN_MS != 0 || left != 0)) s
    ((s.onHbm (fun h => { h with
      rotNext := h.rotNext.poke (fun _ => 0) k ((n + 1) % 32), rotLeft := h.rotLeft.poke (fun _ => 0) k (left - 1)
      rotTemp := if n = 31 then h.rotTemp.poke (fun _ => 0) k (s.get (HBM_STAT.TEMP k)) else h.rotTemp })).trained
        (32 * k + n) result.val)

/-- Applies Lookout's record of retired pseudo-channels (R273). -/
def State.applyRecord (s : State) (k : Nat) : State :=
  let l := s.hbm.record.filter (fun p => p / 32 == k)
  (s.forAll l (fun p s => s.put (HBM_PC_RET.RETIRED k) (setBit (s.get (HBM_PC_RET.RETIRED k)) (p % 32) true))).put
    (HBM_STAT.RETIRED k) l.length

/-- A stack's training ends, at configuration or after Dormant: by pseudo-channel, the result of `State.trained`. -/
def execHbmTrainingComplete (st : Fin 2) (results : Vector (Fin 3) 32) (s : State) : Res :=
  let k := st.val
  whenDue (s.get (HBM_STAT.STATE k) == 1) s
    (let s1 := ((s.put (HBM_STAT.STATE k) 2).applyRecord k).onHbm (fun h => { h with
       rotTemp := h.rotTemp.poke (fun _ => 0) k (s.get (HBM_STAT.TEMP k)) })
     s1.forN 32 (fun n s => s.trained (32 * k + n) (results.toList.getD n 0).val))

/-! ### Errors (R269) -/

/-- The sets of the pages that a write to a span wrote, its data and the tags of its encrypted lines, whose guard words the
controller recomputes (R269, R276). -/
def State.reguardSpan (s : State) (a len : Nat) : State :=
  s.forAll ((s.touched a len).map (fun x => x / 64 * 64)).eraseDups (fun x s =>
    match regionOf x with
    | some r => s.forAll r.sets (fun q s => s.reguard q)
    | none => s)

/-- A request ends with HBM_ERR; a write has taken effect or not. -/
def State.endHbmErr (s : State) (r : HbmReq) (took : Bool) : State :=
  let m := r.msg
  let s1 := s.issuedHbm r
  let s2 := if !r.isRead && took then (s1.sealedWrite m.trail.toNat m.data (spansOf m.addr.toNat m.len)).2 else s1
  (if r.isRead then s2 else s2.reguardSpan m.addr.toNat m.len).respond m opERR 15

/-- A command/address parity error: the requests of the window, one for each element of `took`, end; `took` says which
writes took effect. An armed injection at the stack's controller is used up. -/
def State.caWindow (s : State) (p : Nat) : List Bool → State
  | [] => s
  | b :: rest => match s.pickHbm p with
    | none => s
    | some r => (s.endHbmErr r b).caWindow p rest

def execHbmCaParityError (st : Fin 2) (pc : Fin 32) (took : List Bool) (s : State) : Res :=
  let p := pcNo st pc
  let src := srcSaddle (2 + st.val)
  let first := s.pickHbm p
  let s0 := if s.armed src 5 then s.useCheck src 5 else s
  let s1 := match first with
    | some r => s0.underTrail r.msg.trail.toNat (fun s => s.hbmCaError p r.msg.addr.toNat)
    | none => s0.hbmCaError p 0
  whenDue (s.hbmUp st.val) s (s1.caWindow p took)

/-- A parity retry of a request. -/
def State.retryHbm (s : State) (r : HbmReq) : State :=
  s.onHbm (fun h => { h with queue := h.queue.map (fun q => if q = r then { q with retries := q.retries + 1 } else q) })

/-- A write data parity error of the write a controller issues: the third ends it. -/
def execHbmWriteParityError (st : Fin 2) (pc : Fin 32) (took : Bool) (s : State) : Res :=
  let p := pcNo st pc
  match (s.pcQueue p).find? (fun r => !r.isRead && s.mayIssue r) with
  | none => notDue s
  | some r =>
    let a := r.msg.addr.toNat
    let s1 := s.underTrail r.msg.trail.toNat (fun s => s.hbmLog 3 p a)
    whenDue (s.hbmUp st.val) s
      (if r.retries < 2 then s1.retryHbm r
       else (s1.endHbmErr r took).toCairn 0x0F (srcSaddle (2 + st.val)) sevMajor a)

/-- A read data parity error of the read a controller issues: the third makes the line uncorrectable. -/
def execHbmReadParityError (st : Fin 2) (pc : Fin 32) (s : State) : Res :=
  let p := pcNo st pc
  match (s.pcQueue p).find? (fun r => r.isRead && s.mayIssue r) with
  | none => notDue s
  | some r =>
    let a := r.msg.addr.toNat
    let t := r.msg.trail.toNat
    whenDue (s.hbmUp st.val) s
      (if r.retries < 2 then (s.underTrail t (fun s => s.hbmLog 4 p a)).retryHbm r else s.badLine r 4)

/-- HBM_LOG_CTL.CLEAR. -/
def execHbmLogClear (s : State) : Res :=
  let s1 := s.forN 64 (fun e s => (s.setReg (HBM_LOG.ENTRY e).addr 0).setReg (HBM_LOG_TIME.ENTRY e).addr 0)
  .next (((s1.put HBM_LOG_CTL.VALID 0).put HBM_LOG_CTL.OVF 0).onHbm (fun h => { h with logNext := 0 }))

/-! ### Retirement (R271–R273) -/

/-- A write of HBM_PC_REQ: each pseudo-channel whose bit is 1 becomes RETIRING. -/
def execHbmPcReq (st : Fin 2) (v : W32) (s : State) : Res :=
  .next (s.forN 32 (fun k s => if nbit v.toNat k then s.retirePc (32 * st.val + k) else s))

/-- Events PAGE_LOST for the pages that were valid in `s0` and are not in `s`. -/
def State.postLost (s s0 : State) : State :=
  let gone := s0.swb.pages.filter (fun p => p.valid && !s.swb.pages.any (fun q => q.valid && q.same p))
  s.forAll ((gone.map (fun p => p.space)).eraseDups) (fun c t => t.post 0x0508 c ((gone.filter (fun p => p.space == c)).length))

/-- Whether a span of HBM contains a granule of a pseudo-channel. -/
def touchesPc (p a z : Nat) : Bool :=
  (List.range (z / 0x40000 + 2)).any (fun k =>
    let b := a / 0x40000 * 0x40000 + k * 0x40000
    b < a + z && pcOf b == p)

/-- A page becomes V = 0, lost. -/
def State.losePage (s : State) (p : Page) : State :=
  s.modPages (fun q => q.valid && q.same p) (fun q => { q with valid := false, lost := true })

/-- Moves a page of the pool (R271 step 2, R272): to a free frame, else to its host backing. A page with a word that cannot be
read, or without either, is lost; one within an encrypted range stays. -/
def State.movePage (s : State) (p : Page) : State :=
  if (s.rangeAt p.addr).isSome then s
  else
    let rd := s.sealedRead (spansOf p.addr p.size)
    if rd.1.ue then rd.2.losePage p
    else match s.poolFrame p.size with
      | some a => (rd.2.sealedWrite 0 rd.1.data (spansOf a p.size)).2.modPages (fun q => q.valid && q.same p) (fun q => { q with addr := a })
      | none => (rd.2.pageHome p).getD (rd.2.losePage p)

/-- Moves an image with its state slot within the image store, else to the host backing store. An uncorrectable word of the
state slot discards the state (R272). -/
def State.vacateImage (s : State) (r : Registered) : State :=
  let moved := match s.storeSpace true r.img.bytes with
    | some a => s.moveImage r true a
    | none => match s.storeSpace false r.img.bytes with
      | some a => if s.hbsUp then s.moveImage r false a else s
      | none => s
  let x := moved.ctx r.ctx
  let bad := (moved.swb.images.find? (fun q => q.ctx == r.ctx && q.variant == r.variant)).any (fun q => q.slotBad)
  if bad && !r.slotBad && x.saved.isSome && x.variant == r.variant then
    (moved.modCtx r.ctx (fun x => { x with saved := none, ckptNewer := false, state := if x.state = 1 then 0 else x.state })).ctxEvent 0x0504 r.ctx
  else moved

/-- Moves the page tables that contain a granule of a pseudo-channel: entries are read through both codes, the pages of one that
cannot be read are lost, and the tables are placed and written anew. Without a place for a table its pages are lost. The root
array stands where SWB_PT_BASE puts it. -/
def State.vacateTables (s : State) (p : Nat) : State :=
  let hit := (s.swb.tables.filter (fun t => touchesPc p (t.2 - 1) (tableSize t.1))).map (fun t => t.1)
  if hit = [] then s
  else
    let reads (s : State) (q : Page) : Bool × State :=
      s.readEntries ((s.pageEntries q).map (fun (e : Nat × W64) => e.1) |>.filter (fun a => touchesPc p a 8))
    let s1 := s.forAll (s.swb.pages.filter (fun q => q.valid && q.keys.any hit.contains)) (fun q s =>
      let r := reads s q
      if r.1 then r.2.losePage q else r.2)
    let s2 := s1.onSwb (fun w => { w with tables := w.tables.clearIf hit.contains })
    match s2.syncTables with
    | some t => t
    | none => (s2.modPages (fun q => q.valid && q.keys.any hit.contains) (fun q => { q with valid := false, lost := true })).syncMaps

/-- Lines of a pseudo-channel that the stack's on-die ECC reports while they are moved: `img` of images, `sav` of state slots,
`tab` of page tables and pages. Each is a data error; its image or state slot is bad, its page is lost (R264, R269, R272). -/
def State.moveReports (s : State) (p : Nat) (img sav tab : List (BitVec 42)) : State :=
  let image (x : Nat) (q : Registered) : Bool := q.inStore && lineMeets x q.addr q.img.imageLen.toNat
  let slot (x : Nat) (q : Registered) : Bool := q.inStore && lineMeets x q.slot (q.img.bytes - round4K q.img.imageLen.toNat)
  let page (x : Nat) (q : Page) : Bool := q.valid && ((q.loc == 0 && (s.rangeAt q.addr).isNone && lineMeets x q.addr q.size)
    || (s.pageEntries q).any (fun y => lineMeets x y.1 8))
  let lines (l : List (BitVec 42)) : List Nat := (l.map (fun x => x.toNat)).filter (fun x => pcOf (64 * x) == p)
  let a := (lines img).filter (fun x => s.swb.images.any (image x))
  let b := (lines sav).filter (fun x => s.swb.images.any (slot x))
  let c := (lines tab).filter (fun x => s.swb.pages.any (page x))
  let s1 := (s.forAll (a ++ b ++ c) (fun x s => s.odeccError x)).onSwb (fun w => { w with
    images := w.images.map (fun q => { q with damaged := q.damaged || a.any (fun x => image x q), slotBad := q.slotBad || b.any (fun x => slot x q) }) })
  s1.forAll (s.swb.pages.filter (fun q => c.any (fun x => page x q))) (fun q s => s.losePage q)

/-- Switchback vacates its regions of a pseudo-channel (R271 step 2, R272), with the reports of on-die ECC meanwhile. -/
def State.vacatePc (s : State) (p : Nat) (img sav tab : List (BitVec 42)) : State :=
  let s0 := s.moveReports p img sav tab
  let s1 := s0.forAll (s.swb.images.filter (fun r => r.inStore && touchesPc p r.addr r.img.bytes)) (fun r s => s.vacateImage r)
  let s2 := s1.vacateTables p
  let s3 := s2.forAll (s2.swb.pages.filter (fun q => q.valid && q.loc == 0 && touchesPc p q.addr q.size)) (fun q s => s.movePage q)
  (s3.postLost s).showMaps

/-- Whether a migration has a frame in a pseudo-channel: it is vacated when that copy has ended. -/
def State.copiesIn (s : State) (p : Nat) : Bool :=
  s.swb.migrations.any (fun m => [(m.srcLoc, m.srcAddr), (m.dstLoc, m.dstAddr)].any (fun q =>
    q.1 == 0 && touchesPc p q.2 (((s.swb.pages.find? (fun x => x.valid && x.space == m.space && x.dva == m.dva)).map Page.size).getD 0)))

/-- A pseudo-channel becomes RETIRED (R271 step 3, R273). -/
def State.pcGone (s : State) (p : Nat) : State :=
  let k := p / 32
  let s1 := (s.onHbm (fun h => { h with
    retiring := h.retiring.erase p, record := if h.record.contains p then h.record else h.record ++ [p] })).put
      (HBM_PC_REQ.RETIRE k) (setBit (s.get (HBM_PC_REQ.RETIRE k)) (p % 32) false)
  let n := s.get (HBM_STAT.RETIRED k) + 1
  let s2 := (((s1.put (HBM_PC_RET.RETIRED k) (setBit (s.get (HBM_PC_RET.RETIRED k)) (p % 32) true)).put
    (HBM_STAT.RETIRED k) n).hbmLog 6 p 0).post 0x0602 (k + p % 32 * 256) (p % 32)
  let s3 := (s2.setsChanged.logAdd 7 p)
  if n = 8 then s3.toCairn 0x10 (srcSaddle (2 + k)) sevMajor k else s3

/-- The frames of a retiring pseudo-channel have been moved. -/
def execPcRetireComplete (st : Fin 2) (pc : Fin 32) (img sav tab : List (BitVec 42)) (s : State) : Res :=
  let p := pcNo st pc
  whenDue (s.hbm.retiring.contains p && !s.copiesIn p) s ((s.vacatePc p img sav tab).pcGone p)

end Sys2Proof.Machine
end

