-- ==== Sys2Proof/Machine/Package.lean ====
section
/-!
DEFINITION. Bridges and dies: lane health, repair and retirement, die loss and rejoin, and the test chain (R26–R42, R219–R221,
R252, R260).
-/

namespace Sys2Proof.Machine

/-! ### The test chain (R27) -/

/-- Dies whose chain select bit is held at 0: lost or isolated. -/
def State.goneMask (s : State) : Nat := ((List.range 4).filter s.dieGone).map (fun d => 2 ^ d) |>.sum

/-- IDCODE of a die of the test chain, from its identity record: 0 the Saddle, 1 + d Ridge die Fd (R26). -/
def State.idcode (s : State) (n : Nat) : W32 :=
  BitVec.ofNat 32 (nfield (s.pkg.records.getD n 0).toNat 59 56 * 2 ^ 28 + (0x4A61 + n) * 2 ^ 12 + 0x2B7 * 2 + 1)

def State.setBypass (s : State) (m : Nat) : State := s.onPkg (fun p => { p with bypass := BitVec.ofNat 4 (m ||| s.goneMask) })

/-- Wrappers that contribute bits to the chain, from TDI to TDO: 0 the Saddle, 1 + d Ridge die Fd unless it is bypassed. -/
def State.chain (s : State) : List Nat := 0 :: ((List.range 4).filter (fun d => !nbit s.pkg.bypass.toNat d)).map (fun d => d + 1)

/-- Whether boundary scan (EXTEST, SAMPLE/PRELOAD) is available on a wrapper without authorisation: it is in the chain and the
device is unconfigured (R27). -/
def State.boundaryScan (s : State) (n : Nat) : Bool := s.chain.contains n && s.cfg.phase != 4

/-- What the chain captures: the IDCODEs of the wrappers in it whose instruction is IDCODE, the one nearest TDO first, and the
Saddle's failing identity check (R22, R26). -/
def State.capture (s : State) : State :=
  let l := (s.chain.filter (fun n => s.pkg.ir.toList[n]? == some .idcode)).map s.idcode
  s.onPkg (fun p => { p with scan := l.reverse, scanId := p.idBad })

/-- Test-logic reset or TRST_N: every wrapper holds IDCODE (assumption log 74). -/
def execTestLogicReset (s : State) : Res :=
  .next ((s.setBypass 0).onPkg (fun p => { p with ir := Vector.replicate 5 .idcode })).capture

/-- CHAINSEL, in the Saddle's wrapper, loads the chain select register. -/
def execChainsel (sel : BitVec 4) (s : State) : Res :=
  .next ((s.setBypass (15 - sel.toNat)).onPkg (fun p => { p with ir := p.ir.set 0 .chainsel })).capture

/-! ### Lane groups (R28–R34) -/

def bridgeNo (d b : Nat) : Nat := 2 * d + b
def groupNo (br k dir : Nat) : Nat := 2 * (16 * br + k) + dir
def State.laneGroup (s : State) (g : Nat) : LaneGroup := s.pkg.groups.peek (fun _ => {}) g
def State.modGroup (s : State) (g : Nat) (f : LaneGroup → LaneGroup) : State :=
  s.onPkg (fun p => { p with groups := p.groups.poke (fun _ => {}) g (f (s.laneGroup g)) })

/-- Whether a lane of a group carries traffic: a data lane that no spare replaces, or a spare in use. -/
def LaneGroup.inUse (g : LaneGroup) (lane : Nat) : Bool :=
  if lane < 32 then !g.spares.toList.contains (2 + lane) else g.spares.toList.getD (lane - 32) 0 ≥ 2

/-- Whether a spare is idle: neither used nor what a running repair switches to. -/
def LaneGroup.idle (g : LaneGroup) (k : Fin 2) : Bool := g.spares[k] == 0 && g.repair.map (fun p => p.2) != some k

/-- HIF_DIE_STAT of a die. -/
def State.showDie (s : State) (d : Nat) : State :=
  let st := match s.presence d with
    | .isolated => 3
    | .lost | .rejoining => 2
    | _ => if s.pkg.degraded.contains d then 1 else 0
  ((s.put (HIF_DIE_STAT.NORTH d) (s.working d 0)).put (HIF_DIE_STAT.SOUTH d) (s.working d 1)).put (HIF_DIE_STAT.STATE d) st

/-- ARG0 of the lane and group events. -/
def laneArg (br k lane : Nat) : Nat := br / 2 + br % 2 * 8 + k * 256 + lane * 2 ^ 16

/-- Whether a bridge works and its die is not lost, or retrains: only then is its health judged (R34, R39). A die that has reset
or lost its clocks is lost before it is declared so. -/
def State.judged (s : State) (br : Nat) : Bool :=
  (s.presence (br / 2) == .present || s.presence (br / 2) == .rejoining) && !s.pkg.down.contains br

/-- Whether an eye fails: below 20 % of the unit interval or below 15 mV (R31). `eye` holds 1/1,000 UI in [15:0] and mV in
[31:16]; where a margin must stay low for 1 ms, the greatest of that time. -/
def eyeBad (eye : W32) : Bool := nfield eye.toNat 15 0 < 200 || nfield eye.toNat 31 16 < 15

/-- The number of a lane of a group in the tables of counters and margins. -/
def laneKey (g lane : Nat) : Nat := 34 * g + lane

/-- Whether a lane's counter advanced by 8 within 1 ms, as its last eight advances show (R31). -/
def State.laneErrs (s : State) (g lane : Nat) : Bool :=
  match s.pkg.laneAt.peek (fun _ => []) (laneKey g lane) with
  | [a, _, _, _, _, _, _, b] => b ≤ a + 1000000
  | _ => false

/-- Keeps the eye margin that was measured last. -/
def State.sawEye (s : State) (g lane : Nat) (eye : W32) : State :=
  s.onPkg (fun p => { p with eyes := p.eyes.poke (fun _ => 0) (laneKey g lane) eye })

/-- At retraining the lanes of a die's bridges are judged afresh (R34, R39). -/
def State.judgeAfresh (s : State) (d : Nat) : State :=
  s.onPkg (fun p => { p with laneAt := p.laneAt.filter (fun q => q.1 / (34 * 64) != d) })

/-- Whether a group pair is in service. -/
def State.pairWorks (s : State) (br k : Nat) : Bool :=
  !(s.laneGroup (groupNo br k 0)).retired && !(s.laneGroup (groupNo br k 1)).retired

/-- Repairs that run on a bridge are abandoned. -/
def State.dropRepairs (s : State) (br : Nat) : State :=
  s.forN 32 (fun n s => s.modGroup (32 * br + n) (fun g => { g with repair := none, queue := [] }))

/-- Demotes reserved trails on a bridge, the most recently admitted first, until its units fit (R220); `n` bounds them. -/
def State.fitBridge (s : State) (br cause : Nat) : Nat → State
  | 0 => s
  | n + 1 =>
    let much (dir : Nat) : Bool := s.linkUnits (bridgeLink (br / 2) (br % 2) dir) > s.cap (bridgeLink (br / 2) (br % 2) dir)
    let on (dir : Nat) (x : Trail) : Bool :=
      let l := bridgeLink (br / 2) (br % 2) dir
      x.counts && (x.fwd.contains l || x.ret.contains l)
    if !much 0 && !much 1 then s
    else match ((s.openTrails (fun x => (much 0 && on 0 x) || (much 1 && on 1 x))).getLast?) with
      | none => s
      | some t => ((s.demote t cause).refreshTrails).fitBridge br cause n

/-! ### Die loss (R36, R38, R41, R252) -/

/-- Whether a trail has its source, or its destination, on a die; a context on the move stands at its old site up to its fence. -/
def State.srcOn (s : State) (d t : Nat) : Bool := match s.standsAt (s.trail t).src with
  | some a => a.die == d
  | none => false
def State.dstOn (s : State) (d t : Nat) : Bool := match s.standsAt (s.trail t).dst with
  | some a => a.die == d
  | none => false

/-- Ends what is in flight to and from a die. `kept`: tags of responses and writes that the Saddle had accepted from it
before the fence; they go on (R36 step 4). A settle verdict on its way to the die arrives late (R287). -/
def State.cutDie (s : State) (d : Nat) (kept : List (BitVec 16)) : State :=
  let into (t : Nat) : Bool := s.dstOn d t
  let out (t : Nat) : Bool := s.srcOn d t
  let gone := s.net.flight.filter (fun f =>
    out f.msg.trail.toNat && !(f.msg.op.toNat == opWR && kept.contains f.msg.tag && !into f.msg.trail.toNat))
  let dead := s.net.resp.filter (fun f => out f.msg.trail.toNat || (into f.msg.trail.toNat && !kept.contains f.msg.tag))
  let s1 := s.onNet (fun n => { n with
    flight := n.flight.filter (fun f => !gone.contains f), resp := n.resp.filter (fun f => !dead.contains f) })
  let s2 := s1.forAll gone (fun f s => s.modTrail f.msg.trail.toNat (fun x => { x with used := x.used - 1 }))
  let s3 := (s2.forAll (dead.filter (fun f => f.msg.op.toNat == opSETTLE)) (fun _ s => s.late)).failFlights into 0x01
  s3.forAll (dead.filter (fun f => into f.msg.trail.toNat && !out f.msg.trail.toNat)) (fun f s => s.failTag f.msg 0x01)

/-- Merge entries and rebuilds of a lost die's memories are gone (R140). -/
def State.dropMemWork (s : State) (d : Nat) : State :=
  let on (w : Nat) : Bool := match regionOf (8 * w) with
    | some r => r.die == d
    | none => false
  s.onMem (fun m => { m with
    merge := (m.merge.map (fun p => (p.1, p.2.filter (fun e => !on e.word)))).filter (fun p => p.2 != [])
    rebuilding := m.rebuilding.filter (fun p => !on p.1) })

/-- A die is fenced: transactions end and DIE_LOST is posted, then come migrations, contexts, trails, tests and ports (R36, R42). -/
def State.fenceDie (s : State) (d : Nat) (kept : List (BitVec 16)) : State :=
  let trails := s.openTrails (fun _ => true) |>.filter (fun t => s.srcOn d t || s.dstOn d t)
  let s1 := ((s.dropRepairs (2 * d)).dropRepairs (2 * d + 1)).dropMemWork d
  let s2 := (s1.cutDie d kept).post 0x0207 d
  let onDie (loc addr : Nat) : Bool := loc == 1 && (addr - deepBase) / 0x4000000 == d
  let s3 := s2.forAll (s2.swb.migrations.filter (fun m => onDie m.srcLoc m.srcAddr || onDie m.dstLoc m.dstAddr)) (fun m s =>
    s.abandonMigration m)
  let s4 := s3.forAll (s3.ctxsOnDie d) (fun c s => if (s.ckptOf c).run = 0 then s else s.failCkpt c 1)
  let s5 := s4.loseDieCtxs d
  let s6 := s5.forAll trails (fun t s => s.retrail 2 t)
  let s7 := s6.onSwb (fun w => { w with
    portJobs := w.portJobs.filter (fun j => j.die != d), portRun := w.portRun.filter (fun j => j.die != d) })
  let s8 := s7.abortTests (fun t => unitCls t.unit ≤ 3 && unitDie t.unit == d)
  ((s8.setBypass s8.pkg.bypass.toNat).cfgError 15).showDie d

/-- A die is isolated, once, with its event; its islands are OFFLINE (R34, R237). -/
def State.isolateDie (s : State) (d : Nat) : State :=
  ((((s.setPresence d .isolated).forN 64 (fun k s => s.put (SWB_ISL_STAT.STATE (64 * d + k)) 7)).forN 64 (fun k s =>
    s.put (SWB_ISL_STAT.PLACEABLE (64 * d + k)) 0)).post 0x0206 d).showDie d

/-- A die is declared lost (R36); the third loss within 60 s isolates it (R41), as `isolate` does at once. -/
def State.declareLost (s : State) (d : Nat) (kept : List (BitVec 16)) (isolate : Bool) : State :=
  let l := (s.pkg.losses.peek (fun _ => []) d).filter (fun t => s.now ≤ t + 60000000000) ++ [s.now]
  let s1 := ((s.setPresence d .lost).onPkg (fun p => { p with losses := p.losses.poke (fun _ => []) d l })).toCairn 0x0C
    (512 * d + 0x7F) sevMajor 0
  let s2 := s1.fenceDie d kept
  if isolate || l.length ≥ 3 then s2.isolateDie d else s2

/-! ### Retirement (R34, R220, R221) -/

/-- Whether a trail's route takes a bridge. -/
def Trail.over (x : Trail) (br : Nat) : Bool := [0, 1].any (fun dir =>
  let l := bridgeLink (br / 2) (br % 2) dir
  x.fwd.contains l || x.ret.contains l)

/-- Trails in admission order whose route takes a bridge, those that are CLOSING included. -/
def State.trailsOver (s : State) (br : Nat) : List Nat :=
  (sortBy (fun a b => a.2.seq ≤ b.2.seq) (s.net.trails.filter (fun q => q.2.state != 0 && q.2.over br))).map (fun q => q.1)

/-- A bridge is taken down: its ACTIVE trails stall, and the transactions whose flits it had and the other side had not
acknowledged (`lost`) end with LINK_DOWN. With the other bridge down too, the die is isolated; what the Saddle had accepted
from it (`kept`) goes on (R36). A die that was lost before keeps its pins as that loss left them (R38). -/
def State.bridgeDown (s : State) (br : Nat) (lost kept : List (BitVec 16)) : State :=
  let d := br / 2
  let ts := s.trailsOver br
  let s1 := (((s.dropRepairs br).onPkg (fun p => { p with down := p.down ++ [br] })).onNet (fun n => { n with
    reroute := n.reroute ++ [br] })).post 0x0204 (d + br % 2 * 8)
  let s2 := s1.forAll ts (fun t s => s.modTrail t (fun x => { x with state := if x.state = 1 then 2 else x.state }))
  let mine (f : Flight) : Bool := lost.contains f.msg.tag && ts.contains f.msg.trail.toNat
  let gone := (s2.net.flight.filter mine).map (fun f => f.msg)
  let back := (s2.net.resp.filter mine).map (fun f => f.msg)
  let s3 := s2.onNet (fun n => { n with flight := n.flight.filter (fun f => !mine f), resp := n.resp.filter (fun f => !mine f) })
  let s4 := s3.forAll gone (fun m s => (s.modTrail m.trail.toNat (fun x => { x with used := x.used - 1 })).failTag m 0x10)
  let s5 := s4.forAll back (fun m s => s.failTag m 0x10)
  let s6 := if s.cfg.phase < 4 then s5.cfgError 15 else s5
  if !(s6.pkg.down.contains (2 * d) && s6.pkg.down.contains (2 * d + 1)) then s6
  else if s6.presence d == .present then (s6.banksLost d 3).declareLost d kept true
  else s6.isolateDie d

/-- A group pair is retired: capacity, events, the degraded mark below 8 pairs, and the bridge with its last pair. -/
def State.retirePair (s : State) (br k : Nat) (lost kept : List (BitVec 16)) : State :=
  let d := br / 2
  let gone (s : State) (dir : Nat) : State :=
    s.modGroup (groupNo br k dir) (fun g => { g with retired := true, repair := none, queue := [] })
  let s1 := gone (gone s 0) 1
  let w := s1.working d (br % 2)
  let s2 := (s1.abortTests (fun t => t.unit == unitOf 3 d (512 * (br % 2) + k))).post 0x0203 (laneArg br k 0) w
  let s3 := s2.fitBridge br 1 4096
  let s4 := if w < 8 ∧ !s3.pkg.degraded.contains d then
      ((s3.onPkg (fun p => { p with degraded := p.degraded ++ [d] })).forN 64 (fun i s =>
        s.put (SWB_ISL_STAT.PLACEABLE (64 * d + i)) 0)).post 0x0205 d
    else s3
  (if w = 0 then s4.bridgeDown br lost kept else s4).showDie d

/-- A lane is to be replaced: by a spare that is left, after a repair that runs in its group, or with the pair's end. -/
def State.replaceLane (s : State) (br k dir lane : Nat) (lost kept : List (BitVec 16)) : State :=
  let g := groupNo br k dir
  let x := s.laneGroup g
  if x.repair.isSome then s.modGroup g (fun x => { x with queue := x.queue ++ [lane] })
  else match [(0 : Fin 2), 1].find? x.idle with
    | some k => (s.modGroup g (fun x => { x with repair := some (lane, k) })).abortTests (fun t =>
        unitCls t.unit == 3 && unitDie t.unit == br / 2 && unitBrg t.unit == br % 2)
    | none => s.retirePair br k lost kept

/-- A data lane, or a spare in use, is degrading: by its eye or by its error counter (R31). -/
def execLaneDegrading (br : Fin 8) (k : Fin 16) (dir : Fin 2) (seen : LaneSeen) (cut : Cut) (s : State) : Res :=
  let lane := seen.lane
  let eye := seen.eye
  let g := groupNo br.val k.val dir.val
  let x := s.laneGroup g
  let s1 := s.sawEye g lane.val eye
  whenDue (x.inUse lane.val && x.repair.map (fun p => p.1) != some lane.val && !x.queue.contains lane.val
      && (eyeBad eye || s.laneErrs g lane.val)) s
    (if s.judged br.val && s.pairWorks br.val k.val then s1.replaceLane br.val k.val dir.val lane.val cut.lost cut.kept else s)

/-- A lane repair ends (R33 steps 3 and 4); the next lane that waits in the group follows. -/
def execLaneRepairComplete (br : Fin 8) (k : Fin 16) (dir : Fin 2) (cut : Cut) (s : State) : Res :=
  let g := groupNo br.val k.val dir.val
  let x := s.laneGroup g
  match x.repair with
  | none => notDue s
  | some (lane, k2) =>
    let n := x.repairs + 1
    -- the spare carries what the lane carried; a spare that failed in use is unusable
    let role := if lane < 32 then 2 + lane else x.spares.toList.getD (lane - 32) 0
    let old := if lane < 32 then x.spares else x.spares.setIfInBounds (lane - 32) 1
    let s1 := (s.modGroup g (fun x => { x with
      repair := none, queue := x.queue.drop 1, spares := old.set k2 role, repairs := n })).post 0x0201
        (laneArg br.val k.val lane) n
    .next (match x.queue with
      | [] => s1
      | l :: _ => s1.replaceLane br.val k.val dir.val l cut.lost cut.kept)

/-- An idle spare fails its eye-margin check, at bridge training or for 1 ms under continuous monitoring (R24, R31). -/
def execSpareUnusable (br : Fin 8) (k : Fin 16) (dir : Fin 2) (spare : Fin 2) (chk : EyeCheck) (s : State) : Res :=
  let eye := chk.eye
  let g := groupNo br.val k.val dir.val
  let x := s.laneGroup g
  let d := br.val / 2
  let may := if chk.training then s.presence d == .rejoining || s.cfg.phase < 4 else s.flag (HIF_DIE_CAP.SPARE_MON d) && s.presence d == .present
  whenDue (x.idle spare && may && eyeBad eye && s.pairWorks br.val k.val && !s.pkg.down.contains br.val) s
    (((s.sawEye g (32 + spare.val) eye).modGroup g (fun x => { x with spares := x.spares.set spare 1 })).post 0x0202 (laneArg br.val k.val (32 + spare.val)) 0)

/-- The forwarded clock of a group fails. -/
def execForwardedClockFail (br : Fin 8) (k : Fin 16) (dir : Fin 2) (cut : Cut) (s : State) : Res :=
  whenDue (!(s.laneGroup (groupNo br.val k.val dir.val)).retired) s
    (if s.judged br.val && s.pairWorks br.val k.val then s.retirePair br.val k.val cut.lost cut.kept else s)

/-- Sixteen consecutive replays of one flit fail. -/
def execReplayLimit (br : Fin 8) (k : Fin 16) (dir : Fin 2) (cut : Cut) (s : State) : Res :=
  whenDue (!(s.laneGroup (groupNo br.val k.val dir.val)).retired) s
    (if s.judged br.val && s.pairWorks br.val k.val then s.retirePair br.val k.val cut.lost cut.kept else s)

/-- A bridge flit fails its CRC: the flit is replayed, and lanes whose bits differ from the replayed copy are charged. An
armed injection at the bridge has no lane to charge (R415). -/
def execBridgeFlitCrcError (br : Fin 8) (k : Fin 16) (dir : Fin 2) (lanes : BitVec 34) (s : State) : Res :=
  let g := groupNo br.val k.val dir.val
  let src := 512 * (br.val / 2) + 0x60 + br.val % 2
  let inj := s.armed src 4
  let s0 := if inj then s.useCheck src 4 else s
  let up (t : Table Nat) (n : Nat) : Table Nat := t.poke (fun _ => 0) n (min (t.peek (fun _ => 0) n + 1) 0xFFFFFFFF)
  let hit := if inj then [] else (List.range 34).filter (fun l => nbit lanes.toNat l)
  whenDue (s.judged br.val && s.pairWorks br.val k.val) s
    (s0.onPkg (fun p => { p with
      flitErr := up p.flitErr g, laneErr := hit.foldl (fun t l => up t (laneKey g l)) p.laneErr
      laneAt := (hit.filter (fun l => p.laneErr.peek (fun _ => 0) (laneKey g l) < 0xFFFFFFFF)).foldl (fun t l =>
        let old := t.peek (fun _ => []) (laneKey g l)
        t.poke (fun _ => []) (laneKey g l) ((if old.length < 8 then old else old.drop 1) ++ [s.now])) p.laneAt }))

/-- A trail is routed and admitted again; one that is CLOSING stays so. -/
def State.rerouteTrail (s : State) (t : Nat) : State :=
  let x := s.trail t
  if x.state = 5 then
    (match s.standsAt x.src, s.standsAt x.dst with
     | some p, some q => ((s.readmit t p q 3).modTrail t (fun x => { x with state := 5 })).refreshTrails
     | _, _ => s)
  else s.retrail 3 t

/-- The trails of a downed bridge are routed again over the other one, in admission order (R221). A system trail moves first:
with its 32 units the south bridge's reserved trails may no longer fit, and are demoted (assumption log 80). -/
def execBridgeRerouteComplete (br : Fin 8) (s : State) : Res :=
  let s1 := s.onNet (fun n => { n with reroute := n.reroute.filter (fun b => b != br.val) })
  let s2 := if br.val % 2 = 0 then s1.fitBridge (br.val + 1) 3 4096 else s1
  whenDue (s.pkg.down.contains br.val && s.net.reroute.contains br.val) s
    (s2.forAll (s2.trailsOver br.val) (fun t s => s.rerouteTrail t))

/-! ### Loss and rejoin of a die (R36, R39, R40) -/

/-- A copy of a base clock fails on a die (R92): it moves to the south-bridge copy; when that fails too, the die loses its
clocks. -/
def execBaseClockCopyFail (d : Fin 4) (n : Fin 4) (s : State) : Res :=
  let k := 4 * d.val + n.val
  .next (if s.pkg.southCopy.contains k then s.dieStops d.val true
    else s.onPkg (fun p => { p with southCopy := p.southCopy ++ [k] }))

/-- A die resets, or with `clock` loses both copies of its forwarded clocks. -/
def execDieReset (d : Fin 4) (clock : Bool) (s : State) : Res := .next (s.dieStops d.val clock)

/-- The Saddle misses four heartbeats; a die held at Lull or below is not supervised (R37). -/
def execMissedHeartbeats (d : Fin 4) (kept : List (BitVec 16)) (s : State) : Res :=
  whenDue (s.presence d.val == .silent && !s.dieAsleep d.val) s (s.declareLost d.val kept false)

/-- Whether a die comes back with its configuration: after a clock loss, with RETAIN_REJOIN (R40). -/
def State.returnsRetained (s : State) (d : Nat) : Bool := s.pkg.byClock.contains d && s.flag (HIF_DIE_CAP.RETAIN_REJOIN d)

/-- The clearing of a die at its rejoin, a job of its configuration port (R39, R250). -/
def clearJob (d : Nat) : PortJob := { die := d, rank := 1, ctx := 0x3FF }

/-- Reset is released or the clocks return; the bridges retrain and the die reports its record (R39 steps 1 to 3). -/
def execDieRejoin (d : Fin 4) (record : W64) (s : State) : Res :=
  whenDue (s.presence d.val == .lost && !s.pkg.dieReset.contains d.val) s
    (if record ≠ s.reg (HIF_DIE_ID.RECORD d.val).addr then s.isolateDie d.val
     else
       let s0 := s.onPkg (fun p => { p with southCopy := p.southCopy.filter (fun k => k / 4 != d.val) })
       let s1 := ((s0.judgeAfresh d.val).setPresence d.val .rejoining).showDie d.val
       if s1.returnsRetained d.val then s1 else s1.addJob (clearJob d.val))

/-- Deep memory of a rejoining die: its granules are free, with ALLOC_LOST per owner (R254); its pages are resolved (R260). -/
def State.resolveDeep (s : State) (d : Nat) : State :=
  let here (g : Nat) : Bool := 16384 * d ≤ g && g < 16384 * d + 16384
  let mine := s.swb.owners.filter (fun p => here p.1)
  let ctxs := ((mine.map (fun p => p.2 - 1)).filter (fun c => c < 0x3FF)).eraseDups
  let s1 := (s.zeroRange (granuleAt (16384 * d)) 0x4000000).onSwb (fun w => { w with
    owners := w.owners.filter (fun p => !here p.1) })
  let s2 := s1.forAll ctxs (fun c s => s.post 0x0506 (c + d * 2 ^ 12) (mine.filter (fun p => p.2 == c + 1)).length)
  let deep (p : Page) : Bool := p.valid && p.loc == 1 && (p.addr - deepBase) / 0x4000000 == d
  let s3 := s2.modPages deep (fun p =>
    if !p.d && !p.dev then { p with loc := 2, addr := p.backing, a := false } else { p with valid := false, lost := true })
  (s3.postLost s2).showMaps

/-- An island comes back cleared: EMPTY, unless a self-test keeps it out. -/
def State.islandBack (s : State) (i : Nat) : State :=
  let out := (s.unit (unitOf 0 (i / 64) (i % 64))).state ≥ 2 || s.engOut i
  let s1 := (((s.setEng i {}).clearIsland i).setEng i {}).showIsland i (if out then 7 else 0) 0x3FF 0
  s1.put (SWB_ISL_STAT.PLACEABLE i) (bit (!out && s.dieTakes (i / 64)))

/-- The contexts that a die's loss left waiting to restart there, and its boot contexts. -/
def State.waitingOn (s : State) (d : Nat) : List Nat :=
  (s.swb.ctxs.filter (fun p => !p.2.placed && p.2.die == d && ((p.2.state == 7 && p.2.waiting) || p.2.boot))).map (fun p => p.1)

/-- The islands a context without islands last had. -/
def State.oldSite (s : State) (c : Nat) : List Nat :=
  let x := s.ctx c
  footprint x.shape x.die x.ax x.ay

/-- A context after the re-admission of its die (R40, R252): in place where its frames match, else by its policy. `kept`: the
frames of its islands were retained and their readback CRC matches. -/
def State.comeBack (s : State) (kept : Bool) (c : Nat) : State :=
  let x := s.ctx c
  let free := (s.oldSite c).all (fun i => s.islState i == 0)
  if x.boot then
    if kept ∧ free ∧ !s.registered c then
      (((s.modCtx c (fun y => { y with placed := true, pinned := true })).forAll (numbered (s.oldSite c)) (fun p s =>
        s.showIsland p.2 2 c p.1)).holdBoot c 3)
    else s
  else if kept ∧ free then
    s.beginLoad { ctx := c, variant := x.variant, fresh := x.restore != 2 } { variant := x.variant, die := x.die, ax := x.ax, ay := x.ay }
      -- its islands are retained: no frame is loaded (R40)
  else s.restoreLoad c (if x.restore = 3 then some x.die else none)

/-- A die is re-admitted (R39 steps 4 and 5), its clearing done. The port map entries of the contexts that its loss left LOST
become ABSENT. -/
def execDieReadmit (d : Fin 4) (s : State) : Res :=
  let d := d.val
  let retained := s.returnsRetained d
  let back := s.waitingOn d
  let good := back.filter (fun c => retained && (s.oldSite c).all (fun i => !(s.island i).frameBad))
  -- a readback CRC that matches keeps an island's frames
  let frames := good.flatMap (fun c => (s.oldSite c).map (fun i => (i, s.island i)))
  let gone := (s.swb.ctxs.filter (fun p => !p.2.placed && p.2.die == d && p.2.pmap == 3)).map (fun p => p.1)
  let s1 := (((s.endJob (clearJob d)).setPresence d .present).onPkg (fun p => { p with byClock := p.byClock.filter (· != d) })).resolveDeep d |>.scrubRestart d
  let s2 := s1.forN 64 (fun k s => s.islandBack (64 * d + k))
  let s3 := s2.forAll frames (fun p t => (t.setIsland p.1 p.2.hold).put (CLK_ISL_CFG.SETTING p.1) (s.get (CLK_ISL_CFG.SETTING p.1)))
  let s4 := if retained then s3.banksLost d 0 else (s3.banksLost d 0).banksDefault d
  let s5 := (s4.post 0x0208 d (bit retained)).onPkg (fun p => { p with bypass := p.bypass &&& ~~~(BitVec.ofNat 4 (2 ^ d)) })
  let s6 := (s5.forAll gone (fun c s => s.setEntries c 2 2)).forAll (s5.openTrails (fun x => x.state == 3)) (fun t s => s.retrail 2 t)
  let s7 := (s6.onSwb (fun w => { w with retained := frames.map (fun p => p.1) })).forAll back (fun c s =>
    s.comeBack (good.contains c) c)
  whenDue (s.presence d == .rejoining && (retained || s.jobRuns (clearJob d))) s (s7.retryQueue.showRing.showDie d)

end Sys2Proof.Machine
end

