-- ==== Sys2Proof/Machine/SelfTest.lean ====
section
/-!
DEFINITION. Self-test of units and the maintenance stop (R442–R453).
-/

namespace Sys2Proof.Machine

/-- Whether a unit cannot be named by a test (BAD_UNIT): an invalid code, a unit that has failed or been retired, a die lost
or isolated. An engine of a failed island is out with it. -/
def State.badUnit (s : State) (u : Nat) : Bool :=
  !unitValid u || (s.unit u).state == 4 || (unitCls u ≤ 3 && s.dieGone (unitDie u)) || (match unitCls u with
    | 1 => (s.unit (unitOf 0 (unitDie u) (unitIdx u))).state == 4
    | 3 => !s.pairWorks (bridgeNo (unitDie u) (unitBrg u)) (unitIdx u) || s.pkg.down.contains (bridgeNo (unitDie u) (unitBrg u))
    | 5 => nbit (s.get (HBM_PC_RET.RETIRED (unitDie u))) (unitIdx u) || s.hbm.retiring.contains (unitPc u)
    | _ => false)

/-- What refuses a test or a bypass at its request (R445): IN_USE, NO_SLACK, REFUSED; 0 where nothing does. -/
def State.unitBusy (s : State) (u : Nat) (destroy : Bool) : Nat :=
  match unitCls u with
  | 2 =>
    let held := (List.range 512).any (fun k => let o := s.ownerOf (512 * unitBank u + k); o != 0 && o != 0x400)
    if s.bankReserved (unitBank u) || held then 2 else 0
  | 3 =>
    let br := bridgeNo (unitDie u) (unitBrg u)
    let under := (s.bst.tests.filter (fun t => t.state == 2 && unitCls t.unit == 3 && unitDie t.unit == unitDie u
      && unitBrg t.unit == unitBrg u)).length
    let repairing := (List.range 32).any (fun n => (s.laneGroup (32 * br + n)).repair.isSome)
    if s.working (unitDie u) (unitBrg u) - under < 2 || repairing then 5 else 0
  | 4 => if s.laneOwner (unitIdx u) != 0 then 2 else 0
  | 5 => if destroy then 0 else 6
  | _ => 0

/-- A test or a bypass is queued: its unit takes nothing new from now on (R445, R451). -/
def State.queueTest (s : State) (t : BstTest) : State :=
  let u := t.unit
  let s1 := s.onBst (fun b => { b with tests := b.tests ++ [t] })
  let s2 := if (s1.unit u).state = 0 then s1.modUnit u (fun x => { x with state := 1 }) else s1
  let s3 := match unitCls u with
    | 0 => s2.put (SWB_ISL_STAT.PLACEABLE (unitIsland u)) 0
    | 1 => if t.force then s2 else s2.put (SWB_ISL_STAT.PLACEABLE (unitIsland u)) 0
    | 2 => s2.onSwb (fun w => { w with shutBanks := (w.shutBanks ++ [unitBank u]).eraseDups })
    | _ => s2
  s3.showBst

/-- BST_RUN. -/
def execBstRun (d : Desc) (s : State) : Res :=
  let u := d.f 2 15 0
  s.runDesc d 0x40 (d.only 2 (bitsHL 18 0 + bitsHL 47 32) && d.zeroFrom 3) (fun s =>
    let busy := s.unitBusy u (d.f 2 17 17 == 1)
    if s.badUnit u then s.opDone d 4 0
    else if busy ≠ 0 then s.opDone d busy 0
    else s.queueTest { unit := u, force := d.f 2 16 16 == 1, keepOff := d.f 2 18 18 == 1, desc := d })

/-- BST_ABORT: the oldest test or bypass of the unit ends; without one the code is BAD_UNIT. -/
def execBstAbort (d : Desc) (s : State) : Res :=
  s.runDesc d 0x41 (d.only 2 (bitsHL 15 0) && d.zeroFrom 3) (fun s =>
    match s.bst.tests.find? (fun t => t.unit == d.f 2 15 0) with
    | none => s.opDone d 4 0
    | some t => ((s.abortTest t).opDone t.desc 3 0).opDone d 0 0)

/-- BST_OFFLINE. -/
def execBstOffline (d : Desc) (s : State) : Res :=
  let u := d.f 2 15 0
  s.runDesc d 0x43 (d.only 2 (bitsHL 15 0) && d.zeroFrom 3) (fun s =>
    let busy := s.unitBusy u true
    if s.badUnit u || !canBypass u then s.opDone d 4 0
    else if (s.unit u).state = 3 then s.opDone d 0 0
    else if busy ≠ 0 then s.opDone d busy 0
    else s.queueTest { unit := u, bypass := true, desc := d })

/-- BST_ONLINE: a unit that is OFFLINE returns. -/
def execBstOnline (d : Desc) (s : State) : Res :=
  let u := d.f 2 15 0
  s.runDesc d 0x44 (d.only 2 (bitsHL 15 0) && d.zeroFrom 3) (fun s =>
    if s.badUnit u || (s.unit u).state ≠ 3 then s.opDone d 4 0
    else (((s.unitBack u).post 0x0C03 u).opDone d 0 0).retryQueue)

/-- Whether a test's place is free: one scan test per die, one march test per stack, in the order of the requests (R449). -/
def State.testTurn (s : State) (t : BstTest) : Bool :=
  let same (q : BstTest) : Bool :=
    if unitCls t.unit ≤ 3 then unitCls q.unit ≤ 3 && unitDie q.unit == unitDie t.unit
    else unitCls q.unit == unitCls t.unit && unitDie q.unit == unitDie t.unit
  t.bypass || unitCls t.unit == 4 || !(s.bst.tests.takeWhile (fun q => q != t)).any (fun q => !q.bypass && same q)

/-- Whether an engine is OFF or STOPPED in a context that is there, or its island is out of use (R445). -/
def State.engineFree (s : State) (t : BstTest) : Bool :=
  let i := unitIsland t.unit
  let st := s.islState i
  st == 0 || st == 7 || (t.force && (st == 3 || st == 4) && (s.eng i).state ≤ 1)

/-- Whether a unit's isolation is complete (R445). -/
def State.isolated (s : State) (t : BstTest) : Bool :=
  match unitCls t.unit with
  | 0 => s.islState (unitIsland t.unit) == 0 || s.islState (unitIsland t.unit) == 7
  | 1 => s.engineFree t
  | 2 => !(s.swb.migrations.any (fun m => [(m.srcLoc, m.srcAddr), (m.dstLoc, m.dstAddr)].any (fun p =>
      p.1 == 1 && (p.2 - deepBase) / 0x200000 == unitBank t.unit)))
  | 5 => s.hbmUp (unitDie t.unit) && !s.copiesIn (unitPc t.unit)
  | _ => true

/-- Pages of a bank move to HBM before its test (R445): to a free frame, else to their host backing. -/
def State.emptyBank (s : State) (b : Nat) : State :=
  let here (p : Page) : Bool := p.valid && p.loc == 1 && (p.addr - deepBase) / 0x200000 == b
  let s1 := s.forAll (s.swb.pages.filter here) (fun p s =>
    let rd := s.load p.addr p.size
    let hit (q : Page) : Bool := q.valid && q.same p
    let t := rd.2.2
    let free (t : State) : State := t.own ((p.addr - deepBase) / 4096) (p.size / 4096) 0
    if rd.2.1 then free (t.losePage p)
    else match t.poolFrame p.size with
      | some a => free ((t.sealedWrite 0 rd.1 (spansOf a p.size)).2.modPages hit (fun q => { q with loc := 0, addr := a }))
      | none => (t.pageHome p).getD (free (t.losePage p)))
  (s1.postLost s).showMaps

/-- A unit leaves service: what stood in it is cleared, and an engine in a resident context is OFF meanwhile. `img`,
`sav` and `tab` are the reports of on-die ECC while a pseudo-channel is vacated. -/
def State.takeUnit (s : State) (u : Nat) (img sav tab : List (BitVec 42)) : State :=
  let i := unitIsland u
  match unitCls u with
  | 0 | 1 =>
    let s1 := s.clearUnit u
    if s.islState i = 0 then (s1.put (SWB_ISL_STAT.STATE i) 7).put (SWB_ISL_STAT.PLACEABLE i) 0 else s1
  | 2 => (s.emptyBank (unitBank u)).clearUnit u
  | 5 => (s.vacatePc (unitPc u) img sav tab).clearUnit u
  | _ => s

/-- A unit's isolation ends and its test, or its bypass, begins. -/
def execBstIsolationComplete (u : BitVec 16) (img sav tab : List (BitVec 42)) (s : State) : Res :=
  let u := u.toNat
  match s.bst.tests.find? (fun t => t.unit == u && t.state != 2) with
  | none => notDue s
  | some t =>
    let awake := s.get PWR_RUNG.CUR = 0 && (unitCls u > 3 || s.get PWR_DIE_RUNG.CUR / 8 ^ unitDie u % 8 == 0)
    let s1 := (s.modUnit u (fun x => { x with state := 2 })).takeUnit u img sav tab
    let took : Bool := unitCls u == 1 && s.islState (unitIsland u) != 0 && s.islState (unitIsland u) != 7
    let s2 := s1.onBst (fun b => { b with tests := b.tests.map (fun q =>
      if q = t then { q with state := 2, start := s.now, taken := took } else q) })
    whenDue (s.testTurn t && s.isolated t && s.bst.saddle == 0 && (t.bypass || awake)) s
      (if t.bypass then ((s1.dropTest t).unitOff u).opDone t.desc 0 0 else s2.showBst)

/-- A unit that failed stays out (R446). -/
def State.unitFails (s : State) (u : Nat) : State :=
  let s1 := (s.modUnit u (fun x => { x with state := 4 })).toCairn 0x24 (unitSrc u) sevMajor u
  match unitCls u with
  | 1 => s1.put (SWB_ISL_STAT.PLACEABLE (unitIsland u)) 0
  | 3 => s1.retirePair (bridgeNo (unitDie u) (unitBrg u)) (unitIdx u) [] []
  | 5 => s1.pcGone (unitPc u)
  | _ => s1

/-! ### The maintenance stop (R448) -/

/-- The maintenance stop begins: rings stop, pins are safe, keys are zeroised, every encrypted range is OFF. -/
def State.startSaddle (s : State) : State :=
  let s1 := ((s.relock 3).onBst (fun b => { b with saddle := 2 })).rangesOff true false
  let s2 := (s1.onCry (fun c => { c with slots := [], kwk := [], verdicts := [], arlOld := false })).put CRY_SLOT_STAT.LOADED 0
  let s3 := ((s2.putB CRY_CTL.KWK false).putB CRY_ARL_STAT.KEYED false).showSlots
  (s3.forN 2 (fun k s => s.putB (CRY_IDE_STAT.SECURE k) false)).showBanks

/-- The maintenance stop that waits begins when no test runs. -/
def State.saddleNext (s : State) : State :=
  if s.bst.saddle = 1 ∧ !s.bst.tests.any (fun t => t.state == 2) then s.startSaddle else s

/-- BST_SADDLE. -/
def execBstSaddle (d : Desc) (s : State) : Res :=
  s.runDesc d 0x42 (d.only 2 (bitsHL 7 0) && d.zeroFrom 3) (fun s =>
    if d.f 2 7 0 ≠ 0x5A ∨ s.twinOn then s.opDone d 6 0
    else ((s.opDone d 0 0).onBst (fun b => { b with saddle := 1 })).saddleNext)

/-- The Saddle scan ends: the partitions whose signatures differ from the golden ones, the result, and configuration as for
CFG_RECONF from the ACTIVE slot. -/
def execBstSaddleComplete (sigs : Vector W32 16) (s : State) : Res :=
  let bad := ((List.finRange 16).filter (fun k => sigs[k] != s.bst.part[k])).map (fun k => 2 ^ k.val)
  let mask : BitVec 16 := BitVec.ofNat 16 bad.sum
  let s1 := (s.put BST_SADDLE_RES.RESULT (if mask = 0 then 1 else 2)).put BST_SADDLE_RES.FAIL_MASK mask.toNat
  let s2 := s1.took.logAdd (s1.fresh.toNat % 65536) mask.toNat
  let slot := (pickTable s.lko.tableA s.lko.tableB).map (fun t => activeSlot t 0)
  whenDue (s.bst.saddle == 2) s ((s2.fullReset.onCfg (fun c => { c with forced := slot })).beginConfig)

/-- A test ends: `sig` is its signature, or the number of errors of a lane or march test. -/
def execBstTestComplete (u : BitVec 16) (sig : W32) (s : State) : Res :=
  let u := u.toNat
  match s.bst.tests.find? (fun t => t.unit == u && t.state == 2) with
  | none => notDue s
  | some t =>
    let pass := sig.toNat = if unitCls u ≤ 3 then s.bst.gold.peek (fun _ => 0) u else 0
    let arg := sig.toNat + (s.now - t.start) / 1000 % 2 ^ 32 * 2 ^ 32
    let s1 := ((s.dropTest t).testEnded t (if pass then 0 else 1) sig.toNat).clearUnit u
    let s2 := if !pass then s1.unitFails u else if t.keepOff ∧ canBypass u then s1.unitOff u else s1.unitBack u
    let s3 := s2.complDesc t.desc (if pass then 0 else stOpFail) (if pass then 0 else 1) arg
    .next s3.retryQueue.saddleNext

/-- A write of BST_UNIT_SEL captures a unit's record. -/
def execBstUnitSelWrite (v : W32) (s : State) : Res :=
  let u := fieldOf v 15 0
  let x := s.unit u
  let s1 := (((s.put BST_UNIT_SEL.UNIT u).put BST_UNIT_INFO.STATE x.state).put BST_UNIT_INFO.LAST_RESULT x.result).put
    BST_UNIT_INFO.RUNS x.runs
  .next (((s1.put BST_UNIT_INFO.LAST_SIG x.sig).put BST_UNIT_GOLD.GOLD
    (if unitCls u ≤ 3 then s.bst.gold.peek (fun _ => 0) u else 0)).put BST_UNIT_TIME.NS x.ended)

end Sys2Proof.Machine
end

