-- ==== Sys2Proof/Machine/PowerFail.lean ====
section
/-!
DEFINITION. The power-fail sequence (R380–R382).
-/

namespace Sys2Proof.Machine

/-- Key slots, the key-wrapping key and range states go with VCCH; deep allocations go too (R287, R382). -/
def State.loseKeys (s : State) : State :=
  let s1 := (s.rangesOff true false).onCry (fun c => { c with slots := [], kwk := [], verdicts := [], arlOld := false })
  (((s1.put CRY_SLOT_STAT.LOADED 0).putB CRY_CTL.KWK false).showSlots).onSwb (fun w => { w with owners := [] })

/-- A maintenance stop ends without a result (R17, R453). -/
def State.endSaddle (s : State) : State :=
  if s.bst.saddle = 2 then (s.put BST_SADDLE_RES.RESULT 3).onBst (fun b => { b with saddle := 0 })
  else s.onBst (fun b => { b with saddle := 0 })

/-- The sequence of R381: admission stops, the log tail is copied, the partner is told, pins are safe, Park without saving.
`bus`: the bus failure of R380 started it. A configuration in progress is abandoned. -/
def State.powerFail (s : State) (bus : Bool) : State :=
  let s1 := (s.onPwr (fun p => { p with failed := true })).toCairn 0x02 srcPower sevCritical 0
  let s2 := (if s.host.linkUp then s1.post 0x090A (bit bus) else s1).relock 2
  let s3 := s2.lkoGoes.copyTail.notice 0
  let s4 := s3.endSaddle.showBanks
  let s5 := if 1 ≤ s4.cfg.phase ∧ s4.cfg.phase ≤ 3 then s4.onCfg (fun c => { c with phase := 5 }) else s4
  ((s5.parkNow 0).loseKeys.showAlive).putB PWR_RUNG.PF true

/-- PWRFAIL_N has been low for 1 µs. -/
def execPwrfailNFall (s : State) : Res := whenDue (!s.pwr.failed) s (s.powerFail false)

/-- The bus has been below FAIL_DV for 20 µs with FAIL_EN = 1. -/
def execBusFail (s : State) : Res :=
  whenDue (s.busOn && s.flag PWR_BUS_CFG.FAIL_EN && s.get PWR_BUS_CFG.FAIL_DV != 0
    && s.busNow < s.get PWR_BUS_CFG.FAIL_DV && !s.pwr.failed) s (s.powerFail true)

end Sys2Proof.Machine
end

