-- ==== Sys2Proof/Machine/RegMap.lean ====
section
/-!
DEFINITION. Writes and reads of every set-up register and every engine register (R14, R175, R262, R293, R297, R474, R475).
-/

namespace Sys2Proof.Machine

/-! ### Set-up registers -/

/-- Whether a register has 64 bits. -/
def wideReg (off : Nat) : Bool :=
  match regRow? off with
  | some r => r.fields.any (fun (f : Nat × Nat × Acc) => f.1 ≥ 32)
  | none => false

/-- Number of the ring, or of the event queue, whose registers hold an offset. -/
def ringAt (off : Nat) : Nat := (off - 0x1000) / 0x20
def eqAt (off : Nat) : Nat := (off - 0x3000) / 0x20

/-- Bits of a register that a plain write sets now. -/
def State.openBits (s : State) (off : Nat) : Nat :=
  match regRow? off with
  | none => 0
  | some r => r.bitsOf (fun a => match a with
    | .rw => true
    | .rwOff => s.ringState (ringAt off) == 0
    | .rwDis => !s.eqOn (eqAt off)
    | .rwIdle => !s.flag DBG_TRC_CTL.EN
    | .rwHalt => s.flag DBG_LKO_CTL.HALTED
    | _ => false)

/-- Bits of a register that a 1 clears. -/
def w1cBits (off : Nat) : Nat :=
  match regRow? off with
  | some r => r.bitsOf (· == .w1c)
  | none => 0

/-- A write as the access types of R14 have it. -/
def State.plainWrite (s : State) (off v mask : Nat) : State :=
  ((s.setBits off (s.openBits off &&& mask) v).setBits off (w1cBits off &&& mask &&& v) 0).afterWrite off

/-- Whether an offset is a region register of Switchback (R262). -/
def regionReg (off : Nat) : Bool := SWB_IMG_BASE.BASE.addr ≤ off && off < SWB_POOL_SIZE.SIZE.addr + 4

/-- Whether the region of a region register is invalid (R262). -/
def State.regionBad (s : State) (off : Nat) : Bool :=
  let k := (off - SWB_IMG_BASE.BASE.addr) / 16
  let base := (s.reg (SWB_IMG_BASE.BASE.addr + 16 * k)).toNat
  let size := (s.reg (SWB_IMG_BASE.BASE.addr + 16 * k + 8)).toNat
  if k = 1 then (size != 0 || base != 0) && (base < hostBase || base + size * unit2M > 2 ^ 48)
  else size != 0 && !hbmRegionOk base size

/-- Registers that ignore writes now: rings and event queues before READY (R293), Switchback's regions in use (R262), an
Ethernet engine with a port up (R369), Lookout's debug registers below level 2 (R474). -/
def State.shutReg (s : State) (off : Nat) : Bool :=
  (0x1000 ≤ off && off < 0x4000 && !s.flag HIF_STAT.READY) || (regionReg off && s.flag SWB_STAT.IN_USE)
    || ((IOB_ETH_CFG.MODE 0).addr ≤ off && off ≤ (IOB_ETH_CFG.MODE 3).addr && off % 8 == 0
      && s.get (IOB_ETH_STAT.LINK_UP ((off - (IOB_ETH_CFG.MODE 0).addr) / 8)) != 0)
    || (0xE0400 ≤ off && off < 0xE0500 && s.level < 2)

/-- A command of DBG_CMD (R457–R460). -/
def State.dbgCommand (s : State) (x : WriteAux) (pcie : Bool) (cmd : Nat) : State :=
  match cmd with
  | 1 => s.challenge
  | 2 => s.respondAuth pcie x.keyHash x.sigOk
  | 3 => s.password pcie x.pwHash
  | 4 => (s.relock 0).dbgDone
  | _ => s

/-- Control bits of a ring: ENABLE set or cleared, RESUME, FLUSH. -/
def State.ringCtl (s : State) (x : WriteAux) (r : Nat) (v : Nat) : State :=
  let k := Fin.ofNat 256 r
  let s1 := if nbit v 1 then landed s (ringResume k s) else s
  let s2 := if nbit v 2 then landed s1 (ringFlush k x.rest s1) else s1
  if nbit v 0 then landed s2 (ringEnable k s2)
  else if s2.flag (HIF_RING_CTL.ENABLE r) then landed s2 (ringDisable k s2) else s2

/-- Effects of a write on fields with a command of their own. `m` is the register's value with the written bytes put in, `w`
the written bytes alone; `go` starts an access-port request. -/
def State.ownWrite (s : State) (go : State → State) (x : WriteAux) (pcie : Bool) (off m w : Nat) : State :=
  let run (r : Res) : State := landed s r
  let m32 := BitVec.ofNat 32 m
  let within (a n k : Nat) : Bool := a ≤ off && off < a + n * k && (off - a) % n == 0
  if within (HIF_RING_CTL.ENABLE 0).addr 0x20 256 then s.ringCtl x (ringAt off) w
  else if within (HIF_EQ_CFG.ENABLE 0).addr 0x20 64 then
    (let q := Fin.ofNat 64 (eqAt off)
     if nbit m 0 then (if s.eqOn (eqAt off) then s else run (eqEnable q s)) else run (eqDisable q s))
  else if within (HIF_MSIX_DATA.MASK 0).addr 0x10 64 then s.unmasked
  else if regionReg off then (if s.regionBad off then s.putB SWB_STAT.CFG_ERR true else s)
  else if within (CLK_BASE.FMUL 0).addr 4 4 then run (execClkBaseWrite (Fin.ofNat 4 ((off - (CLK_BASE.FMUL 0).addr) / 4)) (BitVec.ofNat 9 m) s)
  else if within (CLK_MTR_CTL.START 0).addr 0x10 5 then
    (if nbit w 31 then run (execClkMtrStart (Fin.ofNat 5 ((off - (CLK_MTR_CTL.START 0).addr) / 0x10)) s) else s)
  else if within (HBM_PC_REQ.RETIRE 0).addr 4 2 then run (execHbmPcReq (Fin.ofNat 2 ((off - (HBM_PC_REQ.RETIRE 0).addr) / 4)) (BitVec.ofNat 32 w) s)
  else if within (IOB_QPLL.FB 0).addr 4 16 then s.qpllWrite ((off - (IOB_QPLL.FB 0).addr) / 4) (m % 4096)
  else if within (IOB_LANE_CFG.OWNER 0).addr 4 64 then s.laneWrite ((off - (IOB_LANE_CFG.OWNER 0).addr) / 4) m32
  else if off = HIF_CNT_CLR.CLR.addr then run (hifCntClr (BitVec.ofNat 32 w) s)
  else if off = TRL_LQ_SEL.LINK.addr then run (execTrlLqSelWrite m32 s)
  else if off = TRL_PMAP_Q.VPID.addr then run (execTrlPmapQWrite m32 s)
  else if off = TRL_TQ_SEL.TRAIL_ID.addr then run (execTrlTqSelWrite m32 s)
  else if off = TRL_CNT_CLR.CLR.addr then run (execTrlCntClr (BitVec.ofNat 32 w) s)
  else if off = SWB_CTX_SEL.CTX.addr then run (execSwbCtxSelWrite m32 s)
  else if off = SWB_CNT_CLR.CLR.addr then run (execSwbCntClr (BitVec.ofNat 32 w) s)
  else if off = MEM_CNT_CLR.CLR.addr then run (execMemCntClr (BitVec.ofNat 6 w) s)
  else if off = MEM_LOG_CTL.CLEAR.addr then run (execMemLogClear (BitVec.ofNat 5 w) s)
  else if off = HBM_LOG_CTL.CLEAR.addr then (if nbit w 31 then run (execHbmLogClear s) else s)
  else if off = CFG_RECONF.GO.addr then run (execCfgReconf (BitVec.ofNat 32 w) s)
  else if off = CFG_SWEEP.EN.addr then
    (if nbit m 31 then s else (s.put CFG_SWEEP.ACTIVE 0).onCfg (fun c => { c with sweepAt := none }))
  else if off = PWR_RUNG.REQ.addr then run (execPwrRungRequest (BitVec.ofNat 3 m) s)
  else if off = PWR_DIE_RUNG.REQ.addr then run (execPwrDieRungRequest (BitVec.ofNat 8 m) s)
  else if off = PWR_BUS_STAT.CLR.addr then (if nbit w 0 then run (execPwrBusStatClr s) else s)
  else if off = PWR_CNT_CLR.CLR.addr then (if nbit w 0 then run (execPwrCntClr s) else s)
  else if off = MGT_CTL.RESTART.addr then (if nbit w 8 then run (execMgtCtlRestart s) else s)
  else if off = MGT_MBX_TX.DATA.addr then run (execMgtMbxTxPush (BitVec.ofNat 32 w) s)
  else if off = FLT_STAT.LATCHED.addr then run (execFltStatClear (BitVec.ofNat 32 w) s)
  else if off = FLT_INJ.GO.addr then run (execFltInjGo (BitVec.ofNat 64 m) s)
  else if off = FLT_CNT_CLR.CLR.addr then (if nbit w 0 then run (execFltCntClr s) else s)
  else if off = TWN_CNT_CLR.CLR.addr then run (execTwnCntClr (BitVec.ofNat 32 w) s)
  else if off = TWN_CKPT_SEL.CTX.addr then run (execTwnCkptSelWrite m32 s)
  else if off = BST_UNIT_SEL.UNIT.addr then run (execBstUnitSelWrite m32 s)
  else if off = IOB_PTP_CTL.PORT.addr then s.ptpPort m
  else if off = DBG_CTL.ATTACH.addr then s.setAttach (nbit m 0)
  else if off = DBG_CMD.CMD.addr then s.dbgCommand x pcie (w % 8)
  else if off = DBG_AP_CTL.GO.addr then (if nbit w 31 then go s else s)
  else if off = DBG_LKO_CTL.HALT.addr then
    (if nbit w 0 then run (execLkoHalt x.pc s) else if nbit w 1 then run (execLkoStep x.pc s)
     else if nbit w 2 then s.lkoGoes else s)
  else s

/-- A write of the bits `mask` of the register at `off`, a 64-bit or a 32-bit one. -/
def State.regWrite (s : State) (go : State → State) (x : WriteAux) (pcie : Bool) (off v mask : Nat) : State :=
  let w := v &&& mask
  let old := (s.reg off).toNat
  let m := old - (old &&& mask) + w
  if s.shutReg off then s
  else if off = DBG_TRC_CTL.EN.addr then s.trcWrite (m - (old &&& 0x30000000) + (w &&& 0x30000000))
  else (s.plainWrite off v mask).ownWrite go x pcie off m w

/-- A write of 4 aligned bytes, or with `wide` of 8, at an offset of the set-up registers (R297). Halves of HIF_TB_SET are
held and taken as R323 has it. -/
def State.busWrite (s : State) (go : State → State) (x : WriteAux) (pcie : Bool) (off : Nat) (wide : Bool) (v : Nat) : State :=
  let lo := 2 ^ 32 - 1
  let four (s : State) (o n : Nat) : State :=
    if o = HIF_TB_SET.NS.addr then landed s (tbSet 1 (BitVec.ofNat 64 n) s)
    else if o = HIF_TB_SET.NS.addr + 4 then landed s (tbSet 2 (BitVec.ofNat 64 n) s)
    else if o % 8 = 4 && wideReg (o - 4) then s.regWrite go x pcie (o - 4) (n * 2 ^ 32) (lo * 2 ^ 32)
    else s.regWrite go x pcie o n lo
  if off % (if wide then 8 else 4) ≠ 0 then s
  else if !wide then four s off (v % 2 ^ 32)
  else if off = HIF_TB_SET.NS.addr then landed s (tbSet 0 (BitVec.ofNat 64 v) s)
  else if wideReg off then s.regWrite go x pcie off v (2 ^ 64 - 1)
  else four (four s off (v % 2 ^ 32)) (off + 4) (v / 2 ^ 32)

/-- Bits of a register that read as written: triggers read 0. -/
def ownReads (off : Nat) : Bool :=
  [HIF_CNT_CLR.CLR.addr, HIF_TB_SET.NS.addr, TRL_CNT_CLR.CLR.addr, SWB_CNT_CLR.CLR.addr, MEM_CNT_CLR.CLR.addr,
    MEM_LOG_CTL.CLEAR.addr, CFG_RECONF.GO.addr, PWR_CNT_CLR.CLR.addr, MGT_MBX_TX.DATA.addr, FLT_CNT_CLR.CLR.addr,
    TWN_CNT_CLR.CLR.addr, DBG_CMD.CMD.addr].contains off

/-- The value a register reads as: MEM_SCRUB_PASS shows whether its class is being scrubbed (R141), TRL_STAT counts the ACTIVE
system trails of the configuration ports as well (R207, R224). -/
def State.regRead (s : State) (off : Nat) : Nat :=
  if ownReads off || (0xE0400 ≤ off && off < 0xE0500 && s.level < 2) || (regRow? off).isNone then 0
  else if 0x30010 ≤ off ∧ off < 0x30028 then (s.reg off).toNat % 2 ^ 31 + bit (s.scrubActive ((off - 0x30010) / 4)) * 2 ^ 31
  else if off = TRL_STAT.RESERVED.addr then
    (s.put TRL_STAT.RESERVED (s.get TRL_STAT.RESERVED + ((List.range 4).filter (fun d => s.sysState d == 1)).length)).reg off |>.toNat
  else (s.reg off).toNat

/-- A read of 4 or 8 aligned bytes of the set-up registers. -/
def State.busRead (s : State) (off : Nat) (wide : Bool) : Nat :=
  let four (o : Nat) : Nat := if o % 8 = 4 && wideReg (o - 4) then s.regRead (o - 4) / 2 ^ 32 else s.regRead o % 2 ^ 32
  if !wide then four off else if wideReg off then s.regRead off else four off + four (off + 4) * 2 ^ 32

/-! ### Engine registers (R175, R475) -/

/-- A field of an engine register from a written value. -/
def engField (m hi lo w : Nat) : BitVec w := BitVec.ofNat w (nfield m hi lo)

/-- A write of the bits `mask` of the 64-bit engine register at an offset from window base + 0x30_0000. W1S bits act in the
order CLR_FAULT, STOP, START and HALT, STEP, RESUME. -/
def State.engRegWrite (s : State) (i off v mask : Nat) : State :=
  let k := Fin.ofNat 256 i
  let w := v &&& mask
  let old := (s.engReg i off).toNat
  let m := old - (old &&& mask) + w
  let run (s : State) (b : Bool) (f : State → Res) : State := if b then landed s (f s) else s
  if off = 0x008 then
    let s1 := s.modEng i (fun e => { e with merrTrap := nbit m 8, trapEn := nbit m 7 })
    run (run (run s1 (nbit w 3) (execClrFault k)) (nbit w 2) (execEngCtlStop k)) (nbit w 1) (execEngCtlStart k)
  else if off = 0x018 then landed s (execEngStartWrite k (engField m 10 0 11) s)
  else if off = 0x020 then s.modEng i (fun e => { e with vec := engField m 10 0 11 })
  else if off = 0x028 then
    run (s.modEng i (fun e => { e with wdogEn := nbit m 63, load := engField m 31 0 32 })) (nbit w 61) (execEngWdogKick k)
  else if off = 0x038 then landed s (execEngSemaWrite k (BitVec.ofNat 56 m) s)
  else if 0x100 ≤ off ∧ off < 0x180 then
    let c := (off - 0x100) / 0x20
    let ch := Fin.ofNat 4 c
    match off % 0x20 with
    | 0x00 =>
      let h := (s.chan i c).held.toNat
      s.modChan i c (fun x => { x with held := BitVec.ofNat 64 (h - (h &&& mask) + w) })
    | 0x08 => landed s (execEngDmCmdWrite k ch (BitVec.ofNat 64 w) s)
    | 0x10 =>
      let s1 := s.modChan i c (fun x => { x with trapEn := nbit m 2 })
      run (run s1 (nbit w 1) (execDmAbort k ch)) (nbit w 0) (execDmResume k ch)
    | 0x18 => if nbit w 11 then s.modChan i c (fun x => { x with rej := false }) else s
    | _ => s
  else if off = 0x800 then
    let s1 := s.modEng i (fun e => { e with wdogMin := engField m 63 32 32, brkHalt := nbit m 4 })
    run (run (run s1 (nbit w 0) (execEngDbgHalt k)) (nbit w 1) (execEngDbgStep k)) (nbit w 2) (execEngDbgResume k)
  else if off = 0x808 then (if nbit w 6 then s.modEng i (fun e => { e with lockBrk := false }) else s)
  else if 0x810 ≤ off ∧ off < 0x840 then
    let n := (off - 0x810) / 8
    let rw := if n < 4 then 2 ^ 64 - 2 ^ 24 else 2 ^ 64 - 2 ^ 14
    s.modEng i (fun e => { e with comp := vmod e.comp n (fun c =>
      BitVec.ofNat 64 (c.toNat - (c.toNat &&& (rw &&& mask)) + (w &&& rw))) })
  else if off = 0x840 then
    s.modEng i (fun e => { e with term := BitVec.ofNat 64 (nfield m 63 34 * 2 ^ 34) })
  else if off = 0x850 then run s (nbit w 0) (execEngDbgRxack k)
  else if off = 0x858 then landed s (execEngDbgWr k (BitVec.ofNat 32 w) s)
  else s

/-- A write of bytes to the engine registers, register by register; none where its bus request is missed (R109). -/
def State.engBytes (s : State) (i off : Nat) (bs : List Byte) : State :=
  if !s.winReaches i then s else
  let first := off / 8
  let last := (off + bs.length - 1) / 8
  s.forAll ((List.range (last + 1 - first)).map (fun k => 8 * (first + k))) (fun r s =>
    let lo := max off r - r
    let hi := min (off + bs.length) (r + 8) - r
    let v := ofBytes ((bs.drop (r + lo - off)).take (hi - lo)) * 256 ^ lo
    s.engRegWrite i r v (256 ^ hi - 256 ^ lo))

/-- A read of bytes of the engine registers; with OBS = 0 a read of ENG_DBG_RX pops it (R470). -/
def State.engRead (s : State) (i off n : Nat) (obs : Bool) : List Byte × State :=
  let first := off / 8
  let last := (off + n - 1) / 8
  let l := (List.range (last + 1 - first)).flatMap (fun k => toBytes 8 (s.engReg i (8 * (first + k))).toNat)
  let s1 := if off < 0x018 ∧ 0x010 < off + n ∧ (s.eng i).state = 2 then s.took else s
  let s2 := if off < 0x850 ∧ 0x848 < off + n ∧ !obs then s1.modEng i Engine.popTx else s1
  ((l.drop (off % 8)).take n, s2)

end Sys2Proof.Machine
end

