-- ==== Sys2Proof/Machine/Access.lean ====
section
/-!
DEFINITION. Reads and writes at the endpoints that serve them in place: HBM, deep memory banks, island windows, the Saddle
control space, Lookout (R116, R119, R120, R172–R175, R226, R254, R463).
-/

namespace Sys2Proof.Machine

/-- A requester as an endpoint sees it: header CTX, the trail for the error log, whether it is the debug bus master, OBS. -/
structure Caller where
  ctx : Nat := 0x3FF
  trail : Nat := 0
  debug : Bool := false
  obs : Bool := false
  deriving DecidableEq, Repr

/-- The requester of a message. -/
def State.callerOf (s : State) (m : Msg) : Caller :=
  let v := (s.trail m.trail.toNat).src
  { ctx := m.ctx.toNat, trail := m.trail.toNat, debug := !vpCtx v && vpClass v == 0x0F, obs := m.obs }

/-- VPID of the endpoint that serves a DPA (R226); none for a reserved range. -/
def endpointOf (a : Nat) : Option Nat :=
  if a < 0xC00000000 then some (0x0200 + 0x100 * hbmStack a)
  else if inDeep a then
    let o := a - deepBase
    some (0x0400 + 0x100 * (o / 0x4000000) + o / 0x200000 % 32)
  else if (windowOf a).isSome then some (0x0800 + islandOf a)
  else if controlBase ≤ a ∧ a < controlBase + 0x100000 then some 0x1000
  else if a ≥ hostBase then some 0
  else none

/-- Free bytes: nothing is known of them. -/
def State.freeBytes (s : State) (n : Nat) : List Byte × State :=
  (((List.range (n / 8 + 1)).flatMap (fun k => toBytes 8 (Config.freeValue (s.free + k)).toNat)).take n,
    { s with free := s.free + (n / 8 + 1) })

/-- An answer: code of R217, data, the state after. -/
abbrev Reply := Nat × List Byte × State

/-! ### HBM -/

/-- A read of HBM that is not queued: earlier requests on its bytes first; tags verified before anything is returned. -/
def State.readHbm (s : State) (w : Caller) (a n : Nat) : Reply :=
  let s0 := s.drainHbm a n
  let code := s0.hbmCheck a n
  if code ≠ 0 then (code, [], s0.underTrail w.trail (fun s => s.hbmRefused code a n))
  else
    let r := (s0.onHbm (fun h => { h with serving := some w.trail })).sealedRead (spansOf a n)
    let t := r.2.onHbm (fun h => { h with serving := none })
    if r.1.ue then (4, [], t)
    else match r.1.bad with
      | some line => (5, [], t.authAlarm line w.trail)
      | none => (0, r.1.data, t)

/-- A write of HBM that is not queued. -/
def State.writeHbm (s : State) (w : Caller) (a : Nat) (bs : List Byte) : Nat × State :=
  let s0 := s.drainHbm a bs.length
  let code := s0.hbmCheck a bs.length
  if code ≠ 0 then (code, s0.underTrail w.trail (fun s => s.hbmRefused code a bs.length))
  else if s0.mirrorDenied a bs.length then (0x0B, s0)
  else
    let r := (s0.onHbm (fun h => { h with serving := some w.trail })).hbmStore w.trail a bs
    (r.1, r.2.2.onHbm (fun h => { h with serving := none }))

/-! ### Deep memory (R119, R120, R254) -/

/-- What keeps an access to a deep memory bank from being performed: its die is lost, bytes outside the bank, a reserved bank for a context
that is not part of the static design, a granule that is not allocated or belongs to another. -/
def State.deepCode (s : State) (w : Caller) (d b a n : Nat) : Nat :=
  let lo := deepBase + d * 0x4000000 + b * 0x200000
  let g := (a - deepBase) / 4096
  let last := (a + n - 1 - deepBase) / 4096
  if s.dieGone d then 1
  else if a < lo ∨ a + n > lo + 0x200000 then 3
  else if s.bankReserved (32 * d + b) then (if w.ctx = 0x3FF ∨ (s.ctx w.ctx).boot then 0 else 3)
  else if (List.range (last + 1 - g)).all (fun k =>
      s.ownerOf (g + k) != 0 && (w.ctx == 0x3FF || s.ownerOf (g + k) == w.ctx + 1)) then 0
  else 3

/-! ### Island windows (R172–R175, R463) -/

/-- Part of an island window that holds an offset: 0–95 the slot of a block memory, 96 X, 97 Y, 98 program memory, 99 the
engine's registers, 100 its debug registers, 101 the state area. -/
def winPart (off : Nat) : Option Nat :=
  if off < 0x180000 then some (off / 0x4000)
  else if 0x200000 ≤ off ∧ off < 0x210000 then some 96
  else if 0x210000 ≤ off ∧ off < 0x220000 then some 97
  else if 0x220000 ≤ off ∧ off < 0x228000 then some 98
  else if 0x300000 ≤ off ∧ off < 0x300800 then some 99
  else if 0x300800 ≤ off ∧ off < 0x301000 then some 100
  else if 0x301000 ≤ off ∧ off < 0x3014C0 then some 101
  else none

/-- Whether a span lies in the terminal registers, which serve every requester (R463). -/
def inTerminal (off n : Nat) : Bool := 0x300840 ≤ off && off + n ≤ 0x300860

/-- Whether a write to a slot of the 72 family covers bytes 0–8 of every row it touches (R173). -/
def rowsWhole (o n : Nat) : Bool :=
  (List.range ((o + n - 1) / 16 + 1 - o / 16)).all (fun k =>
    let r := 16 * (o / 16 + k)
    o ≤ r && r + 9 ≤ o + n)

/-- What keeps an access to an island window from being performed. -/
def State.winCode (s : State) (w : Caller) (i off n : Nat) (write : Bool) : Nat :=
  let st := s.islState i
  if s.dieGone (dieOf i) then 1
  else if st = 7 then 3
  else if !s.islActive i then 2
  else if winPart off ≠ winPart (off + n - 1) then 3
  else match winPart off with
    | none => 3
    | some k =>
      let c := s.bmOf i k
      let o := off % 0x4000
      let e := (s.eng i).state
      if k < 96 then
        (if !c.window ∨ (!c.fam72 ∧ o + n > 0x2000) ∨ (c.fam72 ∧ write ∧ !rowsWhole o n) then 3 else 0)
      else if s.engOut i then 3
      else if k = 100 ∧ !w.debug ∧ !inTerminal off n then 0x0B
      else if k = 101 ∧ (e = 2 ∨ e = 4) then 3
      else 0

/-- The X or Y words that an access to a window touches, and Y. -/
def winWords (off n : Nat) : Option (Bool × List Nat) :=
  match winPart off with
  | some 96 => some (false, (List.range ((off + n - 1) / 4 + 1 - off / 4)).map (fun k => (off - 0x200000) / 4 + k))
  | some 97 => some (true, (List.range ((off + n - 1) / 4 + 1 - off / 4)).map (fun k => (off - 0x210000) / 4 + k))
  | _ => none

/-- The service port's touches of an access that was performed (R468). -/
def State.winTouch (s : State) (i off n : Nat) (write : Bool) : State :=
  match winWords off n with
  | some (y, l) => s.svcTouch i (l.map (fun k => ⟨y, k, write, halfOf (s.mergedView (xyWord i y k)) k⟩))
  | none => s

/-- Bytes of a row of the 72 family: data, the extra byte, zeros. -/
def State.row72 (s : State) (w : Nat) : List Byte := toBytes 8 (s.rawWord w).toNat ++ [s.checkAt w] ++ List.replicate 7 0

/-- A read of an island window. -/
def State.readWin (s : State) (w : Caller) (i off n : Nat) : Reply :=
  let code := s.winCode w i off n false
  if code ≠ 0 then (code, [], s)
  else match winPart off with
    | some 101 =>
      let r := s.stateArea i (off - 0x301000) (.read n)
      let d := s.winData i n r.1 r.2.2
      if r.2.1 = 0 then (0, d.1, d.2) else (3, [], r.2.2)
    | some k =>
      if k ≥ 99 then
        (let r := s.engRead i (off - 0x300000) n w.obs
         let d := s.winData i n r.1 r.2
         (0, d.1, d.2))
      else if k < 96 ∧ (s.bmOf i k).fam72 then
        (let o := off % 0x4000
         (0, (((List.range ((o + n - 1) / 16 + 1 - o / 16)).flatMap (fun r => s.row72 (bmBase i k + o / 16 + r))).drop (o % 16)).take n, s))
      else
        (let r := s.load (islandWindow i + off) n
         let d := if k < 96 then (r.1, r.2.2) else s.winData i n r.1 (r.2.2.winTouch i off n false)
         if r.2.1 then (4, [], r.2.2) else (0, d.1, d.2))
    | none => (3, [], s)

/-- A write of an island window. -/
def State.writeWin (s : State) (w : Caller) (i off : Nat) (bs : List Byte) : Nat × State :=
  let n := bs.length
  let code := s.winCode w i off n true
  if code ≠ 0 then (code, s)
  else match winPart off with
    | some 101 =>
      let r := s.stateArea i (off - 0x301000) (.write bs)
      (if r.2.1 = 0 then 0 else 3, if s.busSlow i then s else r.2.2)
    | some k =>
      if k ≥ 99 then (0, s.engBytes i (off - 0x300000) bs)
      else if k < 96 ∧ (s.bmOf i k).fam72 then
        (let o := off % 0x4000
         (0, s.forAll ((List.range ((o + n - 1) / 16 + 1 - o / 16)).map (fun r => o / 16 + r)) (fun r s =>
            let l := bs.drop (16 * r - o)
            (s.setRawWord (bmBase i k + r) (BitVec.ofNat 64 (ofBytes (l.take 8)))).setCheck (bmBase i k + r) (l.getD 8 0))))
      else (0, (s.store (islandWindow i + off) bs).winTouch i off n true)
    | none => (3, s)

/-! ### Control space and Lookout -/

/-- A read of the Saddle control space: 4 or 8 aligned bytes (R226, R297). -/
def State.readCtl (s : State) (w : Caller) (a n : Nat) : Reply :=
  let off := a - controlBase
  if a < controlBase ∨ a + n > controlBase + 0x100000 ∨ !(n = 4 ∨ n = 8) ∨ off % n ≠ 0 then (3, [], s)
  else (0, toBytes n (s.busRead off (n == 8)), if off / 8 * 8 = 0x90018 then landed s (execMgtMbxRxPop w.obs s) else s)

/-- A write of the Saddle control space. -/
def State.writeCtl (s : State) (x : WriteAux) (a : Nat) (bs : List Byte) : Nat × State :=
  let off := a - controlBase
  let n := bs.length
  if a < controlBase ∨ a + n > controlBase + 0x100000 ∨ !(n = 4 ∨ n = 8) ∨ off % n ≠ 0 then (3, s)
  else (0, s.busWrite id x false off (n == 8) (ofBytes bs))

/-- A read at Lookout's endpoint: its SRAM for the debug bus master (R462); what others read there is not stated. -/
def State.readLko (s : State) (w : Caller) (a n : Nat) : Reply :=
  if w.debug then
    (if a + n > 0x80000 then (3, [], s)
     else
       let r := s.load (lkoBase + a) n
       (if r.2.1 then 4 else 0, if r.2.1 then [] else r.1, r.2.2))
  else
    let r := s.freeBytes n
    (0, r.1, r.2)

/-- A write at Lookout's endpoint. -/
def State.writeLko (s : State) (w : Caller) (a : Nat) (bs : List Byte) : Nat × State :=
  if w.debug then (if a + bs.length > 0x80000 then (3, s) else (0, s.store (lkoBase + a) bs)) else (0, s)

/-! ### All of them -/

/-- A read at an endpoint. -/
def State.readEnd (s : State) (w : Caller) (v a n : Nat) : Reply :=
  match vpClass v with
  | 0x02 | 0x03 => if hbmStack a ≠ vpClass v - 2 then (3, [], s) else s.readHbm w a n
  | 0x04 | 0x05 | 0x06 | 0x07 =>
    let code := s.deepCode w (vpClass v - 4) (vpInst v) a n
    if code ≠ 0 then (code, [], s)
    else
      let r := s.load a n
      (if r.2.1 then 4 else 0, if r.2.1 then [] else r.1, r.2.2)
  | 0x08 => if a < islandWindow (vpInst v) ∨ a + n > islandWindow (vpInst v) + 0x1000000 then (3, [], s)
    else s.readWin w (vpInst v) (a - islandWindow (vpInst v)) n
  | 0x0E => s.readLko w a n
  | 0x10 => s.readCtl w a n
  | _ => (3, [], s)

/-- A write at an endpoint. -/
def State.writeEnd (s : State) (w : Caller) (x : WriteAux) (v a : Nat) (bs : List Byte) : Nat × State :=
  match vpClass v with
  | 0x02 | 0x03 => if hbmStack a ≠ vpClass v - 2 then (3, s) else s.writeHbm w a bs
  | 0x04 | 0x05 | 0x06 | 0x07 =>
    let code := s.deepCode w (vpClass v - 4) (vpInst v) a bs.length
    if code ≠ 0 then (code, s) else (0, s.store a bs)
  | 0x08 => if a < islandWindow (vpInst v) ∨ a + bs.length > islandWindow (vpInst v) + 0x1000000 then (3, s)
    else s.writeWin w (vpInst v) (a - islandWindow (vpInst v)) bs
  | 0x0E => s.writeLko w a bs
  | 0x10 => s.writeCtl x a bs
  | _ => (3, s)

/-- Whether a page that a rebuild holds meets a span (R129). -/
def State.spanHeld (s : State) (a n : Nat) : Bool :=
  s.mem.rebuilding != [] && (List.range (n / 8 + 2)).any (fun k => 8 * (a / 8 + k) < a + n && s.wordHeld (a / 8 + k))

/-- Whether the page of an endpoint's span is under rebuild. -/
def State.endHeld (s : State) (w : Caller) (v a n : Nat) : Bool :=
  match vpClass v with
  | 0x02 | 0x03 => hbmSpan a n && s.spanHeld a n
  | 0x04 | 0x05 | 0x06 | 0x07 | 0x08 => s.spanHeld a n
  | 0x0E => w.debug && s.spanHeld (lkoBase + a) n
  | _ => false

/-- What else an access waits for: a stack that does not answer (R268), a line under conversion (R282), a mirrored write that is
not admitted (R428), a held semaphore region (R169, R463), an engine memory whose KE does not run (R171). -/
def State.endBusy (s : State) (w : Caller) (v a n : Nat) (write : Bool) : Bool :=
  match vpClass v with
  | 0x02 | 0x03 => hbmSpan a n && (!s.hbmUp (hbmStack a) || s.converting a n || (write && s.mirrorWaits a))
  | 0x08 =>
    let i := vpInst v
    let o := a - islandWindow i
    let k := (winPart o).getD 0
    (96 ≤ k && k ≤ 98 && !s.keRuns i) || (write && o < 0x300860 && 0x300858 < o + n && s.termWaits i)
      || (match winWords o n with
        | some (y, l) => (write || !w.debug) && s.regionBusy i y l
        | none => false)
  | 0x00 => s.converting a n
  | _ => false

/-- Whether an access must wait at an endpoint. -/
def State.endWaits (s : State) (w : Caller) (v a n : Nat) (write : Bool) : Bool := s.endHeld w v a n || s.endBusy w v a n write

/-! ### Accesses to memory words (R116, R120, R129, R139, R169, R171) -/

/-- What an access to a coded memory at an endpoint ends with before it reaches the memory. -/
def State.memCode (s : State) (v a n : Nat) (write : Bool) : Nat :=
  match vpClass v with
  | 0x02 | 0x03 => s.hbmCheck a n
  | 0x04 | 0x05 | 0x06 | 0x07 => s.deepCode {} (vpClass v - 4) (vpInst v) a n
  | 0x08 => if (winPart (a - islandWindow (vpInst v))).getD 99 ≥ 99 then 3
    else s.winCode {} (vpInst v) (a - islandWindow (vpInst v)) n write
  | _ => 3

/-- Whether a row of a slot of the 72 family begins at an address: an access there has nine bytes. -/
def State.rowAt (s : State) (a : Nat) : Bool :=
  match windowOf a with
  | some (_, o) => o < 0x180000 && o % 16 == 0 && (s.bmCfg a).fam72
  | none => false

/-- The runs of bytes that a mask names, among its low `n` bits: place and length. -/
def maskRuns (mask : Nat) : Nat → List (Nat × Nat)
  | 0 => []
  | n + 1 =>
    if !nbit mask n then maskRuns mask n
    else match (maskRuns mask n).reverse with
      | (p, k) :: rest => if p + k = n then (rest.reverse ++ [(p, k + 1)]) else maskRuns mask n ++ [(n, 1)]
      | [] => [(n, 1)]

/-- What an uncorrectable word does for a requester (R139): `d` are the stored data. -/
def State.deliverBad (s : State) (who : MemUser) (addr : Nat) (d : List Byte) : State :=
  match who with
  | .fetch => (s.answer d).trapLow (islandOf addr) 1
  | .operand =>
    let i := islandOf addr
    let t := (s.answer d).modEng i (fun e => { e with esr := e.esr ||| 0x00100000 })
    if (s.eng i).merrTrap then t.trapLow i 3 else t
  | .mover c => (s.answer []).dmHalt (islandOf addr) c.val 1 0
  | .hostDma r =>
    match (s.slots r.val).find? (fun x => x.started && x.done.isNone && x.job.isSome) with
    | some { desc := d, job := some j, .. } => (s.answer [] 4).setJob d { j with fail := some (j.fail.getD (4, 0)) }
    | _ => s.answer [] 4
  | .lookoutFetch =>
    if s.lkoRuns && !s.flag DBG_LKO_CTL.HALTED then
      ((s.answer []).restartLookout 2).toCairn 0x1C (srcSaddle 9) sevMajor (addr - lkoBase)
    else s.answer []
  | .lookoutData => (s.answer []).onMem (fun m => { m with lkoBusErr := m.lkoBusErr + 1 })
  | _ => s.answer [] 4

/-- Whether a requester reaches the memories over the package network. -/
def MemUser.remote : MemUser → Bool
  | .network | .hostDma _ => true
  | _ => false

/-- Class of the memory that a requester beside it reads and writes (R135); none: any. -/
def MemUser.memory : MemUser → Option Nat
  | .fetch => some 3
  | .operand | .mover _ => some 2
  | .lookoutFetch | .lookoutData => some 5
  | _ => none

/-- The address of the word that an access by a requester other than the fabric names, and its bytes. -/
def State.accessSpan (s : State) (acc : MemAccess) : Nat × Nat :=
  let a := match acc with
    | .read _ addr => addr.toNat / 8 * 8
    | .write _ addr _ _ => addr.toNat / 8 * 8
  (a, if acc.who.remote && s.rowAt a then 9 else 8)

/-- Performs an access of a requester other than the fabric. -/
def State.accessNow (s : State) (acc : MemAccess) : State :=
  let p := s.accessSpan acc
  match acc with
  | .read who _ =>
    if who.remote then
      (let r := s.readEnd {} ((endpointOf p.1).getD 0) p.1 p.2
       if r.1 = 4 then r.2.2.deliverBad who p.1 [] else r.2.2.answer r.2.1 r.1)
    else
      let t := s.loadWord (p.1 / 8)
      let d := toBytes 8 t.1.toNat
      if t.2.1 then t.2.2.deliverBad who p.1 d else t.2.2.answer d
  | .write who _ v en =>
    if who.remote then
      let l := (toBytes 9 v.toNat)
      let runs := if p.2 = 9 && en == 0xFF then [(0, 9)] else maskRuns en.toNat 8
      let r := runs.foldl (fun (x : Nat × State) q =>
        let y := x.2.writeEnd {} {} ((endpointOf p.1).getD 0) (p.1 + q.1) ((l.drop q.1).take q.2)
        (if x.1 = 0 then y.1 else x.1, y.2)) (0, s)
      r.2.answer [] r.1
    else (s.maskWrite (p.1 / 8) (v.setWidth 64) en).answer []

/-- An access to a memory word once nothing but a rebuild keeps it waiting: it joins a rebuild of its page; a read of a word the
page guard can rebuild starts the rebuild and waits for it (R128, R129); otherwise it is performed. -/
def State.memGo (s : State) (acc : MemAccess) : State :=
  match acc.port with
  | some p => s.portAccess p.2.1 p.2.2.1 [acc]
  | none =>
    let w := (s.accessSpan acc).1 / 8
    match regionOf (8 * w) with
    | none => if acc.who.remote then s.accessNow acc else s.answer [] stAddrErr
    | some r =>
      match s.rebuildFor r with
      | some page => s.joinRebuild page acc
      | none => if acc.isRead && s.mustRebuild r w then s.beginRebuild r w acc else s.accessNow acc

/-- An access to a memory word: over the network it meets the endpoint's checks and waits, beside a memory it must name that
memory and wait for KE and for a held semaphore region; `none` while it waits. -/
def State.memTry (s : State) (acc : MemAccess) : Option State :=
  if acc.port.isSome then some (s.memGo acc)
  else
    let p := s.accessSpan acc
    if acc.who.remote then
      match endpointOf p.1 with
      | none => some (s.answer [] stAddrErr)
      | some v =>
        let code := s.memCode v p.1 p.2 (!acc.isRead)
        if code ≠ 0 then some (s.answer [] code)
        else if s.endBusy {} v p.1 p.2 (!acc.isRead) then none
        else some (s.memGo acc)
    else match regionOf p.1, acc.who.memory with
      | some r, some c =>
        let i := islandOf p.1
        let o := p.1 - islandWindow i
        if r.cls ≠ c then some (s.answer [] stAddrErr)
        else if (c == 2 || c == 3) && !s.keRuns i then none
        else match acc.who, winWords o 8 with
          | .mover _, some (y, l) => if s.regionBusy i y l then none else some (s.memGo acc)
          | _, _ => some (s.memGo acc)
      | _, _ => some (s.memGo acc)

/-- The access, or nothing while it waits. -/
def State.memAccess (s : State) (acc : MemAccess) : Res :=
  match s.memTry acc with
  | some t => .next t
  | none => notDue s

/-- A read of a memory word (R123, R139). -/
def execMemoryRead (who : MemUser) (addr : BitVec 48) (s : State) : Res := s.memAccess (.read who addr)

/-- A write of a memory word; an access of the other port of a block memory on the same edge meets it under R117. -/
def execMemoryWrite (who : MemUser) (addr : BitVec 48) (data : BitVec 72) (en : Byte) (other : Option MemAccess)
    (s : State) : Res :=
  let me : MemAccess := .write who addr data en
  match me.port, other.map (fun o => (o, o.port)) with
  | some p, some (o, some q) =>
    if p.2.1 = q.2.1 ∧ p.2.2.1 = q.2.2.1 ∧ p.1 ≠ q.1 then
      -- the port that PRIORITY names stores last
      .next (s.portAccess p.2.1 p.2.2.1 (if (s.bmOf p.2.1 p.2.2.1).prioB == p.1 then [o, me] else [me, o]))
    else s.memAccess me
  | _, _ => s.memAccess me

/-- A write of fewer than 8 bytes of a word (R130, R131). -/
def execNarrowWrite (who : MemUser) (addr : BitVec 48) (data : W64) (mask : Byte) (s : State) : Res :=
  s.memAccess (.write who addr (data.setWidth 72) mask)

/-- A page rebuild ends: every set of the page with erasures is rebuilt, BUSY falls, and the waiting accesses go on (R128,
R129). -/
def execPageRebuildComplete (page : BitVec 45) (s : State) : Res :=
  match s.mem.rebuilding.find? (fun p => p.1 == page.toNat), regionOf (8 * page.toNat) with
  | some p, some r =>
    let s1 := s.onMem (fun m => { m with rebuilding := m.rebuilding.filter (fun q => q.1 != page.toNat) })
    .next (((s1.rebuildPage r).setBusy page.toNat false).forAll p.2 (fun a s => s.memGo a))
  | _, _ => notDue s

end Sys2Proof.Machine
end

