-- ==== Sys2Proof/Machine/Gateway.lean ====
section
/-!
DEFINITION. The page gateway: translation, faults, migrations, victims, UNMAP (R256–R260, R313).
-/

namespace Sys2Proof.Machine

/-! ### Translation -/

/-- The parts of a span by the page that maps them, `none` where none does; `n` bounds the pages. -/
def State.pageParts (s : State) (space a len : Nat) : Nat → List (Option Page × Nat × Nat)
  | 0 => []
  | n + 1 =>
    if len = 0 then []
    else match s.pageAt space a with
      | none => [(none, a, len)]
      | some p =>
        let k := min len (p.dva + p.size - a)
        (some p, a, k) :: s.pageParts space (a + k) (len - k) n

/-- The parts of a message. -/
def State.msgParts (s : State) (m : Msg) : List (Option Page × Nat × Nat) := s.pageParts m.ctx.toNat m.addr.toNat m.len 3

/-- Whether a page was lost that held a DVA (R260). -/
def State.pageLostAt (s : State) (space dva : Nat) : Bool := s.swb.pages.any (fun p => !p.valid && p.lost && p.holds space dva)

/-- The die of a frame in deep memory. -/
def deepDie (a : Nat) : Nat := (a - deepBase) / 0x4000000

/-- What keeps a request from being performed: the code and the reason of R259, (0, 0) for nothing. -/
def State.pageCode (s : State) (m : Msg) (tabUe : Bool) : Nat × Nat :=
  let l := s.msgParts m
  if tabUe then (0x0C, 4)
  else match l.find? (fun p => p.1.isNone) with
    | some p => (0x0C, if s.pageLostAt m.ctx.toNat p.2.1 then 5 else 1)
    | none =>
      if m.op.toNat = opWR ∧ l.any (fun p => match p.1 with
          | some q => !q.w
          | none => false) then (0x0C, 2)
      else if l.any (fun p => match p.1 with
          | some q => q.loc == 1 && s.dieGone (deepDie q.addr)
          | none => false) then (1, 0)
      else (0, 0)

/-! ### Performing at a page's location -/

/-- The address of a part in the page's frame or backing. -/
def Page.at_ (p : Page) (dva : Nat) : Nat := p.addr + (dva - p.dva)

/-- The reads of a message at the host: those of its parts there. -/
def State.partsReads (s : State) (write : Bool) (l : List (Option Page × Nat × Nat)) : List Nat :=
  l.flatMap (fun (p : Option Page × Nat × Nat) => match p.1 with
    | some q => if q.loc = 2 then s.hostReads write 0 (spansOf (q.at_ p.2.1) p.2.2) else []
    | none => [])

/-- What keeps the parts at the host from being reached. -/
def State.partsHost (s : State) (l : List (Option Page × Nat × Nat)) : Nat :=
  (l.map (fun (p : Option Page × Nat × Nat) => match p.1 with
    | some q => if q.loc = 2 then s.hostCode (q.at_ p.2.1) p.2.2 else 0
    | none => 0)).foldl (fun c d => if c = 0 then d else c) 0

/-- Reads the parts of a message at their locations, tags verified first (R279). -/
def State.readParts (s : State) (w : Caller) (feed : List Byte) : List (Option Page × Nat × Nat) → Reply
  | [] => (0, [], s)
  | (none, _, _) :: _ => (0x0C, [], s)
  | (some p, a, n) :: rest =>
    let sp := spansOf (p.at_ a) n
    let one : Reply × List Byte :=
      if p.loc = 2 then
        (let r := s.hostOpen feed sp
         (match r.bad with
          | some line => (5, [], s.authAlarm line w.trail)
          | none => (0, r.data, s), feed.drop (s.hostFeed false sp)))
      else if p.loc = 0 then (s.readHbm w (p.at_ a) n, feed)
      else (s.frameRead 1 (p.at_ a) n, feed)
    if one.1.1 ≠ 0 then (one.1.1, [], one.1.2.2)
    else
      let more := one.1.2.2.readParts w one.2 rest
      (more.1, one.1.2.1 ++ more.2.1, more.2.2)

/-- Writes the parts of a message at their locations. -/
def State.writeParts (s : State) (w : Caller) (feed bs : List Byte) : List (Option Page × Nat × Nat) → Nat × State
  | [] => (0, s)
  | (none, _, _) :: _ => (0x0C, s)
  | (some p, a, n) :: rest =>
    let sp := spansOf (p.at_ a) n
    let part := bs.take n
    let one : Nat × State :=
      if p.loc = 2 then s.hostWrite w.trail feed part sp
      else if p.loc = 0 then s.writeHbm w (p.at_ a) part
      else s.frameWrite 1 (p.at_ a) part
    let more := one.2.writeParts w (if p.loc = 2 then feed.drop (s.hostFeed true sp) else feed) (bs.drop n) rest
    (if one.1 ≠ 0 then one.1 else more.1, more.2)

/-- Whether a part's page is one of some pages. -/
def partOf (l : List (Option Page × Nat × Nat)) (q : Page) : Bool :=
  q.valid && l.any (fun p => match p.1 with
    | some x => x.same q
    | none => false)

/-- Answers a request with an error and its reason; PAGE_ERR is counted. -/
def State.pageErr (s : State) (m : Msg) (code : Nat × Nat) : State :=
  (if code.1 = 0x0C then s.bump SWB_PG_ERR.COUNT else s).respond m opERR code.1 [] (BitVec.ofNat 96 code.2)

/-- Performs a request at its pages' locations and answers it; `feed` is what the link read. Pages are marked accessed, and
written by a write that was performed. -/
def State.pageGo (sIn : State) (m : Msg) (feed : List Byte) : State :=
  let l := sIn.msgParts m
  let w : Caller := { trail := m.trail.toNat }
  let s := sIn.onSwb (fun w => { w with atSource := w.atSource.filter (fun t => t != m.tag.toNat) })
  let code := s.pageCode m false
  let s0 := (s.modPages (partOf l) (fun q => { q with a := true })).syncMaps
  if code.1 ≠ 0 then s.pageErr m code
  else if m.op.toNat = opWR then
    let r := s0.writeParts w feed m.data l
    if r.1 ≠ 0 then r.2.respond m opERR r.1
    else (r.2.modPages (partOf l) (fun q => { q with d := true })).syncMaps.respond m opWRACK 0
  else
    let r := s0.readParts w feed l
    if r.1 ≠ 0 then r.2.2.respond m opERR r.1 else r.2.2.respond m opRDRSP 0 r.2.1

/-! ### Faults and migrations (R258–R260) -/

/-- Whether a page may be chosen as a victim for a frame of `z` bytes in the HBM pool. -/
def Page.victim (p : Page) (z : Nat) : Bool := p.valid && p.loc == 0 && !p.pin && !p.dev && p.size ≥ z

/-- The clock scan over A of the pages a predicate names: clears A of those it passes and picks the first with A = 0. -/
def State.scanPages (s : State) (may : Page → Bool) : Option (Page × State) :=
  let l := s.swb.pages
  let page (k : Nat) : Page := l.getD k { space := 0, dva := 0, big := false, valid := false }
  let order := ((List.range l.length).map (fun k => (s.swb.hand + k) % l.length)).filter (fun k => may (page k))
  match order with
  | [] => none
  | first :: _ =>
    let pick := (order.find? (fun k => !(page k).a)).getD first
    let passed := if (page pick).a then order else order.takeWhile (fun k => k != pick)
    let s1 := s.modPages (fun q => passed.any (fun k => (page k).same q && q.valid)) (fun q => { q with a := false })
    some ({ page pick with a := false }, s1.onSwb (fun w => { w with hand := pick + 1 }))

/-- A victim of the HBM pool goes home. -/
def State.evictPage (s : State) (z : Nat) : Option State :=
  match s.scanPages (fun p => p.victim z) with
  | none => none
  | some (p, t) => t.pageHome p

/-- A frame of the HBM pool for a page of `z` bytes, a victim evicted if needed. -/
def State.hbmFrameFor (s : State) (z : Nat) : Option (Nat × State) :=
  match s.poolFrame z with
  | some a => some (a, s)
  | none => match s.evictPage z with
    | none => none
    | some t => (t.poolFrame z).map (fun a => (a, t))

/-- A page in deep memory is demoted: to a frame in HBM, else to its host backing (R258). -/
def State.demotePage (s : State) (p : Page) : Option State :=
  match s.hbmFrameFor p.size with
  | none => s.pageHome p
  | some (a, t) =>
    let r := t.frameRead 1 p.addr p.size
    if r.1 ≠ 0 then none
    else some (((r.2.2.frameWrite 0 a r.2.1).2.freeFrame 1 p.addr p.size).modPages (fun q => q.valid && q.same p) (fun q => { q with
      loc := 0, addr := a, a := false }))

/-- A frame in deep memory on a die, a DEEP page there demoted if the die has no frame although its share is not full (R258,
R259). -/
def State.deepFrameFor (s : State) (d z : Nat) : Option (Nat × State) :=
  match s.deepFrame d z with
  | some a => some (a, s)
  | none =>
    if s.deepShareFull d then none
    else match s.scanPages (fun p => p.valid && p.loc == 1 && !p.pin && p.rclass == 2 && deepDie p.addr == d && p.size ≥ z) with
      | none => none
      | some (p, t) => match t.demotePage p with
        | none => none
        | some u => (u.deepFrame d z).map (fun a => (a, u))

/-- Where a page is to be moved for an access from a die (none: not from an island): location, frame, the state with the
frame free. None when the page is at its target or stays for want of a frame (R258–R260). -/
def State.moveTo (s : State) (p : Page) (die : Option Nat) : Option (Nat × Nat × State) :=
  let hbm : Option (Nat × Nat × State) := if p.loc = 0 then none else (s.hbmFrameFor p.size).map (fun r => (0, r.1, r.2))
  if s.get SWB_POL.MIG_SHARE = 0 ∨ p.loc = 3 then none
  else match p.rclass with
    | 1 => hbm
    | 2 =>
      if p.loc = 1 then none
      else match die with
        | none => hbm
        | some d => if s.dieGone d then hbm else match s.deepFrameFor d p.size with
          | some r => some (1, r.1, r.2)
          | none => hbm
    | _ => none

/-- A fault: the page is MOVING, its frame taken, the request held. -/
def State.fault (s : State) (p : Page) (loc a : Nat) (m : Msg) : State :=
  let s1 := if loc = 1 then s.own ((a - deepBase) / 4096) (p.size / 4096) 0x400 else s
  ((s1.modPages (fun q => q.valid && q.same p) (fun q => { q with loc := 3 })).onSwb (fun w => { w with
    migrations := w.migrations ++ [{ space := p.space, dva := p.dva, srcLoc := p.loc, srcAddr := p.addr, dstLoc := loc
                                     dstAddr := a, held := [m] }] })).showMaps.bump SWB_PG_FAULTS.COUNT

/-- The die of a message's requester, when it is an island. -/
def State.dieOfSource (s : State) (m : Msg) : Option Nat :=
  (s.ctxPort (s.trail m.trail.toNat).src).map (fun p => dieOf p.1)

/-- The first part of a message whose page is to move. -/
def State.partFault (s : State) (die : Option Nat) : List (Option Page × Nat × Nat) → Option (Page × Nat × Nat × State)
  | [] => none
  | (some p, _, _) :: rest => match s.moveTo p die with
    | some r => some (p, r.1, r.2.1, r.2.2)
    | none => s.partFault die rest
  | (none, _, _) :: rest => s.partFault die rest

/-- The migration that a message must wait for. -/
def State.movingFor (s : State) (l : List (Option Page × Nat × Nat)) : Option Migration :=
  s.swb.migrations.find? (fun g => l.any (fun p => match p.1 with
    | some q => q.loc == 3 && q.space == g.space && q.dva == g.dva
    | none => false))

/-- The walks for the parts of a message: whether a table word cannot be read (R259). -/
def State.walks (s : State) (space : Nat) : List (Option Page × Nat × Nat) → Bool × State
  | [] => (false, s)
  | (_, a, _) :: rest =>
    let r := s.walk space a
    let more := r.2.walks space rest
    (r.1 || more.1, more.2)

/-- The fault that a request raises; none for one whose page's copy failed: it is performed where the page is. -/
def State.faultFor (s : State) (m : Msg) (l : List (Option Page × Nat × Nat)) : Option (Page × Nat × Nat × State) :=
  if s.swb.atSource.contains m.tag.toNat then none else s.partFault (s.dieOfSource m) l

/-- A request at the page gateway (R259), whose translation is cached or `walked`. -/
def State.gateway (s0 : State) (m : Msg) (walked : Bool) : State :=
  let l := s0.msgParts m
  let write := m.op.toNat == opWR
  let w := if walked then s0.walks m.ctx.toNat l else (false, s0)
  let s := w.2
  let code := s.pageCode m w.1
  if code.1 ≠ 0 then
    s.pageErr m code
  else match s.movingFor l with
    | some g => s.onSwb (fun w => { w with migrations := w.migrations.map (fun x => if x = g then { x with held := x.held ++ [m] } else x) })
    | none => match s.faultFor m l with
      | some (p, loc, a, t) => t.fault p loc a m
      | none =>
        let c := s.partsHost l
        if c ≠ 0 then s.respond m opERR c
        else if s.partsReads write l = [] then s.pageGo m []
        else s.askHost m true (s.partsReads write l)

/-- Whether a request touches a page of a message. -/
def State.samePage (s : State) (l : List (Option Page × Nat × Nat)) (m : Msg) : Bool :=
  (s.msgParts m).any (fun p => match p.1 with
    | some q => partOf l q
    | none => false)

/-- Whether a request at the gateway must wait: an earlier one of its trail to one of its pages, a fault on a page with host
reads outstanding or to or from a die at Lull or below (R261), or a location that is not ready. -/
def State.gatewayWaits (s : State) (m : Msg) : Bool :=
  let l := s.msgParts m
  let write := m.op.toNat == opWR
  let before := s.net.flight.takeWhile (fun f => f.msg.tag != m.tag)
  before.any (fun f => f.msg.trail == m.trail && f.msg.ctx == m.ctx && s.samePage l f.msg)
    || (match s.faultFor m l with
      | none => false
      | some (p, loc, a, _) => s.net.flight.any (fun f => s.hostAwaits f.msg.tag.toNat && s.samePage l f.msg)
        || (loc == 1 && s.dieAsleep (deepDie a)) || (p.loc == 1 && s.dieAsleep (deepDie p.addr)))
    || (s.partsReads write l != [] && s.hostOut ≥ 4096)
    || l.any (fun p => match p.1 with
      | some q => (match q.loc with
        | 0 => s.endWaits {} (0x0200 + 0x100 * hbmStack q.addr) (q.at_ p.2.1) p.2.2 write
        | 1 => s.dieAsleep (deepDie q.addr) || s.spanHeld (q.at_ p.2.1) p.2.2
        | 2 => s.converting (q.at_ p.2.1) p.2.2
        | _ => false)
      | none => false)

/-! ### UNMAP (R313) -/

/-- Whether faults are in progress on the pages of a descriptor. -/
def State.unmapWaits (s : State) (d : Desc) : Bool := s.swb.pages.any (fun p => d.covers p && p.loc == 3)

/-- Writes the dirty pages of a list back to their backing; the code of the first that fails. -/
def State.writeBack (s : State) : List Page → Nat × State
  | [] => (0, s)
  | p :: rest =>
    if !p.d || p.dev || p.loc ≥ 2 then s.writeBack rest
    else
      let c := s.hostCode p.backing p.size
      let r := s.frameRead p.loc p.addr p.size
      if c ≠ 0 then (c, s)
      else if r.1 ≠ 0 then (r.1, r.2.2)
      else ((r.2.2.hostWrite 0 [] r.2.1 (spansOf p.backing p.size)).2.modPages (fun q => q.valid && q.same p) (fun q => { q with
        d := false })).writeBack rest

/-- Unmaps the pages of a descriptor. A page that cannot be written back ends it, and every page stays mapped. -/
def State.unmapNow (s : State) (d : Desc) : State :=
  let l := s.swb.pages.filter d.covers
  let r := if d.f 2 15 15 = 1 then (0, s) else s.writeBack l
  if r.1 ≠ 0 then r.2.endDesc d r.1 0 0
  else
    let s1 := r.2.forAll l (fun p s => s.freeFrame p.loc p.addr p.size)
    let lo := d.f 3 47 0
    let gone (p : Page) : Bool := d.covers p
      || (!p.valid && p.space == d.f 2 9 0 && spansMeet lo (lo + d.f 2 63 32 * pageSize (d.f 2 10 10 == 1)) p.dva (p.dva + p.size))
    ((s1.onSwb (fun w => { w with pages := w.pages.filter (fun p => !gone p) })).showMaps).opDone d 0 0

/-- UNMAP waits for the faults in progress on its pages. -/
def execUnmap (d : Desc) (s : State) : Res :=
  let ok := d.only 2 (bitsHL 10 0 + bitsHL 15 15 + bitsHL 63 32) && d.pageRange && d.zeroFrom 4
  s.runDesc d 0x31 ok (fun s =>
    if !s.spaceOk (d.f 2 9 0) then s.opDone d 2 0
    else if s.unmapWaits d then s.onSwb (fun w => { w with unmaps := w.unmaps ++ [d] })
    else s.unmapNow d)

/-- UNMAPs that waited for a fault go on. -/
def State.retryUnmaps (s : State) : State :=
  s.forAll s.swb.unmaps (fun d s =>
    if s.unmapWaits d then s else (s.onSwb (fun w => { w with unmaps := w.unmaps.erase d })).unmapNow d)

/-- The bytes of a page that moves: what the link read for a page at the host, else its frame's; none when they cannot be
had. -/
def State.moveRead (s : State) (g : Migration) (z : Nat) (ok : Bool) (feed : List Byte) : Option (List Byte) × State :=
  let sp := spansOf g.srcAddr z
  if g.srcLoc = 2 then
    if !ok ∨ s.hostCode g.srcAddr z ≠ 0 ∨ feed.length < s.hostFeed false sp then (none, s)
    else
      let r := s.hostOpen feed sp
      match r.bad with
      | some line => (none, s.authAlarm line 0)
      | none => (some r.data, s)
  else
    let r := s.frameRead g.srcLoc g.srcAddr z
    (if r.1 = 0 then some r.2.1 else none, r.2.2)

/-- The copy of a page ends (R259): its entry names the new frame and the held requests go on, or the migration is
abandoned. -/
def execPageMigrationComplete (space : BitVec 10) (dva : BitVec 48) (ok : Bool) (feed : List Byte) (s : State) : Res :=
  let hit (p : Page) : Bool := p.valid && p.space == space.toNat && p.dva == dva.toNat && p.loc == 3
  match s.swb.migrations.find? (fun g => g.space == space.toNat && g.dva == dva.toNat), s.swb.pages.find? hit with
  | some g, some p =>
    let r := s.moveRead g p.size ok feed
    match r.1 with
    | none => .next (r.2.abandonMigration g).retryUnmaps
    | some data =>
      let s1 := (r.2.frameWrite g.dstLoc g.dstAddr data).2.freeFrame g.srcLoc g.srcAddr p.size
      let s2 := s1.modPages hit (fun q => { q with
        loc := g.dstLoc, addr := g.dstAddr, a := true, d := if g.srcLoc = 2 then false else q.d })
      let s3 := (s2.onSwb (fun w => { w with migrations := w.migrations.erase g })).onNet (fun n => { n with
        flight := g.held.map (fun m => ({ msg := m } : Flight)) ++ n.flight })
      .next (s3.showMaps.bump SWB_PG_MIGS.COUNT).retryUnmaps
  | _, _ => notDue s

end Sys2Proof.Machine
end

