-- ==== Sys2Proof/Machine/Serve.lean ====
section
/-!
DEFINITION. Requests at their destination: RD, WR and MSG, the host window's PCIe requests, and BAR4 (R202, R211, R234, R299,
R300, R355–R361, R476).
-/

namespace Sys2Proof.Machine

/-! ### The host window (R300) -/

/-- Whether a memory write carries Relaxed Ordering: DATA payload of the host engine, with HIF_CTL.RO_DATA and Device Control
permitting it (R300). -/
def State.relaxedWrite (s : State) (m : Msg) : Bool :=
  0x8000 ≤ m.tag.toNat && m.tag.toNat < 0xC000 && s.flag HIF_CTL.RO_DATA && s.host.port.relaxed

/-- A request at the host window whose reads, if any, have been answered. -/
def State.hostGo (s : State) (m : Msg) (first : Bool) (feed : List Byte) : State :=
  let sp := spansOf m.addr.toNat m.len
  if m.op.toNat = opWR then
    let r := s.hostWrite m.trail.toNat feed m.data sp
    if r.1 ≠ 0 then r.2.respond m opERR r.1
    else (r.2.onHost (fun h => { h with wrRelaxed := s.relaxedWrite m })).respond m opWRACK 0
  else s.answerSealed m first (s.hostOpen feed sp)

/-- A request at the host window: a write that reads nothing is done, another waits for the host's completions. -/
def State.hostServe (s : State) (m : Msg) : State :=
  let sp := spansOf m.addr.toNat m.len
  let code := s.hostCode m.addr.toNat m.len
  let reads := s.hostReads (m.op.toNat == opWR) 0 sp
  if code ≠ 0 then s.respond m opERR code
  else if reads = [] then s.hostGo m false []
  else s.askHost m (s.verifyFirst m) reads

/-- The request whose host reads are outstanding under a tag. -/
def State.hostPending (s : State) (tag : Nat) : Option (Flight × HostRead) :=
  match s.host.pending.find? (fun r => r.tag == tag), s.net.flight.find? (fun f => f.msg.tag.toNat == tag) with
  | some r, some f => some (f, r)
  | _, _ => none

/-- Whether a request's trail ends at the page gateway. -/
def State.atGateway (s : State) (m : Msg) : Bool :=
  let v := (s.trail m.trail.toNat).dst
  !vpCtx v && vpClass v == 0x0C

/-- The host's answer for the next read of a request, in order of address; an unsuccessful or a short one ends it with HOST_ERR,
and the last lets it be performed (R300). -/
def State.hostAnswer (s : State) (tag : Nat) (ok : Bool) (feed : List Byte) : Res :=
  match s.hostPending tag with
  | none => notDue s
  | some (f, r) =>
    let m := f.msg
    let n := r.left.headD 0
    let got := r.got ++ feed.take n
    let s1 := (s.dropFlight f).onHost (fun h => { h with pending := h.pending.erase r })
    .next (if !ok ∨ feed.length < n then s1.respond m opERR 0x0E
      else if 1 < r.left.length then s.onHost (fun h => { h with
        pending := h.pending.map (fun x => if x = r then { r with left := r.left.drop 1, got := got } else x) })
      else if s.atGateway m then s1.pageGo m got
      else s1.hostGo m f.verify got)

/-- A PCIe completion for a request's reads arrives. -/
def execPcieCompletion (tag : BitVec 16) (ok : Bool) (feed : List Byte) (s : State) : Res := s.hostAnswer tag.toNat ok feed

/-- A request's host reads reach the completion time-out. -/
def execPcieCompletionTimeout (tag : BitVec 16) (s : State) : Res := s.hostAnswer tag.toNat false []

/-! ### RD and WR -/

/-- Performs a read or write request at its destination. -/
def State.atDest (s : State) (tabUe : Bool) (x : WriteAux) (m : Msg) : State :=
  let v := (s.trail m.trail.toNat).dst
  let a := m.addr.toNat
  if vpCtx v then
    (match s.ctxPort v with
     | some p => s.toPort p.1 p.2 m
     | none => s.respond m opERR 2)
  else match vpClass v with
    | 0x02 | 0x03 => if hbmStack a ≠ vpClass v - 2 then s.respond m opERR 3 else s.enqueueHbm m
    | 0x00 => s.hostServe m
    | 0x0C => s.gateway m tabUe
    | _ =>
      if m.op.toNat = opWR then
        let r := s.writeEnd (s.callerOf m) x v a m.data
        if r.1 ≠ 0 then r.2.respond m opERR r.1 else r.2.respond m opWRACK 0
      else
        let r := s.readEnd (s.callerOf m) v a m.len
        if r.1 ≠ 0 then r.2.2.respond m opERR r.1 else r.2.2.respond m opRDRSP 0 r.2.1

/-- Whether a request waits at its destination. -/
def State.destWaits (s : State) (m : Msg) : Bool :=
  let v := (s.trail m.trail.toNat).dst
  let write := m.op.toNat == opWR
  !vpCtx v && (match vpClass v with
    | 0x02 | 0x03 => s.hbmCheck m.addr.toNat m.len == 0 && !s.hbmRoom m
    | 0x00 => s.hostReads write 0 (spansOf m.addr.toNat m.len) != [] && s.hostOut ≥ 4096
    | 0x0C => s.gatewayWaits m
    | _ => s.endWaits (s.callerOf m) v m.addr.toNat m.len write)

/-- A read or write request under a tag. -/
def State.serveAt (s : State) (tag op : Nat) (tabUe : Bool) (x : WriteAux) : Res :=
  match s.dueRequest tag op with
  | none => notDue s
  | some f =>
    if s.hostAwaits tag || s.destWaits f.msg then notDue s
    else s.serve tag op (fun m s => s.atDest tabUe x m)

/-- A read request at its destination. -/
def execRd (tag : BitVec 16) (tabUe : Bool) (s : State) : Res := s.serveAt tag.toNat opRD tabUe {}

/-- A write request at its destination. -/
def execWr (tag : BitVec 16) (tabUe : Bool) (x : WriteAux) (s : State) : Res := s.serveAt tag.toNat opWR tabUe x

/-! ### MSG -/

/-- Whether a context may name another in a request: both carry the same non-zero GROUP (R234). -/
def State.sameGroup (s : State) (c t : Nat) : Bool := t == c || ((s.ctx c).group != 0 && (s.ctx c).group == (s.ctx t).group)

/-- A request of a context at the allocator (R234). -/
def State.ctxMessage (s : State) (m : Msg) : State :=
  let w : W64 := BitVec.ofNat 64 (ofBytes (m.data.take 8))
  let c := m.ctx.toNat
  let t := fieldOf w 25 16
  let victim := fieldOf w 47 38
  if m.addr.toNat ≠ 0x1000 ∨ m.data.length ≠ 32 ∨ (m.data.drop 8).any (fun b => b != 0)
      ∨ w &&& ~~~ BitVec.ofNat 64 requestMask ≠ 0 ∨ fieldOf w 3 0 = 0 ∨ fieldOf w 3 0 > 4 then s.respond m opERR 0x0A
  else if !s.sameGroup c t ∨ !(victim = 0x3FF ∨ s.sameGroup c victim) then s.respond m opERR 0x0B
  else (s.respond m opMSGACK 0).ctxRequest (requestOf w false none (some (c, w)))

/-- A message at a transceiver endpoint (R355, R358, R361): `ts` is the transmit timestamp, `corr` what a one-step update adds.
-/
def State.pinMessage (s : State) (m : Msg) (v : Nat) (ts corr : W64) : State :=
  let k := vpInst v
  let send (on : Bool) (data : List Byte) : State := (if on then s.toLine v data else s).respond m opMSGACK 0
  match vpClass v with
  | 0x09 =>
    let r := s.ethTx k m corr.toNat
    r.2.respond m opMSGACK 0 [] (if r.1 ∧ nbit m.addr.toNat 5 then BitVec.ofNat 96 ts.toNat else 0)
  | 0x0A => send (s.jesdOn k && !(s.jesdLanes k).any s.laneIdle) m.data
  | _ => send (s.laneOn k 3 && !s.laneIdle k) (polarised (s.flag (IOB_LANE_CFG.TXPOL k)) m.data)

/-- A message at its destination. -/
def execMsg (tag : BitVec 16) (ts corr : W64) (s : State) : Res :=
  s.serve tag.toNat opMSG (fun m s =>
    let v := (s.trail m.trail.toNat).dst
    if vpCtx v then
      (match s.ctxPort v with
       | some p => s.toPort p.1 p.2 m
       | none => s.respond m opERR 2)
    else match vpClass v with
      | 0x0D => s.ctxMessage m
      | 0x09 | 0x0A | 0x0B => s.pinMessage m v ts corr
      | _ => s.respond m opMSGACK 0)

/-! ### BAR4 (R299) -/

/-- Completion statuses of BAR4 besides 0: Unsupported Request, Completer Abort, poisoned data. -/
def bar4Ur : Nat := 0x100
def bar4Ca : Nat := 0x101
def bar4Poison : Nat := 0x102

/-- A span cut at 256-byte boundaries: address and bytes; `n` bounds the parts. -/
def blocksOf (a len : Nat) : Nat → List (Nat × Nat)
  | 0 => []
  | n + 1 =>
    if len = 0 then []
    else
      let k := min len (256 - a % 256)
      (a, k) :: blocksOf (a + k) (len - k) n

/-- Whether an offset of BAR4 reaches what BAR4 serves: enabled, neither control space nor host window. -/
def State.bar4Ok (s : State) (a : Nat) : Bool :=
  s.flag HIF_CTL.BAR4_EN && a < hostBase && !(controlBase ≤ a && a < controlBase + 0x100000)

/-- Reads of a list of blocks, each a request on a system trail (R217, R299): the first code that is not 0, the bytes. -/
def State.readBlocks (s : State) : List (Nat × Nat) → Reply
  | [] => (0, [], s)
  | (a, n) :: rest =>
    let one : Reply := match endpointOf a with
      | some v => s.readEnd {} v a n
      | none => (3, [], s)
    if one.1 ≠ 0 then (one.1, [], one.2.2.errCount one.1)
    else
      let more := one.2.2.readBlocks rest
      (more.1, one.2.1 ++ more.2.1, more.2.2)

/-- Writes of a list of blocks, each a request on a system trail; each that ends in an error is counted and posted (R299). -/
def State.writeBlocks (s : State) (bs : List Byte) : List (Nat × Nat) → State
  | [] => s
  | (a, n) :: rest =>
    let one : Nat × State := match endpointOf a with
      | some v => s.writeEnd {} {} v a (bs.take n)
      | none => (3, s)
    (if one.1 ≠ 0 then ((one.2.errCount one.1).bump HIF_BAR4_ERR.COUNT).post 0x0103 a one.1 else one.2).writeBlocks (bs.drop n) rest

/-- Whether an access through BAR4 must wait at an endpoint. -/
def State.bar4Waits (s : State) (l : List (Nat × Nat)) (write : Bool) : Bool :=
  l.any (fun p => match endpointOf p.1 with
    | some v => s.endWaits {} v p.1 p.2 write
    | none => false)

/-- DPA of a BAR4 offset. -/
def State.bar4At (s : State) (off : BitVec 36) : Nat := s.get HIF_BAR4_BASE.BASE * 2 ^ 36 + off.toNat

/-- A BAR4 read of n + 1 bytes. -/
def execBar4Read (off : BitVec 36) (n : Fin 4096) (s : State) : Res :=
  let a := s.bar4At off
  let l := blocksOf a (n.val + 1) 18
  if !s.barUp ∨ !s.bar4Ok a then .next (s.answer [] bar4Ur)
  else if s.bar4Waits l false then notDue s
  else
    let r := s.readBlocks l
    .next (if r.1 = 0 then r.2.2.answer r.2.1 else r.2.2.answer [] (if r.1 = 4 then bar4Poison else bar4Ca))

/-- A BAR4 write of 1 to 4,096 bytes. -/
def execBar4Write (off : BitVec 36) (data : List Byte) (s : State) : Res :=
  let a := s.bar4At off
  let l := blocksOf a data.length 18
  if data = [] ∨ data.length > 4096 then illFormed
  else if !s.barUp ∨ !s.bar4Ok a then .next (s.answer [] bar4Ur)
  else if !s.flag HIF_CTL.BAR4_WR then .next (s.answer [])
  else if s.bar4Waits l true then notDue s
  else .next ((s.writeBlocks data l).answer [])

end Sys2Proof.Machine
end

