-- ==== Sys2Proof/Machine/DataRows.lean ====
section
/-!
DEFINITION. DATA descriptors: their checks and their completion (R309–R312). `Net` moves their data.
-/

namespace Sys2Proof.Machine

/-! ### Checks (R310, R311) -/

/-- Whether a trail fails the check of ownership, state and destination class (BAD_TRAIL). -/
def State.badTrail (s : State) (t : Nat) (role : Nat → Bool) : Bool :=
  let x := s.trail t
  !(1 ≤ x.state && x.state ≤ 4) || x.owner != 0x3FF || x.src != vpHostEngine || !role x.dst

/-- Destinations that receive a STREAM_OUT. -/
def roleReceiver (v : Nat) : Bool := vpCtx v || (9 ≤ vpClass v && vpClass v ≤ 0x0B)

/-- Whether a range lies in a trail's window, computed without wrap. -/
def Trail.admits (x : Trail) (a n : Nat) : Bool :=
  a + n ≤ 2 ^ 48 && (x.winLog2 == 0 || (x.winBase * 4096 ≤ a && a + n ≤ x.winBase * 4096 + 2 ^ x.winLog2))

/-- RESULT of a range on a trail to the page gateway: 1 a page is not mapped, 2 a destination page may not be written. -/
def State.rangePages (s : State) (t a n : Nat) (write : Bool) : Nat :=
  let x := s.trail t
  if vpCtx x.dst ∨ vpClass x.dst ≠ 0x0C then 0
  else
    let l := s.pageParts 0x3FF a n (n / 0x10000 + 2)
    if l.any (fun p => p.1.isNone) then 1
    else if write && l.any (fun p => match p.1 with
      | some q => !q.w
      | none => false) then 2
    else 0

/-- A free tag for a descriptor's messages: one of the eight of its place in its ring. -/
def State.jobTag (s : State) (d : Desc) : Option Nat :=
  ((List.range 8).map (fun k => 0x8000 + 64 * d.ring.val + 8 * (d.index.toNat % 8) + k)).find? s.tagFree

/-- STATUS and RESULT of the checks before any data moves: `src` are the source ranges, `srcT` says whether a source trail is
named. -/
def State.dataCheck (s : State) (d : Desc) (srcT : Bool) (srcRole dstRole : Nat → Bool) (src : List (Nat × Nat)) : Nat × Nat :=
  let st := s.trail d.srcTrail
  let a := d.f 4 47 0
  if (srcT && s.badTrail d.srcTrail srcRole) || s.badTrail d.dstTrail dstRole then (stBadTrail, 0)
  else if (srcT && src.any (fun p => !st.admits p.1 p.2)) || !(s.trail d.dstTrail).admits a d.len then (stWindow, 0)
  else
    let r := (src.map (fun p => if srcT then s.rangePages d.srcTrail p.1 p.2 false else 0)).find? (fun c => c != 0)
    let c := r.getD (s.rangePages d.dstTrail a d.len true)
    if c ≠ 0 then (0x0C, c) else (0, 0)

/-- Where the destination of a COPY or a GATHER overlaps its source ranges, both at one endpoint: its bytes there are undefined
(R311). -/
def State.overlaps (s : State) (d : Desc) (src : List (Nat × Nat)) : List (Nat × Nat) :=
  let a := d.f 4 47 0
  if (d.opcode = 1 ∨ d.opcode = 3) ∧ s.physPort (s.trail d.srcTrail).dst = s.physPort (s.trail d.dstTrail).dst then
    src.filterMap (fun p =>
      let lo := max a p.1
      let hi := min (a + d.len) (p.1 + p.2)
      if lo < hi then some (lo, hi - lo) else none)
  else []

/-- A DATA descriptor: field checks, LEN, trails, windows and pages; then its first message. -/
def State.startData (s : State) (d : Desc) (op : Nat) (ok srcT : Bool) (srcRole dstRole : Nat → Bool)
    (src : List (Nat × Nat)) (listErr badLen : Bool) : Res :=
  match s.jobTag d with
  | none => notDue s
  | some tag =>
    s.runDesc d op (ok && d.only 4 (bitsHL 47 0)) (fun s =>
      if d.len = 0 then s.endDesc d stBadLen 0 0
      else
        let c := s.dataCheck d srcT srcRole dstRole (if listErr then [] else src)
        if c.1 = stBadTrail then s.endDesc d c.1 0 0
        else if listErr then s.endDesc d stListErr 0 0
        else if badLen then s.endDesc d stBadLen 0 0
        else if c.1 ≠ 0 then s.endDesc d c.1 c.2 0
        else s.jobGo d { tag := tag, src := if srcT then src else [], wild := s.overlaps d src })

/-- Bits of W2 that a descriptor with two trails uses. -/
def twoTrails : Nat := bitsHL 63 32 + bitsHL 27 16 + bitsHL 11 0

/-- Whether SEG is a message length and its word holds nothing else. -/
def Desc.segOk (d : Desc) : Bool := d.only 5 (bitsHL 8 0) && 1 ≤ d.seg && d.seg ≤ 256

/-- COPY. -/
def execCopy (d : Desc) (s : State) : Res :=
  s.startData d 1 (d.only 2 twoTrails && d.only 3 (bitsHL 47 0) && d.zeroFrom 5) true roleMemory roleMemory
    [(d.f 3 47 0, d.len)] false false

/-- FILL. -/
def execFill (d : Desc) (s : State) : Res :=
  s.startData d 2 (d.only 2 (bitsHL 63 32 + bitsHL 27 16) && d.only 3 0 && d.zeroFrom 6) false roleMemory roleMemory
    [] false false

/-- GATHER: `list` are the entries as read from the host, `ok` whether the read succeeded. -/
def execGather (d : Desc) (list : List (BitVec 128)) (ok : Bool) (s : State) : Res :=
  let n := d.f 5 12 0
  let l := list.take n
  let src := l.map (fun e => (nfield e.toNat 47 0, nfield e.toNat 95 64))
  let rsv := l.any (fun e => nfield e.toNat 63 48 != 0 || nfield e.toNat 127 96 != 0)
  let fields := d.only 2 twoTrails && d.only 3 (bitsHL 47 0) && d.f 3 3 0 == 0 && d.only 5 (bitsHL 12 0)
    && 1 ≤ n && n ≤ 4096 && d.zeroFrom 6
  let bad := !ok || list.length < n || !s.host.linkUp
  s.startData d 3 (fields && (bad || !rsv)) true roleMemory roleMemory src bad
    (src.any (fun p => p.2 == 0) || (src.map (fun p => p.2)).sum != d.len)

/-- STREAM_OUT. -/
def execStreamOut (d : Desc) (s : State) : Res :=
  s.startData d 4 (d.only 2 twoTrails && d.only 3 (bitsHL 47 0) && d.segOk && d.zeroFrom 6) true roleMemory roleReceiver
    [(d.f 3 47 0, d.len)] false false

/-- STREAM_IN. -/
def execStreamIn (d : Desc) (s : State) : Res :=
  s.startData d 5 (d.only 2 twoTrails && d.only 3 (bitsHL 47 0) && d.segOk && d.zeroFrom 6) true vpCtx roleMemory
    [(d.f 3 47 0, d.len)] false false

/-! ### Completion (R312) -/

/-- The job of a descriptor whose last message has completed. -/
def State.jobEnded (s : State) (d : Desc) : Option Job :=
  match (s.slots d.ring.val).find? (fun x => x.desc == d && x.done.isNone) with
  | some { job := some j, .. } => if j.out = 0 && (j.fail.isSome || j.pos ≥ d.len) then some j else none
  | _ => none

/-- The last message of a descriptor has completed. -/
def execDataDescriptorComplete (d : Desc) (s : State) : Res :=
  match s.jobEnded d with
  | none => notDue s
  | some j =>
    let c := j.fail.getD (0, 0)
    .next (s.endDesc d c.1 c.2 j.pos)

end Sys2Proof.Machine
end

