-- ==== Sys2Proof/Machine/AccessPort.lean ====
section
/-!
DEFINITION. The debug bus master, writes of registers, and JTAG's DBGREG (R14, R175, R297, R454, R455, R462, R463).
-/

namespace Sys2Proof.Machine

/-! ### The access port (R462) -/

/-- Whether the debug level covers an island (R455). -/
def State.scoped (s : State) (i : Nat) : Bool :=
  s.level == 3 || s.get DBG_STAT.SCOPE == 0x3FF || s.get DBG_STAT.SCOPE == s.occupant i

/-- Whether the debug level admits an access to a DPA: the terminal registers at every level, island windows from level 1 on
within the scope, the rest at level 3. -/
def State.apAllowed (s : State) (a n : Nat) : Bool :=
  s.level == 3 || (match windowOf a with
    | some (i, off) => inTerminal off n || (s.level ≥ 1 && s.scoped i)
    | none => false)

/-- Ends a request at once. -/
def State.apEnd (s : State) (code : Nat) : State := s.put DBG_AP_CTL.STATUS code

/-- The open debug trail to an endpoint. -/
def State.apTrail (s : State) (v : Nat) : Option Nat :=
  (s.dbg.trails.find? (fun p => p.1 == v && (s.trail p.2).src == vpDebug && (s.trail p.2).dst == v
    && (s.trail p.2).state != 0 && (s.trail p.2).state != 5)).map (fun p => p.2)

/-- Opens a debug trail; the oldest of eight is closed for it. None without an ID. -/
def State.apOpen (s : State) (v : Nat) : Option (Nat × State) :=
  let l := s.dbg.trails.filter (fun p => p.1 != v)
  let s1 := if l.length ≥ 8 then (match l.head? with
    | some p => s.closeTrail p.2
    | none => s) else s
  let r := s1.openTrail (BitVec.ofNat 64 (2 ^ 51 + v * 2 ^ 32 + vpDebug * 2 ^ 16 + 0x3FF * 2 ^ 6 + 2 ^ 4)) 0 0 0
  if r.1 = 0 then some (r.2.1, r.2.2.onDbg (fun d => { d with trails := (if l.length ≥ 8 then l.drop 1 else l) ++ [(v, r.2.1)] }))
  else none

/-- Sends the request of the access port on a trail. -/
def State.apSend (s : State) (t a n : Nat) (write : Bool) : State :=
  match ((List.range 0x200).map (fun k => 0xFA00 + k)).find? s.tagFree with
  | none => s.apEnd 0x09
  | some tag =>
    ((s.putB DBG_AP_CTL.BUSY true).onDbg (fun d => { d with ap := none })).ingress (.unit vpDebug) {
      op := BitVec.ofNat 8 (if write then opWR else opRD), trail := BitVec.ofNat 12 t, tag := BitVec.ofNat 16 tag
      len1 := BitVec.ofNat 8 (n - 1), addr := BitVec.ofNat 48 a, obs := !write
      data := if write then toBytes n (s.get DBG_AP_DATA.DATA) else [] }

/-- A request to an endpoint, over a debug trail. -/
def State.apAccess (s : State) (v a n : Nat) (write : Bool) : State :=
  match s.apTrail v with
  | some t => s.apSend t a n write
  | none => match s.apOpen v with
    | some (t, u) => u.apSend t a n write
    | none => s.apEnd 0x09

/-- The port job of a debug readback. -/
def readbackJob (i : Nat) : PortJob := { die := dieOf i, rank := 4, ctx := 0x3FF }

/-- A STATE readback under PAUSE (R345): the clocks of the context's islands stop under R104, the island's flip-flops, marked block
memories and engine are read in the layout of R245, the clocks start again. -/
def State.captureState (s : State) (i : Nat) : Table W64 × State :=
  let c := s.occupant i
  let is := if c = 0x3FF then [i] else s.islandsOf c
  let img := match s.image c (s.ctx c).variant with
    | some r => r.img
    | none => {}
  let s1 := s.forAll is (fun j s => s.stopClocks j)
  let r := s1.saveIsland { img with flags := img.flags ||| 3 } i (is.idxOf i)
  (r.1.words, r.2.2.forAll is (fun j s => if (s.island j).gsr then s else s.gateClocks j (s.rungAt j)))

/-- Bytes of a readback (R344, R462): frames, whose layout the manual does not give; state, which a read of offset 0 captures and later
offsets read from the capture (without one a free value); or words of a block or engine memory, by their offset in the island window. -/
def State.readbackBytes (s : State) (kind i off n : Nat) : List Byte × State :=
  let unset : List Byte × State := ((toBytes 8 (Config.freeValue s.free).toNat).take n, s.took)
  match kind with
  | 1 => ((List.range n).map (fun k => Config.frameByte (s.island i).cfg (off + k)), s)
  | 2 =>
    if off = 0 then
      let r := s.captureState i
      (bytesAt r.1 0 n, r.2.onDbg (fun d => { d with captured := some (i, r.1) }))
    else match s.dbg.captured with
      | some (j, t) => if j = i then (bytesAt t off n, s) else unset
      | none => unset
  | _ =>
    let r := s.readback i [(islandWindow i + off) / 8]
    ((r.1.flatMap (fun (p : Nat × W64) => toBytes 8 p.2.toNat)).drop (off % 8) |>.take n, r.2.2)

/-- A readback through the access port. -/
def State.apReadback (s : State) (a n : Nat) : State :=
  let kind := nfield a 47 46
  let i := nfield a 45 38
  if kind = 0 then s.apEnd 3
  else if s.dieGone (dieOf i) then s.apEnd 1
  else
    let r := s.readbackBytes kind i (nfield a 37 0) n
    ((r.2.putB DBG_AP_CTL.BUSY true).onDbg (fun d => { d with ap := some (r.1, 0) })).addJob (readbackJob i)

/-- GO: the level is checked, then one request leaves; ignored while one is in flight. -/
def State.apGo (s : State) : State :=
  let a := s.get DBG_AP_ADDR.ADDR
  let n := 2 ^ s.get DBG_AP_CTL.SIZE
  let write := s.flag DBG_AP_CTL.WRITE
  let space := s.get DBG_AP_CTL.SPACE
  if s.flag DBG_AP_CTL.BUSY then s
  else if space = 1 then
    (if s.level < 2 then s.apEnd 0x0B
     else if a % n ≠ 0 ∨ a + n > 0x80000 then s.apEnd 3
     else s.apAccess 0x0E00 a n write)
  else if space = 2 then
    (if s.level ≠ 3 then s.apEnd 0x0B
     else if write then s.apEnd 0x0A
     else if a % n ≠ 0 then s.apEnd 3
     else s.apReadback a n)
  else if !s.apAllowed a n then s.apEnd 0x0B
  else if a % n ≠ 0 then s.apEnd 3
  else match endpointOf a with
    | none => s.apEnd 3
    | some v => s.apAccess v a n write

/-- DBG_AP_CTL.GO. -/
def execAccessPortGo (s : State) : Res := .next s.apGo

/-- Whether a readback waits for its configuration port. -/
def State.readbackWaits (s : State) : Bool :=
  s.swb.portJobs.any (fun j => j.rank == 4) && !s.swb.portRun.any (fun j => j.rank == 4)

/-- The request in flight completes with its data and STATUS. -/
def execAccessPortComplete (s : State) : Res :=
  match s.dbg.ap with
  | none => notDue s
  | some (data, code) =>
    let s1 := ((s.put DBG_AP_CTL.STATUS code).putB DBG_AP_CTL.BUSY false).onDbg (fun d => { d with ap := none })
    let s2 := if data = [] ∨ code ≠ 0 then s1 else s1.put DBG_AP_DATA.DATA (ofBytes data)
    whenDue (s.flag DBG_AP_CTL.BUSY && !s.readbackWaits) s
      (s2.forAll (s2.swb.portRun.filter (fun j => j.rank == 4)) (fun j s => s.endJob j))

/-! ### Writes of registers -/

/-- A write of a register: of the set-up registers through BAR0, of an engine's at its island. -/
def execRegisterWrite (r : RegAt) (v : W64) (wide : Bool) (x : WriteAux) (s : State) : Res :=
  match r with
  | .setup off =>
    let o := off.toNat
    let debug := 0xE0000 ≤ o && o < 0xF0000
    whenDue (s.barUp && (!debug || s.flag HIF_STAT.READY)) s (s.busWrite State.apGo x true o wide v.toNat)
  | .engine i off =>
    let o := off.toNat
    let n := if wide then 8 else 4
    whenDue (s.islActive i.val && !s.engOut i.val && o % n == 0) s (s.engBytes i.val o (toBytes n v.toNat))

/-! ### Reads of BAR0 and BAR2 (R293, R294, R297, R298, R386) -/

/-- The doorbell at an offset of BAR2 by its key in the accepted values: ring r, or 256 + event queue (R298). -/
def doorbellAt (off : Nat) : Option Nat :=
  let n := off / 0x1000 % 16 * 16 + off % 0x1000 / 0x100
  if off % 0x100 ≠ 0 then none
  else if off < 0x10000 then some n
  else if off < 0x14000 then some (256 + n)
  else none

/-- What a read of `n` bytes at a BAR0 offset answers: UR for an access that is not aligned or not of 4 or 8 bytes, zero outside
the HIF_ block before configuration has completed. -/
def State.bar0Read (s : State) (off n : Nat) : State :=
  if !(n = 4 ∨ n = 8) ∨ off % n ≠ 0 then s.answer [] bar4Ur
  else if !s.flag HIF_STAT.READY && off / 0x10000 ≠ 0 then s.answer (List.replicate n 0)
  else
    let r := s.readCtl {} (controlBase + off) n
    r.2.2.answer r.2.1 r.1

/-- What a read at a BAR2 offset answers: the value a doorbell accepted last, zero elsewhere. -/
def State.bar2Read (s : State) (off n : Nat) : State :=
  s.answer (((match doorbellAt (off / 4 * 4) with
    | some k => toBytes 8 (s.host.bells.peek (fun _ => 0) k)
    | none => List.replicate 8 0).drop (off % 4)).take n)

/-- Whether a BAR0 read wakes the device: at Park or Dormant, of a block other than HIF_ and PWR_. -/
def State.readWakes (s : State) (off : Nat) : Bool := s.get PWR_RUNG.CUR ≥ 3 && off / 0x10000 != 0 && off / 0x10000 != 8

/-- A read of BAR0 or BAR2 by the host. One that wakes the device completes after the exit; while PARKED it
completes at once with zeros. In D3hot every read completes with UR. -/
def execBar0WakeRead (q : BarRead) (s : State) : Res :=
  let o := q.off.toNat
  let n := q.n
  whenDue s.host.linkUp s
    (if s.host.d3 then s.answer [] bar4Ur
     else if q.bar2 then s.bar2Read o n.val
     else if !s.readWakes o then s.bar0Read o n.val
     else if s.flag FLT_STAT.PARKED || s.pwr.failed then s.answer (List.replicate n.val 0)
     else s.wake.onPwr (fun p => { p with wakeReads := p.wakeReads ++ [(o, n.val)] }))

/-- The BAR0 reads that waited for an exit complete, in order. -/
def State.answerWakes (s : State) : State :=
  s.pwr.wakeReads.foldl (fun t (q : Nat × Nat) => t.bar0Read q.1 q.2) (s.onPwr (fun p => { p with wakeReads := [] }))

/-- Exit to a shallower rung completes. -/
def execRungExitComplete (ns : BitVec 32) (s : State) : Res :=
  match s.pwr.run with
  | none => notDue s
  | some m => if m.new ≥ m.old then notDue s else .next ((s.endExit m).rungChanged m ns.toNat).payOwed.retryQueue.answerWakes

/-- An update-DR of DBGREG: [95] WRITE, [79:64] the offset in the DBG_ block, [63:0] DATA (R454). The trace registers are
written at level 3 only (R471). -/
def execDbgregUpdateDr (v : BitVec 96) (x : WriteAux) (s : State) : Res :=
  let o := nfield v.toNat 79 64
  let off := 0xE0000 + o
  let trace := 0xE0300 ≤ off && off < 0xE0320
  if s.cfg.phase = 0 ∨ o % 8 ≠ 0 then notDue s
  else if nbit v.toNat 95 then
    (if trace && s.level != 3 then .next s else .next (s.busWrite State.apGo x false off true (nfield v.toNat 63 0)))
  else .next (s.onDbg (fun d => { d with tdo := BitVec.ofNat 64 (s.busRead off true) }))

end Sys2Proof.Machine
end

