-- ==== Sys2Proof/Machine/Control.lean ====
section
/-!
DEFINITION. The control-slot commands: each issues the bundle at PC whose control slot is the one named (R183).
What the slot does stands in `Engine.ctlOut`; the order of a bundle's effects in `State.perform`.
-/

namespace Sys2Proof.Machine

/-- Issues the bundle at PC of island `i` if its control slot is `c`. -/
def issueCtl (i : Fin 256) (c : Ctl) (s : State) : Res := .next (s.issue i.val (fun b => b.c == c))

/-- Control-slot no-op (R183). -/
def execNop (i : Fin 256) (s : State) : Res :=
  issueCtl i .nop s

/-- Scalar add modulo 2^32 (R183). -/
def execAdd (i : Fin 256) (d a b : Fin 16) (s : State) : Res :=
  issueCtl i (.alu .add d a b) s

/-- Scalar subtract modulo 2^32 (R183). -/
def execSub (i : Fin 256) (d a b : Fin 16) (s : State) : Res :=
  issueCtl i (.alu .sub d a b) s

/-- Scalar bitwise AND (R183). -/
def execAnd (i : Fin 256) (d a b : Fin 16) (s : State) : Res :=
  issueCtl i (.alu .and d a b) s

/-- Scalar bitwise OR (R183). -/
def execOr (i : Fin 256) (d a b : Fin 16) (s : State) : Res :=
  issueCtl i (.alu .or d a b) s

/-- Scalar bitwise XOR (R183). -/
def execXor (i : Fin 256) (d a b : Fin 16) (s : State) : Res :=
  issueCtl i (.alu .xor d a b) s

/-- Scalar shift left by Sb[4:0] (R183). -/
def execShl (i : Fin 256) (d a b : Fin 16) (s : State) : Res :=
  issueCtl i (.alu .shl d a b) s

/-- Scalar logical shift right by Sb[4:0] (R183). -/
def execShr (i : Fin 256) (d a b : Fin 16) (s : State) : Res :=
  issueCtl i (.alu .shr d a b) s

/-- Scalar arithmetic shift right by Sb[4:0] (R183). -/
def execSar (i : Fin 256) (d a b : Fin 16) (s : State) : Res :=
  issueCtl i (.alu .sar d a b) s

/-- Scalar multiply modulo 2^32 (R183). -/
def execMul (i : Fin 256) (d a b : Fin 16) (s : State) : Res :=
  issueCtl i (.alu .mul d a b) s

/-- High 32 bits of the signed 64-bit scalar product (R183). -/
def execMulh (i : Fin 256) (d a b : Fin 16) (s : State) : Res :=
  issueCtl i (.alu .mulh d a b) s

/-- Signed set-less-than (R183). -/
def execSlt (i : Fin 256) (d a b : Fin 16) (s : State) : Res :=
  issueCtl i (.alu .slt d a b) s

/-- Unsigned set-less-than (R183). -/
def execSltu (i : Fin 256) (d a b : Fin 16) (s : State) : Res :=
  issueCtl i (.alu .sltu d a b) s

/-- Signed scalar minimum (R183). -/
def execMin (i : Fin 256) (d a b : Fin 16) (s : State) : Res :=
  issueCtl i (.alu .min d a b) s

/-- Signed scalar maximum (R183). -/
def execMax (i : Fin 256) (d a b : Fin 16) (s : State) : Res :=
  issueCtl i (.alu .max d a b) s

/-- Scalar add of a sign-extended immediate (R183). -/
def execAddi (i : Fin 256) (d a : Fin 16) (imm : BitVec 18) (s : State) : Res :=
  issueCtl i (.alui .addi d a imm) s

/-- Scalar AND with a zero-extended immediate (R183). -/
def execAndi (i : Fin 256) (d a : Fin 16) (imm : BitVec 18) (s : State) : Res :=
  issueCtl i (.alui .andi d a imm) s

/-- Scalar OR with a zero-extended immediate (R183). -/
def execOri (i : Fin 256) (d a : Fin 16) (imm : BitVec 18) (s : State) : Res :=
  issueCtl i (.alui .ori d a imm) s

/-- Scalar shift left by an immediate (R183). -/
def execShli (i : Fin 256) (d a : Fin 16) (imm : BitVec 5) (s : State) : Res :=
  issueCtl i (.alui .shli d a (imm.setWidth 18)) s

/-- Scalar logical shift right by an immediate (R183). -/
def execShri (i : Fin 256) (d a : Fin 16) (imm : BitVec 5) (s : State) : Res :=
  issueCtl i (.alui .shri d a (imm.setWidth 18)) s

/-- Scalar arithmetic shift right by an immediate (R183). -/
def execSari (i : Fin 256) (d a : Fin 16) (imm : BitVec 5) (s : State) : Res :=
  issueCtl i (.alui .sari d a (imm.setWidth 18)) s

/-- Loads a sign-extended 22-bit immediate into a scalar (R183). -/
def execLi (i : Fin 256) (d : Fin 16) (imm : BitVec 22) (s : State) : Res :=
  issueCtl i (.li d imm) s

/-- Loads the upper 16 bits of a scalar, keeping the lower half (R183). -/
def execLui (i : Fin 256) (d : Fin 16) (imm : BitVec 16) (s : State) : Res :=
  issueCtl i (.lui d imm) s

/-- Writes a control register from a scalar with its special cases (R185). -/
def execMovtc (i : Fin 256) (sreg : Fin 16) (creg : Fin 57) (s : State) : Res :=
  issueCtl i (.movtc sreg creg) s

/-- Reads a control register into a scalar, zero- or sign-extended (R185). -/
def execMovfc (i : Fin 256) (sreg : Fin 16) (creg : Fin 57) (s : State) : Res :=
  issueCtl i (.movfc sreg creg) s

/-- Extracts one vector lane into a scalar (R183). -/
def execVext (i : Fin 256) (d a : Fin 16) (lane : Fin 8) (s : State) : Res :=
  issueCtl i (.vext d a lane) s

/-- Inserts a scalar into one vector lane (R183). -/
def execVins (i : Fin 256) (d a : Fin 16) (lane : Fin 8) (s : State) : Res :=
  issueCtl i (.vins d a lane) s

/-- Conditional branch on a signed scalar (R186). -/
def execBr (i : Fin 256) (cond : Fin 7) (a : Fin 16) (target : BitVec 11) (s : State) : Res :=
  issueCtl i (.br cond a target) s

/-- Saves the return address in S15 and jumps (R183). -/
def execCall (i : Fin 256) (target : BitVec 11) (s : State) : Res :=
  issueCtl i (.call target) s

/-- Jumps to S15[10:0] (R183). -/
def execRet (i : Fin 256) (s : State) : Res :=
  issueCtl i .ret s

/-- Returns from a trap handler to TPC and clears IN_TRAP (R183). -/
def execRti (i : Fin 256) (s : State) : Res :=
  issueCtl i .rti s

/-- Breakpoint: traps BREAK, or halts the engine when BRK_HALT is set at debug level 1 or above (R196). -/
def execBrk (i : Fin 256) (s : State) : Res :=
  issueCtl i .brk s

/-- Kicks the engine watchdog (R168). -/
def execWdk (i : Fin 256) (s : State) : Res :=
  issueCtl i .wdk s

/-- Pushes a hardware loop with an immediate count, or traps LOOP_OVF at depth 4 (R194). -/
def execLoopi (i : Fin 256) (count : BitVec 16) (len : BitVec 10) (s : State) : Res :=
  issueCtl i (.loopi count len) s

/-- Pushes a hardware loop with the count from a scalar (R194). -/
def execLoop (i : Fin 256) (a : Fin 16) (len : BitVec 10) (s : State) : Res :=
  issueCtl i (.loop a len) s

/-- Pops the innermost loop (R183). -/
def execLexit (i : Fin 256) (s : State) : Res :=
  issueCtl i .lexit s

/-- Opens a locked sequence on the semaphore regions (R169). -/
def execLock (i : Fin 256) (s : State) : Res :=
  issueCtl i .lock s

/-- Commits all buffered semaphore writes in one step and closes the locked sequence (R169). -/
def execUnlk (i : Fin 256) (s : State) : Res :=
  issueCtl i .unlk s

/-- Pushes a data-mover command from scalar pairs, waiting or rejecting when the queue is full (R163). -/
def execDmpush (i : Fin 256) (a b : Fin 8) (ch : Fin 4) (wait : Bool) (s : State) : Res :=
  issueCtl i (.dmpush a b ch wait) s

/-- Reads a channel's status into a scalar (R183). -/
def execDmstat (i : Fin 256) (d : Fin 16) (ch : Fin 4) (s : State) : Res :=
  issueCtl i (.dmstat d ch) s

/-- Pops one word from a stream input into a scalar pair (R183). -/
def execSin (i : Fin 256) (d : Fin 8) (port : Fin 2) (s : State) : Res :=
  issueCtl i (.sin d port) s

/-- Pushes a scalar pair to a stream output (R183). -/
def execSout (i : Fin 256) (a : Fin 8) (port : Fin 2) (s : State) : Res :=
  issueCtl i (.sout a port) s

/-- Pops four stream words into a vector register (R183). -/
def execVsin (i : Fin 256) (d : Fin 16) (port : Fin 2) (s : State) : Res :=
  issueCtl i (.vsin d port) s

/-- Pushes a vector register as four stream words (R183). -/
def execVsout (i : Fin 256) (a : Fin 16) (port : Fin 2) (s : State) : Res :=
  issueCtl i (.vsout a port) s

/-- Opens a block-floating block with a guard count (R183). -/
def execBfopen (i : Fin 256) (guard : Fin 8) (s : State) : Res :=
  issueCtl i (.bfopen guard) s

/-- Closes a block-floating block, setting SC and BEXP from LSB_MIN (R161). -/
def execBfclose (i : Fin 256) (s : State) : Res :=
  issueCtl i .bfclose s

end Sys2Proof.Machine
end

