-- ==== Sys2Proof/Machine/Moves.lean ====
section
/-!
DEFINITION. The move-slot commands (R187, R188): each issues the bundle at PC whose X or Y slot is the one named.
What the slot does stands in `Engine.moveOut`.
-/

namespace Sys2Proof.Machine

/-- Issues the bundle at PC of island `i` if its X slot, or with `y` its Y slot, is `m`. -/
def issueMove (i : Fin 256) (y : Bool) (m : Move) (s : State) : Res :=
  .next (s.issue i.val (fun b => (if y then b.y else b.x) == m))

/-- Move-slot no-op (R188). -/
def execMnop (i : Fin 256) (y : Bool) (s : State) : Res :=
  issueMove i y .mnop s

/-- Loads 8 words into a vector register and updates the address register (R188). -/
def execLdv (i : Fin 256) (y : Bool) (reg : Fin 16) (an : Fin 8) (m : Modifier) (s : State) : Res :=
  issueMove i y (.op .ldv reg an m) s

/-- Stores a vector register as 8 words (R188). -/
def execStv (i : Fin 256) (y : Bool) (reg : Fin 16) (an : Fin 8) (m : Modifier) (s : State) : Res :=
  issueMove i y (.op .stv reg an m) s

/-- Loads one word into a scalar (R188). -/
def execLds (i : Fin 256) (y : Bool) (reg : Fin 16) (an : Fin 8) (m : Modifier) (s : State) : Res :=
  issueMove i y (.op .lds reg an m) s

/-- Stores a scalar as one word (R188). -/
def execSts (i : Fin 256) (y : Bool) (reg : Fin 16) (an : Fin 8) (m : Modifier) (s : State) : Res :=
  issueMove i y (.op .sts reg an m) s

/-- Loads one word into every lane of a vector register (R188). -/
def execLdvb (i : Fin 256) (y : Bool) (reg : Fin 16) (an : Fin 8) (m : Modifier) (s : State) : Res :=
  issueMove i y (.op .ldvb reg an m) s

/-- Stores the rounded, saturated move-out of an accumulator as 8 words, measured for block floating (R159). -/
def execStaq (i : Fin 256) (y : Bool) (acc : Fin 4) (an : Fin 8) (m : Modifier) (s : State) : Res :=
  issueMove i y (.op .staq (acc.castLE (by decide)) an m) s

/-- Updates an address register without access (R188). -/
def execModa (i : Fin 256) (y : Bool) (an : Fin 8) (m : Modifier) (s : State) : Res :=
  issueMove i y (.op .moda 0 an m) s

end Sys2Proof.Machine
end

