-- ==== Sys2Proof/Machine/Vectors.lean ====
section
/-!
DEFINITION. The vector-slot commands (R189–R193): each issues the bundle at PC whose vector slot is the one named.
What the slot does stands in `Engine.vecOut`.
-/

namespace Sys2Proof.Machine

/-- Issues the bundle at PC of island `i` if its vector slot is `v`. -/
def issueVec (i : Fin 256) (v : Vec) (s : State) : Res := .next (s.issue i.val (fun b => b.v == v))

/-- Vector-slot no-op (R190). -/
def execVnop (i : Fin 256) (s : State) : Res :=
  issueVec i { op := .vnop } s

/-- Vector copy (R190). -/
def execVmov (i : Fin 256) (d a : Fin 16) (wm : BitVec 8) (s : State) : Res :=
  issueVec i { op := .vmov, d := d, a := a, wm := wm } s

/-- Saturating Q1.31 absolute value (R190). -/
def execVabsq (i : Fin 256) (d a : Fin 16) (wm : BitVec 8) (s : State) : Res :=
  issueVec i { op := .vabsq, d := d, a := a, wm := wm } s

/-- Clears the binary32 sign bit (R190). -/
def execVabsf (i : Fin 256) (d a : Fin 16) (wm : BitVec 8) (s : State) : Res :=
  issueVec i { op := .vabsf, d := d, a := a, wm := wm } s

/-- Inverts the binary32 sign bit (R190). -/
def execVnegf (i : Fin 256) (d a : Fin 16) (wm : BitVec 8) (s : State) : Res :=
  issueVec i { op := .vnegf, d := d, a := a, wm := wm } s

/-- Binary32 tree sum of selected lanes into every lane (R190). -/
def execVredf (i : Fin 256) (d a : Fin 16) (wm : BitVec 8) (s : State) : Res :=
  issueVec i { op := .vredf, d := d, a := a, wm := wm } s

/-- Converts Q1.31 to binary32 (R190). -/
def execVcvtqf (i : Fin 256) (d a : Fin 16) (wm : BitVec 8) (s : State) : Res :=
  issueVec i { op := .vcvtqf, d := d, a := a, wm := wm } s

/-- Converts binary32 to saturated Q1.31 (R190). -/
def execVcvtfq (i : Fin 256) (d a : Fin 16) (wm : BitVec 8) (s : State) : Res :=
  issueVec i { op := .vcvtfq, d := d, a := a, wm := wm } s

/-- Saturating Q1.31 vector add (R190). -/
def execVaddq (i : Fin 256) (d a b : Fin 16) (wm : BitVec 8) (s : State) : Res :=
  issueVec i { op := .vaddq, d := d, a := a, b := b, wm := wm } s

/-- Saturating Q1.31 vector subtract (R190). -/
def execVsubq (i : Fin 256) (d a b : Fin 16) (wm : BitVec 8) (s : State) : Res :=
  issueVec i { op := .vsubq, d := d, a := a, b := b, wm := wm } s

/-- Rounded, saturating Q1.31 vector multiply (R190). -/
def execVmulq (i : Fin 256) (d a b : Fin 16) (wm : BitVec 8) (s : State) : Res :=
  issueVec i { op := .vmulq, d := d, a := a, b := b, wm := wm } s

/-- Signed vector minimum (R190). -/
def execVminq (i : Fin 256) (d a b : Fin 16) (wm : BitVec 8) (s : State) : Res :=
  issueVec i { op := .vminq, d := d, a := a, b := b, wm := wm } s

/-- Signed vector maximum (R190). -/
def execVmaxq (i : Fin 256) (d a b : Fin 16) (wm : BitVec 8) (s : State) : Res :=
  issueVec i { op := .vmaxq, d := d, a := a, b := b, wm := wm } s

/-- Vector bitwise AND (R190). -/
def execVand (i : Fin 256) (d a b : Fin 16) (wm : BitVec 8) (s : State) : Res :=
  issueVec i { op := .vand, d := d, a := a, b := b, wm := wm } s

/-- Vector bitwise OR (R190). -/
def execVor (i : Fin 256) (d a b : Fin 16) (wm : BitVec 8) (s : State) : Res :=
  issueVec i { op := .vor, d := d, a := a, b := b, wm := wm } s

/-- Vector bitwise XOR (R190). -/
def execVxor (i : Fin 256) (d a b : Fin 16) (wm : BitVec 8) (s : State) : Res :=
  issueVec i { op := .vxor, d := d, a := a, b := b, wm := wm } s

/-- Vector integer add modulo 2^32 (R190). -/
def execVaddi (i : Fin 256) (d a b : Fin 16) (wm : BitVec 8) (s : State) : Res :=
  issueVec i { op := .vaddi, d := d, a := a, b := b, wm := wm } s

/-- Binary32 vector add (R160). -/
def execVaddf (i : Fin 256) (d a b : Fin 16) (wm : BitVec 8) (s : State) : Res :=
  issueVec i { op := .vaddf, d := d, a := a, b := b, wm := wm } s

/-- Binary32 vector subtract (R160). -/
def execVsubf (i : Fin 256) (d a b : Fin 16) (wm : BitVec 8) (s : State) : Res :=
  issueVec i { op := .vsubf, d := d, a := a, b := b, wm := wm } s

/-- Binary32 vector multiply (R160). -/
def execVmulf (i : Fin 256) (d a b : Fin 16) (wm : BitVec 8) (s : State) : Res :=
  issueVec i { op := .vmulf, d := d, a := a, b := b, wm := wm } s

/-- Binary32 minimumNumber (R190). -/
def execVminf (i : Fin 256) (d a b : Fin 16) (wm : BitVec 8) (s : State) : Res :=
  issueVec i { op := .vminf, d := d, a := a, b := b, wm := wm } s

/-- Binary32 maximumNumber (R190). -/
def execVmaxf (i : Fin 256) (d a b : Fin 16) (wm : BitVec 8) (s : State) : Res :=
  issueVec i { op := .vmaxf, d := d, a := a, b := b, wm := wm } s

/-- Q1.31 vector shift by an immediate (R190). -/
def execVshq (i : Fin 256) (d a : Fin 16) (n : BitVec 6) (wm : BitVec 8) (s : State) : Res :=
  issueVec i { op := .vshq, d := d, a := a, imm := n.setWidth 18, wm := wm } s

/-- Vector add of a sign-extended immediate (R190). -/
def execVaddk (i : Fin 256) (d a : Fin 16) (imm : BitVec 18) (wm : BitVec 8) (s : State) : Res :=
  issueVec i { op := .vaddk, d := d, a := a, imm := imm, wm := wm } s

/-- Broadcasts one lane to all lanes (R190). -/
def execVbc (i : Fin 256) (d a : Fin 16) (n : BitVec 3) (wm : BitVec 8) (s : State) : Res :=
  issueVec i { op := .vbc, d := d, a := a, imm := n.setWidth 18, wm := wm } s

/-- Rotates vector lanes (R190). -/
def execVrot (i : Fin 256) (d a : Fin 16) (n : BitVec 3) (wm : BitVec 8) (s : State) : Res :=
  issueVec i { op := .vrot, d := d, a := a, imm := n.setWidth 18, wm := wm } s

/-- Writes lane indices offset by an immediate (R190). -/
def execVidx (i : Fin 256) (d : Fin 16) (imm : BitVec 16) (wm : BitVec 8) (s : State) : Res :=
  issueVec i { op := .vidx, d := d, imm := imm.setWidth 18, wm := wm } s

/-- Writes the exact Q1.31 product into an accumulator (R190). -/
def execMpyq (i : Fin 256) (d : Fin 4) (a b : Fin 16) (wm : BitVec 8) (s : State) : Res :=
  issueVec i { op := .mpyq, d := d.castLE (by decide), a := a, b := b, wm := wm } s

/-- Accumulates a product modulo 2^72, setting AOV on wrap (R190). -/
def execMacq (i : Fin 256) (d : Fin 4) (a b : Fin 16) (wm : BitVec 8) (s : State) : Res :=
  issueVec i { op := .macq, d := d.castLE (by decide), a := a, b := b, wm := wm } s

/-- Subtracts a product from an accumulator modulo 2^72 (R190). -/
def execMsuq (i : Fin 256) (d : Fin 4) (a b : Fin 16) (wm : BitVec 8) (s : State) : Res :=
  issueVec i { op := .msuq, d := d.castLE (by decide), a := a, b := b, wm := wm } s

/-- Loads Q1.31 lanes into an accumulator scaled by 2^31 (R158). -/
def execAldq (i : Fin 256) (d : Fin 4) (a : Fin 16) (wm : BitVec 8) (s : State) : Res :=
  issueVec i { op := .aldq, d := d.castLE (by decide), a := a, wm := wm } s

/-- Adds two accumulators modulo 2^72 (R190). -/
def execAadd (i : Fin 256) (d a : Fin 4) (wm : BitVec 8) (s : State) : Res :=
  issueVec i { op := .aadd, d := d.castLE (by decide), a := a.castLE (by decide), wm := wm } s

/-- Sums the selected accumulator lanes into every lane (R190). -/
def execAredq (i : Fin 256) (d a : Fin 4) (wm : BitVec 8) (s : State) : Res :=
  issueVec i { op := .aredq, d := d.castLE (by decide), a := a.castLE (by decide), wm := wm } s

/-- Clears an accumulator (R190). -/
def execAclr (i : Fin 256) (d : Fin 4) (wm : BitVec 8) (s : State) : Res :=
  issueVec i { op := .aclr, d := d.castLE (by decide), wm := wm } s

/-- Moves an accumulator out to Q1.31 lanes with shift, rounding and saturation (R159). -/
def execAmov (i : Fin 256) (d : Fin 16) (a : Fin 4) (wm : BitVec 8) (s : State) : Res :=
  issueVec i { op := .amov, d := d, a := a.castLE (by decide), wm := wm } s

/-- Binary32 fused multiply-add (R160). -/
def execVfmaf (i : Fin 256) (d a b c : Fin 16) (wm : BitVec 8) (s : State) : Res :=
  issueVec i { op := .vfmaf, d := d, a := a, b := b, c := c, wm := wm } s

/-- Binary32 fused negated multiply-add (R160). -/
def execVfnmf (i : Fin 256) (d a b c : Fin 16) (wm : BitVec 8) (s : State) : Res :=
  issueVec i { op := .vfnmf, d := d, a := a, b := b, c := c, wm := wm } s

/-- Initialises a search register pair to empty (R190). -/
def execSrinit (i : Fin 256) (d : Fin 8) (k : BitVec 2) (wm : BitVec 8) (s : State) : Res :=
  issueVec i { op := .srinit, d := Fin.ofNat 16 (2 * d.val), imm := k.setWidth 18, wm := wm } s

/-- Reduces a search pair across lanes to the winning value and index (R192). -/
def execVsred (i : Fin 256) (d : Fin 8) (k : BitVec 2) (wm : BitVec 8) (s : State) : Res :=
  issueVec i { op := .vsred, d := Fin.ofNat 16 (2 * d.val), imm := k.setWidth 18, wm := wm } s

/-- One minimum or maximum search step per lane (R191). -/
def execVsrch (i : Fin 256) (d : Fin 8) (a b : Fin 16) (k : BitVec 2) (wm : BitVec 8) (s : State) : Res :=
  issueVec i { op := .vsrch, d := Fin.ofNat 16 (2 * d.val), a := a, b := b, imm := k.setWidth 18, wm := wm } s

end Sys2Proof.Machine
end

