-- ==== Sys2Proof/Machine/Dispatch.lean ====
section
/-!
DEFINITION. One arm for each command: a direct call of its meaning.
-/

namespace Sys2Proof.Machine

def exec (i : Instr) (s : State) : Host.Outcome State Fault Refusal :=
  match i with
  | .identityCheck records grades mode pullN => Sys2Proof.Machine.execIdentityCheck records grades mode pullN s
  | .testLogicReset => Sys2Proof.Machine.execTestLogicReset s
  | .chainsel sel => Sys2Proof.Machine.execChainsel sel s
  | .laneDegrading br k dir lane lost => Sys2Proof.Machine.execLaneDegrading br k dir lane lost s
  | .laneRepairComplete br k dir lost => Sys2Proof.Machine.execLaneRepairComplete br k dir lost s
  | .spareUnusable br k dir spare training => Sys2Proof.Machine.execSpareUnusable br k dir spare training s
  | .forwardedClockFail br k dir lost => Sys2Proof.Machine.execForwardedClockFail br k dir lost s
  | .replayLimit br k dir lost => Sys2Proof.Machine.execReplayLimit br k dir lost s
  | .bridgeFlitCrcError br k dir lanes => Sys2Proof.Machine.execBridgeFlitCrcError br k dir lanes s
  | .bridgeRerouteComplete br => Sys2Proof.Machine.execBridgeRerouteComplete br s
  | .baseClockCopyFail d n => Sys2Proof.Machine.execBaseClockCopyFail d n s
  | .dieReset d clock => Sys2Proof.Machine.execDieReset d clock s
  | .missedHeartbeats d kept => Sys2Proof.Machine.execMissedHeartbeats d kept s
  | .dieRejoin d record => Sys2Proof.Machine.execDieRejoin d record s
  | .dieReadmit d => Sys2Proof.Machine.execDieReadmit d s
  | .handshakeWordWrite isl side g w => Sys2Proof.Machine.execHandshakeWordWrite isl side g w s
  | .handshakeWordArrive isl side g => Sys2Proof.Machine.execHandshakeWordArrive isl side g s
  | .handshakeWordRead isl side g => Sys2Proof.Machine.execHandshakeWordRead isl side g s
  | .refLost => Sys2Proof.Machine.execRefLost s
  | .holdoverSlew => Sys2Proof.Machine.execHoldoverSlew s
  | .refReturn ppm => Sys2Proof.Machine.execRefReturn ppm s
  | .clkBaseWrite n fmul => Sys2Proof.Machine.execClkBaseWrite n fmul s
  | .baseClockLocked n => Sys2Proof.Machine.execBaseClockLocked n s
  | .pllLossOfLock k => Sys2Proof.Machine.execPllLossOfLock k s
  | .clockRampStep isl k => Sys2Proof.Machine.execClockRampStep isl k s
  | .droopFire isl => Sys2Proof.Machine.execDroopFire isl s
  | .droopStretchRelease isl => Sys2Proof.Machine.execDroopStretchRelease isl s
  | .droopStretchEnd isl => Sys2Proof.Machine.execDroopStretchEnd isl s
  | .clockStopIdle isl k => Sys2Proof.Machine.execClockStopIdle isl k s
  | .clockStopForced isl k => Sys2Proof.Machine.execClockStopForced isl k s
  | .clkMtrStart m => Sys2Proof.Machine.execClkMtrStart m s
  | .clkMtrDone m count => Sys2Proof.Machine.execClkMtrDone m count s
  | .clkMtrAbort m => Sys2Proof.Machine.execClkMtrAbort m s
  | .lookoutClockSupervision m hold => Sys2Proof.Machine.execLookoutClockSupervision m hold s
  | .memoryRead who addr => Sys2Proof.Machine.execMemoryRead who addr s
  | .memoryWrite who addr data en other => Sys2Proof.Machine.execMemoryWrite who addr data en other s
  | .pageRebuildComplete page => Sys2Proof.Machine.execPageRebuildComplete page s
  | .narrowWrite who addr data mask => Sys2Proof.Machine.execNarrowWrite who addr data mask s
  | .mergeFlushAge addr => Sys2Proof.Machine.execMergeFlushAge addr s
  | .scrubWord cls unit => Sys2Proof.Machine.execScrubWord cls unit s
  | .memCntClr clr => Sys2Proof.Machine.execMemCntClr clr s
  | .memLogClear clr => Sys2Proof.Machine.execMemLogClear clr s
  | .engCtlStart isl => Sys2Proof.Machine.execEngCtlStart isl s
  | .engCtlStop isl => Sys2Proof.Machine.execEngCtlStop isl s
  | .clrFault isl => Sys2Proof.Machine.execClrFault isl s
  | .engStartWrite isl pc => Sys2Proof.Machine.execEngStartWrite isl pc s
  | .engSemaWrite isl v => Sys2Proof.Machine.execEngSemaWrite isl v s
  | .engStateAreaAccess isl off a => Sys2Proof.Machine.execEngStateAreaAccess isl off a s
  | .servicePortForce isl => Sys2Proof.Machine.execServicePortForce isl s
  | .streamInWord isl port w => Sys2Proof.Machine.execStreamInWord isl port w s
  | .streamOutWord isl port => Sys2Proof.Machine.execStreamOutWord isl port s
  | .engDmCmdWrite isl ch w1 => Sys2Proof.Machine.execEngDmCmdWrite isl ch w1 s
  | .dmCommandStart isl ch => Sys2Proof.Machine.execDmCommandStart isl ch s
  | .dmCommandComplete isl ch => Sys2Proof.Machine.execDmCommandComplete isl ch s
  | .dmResume isl ch => Sys2Proof.Machine.execDmResume isl ch s
  | .dmAbort isl ch => Sys2Proof.Machine.execDmAbort isl ch s
  | .watchdogFirstExpiry isl => Sys2Proof.Machine.execWatchdogFirstExpiry isl s
  | .watchdogHardStop isl => Sys2Proof.Machine.execWatchdogHardStop isl s
  | .engWdogKick isl => Sys2Proof.Machine.execEngWdogKick isl s
  | .lockBreak isl => Sys2Proof.Machine.execLockBreak isl s
  | .nop isl => Sys2Proof.Machine.execNop isl s
  | .add isl d a b => Sys2Proof.Machine.execAdd isl d a b s
  | .sub isl d a b => Sys2Proof.Machine.execSub isl d a b s
  | .and isl d a b => Sys2Proof.Machine.execAnd isl d a b s
  | .or isl d a b => Sys2Proof.Machine.execOr isl d a b s
  | .xor isl d a b => Sys2Proof.Machine.execXor isl d a b s
  | .shl isl d a b => Sys2Proof.Machine.execShl isl d a b s
  | .shr isl d a b => Sys2Proof.Machine.execShr isl d a b s
  | .sar isl d a b => Sys2Proof.Machine.execSar isl d a b s
  | .mul isl d a b => Sys2Proof.Machine.execMul isl d a b s
  | .mulh isl d a b => Sys2Proof.Machine.execMulh isl d a b s
  | .slt isl d a b => Sys2Proof.Machine.execSlt isl d a b s
  | .sltu isl d a b => Sys2Proof.Machine.execSltu isl d a b s
  | .min isl d a b => Sys2Proof.Machine.execMin isl d a b s
  | .max isl d a b => Sys2Proof.Machine.execMax isl d a b s
  | .addi isl d a imm => Sys2Proof.Machine.execAddi isl d a imm s
  | .andi isl d a imm => Sys2Proof.Machine.execAndi isl d a imm s
  | .ori isl d a imm => Sys2Proof.Machine.execOri isl d a imm s
  | .shli isl d a imm => Sys2Proof.Machine.execShli isl d a imm s
  | .shri isl d a imm => Sys2Proof.Machine.execShri isl d a imm s
  | .sari isl d a imm => Sys2Proof.Machine.execSari isl d a imm s
  | .li isl d imm => Sys2Proof.Machine.execLi isl d imm s
  | .lui isl d imm => Sys2Proof.Machine.execLui isl d imm s
  | .movtc isl sreg creg => Sys2Proof.Machine.execMovtc isl sreg creg s
  | .movfc isl sreg creg => Sys2Proof.Machine.execMovfc isl sreg creg s
  | .vext isl d a lane => Sys2Proof.Machine.execVext isl d a lane s
  | .vins isl d a lane => Sys2Proof.Machine.execVins isl d a lane s
  | .br isl cond a target => Sys2Proof.Machine.execBr isl cond a target s
  | .call isl target => Sys2Proof.Machine.execCall isl target s
  | .ret isl => Sys2Proof.Machine.execRet isl s
  | .rti isl => Sys2Proof.Machine.execRti isl s
  | .brk isl => Sys2Proof.Machine.execBrk isl s
  | .wdk isl => Sys2Proof.Machine.execWdk isl s
  | .loopi isl count len => Sys2Proof.Machine.execLoopi isl count len s
  | .loop isl a len => Sys2Proof.Machine.execLoop isl a len s
  | .lexit isl => Sys2Proof.Machine.execLexit isl s
  | .lock isl => Sys2Proof.Machine.execLock isl s
  | .unlk isl => Sys2Proof.Machine.execUnlk isl s
  | .dmpush isl a b ch wait => Sys2Proof.Machine.execDmpush isl a b ch wait s
  | .dmstat isl d ch => Sys2Proof.Machine.execDmstat isl d ch s
  | .sin isl d port => Sys2Proof.Machine.execSin isl d port s
  | .sout isl a port => Sys2Proof.Machine.execSout isl a port s
  | .vsin isl d port => Sys2Proof.Machine.execVsin isl d port s
  | .vsout isl a port => Sys2Proof.Machine.execVsout isl a port s
  | .bfopen isl guard => Sys2Proof.Machine.execBfopen isl guard s
  | .bfclose isl => Sys2Proof.Machine.execBfclose isl s
  | .mnop isl y => Sys2Proof.Machine.execMnop isl y s
  | .ldv isl y reg an m => Sys2Proof.Machine.execLdv isl y reg an m s
  | .stv isl y reg an m => Sys2Proof.Machine.execStv isl y reg an m s
  | .lds isl y reg an m => Sys2Proof.Machine.execLds isl y reg an m s
  | .sts isl y reg an m => Sys2Proof.Machine.execSts isl y reg an m s
  | .ldvb isl y reg an m => Sys2Proof.Machine.execLdvb isl y reg an m s
  | .staq isl y acc an m => Sys2Proof.Machine.execStaq isl y acc an m s
  | .moda isl y an m => Sys2Proof.Machine.execModa isl y an m s
  | .vnop isl => Sys2Proof.Machine.execVnop isl s
  | .vmov isl d a wm => Sys2Proof.Machine.execVmov isl d a wm s
  | .vaddq isl d a b wm => Sys2Proof.Machine.execVaddq isl d a b wm s
  | .vsubq isl d a b wm => Sys2Proof.Machine.execVsubq isl d a b wm s
  | .vmulq isl d a b wm => Sys2Proof.Machine.execVmulq isl d a b wm s
  | .vshq isl d a n wm => Sys2Proof.Machine.execVshq isl d a n wm s
  | .vabsq isl d a wm => Sys2Proof.Machine.execVabsq isl d a wm s
  | .vminq isl d a b wm => Sys2Proof.Machine.execVminq isl d a b wm s
  | .vmaxq isl d a b wm => Sys2Proof.Machine.execVmaxq isl d a b wm s
  | .vand isl d a b wm => Sys2Proof.Machine.execVand isl d a b wm s
  | .vor isl d a b wm => Sys2Proof.Machine.execVor isl d a b wm s
  | .vxor isl d a b wm => Sys2Proof.Machine.execVxor isl d a b wm s
  | .vaddi isl d a b wm => Sys2Proof.Machine.execVaddi isl d a b wm s
  | .vaddk isl d a imm wm => Sys2Proof.Machine.execVaddk isl d a imm wm s
  | .vbc isl d a n wm => Sys2Proof.Machine.execVbc isl d a n wm s
  | .vrot isl d a n wm => Sys2Proof.Machine.execVrot isl d a n wm s
  | .vidx isl d imm wm => Sys2Proof.Machine.execVidx isl d imm wm s
  | .mpyq isl d a b wm => Sys2Proof.Machine.execMpyq isl d a b wm s
  | .macq isl d a b wm => Sys2Proof.Machine.execMacq isl d a b wm s
  | .msuq isl d a b wm => Sys2Proof.Machine.execMsuq isl d a b wm s
  | .aldq isl d a wm => Sys2Proof.Machine.execAldq isl d a wm s
  | .aadd isl d a wm => Sys2Proof.Machine.execAadd isl d a wm s
  | .aclr isl d wm => Sys2Proof.Machine.execAclr isl d wm s
  | .amov isl d a wm => Sys2Proof.Machine.execAmov isl d a wm s
  | .aredq isl d a wm => Sys2Proof.Machine.execAredq isl d a wm s
  | .vaddf isl d a b wm => Sys2Proof.Machine.execVaddf isl d a b wm s
  | .vsubf isl d a b wm => Sys2Proof.Machine.execVsubf isl d a b wm s
  | .vmulf isl d a b wm => Sys2Proof.Machine.execVmulf isl d a b wm s
  | .vfmaf isl d a b c wm => Sys2Proof.Machine.execVfmaf isl d a b c wm s
  | .vfnmf isl d a b c wm => Sys2Proof.Machine.execVfnmf isl d a b c wm s
  | .vminf isl d a b wm => Sys2Proof.Machine.execVminf isl d a b wm s
  | .vmaxf isl d a b wm => Sys2Proof.Machine.execVmaxf isl d a b wm s
  | .vabsf isl d a wm => Sys2Proof.Machine.execVabsf isl d a wm s
  | .vnegf isl d a wm => Sys2Proof.Machine.execVnegf isl d a wm s
  | .vredf isl d a wm => Sys2Proof.Machine.execVredf isl d a wm s
  | .vcvtqf isl d a wm => Sys2Proof.Machine.execVcvtqf isl d a wm s
  | .vcvtfq isl d a wm => Sys2Proof.Machine.execVcvtfq isl d a wm s
  | .srinit isl d k wm => Sys2Proof.Machine.execSrinit isl d k wm s
  | .vsrch isl d a b k wm => Sys2Proof.Machine.execVsrch isl d a b k wm s
  | .vsred isl d k wm => Sys2Proof.Machine.execVsred isl d k wm s
  | .flitForward at_ tag rsp k data side check => Sys2Proof.Machine.execFlitForward at_ tag rsp k data side check s
  | .islandPortTxMessage isl port m => Sys2Proof.Machine.execIslandPortTxMessage isl port m s
  | .messageRelease t => Sys2Proof.Machine.execMessageRelease t s
  | .creditReturn t => Sys2Proof.Machine.execCreditReturn t s
  | .rd tag walked => Sys2Proof.Machine.execRd tag walked s
  | .wr tag walked x => Sys2Proof.Machine.execWr tag walked x s
  | .msg tag ts corr => Sys2Proof.Machine.execMsg tag ts corr s
  | .rdrsp tag => Sys2Proof.Machine.execRdrsp tag s
  | .wrack tag => Sys2Proof.Machine.execWrack tag s
  | .msgack tag => Sys2Proof.Machine.execMsgack tag s
  | .allocrsp tag => Sys2Proof.Machine.execAllocrsp tag s
  | .freersp tag => Sys2Proof.Machine.execFreersp tag s
  | .settle tag => Sys2Proof.Machine.execSettle tag s
  | .err tag => Sys2Proof.Machine.execErr tag s
  | .trailOpen d => Sys2Proof.Machine.execTrailOpen d s
  | .trailOpenResume d => Sys2Proof.Machine.execTrailOpenResume d s
  | .trailClose d => Sys2Proof.Machine.execTrailClose d s
  | .trailCloseComplete t => Sys2Proof.Machine.execTrailCloseComplete t s
  | .trailCloseTimeout t => Sys2Proof.Machine.execTrailCloseTimeout t s
  | .requestTimeout tag => Sys2Proof.Machine.execRequestTimeout tag s
  | .tagQuarantineEnd tag => Sys2Proof.Machine.execTagQuarantineEnd tag s
  | .drainComplete c => Sys2Proof.Machine.execDrainComplete c s
  | .drainTimeout c => Sys2Proof.Machine.execDrainTimeout c s
  | .trlTqSelWrite v => Sys2Proof.Machine.execTrlTqSelWrite v s
  | .trlLqSelWrite v => Sys2Proof.Machine.execTrlLqSelWrite v s
  | .trlPmapQWrite v => Sys2Proof.Machine.execTrlPmapQWrite v s
  | .trlCntClr v => Sys2Proof.Machine.execTrlCntClr v s
  | .ctxRegister d img rd => Sys2Proof.Machine.execCtxRegister d img rd s
  | .ctxUnregister d => Sys2Proof.Machine.execCtxUnregister d s
  | .ctxLoad d => Sys2Proof.Machine.execCtxLoad d s
  | .ctxEvict d => Sys2Proof.Machine.execCtxEvict d s
  | .ctxPin d => Sys2Proof.Machine.execCtxPin d s
  | .ctxUnpin d => Sys2Proof.Machine.execCtxUnpin d s
  | .ctxPolicy d => Sys2Proof.Machine.execCtxPolicy d s
  | .ctxClock d table rd => Sys2Proof.Machine.execCtxClock d table rd s
  | .queuedLoadStart => Sys2Proof.Machine.execQueuedLoadStart s
  | .qack c => Sys2Proof.Machine.execQack c s
  | .quiesceTimeout c => Sys2Proof.Machine.execQuiesceTimeout c s
  | .readbackComplete c => Sys2Proof.Machine.execReadbackComplete c s
  | .islandLoadComplete c k imgBad slotBad => Sys2Proof.Machine.execIslandLoadComplete c k imgBad slotBad s
  | .contextRelease c => Sys2Proof.Machine.execContextRelease c s
  | .configPortJobStart die => Sys2Proof.Machine.execConfigPortJobStart die s
  | .rejoinWaitExpiry c => Sys2Proof.Machine.execRejoinWaitExpiry c s
  | .alloc o => Sys2Proof.Machine.execAlloc o s
  | .free o => Sys2Proof.Machine.execFree o s
  | .map d => Sys2Proof.Machine.execMap d s
  | .unmap d => Sys2Proof.Machine.execUnmap d s
  | .pagePolicy d => Sys2Proof.Machine.execPagePolicy d s
  | .pageMigrationComplete space dva ok feed => Sys2Proof.Machine.execPageMigrationComplete space dva ok feed s
  | .swbCtxSelWrite v => Sys2Proof.Machine.execSwbCtxSelWrite v s
  | .swbCntClr v => Sys2Proof.Machine.execSwbCntClr v s
  | .hbmRequestIssue st pc => Sys2Proof.Machine.execHbmRequestIssue st pc s
  | .requestPromotion st pc => Sys2Proof.Machine.execRequestPromotion st pc s
  | .writeBatchStart st pc => Sys2Proof.Machine.execWriteBatchStart st pc s
  | .perBankRefresh st pc bank => Sys2Proof.Machine.execPerBankRefresh st pc bank s
  | .hbmTempRead st t => Sys2Proof.Machine.execHbmTempRead st t s
  | .periodicTrainingStep st result => Sys2Proof.Machine.execPeriodicTrainingStep st result s
  | .hbmTrainingComplete st results => Sys2Proof.Machine.execHbmTrainingComplete st results s
  | .hbmCaParityError st pc took => Sys2Proof.Machine.execHbmCaParityError st pc took s
  | .hbmWriteParityError st pc took => Sys2Proof.Machine.execHbmWriteParityError st pc took s
  | .hbmReadParityError st pc => Sys2Proof.Machine.execHbmReadParityError st pc s
  | .hbmLogClear => Sys2Proof.Machine.execHbmLogClear s
  | .hbmPcReq st v => Sys2Proof.Machine.execHbmPcReq st v s
  | .pcRetireComplete st pc badImages badStates badTables => Sys2Proof.Machine.execPcRetireComplete st pc badImages badStates badTables s
  | .keyLoad d blob rd => Sys2Proof.Machine.execKeyLoad d blob rd s
  | .keyZero d => Sys2Proof.Machine.execKeyZero d s
  | .rangeEnable d => Sys2Proof.Machine.execRangeEnable d s
  | .rekey d => Sys2Proof.Machine.execRekey d s
  | .rangeDisable d => Sys2Proof.Machine.execRangeDisable d s
  | .rangeMode d => Sys2Proof.Machine.execRangeMode d s
  | .conversionStart => Sys2Proof.Machine.execConversionStart s
  | .conversionComplete => Sys2Proof.Machine.execConversionComplete s
  | .tagVerdict tag => Sys2Proof.Machine.execTagVerdict tag s
  | .areteKeyUpdate => Sys2Proof.Machine.execAreteKeyUpdate s
  | .areteOldKeyExpiry => Sys2Proof.Machine.execAreteOldKeyExpiry s
  | .ideCheckFail k => Sys2Proof.Machine.execIdeCheckFail k s
  | .keySetGo k kset => Sys2Proof.Machine.execKeySetGo k kset s
  | .perstN => Sys2Proof.Machine.execPerstN s
  | .hotReset => Sys2Proof.Machine.execHotReset s
  | .d3hot => Sys2Proof.Machine.execD3hot s
  | .d3cold => Sys2Proof.Machine.execD3cold s
  | .returnToD0 => Sys2Proof.Machine.execReturnToD0 s
  | .pcieLinkDown => Sys2Proof.Machine.execPcieLinkDown s
  | .pcieLinkUp => Sys2Proof.Machine.execPcieLinkUp s
  | .pcieCompletion tag ok feed => Sys2Proof.Machine.execPcieCompletion tag ok feed s
  | .pcieCompletionTimeout tag => Sys2Proof.Machine.execPcieCompletionTimeout tag s
  | .bar4Read off n => Sys2Proof.Machine.execBar4Read off n s
  | .bar4Write off data => Sys2Proof.Machine.execBar4Write off data s
  | .ringDoorbell r v whole => Sys2Proof.Machine.execRingDoorbell r v whole s
  | .ringEnable r => Sys2Proof.Machine.execRingEnable r s
  | .ringDisable r => Sys2Proof.Machine.execRingDisable r s
  | .ringStopComplete r => Sys2Proof.Machine.execRingStopComplete r s
  | .ringResume r => Sys2Proof.Machine.execRingResume r s
  | .ringFlush r rest => Sys2Proof.Machine.execRingFlush r rest s
  | .descriptorFetch r => Sys2Proof.Machine.execDescriptorFetch r s
  | .descriptorReadComplete d ok => Sys2Proof.Machine.execDescriptorReadComplete d ok s
  | .nopDescriptor d => Sys2Proof.Machine.execNopDescriptor d s
  | .copy d => Sys2Proof.Machine.execCopy d s
  | .fill d => Sys2Proof.Machine.execFill d s
  | .gather d list ok => Sys2Proof.Machine.execGather d list ok s
  | .streamOut d => Sys2Proof.Machine.execStreamOut d s
  | .streamIn d => Sys2Proof.Machine.execStreamIn d s
  | .dataDescriptorComplete d => Sys2Proof.Machine.execDataDescriptorComplete d s
  | .mbx d rd body => Sys2Proof.Machine.execMbx d rd body s
  | .eqEnable q => Sys2Proof.Machine.execEqEnable q s
  | .eqDisable q => Sys2Proof.Machine.execEqDisable q s
  | .eqHeadDoorbell q v => Sys2Proof.Machine.execEqHeadDoorbell q v s
  | .eventRecordWrite q => Sys2Proof.Machine.execEventRecordWrite q s
  | .eqModerationTimer q => Sys2Proof.Machine.execEqModerationTimer q s
  | .hifTbSet part v => Sys2Proof.Machine.execHifTbSet part v s
  | .ptmRequest => Sys2Proof.Machine.execPtmRequest s
  | .ptmResponse offset locks => Sys2Proof.Machine.execPtmResponse offset locks s
  | .ptmResponseTimeout => Sys2Proof.Machine.execPtmResponseTimeout s
  | .hifCntClr v => Sys2Proof.Machine.execHifCntClr v s
  | .registerWrite r v wide x => Sys2Proof.Machine.execRegisterWrite r v wide x s
  | .progNLow => Sys2Proof.Machine.execProgNLow s
  | .progNRise mode pullN => Sys2Proof.Machine.execProgNRise mode pullN s
  | .cfgReconf v => Sys2Proof.Machine.execCfgReconf v s
  | .configAttempt v => Sys2Proof.Machine.execConfigAttempt v s
  | .configSegment hdr payload g => Sys2Proof.Machine.execConfigSegment hdr payload g s
  | .trailerCheck v => Sys2Proof.Machine.execTrailerCheck v s
  | .configIdleTimeout => Sys2Proof.Machine.execConfigIdleTimeout s
  | .startupLock => Sys2Proof.Machine.execStartupLock s
  | .startupLockTimeout => Sys2Proof.Machine.execStartupLockTimeout s
  | .startupGsr => Sys2Proof.Machine.execStartupGsr s
  | .startupWe => Sys2Proof.Machine.execStartupWe s
  | .startupOut => Sys2Proof.Machine.execStartupOut s
  | .doneRelease us => Sys2Proof.Machine.execDoneRelease us s
  | .bootContextReload c => Sys2Proof.Machine.execBootContextReload c s
  | .bootReloadComplete c digest => Sys2Proof.Machine.execBootReloadComplete c digest s
  | .frameSweepCheck isl idx bad last => Sys2Proof.Machine.execFrameSweepCheck isl idx bad last s
  | .quadPllLossOfLock q => Sys2Proof.Machine.execQuadPllLossOfLock q s
  | .iobQpllWrite q v => Sys2Proof.Machine.execIobQpllWrite q v s
  | .iobLaneCfgWrite l v => Sys2Proof.Machine.execIobLaneCfgWrite l v s
  | .rawUnderrun l => Sys2Proof.Machine.execRawUnderrun l s
  | .rawReceive l tag data => Sys2Proof.Machine.execRawReceive l tag data s
  | .ethFrameReceive e p tag frame fcs mine ts => Sys2Proof.Machine.execEthFrameReceive e p tag frame fcs mine ts s
  | .ethLinkStateChange e p up => Sys2Proof.Machine.execEthLinkStateChange e p up s
  | .jesdReceive q tag data => Sys2Proof.Machine.execJesdReceive q tag data s
  | .jesdUnderrun q => Sys2Proof.Machine.execJesdUnderrun q s
  | .sysref d => Sys2Proof.Machine.execSysref d s
  | .extendedMultiblockLockLoss q misaligned => Sys2Proof.Machine.execExtendedMultiblockLockLoss q misaligned s
  | .lossOfSignal l lost => Sys2Proof.Machine.execLossOfSignal l lost s
  | .vccioMonitor b mv => Sys2Proof.Machine.execVccioMonitor b mv s
  | .bankPllLossOfLock b => Sys2Proof.Machine.execBankPllLossOfLock b s
  | .bankPllRelock b => Sys2Proof.Machine.execBankPllRelock b s
  | .ptpPortChange v => Sys2Proof.Machine.execPtpPortChange v s
  | .budgetUpdate saddle hbm p0 p1 p2 p3 late => Sys2Proof.Machine.execBudgetUpdate saddle hbm p0 p1 p2 p3 late s
  | .currentSample d sample average => Sys2Proof.Machine.execCurrentSample d sample average s
  | .throttleTighten d => Sys2Proof.Machine.execThrottleTighten d s
  | .throttleRelax d => Sys2Proof.Machine.execThrottleRelax d s
  | .temperatureSample d sensor t ms => Sys2Proof.Machine.execTemperatureSample d sensor t ms s
  | .currentChangeAdmit => Sys2Proof.Machine.execCurrentChangeAdmit s
  | .droopPersists isl => Sys2Proof.Machine.execDroopPersists isl s
  | .railSample r mv => Sys2Proof.Machine.execRailSample r mv s
  | .busSample code => Sys2Proof.Machine.execBusSample code s
  | .busSagEnter => Sys2Proof.Machine.execBusSagEnter s
  | .busSagExit => Sys2Proof.Machine.execBusSagExit s
  | .busSwellTimer => Sys2Proof.Machine.execBusSwellTimer s
  | .busFail => Sys2Proof.Machine.execBusFail s
  | .pwrfailNFall => Sys2Proof.Machine.execPwrfailNFall s
  | .pwrRungRequest r => Sys2Proof.Machine.execPwrRungRequest r s
  | .pwrDieRungRequest v => Sys2Proof.Machine.execPwrDieRungRequest v s
  | .rungTransitionStart => Sys2Proof.Machine.execRungTransitionStart s
  | .rungEntryComplete ns => Sys2Proof.Machine.execRungEntryComplete ns s
  | .rungExitComplete ns => Sys2Proof.Machine.execRungExitComplete ns s
  | .pwrWakeExpiry => Sys2Proof.Machine.execPwrWakeExpiry s
  | .bar0WakeRead off => Sys2Proof.Machine.execBar0WakeRead off s
  | .pwrBusStatClr => Sys2Proof.Machine.execPwrBusStatClr s
  | .pwrCntClr => Sys2Proof.Machine.execPwrCntClr s
  | .lookoutFirmwareLoad ta tb a b => Sys2Proof.Machine.execLookoutFirmwareLoad ta tb a b s
  | .lkoWatchdogExpiry pc => Sys2Proof.Machine.execLkoWatchdogExpiry pc s
  | .lookoutTrap pc => Sys2Proof.Machine.execLookoutTrap pc s
  | .mgtCtlRestart => Sys2Proof.Machine.execMgtCtlRestart s
  | .lookoutRestartComplete => Sys2Proof.Machine.execLookoutRestartComplete s
  | .logFlashCopy => Sys2Proof.Machine.execLogFlashCopy s
  | .getInfo => Sys2Proof.Machine.execGetInfo s
  | .getSensors vals => Sys2Proof.Machine.execGetSensors vals s
  | .readLog => Sys2Proof.Machine.execReadLog s
  | .laneHealth eyes => Sys2Proof.Machine.execLaneHealth eyes s
  | .getCfgAttempts => Sys2Proof.Machine.execGetCfgAttempts s
  | .updateBegin => Sys2Proof.Machine.execUpdateBegin s
  | .updateData => Sys2Proof.Machine.execUpdateData s
  | .updateEnd segCode sigOk => Sys2Proof.Machine.execUpdateEnd segCode sigOk s
  | .slotActivate => Sys2Proof.Machine.execSlotActivate s
  | .arbAdvance => Sys2Proof.Machine.execArbAdvance s
  | .lkoRestart => Sys2Proof.Machine.execLkoRestart s
  | .fltClear => Sys2Proof.Machine.execFltClear s
  | .spdm reply opens app => Sys2Proof.Machine.execSpdm reply opens app s
  | .ptpCfg => Sys2Proof.Machine.execPtpCfg s
  | .hbmPcClear => Sys2Proof.Machine.execHbmPcClear s
  | .fuseProgram => Sys2Proof.Machine.execFuseProgram s
  | .setKwk => Sys2Proof.Machine.execSetKwk s
  | .mgtMbxTxPush w => Sys2Proof.Machine.execMgtMbxTxPush w s
  | .mgtMbxRxPop obs => Sys2Proof.Machine.execMgtMbxRxPop obs s
  | .ringTokenTimeout g back => Sys2Proof.Machine.execRingTokenTimeout g back s
  | .cairnMessage parityOk ns => Sys2Proof.Machine.execCairnMessage parityOk ns s
  | .dieResetRelease d => Sys2Proof.Machine.execDieResetRelease d s
  | .safeReqNLow => Sys2Proof.Machine.execSafeReqNLow s
  | .safeReqNRise => Sys2Proof.Machine.execSafeReqNRise s
  | .fltStatClear w => Sys2Proof.Machine.execFltStatClear w s
  | .fltInjGo w => Sys2Proof.Machine.execFltInjGo w s
  | .fltCntClr => Sys2Proof.Machine.execFltCntClr s
  | .twnPair d hash rd => Sys2Proof.Machine.execTwnPair d hash rd s
  | .hello role vmin vmax authOk => Sys2Proof.Machine.execHello role vmin vmax authOk s
  | .helloTimeout => Sys2Proof.Machine.execHelloTimeout s
  | .pairingComplete => Sys2Proof.Machine.execPairingComplete s
  | .twnUnpair d => Sys2Proof.Machine.execTwnUnpair d s
  | .mirrorAdd d peerOk => Sys2Proof.Machine.execMirrorAdd d peerOk s
  | .mirrorRemove d => Sys2Proof.Machine.execMirrorRemove d s
  | .ckptSet d => Sys2Proof.Machine.execCkptSet d s
  | .takeover d => Sys2Proof.Machine.execTakeover d s
  | .versionSet d => Sys2Proof.Machine.execVersionSet d s
  | .promote d => Sys2Proof.Machine.execPromote d s
  | .heartbeat role missed regions h => Sys2Proof.Machine.execHeartbeat role missed regions h s
  | .partnerHeartbeatTimeout => Sys2Proof.Machine.execPartnerHeartbeatTimeout s
  | .notice cause seq ok => Sys2Proof.Machine.execNotice cause seq ok s
  | .mirrorWr region seq dpa mask data ok => Sys2Proof.Machine.execMirrorWr region seq dpa mask data ok s
  | .ack seq skew h => Sys2Proof.Machine.execAck seq skew h s
  | .nak seq failed h => Sys2Proof.Machine.execNak seq failed h s
  | .ckpt p seq ok => Sys2Proof.Machine.execCkpt p seq ok s
  | .key h => Sys2Proof.Machine.execKey h s
  | .mirrorSweepComplete n => Sys2Proof.Machine.execMirrorSweepComplete n s
  | .checkpointInterval c => Sys2Proof.Machine.execCheckpointInterval c s
  | .checkpointReadbackComplete c => Sys2Proof.Machine.execCheckpointReadbackComplete c s
  | .promotionComplete => Sys2Proof.Machine.execPromotionComplete s
  | .bstRun d => Sys2Proof.Machine.execBstRun d s
  | .bstAbort d => Sys2Proof.Machine.execBstAbort d s
  | .bstSaddle d => Sys2Proof.Machine.execBstSaddle d s
  | .bstOffline d => Sys2Proof.Machine.execBstOffline d s
  | .bstOnline d => Sys2Proof.Machine.execBstOnline d s
  | .bstIsolationComplete u img sav tab => Sys2Proof.Machine.execBstIsolationComplete u img sav tab s
  | .bstTestComplete u sig => Sys2Proof.Machine.execBstTestComplete u sig s
  | .bstSaddleComplete sigs => Sys2Proof.Machine.execBstSaddleComplete sigs s
  | .bstUnitSelWrite v => Sys2Proof.Machine.execBstUnitSelWrite v s
  | .dbgregUpdateDr v x => Sys2Proof.Machine.execDbgregUpdateDr v x s
  | .challenge => Sys2Proof.Machine.execChallenge s
  | .respond pcie keyHash sigOk => Sys2Proof.Machine.execRespond pcie keyHash sigOk s
  | .password pcie hash => Sys2Proof.Machine.execPassword pcie hash s
  | .nonceExpiry => Sys2Proof.Machine.execNonceExpiry s
  | .dbgLock => Sys2Proof.Machine.execDbgLock s
  | .attach on => Sys2Proof.Machine.execAttach on s
  | .accessPortGo => Sys2Proof.Machine.execAccessPortGo s
  | .accessPortComplete => Sys2Proof.Machine.execAccessPortComplete s
  | .engDbgHalt isl => Sys2Proof.Machine.execEngDbgHalt isl s
  | .engDbgStep isl => Sys2Proof.Machine.execEngDbgStep isl s
  | .engDbgResume isl => Sys2Proof.Machine.execEngDbgResume isl s
  | .haltDeferExpiry isl => Sys2Proof.Machine.execHaltDeferExpiry isl s
  | .lkoHalt pc => Sys2Proof.Machine.execLkoHalt pc s
  | .lkoStep pc => Sys2Proof.Machine.execLkoStep pc s
  | .lkoResume => Sys2Proof.Machine.execLkoResume s
  | .lkoBreakpointHit n => Sys2Proof.Machine.execLkoBreakpointHit n s
  | .engDbgRxPop isl obs => Sys2Proof.Machine.execEngDbgRxPop isl obs s
  | .engDbgRxack isl => Sys2Proof.Machine.execEngDbgRxack isl s
  | .engDbgWr isl w => Sys2Proof.Machine.execEngDbgWr isl w s
  | .traceEnable v jtag => Sys2Proof.Machine.execTraceEnable v jtag s
  | .tracePacketWrite => Sys2Proof.Machine.execTracePacketWrite s
  | .lineConversion raw tag => Sys2Proof.Machine.execLineConversion raw tag s
  | .perstNRelease => Sys2Proof.Machine.execPerstNRelease s
  | .vauxRemoval => Sys2Proof.Machine.execVauxRemoval s
  | .quadPllRelock q => Sys2Proof.Machine.execQuadPllRelock q s
  | .privilegedPllRelock k => Sys2Proof.Machine.execPrivilegedPllRelock k s
  | .extendedMultiblockLockGain q => Sys2Proof.Machine.execExtendedMultiblockLockGain q s
  | .mctpMessage m => Sys2Proof.Machine.execMctpMessage m s
  | .islandClockEdge is k rising ins => Sys2Proof.Machine.execIslandClockEdge is k rising ins s
  | .twnCkptSelWrite v => Sys2Proof.Machine.execTwnCkptSelWrite v s
  | .twnCntClr v => Sys2Proof.Machine.execTwnCntClr v s

end Sys2Proof.Machine
end

