-- ==== Sys2Proof/Safety.lean ====
section
/-!
DEFINITION. What claims mean by a run that goes on, and by what a command gives.
-/

namespace Sys2Proof.Machine

/-- The outcome is a next state: the command completed. -/
def Completes (r : Host.Outcome State Fault Refusal) : Prop := ∃ t, r = .next t

/-- The command neither faults nor is refused in this state. -/
def SafeIn (c : Instr) (s : State) : Prop := Completes (exec c s)

/-- The command answers a next state, of which `P` holds. -/
def Gives (c : Instr) (s : State) (P : State → Prop) : Prop := ∃ t, exec c s = .next t ∧ P t

/-- The memories' tables are in canonical form: addresses rising, no byte listed at what an unlisted one reads as. -/
def Memory.wf (m : Memory) : Bool :=
  let bytes (t : List Host.Cell) : Bool := Table.wf (fun _ => (0 : Byte)) t
  let words (t : Table W64) : Bool := Table.wf (fun _ => (0 : W64)) t
  bytes m.data && bytes m.check && words m.guardP && words m.guardQ && bytes m.guardPC && bytes m.guardQC

/-- The set-up registers are in canonical form: offsets rising, no register listed at its reset value. -/
def State.regsWf (s : State) : Prop := Table.wf regReset s.regs = true

/-- Equal contents are equal data: the set-up registers and the memories stand in canonical form. -/
def State.canonical (s : State) : Prop := s.regsWf ∧ s.mem.wf = true

/-- Reading a word disturbs nothing: it is delivered as stored, no error is found and no state changes. -/
def State.quiet (s : State) (w : Nat) : Prop := s.loadWord w = (s.rawWord w, false, s)

/-- The engine of island `i` is RUNNING, issues now, and fetches bundle `b` quietly at PC; no comparator, deferred halt or
channel halt breaks in, and no page the bundle meets is under rebuild. -/
def State.ready (s : State) (i : Nat) (b : Bundle) : Prop :=
  Table.wf (fun _ => ({} : Engine)) s.engines = true ∧ (s.eng i).state = 2 ∧ s.keRuns i = true ∧
  (s.eng i).dmTraps = false ∧ (s.eng i).haltPend = 0 ∧ (∀ k < 6, s.cmpOn i k = false) ∧
  s.quiet (progWord i (s.eng i).pc.toNat) ∧ s.quiet (progWord i (s.eng i).pc.toNat + 1) ∧
  s.wordHeld (progWord i (s.eng i).pc.toNat) = false ∧ s.bundleHeld i b = false ∧
  decodeBundle (s.rawWord (progWord i (s.eng i).pc.toNat)) (s.rawWord (progWord i (s.eng i).pc.toNat + 1)) = some b

/-- No locked sequence is open, its buffer is empty, and no active loop ends at PC. -/
def Engine.straight (e : Engine) : Prop :=
  e.locked = false ∧ e.lockBuf = [] ∧ (e.depth = 0 ∨ e.le[e.depth - 1]! ≠ e.pc)

/-- In state `s`, command `c` issues the ready bundle `b` of island `i`; all that changes is the engine, to `e` with PC at
`pc`. -/
def State.issuesTo (s : State) (c : Instr) (i : Nat) (b : Bundle) (e : Engine) (pc : BitVec 11) : Prop :=
  s.ready i b → Gives c s (fun t => t = s.setEng i { e with pc := pc, skipHit := false })

end Sys2Proof.Machine
end

