-- ==== Sys2Proof/WellFormed.lean ====
section
/-!
DEFINITION. What the operands of a command must satisfy beyond their types.
-/

namespace Sys2Proof

open Sys2Proof.Machine

/-- Whether a command is one that the part can be given. Most operands are bounded by their types; these are the lengths of
byte lists: a message carries at most 256 bytes (R210), a RAW lane and a JESD204C link deliver 256 (R355, R361), a PCIe write 1
to 4,096 (R299), a MIRROR_WR 1 to 512 with a mask bit for each (R420), a line 64 with a tag of 8 (R276) where the link read
them; and the islands' images that a segment or a CTX_REGISTER brings stay in the island's tiles, memories and slices (R48,
R71). -/
def Instr.wf : Instr → Bool
  | .islandPortTxMessage _ _ m => m.data.length ≤ 256
  | .rawReceive _ _ data => data.length == 256
  | .jesdReceive _ _ data => data.length == 256
  | .bar4Write _ data => data != [] && data.length ≤ 4096
  | .mirrorWr _ _ _ mask data _ => mask.length == data.length && data.length ≤ 512 && data != []
  | .lineConversion raw tag => (raw.length == 0 || raw.length == 64) && (tag.length == 0 || tag.length == 8)
  | .configSegment _ _ g => g.legal
  | .ctxRegister _ img _ => img.cfgs.all IslandCfg.legal
  | _ => true

end Sys2Proof
end

