-- ==== Sys2Proof/Certificates/Slice0/Obligations.lean ====
section
/-!
DEFINITION. The statements for the provers, chapter by chapter.
-/

open Sys2Proof Sys2Proof.Machine

/-! ### Package, dies and bridges (chapter 1) -/

/-- R26, R27: `bypass` is the complement of the chain select register. -/
def Obligations.TestChainSelect : Prop :=
  (∀ (s : State), Gives .testLogicReset s (fun t =>
    t = { s with pkg := { s.pkg with bypass := t.pkg.bypass, ir := Vector.replicate 5 .idcode
                                     scan := t.chain.reverse.map s.idcode, scanId := s.pkg.idBad } } ∧
    ∀ d < 4, nbit t.pkg.bypass.toNat d = s.dieGone d)) ∧
  (∀ (s : State) (sel : BitVec 4), Gives (.chainsel sel) s (fun t =>
    t = { s with pkg := { s.pkg with bypass := t.pkg.bypass, ir := s.pkg.ir.set 0 .chainsel, scan := t.pkg.scan
                                     scanId := s.pkg.idBad } } ∧
    ∀ d < 4, nbit t.pkg.bypass.toNat d = (s.dieGone d || !nbit sel.toNat d))) ∧
  (∀ (s : State) (d : Fin 4), s.presence d.val = .rejoining →
    Table.wf (fun _ => Presence.present) s.pkg.presence = true → (s.returnsRetained d.val = true ∨ s.jobRuns (clearJob d.val) = true) →
    Gives (.dieReadmit d) s (fun t => nbit t.pkg.bypass.toNat d.val = false ∧ t.presence d.val = .present))

/-- R31, R33, R34: repair of a lane. -/
def Obligations.LaneRepair : Prop :=
  (∀ (s : State) (br : Fin 8) (k : Fin 16) (dir : Fin 2) (lane : Fin 34) (eye : W32) (cut : Cut),
    let g := groupNo br.val k.val dir.val
    let x := s.laneGroup g
    s.judged br.val = true → s.pairWorks br.val k.val = true → x.inUse lane.val = true →
    x.repair.map Prod.fst ≠ some lane.val → lane.val ∉ x.queue →
    (nfield eye.toNat 15 0 < 200 ∨ nfield eye.toNat 31 16 < 15 ∨ s.laneErrs g lane.val = true) →
    (x.repair ≠ none → Gives (.laneDegrading br k dir { lane := lane, eye := eye } cut) s (fun t =>
      t = (s.sawEye g lane.val eye).modGroup g (fun y => { y with queue := y.queue ++ [lane.val] }))) ∧
    (x.repair = none → (x.idle 0 = true ∨ x.idle 1 = true) → Gives (.laneDegrading br k dir { lane := lane, eye := eye } cut) s (fun t =>
      (t.laneGroup g) = { x with repair := some (lane.val, if x.idle 0 then 0 else 1) }))) ∧
  (∀ (s : State) (br : Fin 8) (k : Fin 16) (dir sp : Fin 2) (lane : Nat) (cut : Cut),
    let g := groupNo br.val k.val dir.val
    let x := s.laneGroup g
    x.repair = some (lane, sp) →
    (x.queue = [] → Gives (.laneRepairComplete br k dir cut) s (fun t =>
      t = (s.modGroup g (fun y => { y with
          repair := none, repairs := y.repairs + 1
          spares := if lane < 32 then y.spares.set sp (2 + lane)
            else (y.spares.setIfInBounds (lane - 32) 1).set sp (y.spares.toList.getD (lane - 32) 0) })).post 0x0201
        (laneArg br.val k.val lane) (x.repairs + 1))) ∧
    (∀ (l : Nat) (rest : List Nat) (o : Fin 2), x.queue = l :: rest → lane < 32 → o ≠ sp → x.spares[o] = 0 →
      Gives (.laneRepairComplete br k dir cut) s (fun t =>
        (t.laneGroup g).repair = some (l, o) ∧ (t.laneGroup g).queue = rest ∧ (t.laneGroup g).repairs = x.repairs + 1))) ∧
  (∀ (s : State) (br : Fin 8) (k : Fin 16) (dir sp : Fin 2) (eye : W32) (training : Bool),
    let g := groupNo br.val k.val dir.val
    let d := br.val / 2
    (s.laneGroup g).idle sp = true → (nfield eye.toNat 15 0 < 200 ∨ nfield eye.toNat 31 16 < 15) →
    s.pairWorks br.val k.val = true → s.pkg.down.contains br.val = false →
    (if training then s.presence d = .rejoining ∨ s.cfg.phase < 4
     else s.flag (HIF_DIE_CAP.SPARE_MON d) = true ∧ s.presence d = .present) →
    Gives (.spareUnusable br k dir sp { training := training, eye := eye }) s (fun t =>
      t = ((s.sawEye g (32 + sp.val) eye).modGroup g (fun y => { y with spares := y.spares.set sp 1 })).post 0x0202
        (laneArg br.val k.val (32 + sp.val)) 0))

/-- R34: retirement of a group pair. -/
def Obligations.PairRetirement : Prop :=
  (∀ (s : State) (br : Fin 8) (k : Fin 16) (dir : Fin 2) (cut : Cut),
    s.judged br.val = true → s.pairWorks br.val k.val = true → Table.wf (fun _ => ({} : LaneGroup)) s.pkg.groups = true →
    ∀ c ∈ [Instr.forwardedClockFail br k dir cut, .replayLimit br k dir cut], Gives c s (fun t =>
      (∀ e : Fin 2, (t.laneGroup (groupNo br.val k.val e.val)).retired = true ∧
        (t.laneGroup (groupNo br.val k.val e.val)).repair = none ∧ (t.laneGroup (groupNo br.val k.val e.val)).queue = []) ∧
      (∀ g, g / 2 ≠ 16 * br.val + k.val → (t.laneGroup g).retired = (s.laneGroup g).retired))) ∧
  (∀ (s : State) (br : Fin 8) (k : Fin 16) (dir : Fin 2) (lanes : BitVec 34),
    let g := groupNo br.val k.val dir.val
    let src := 512 * (br.val / 2) + 0x60 + br.val % 2
    s.judged br.val = true → s.pairWorks br.val k.val = true →
    Table.wf (fun _ => 0) s.pkg.flitErr = true → Table.wf (fun _ => 0) s.pkg.laneErr = true →
    (s.armed src 4 = false → Gives (.bridgeFlitCrcError br k dir lanes) s (fun t =>
      t = { s with pkg := { s.pkg with flitErr := t.pkg.flitErr, laneErr := t.pkg.laneErr, laneAt := t.pkg.laneAt } } ∧
      t.pkg.flitErr.peek (fun _ => 0) g = min (s.pkg.flitErr.peek (fun _ => 0) g + 1) 0xFFFFFFFF ∧
      ∀ l : Fin 34, t.pkg.laneErr.peek (fun _ => 0) (34 * g + l.val)
        = if nbit lanes.toNat l.val then min (s.pkg.laneErr.peek (fun _ => 0) (34 * g + l.val) + 1) 0xFFFFFFFF
          else s.pkg.laneErr.peek (fun _ => 0) (34 * g + l.val))) ∧
    (s.armed src 4 = true → Gives (.bridgeFlitCrcError br k dir lanes) s (fun t =>
      t = { s.useCheck src 4 with pkg := { s.pkg with flitErr := t.pkg.flitErr } } ∧
      t.pkg.flitErr.peek (fun _ => 0) g = min (s.pkg.flitErr.peek (fun _ => 0) g + 1) 0xFFFFFFFF)))

/-- R36, R39, R41, R221: loss and rejoin of a die. -/
def Obligations.DieLossAndRejoin : Prop :=
  (∀ (s : State) (d : Fin 4) (clock : Bool), s.presence d.val = .present →
    Gives (.dieReset d clock) s (fun t => t.presence d.val = .silent ∧ t.pkg.byClock.contains d.val = clock)) ∧
  (∀ (s : State) (d : Fin 4) (kept : List (BitVec 16)), s.presence d.val = .silent → s.dieAsleep d.val = false →
    Gives (.missedHeartbeats d kept) s (fun t => t.presence d.val
      = if ((s.pkg.losses.peek (fun _ => []) d.val).filter (fun a => s.now ≤ a + 60000000000)).length ≥ 2 then .isolated else .lost)) ∧
  (∀ (s : State) (d : Fin 4) (record : W64), s.regsWf → s.presence d.val = .lost → s.pkg.dieReset.contains d.val = false →
    (record ≠ s.reg (HIF_DIE_ID.RECORD d.val).addr → Gives (.dieRejoin d record) s (fun t =>
      t = s.isolateDie d.val ∧ t.presence d.val = .isolated)) ∧
    (record = s.reg (HIF_DIE_ID.RECORD d.val).addr → Gives (.dieRejoin d record) s (fun t =>
      t.presence d.val = .rejoining ∧ t.mem = s.mem ∧ t.net = s.net ∧
      t.swb.portJobs = if s.returnsRetained d.val then s.swb.portJobs else s.swb.portJobs ++ [clearJob d.val]))) ∧
  (∀ (s : State) (br : Fin 8), s.pkg.down.contains br.val = true → s.net.reroute.contains br.val = true →
    let s1 := s.onNet (fun n => { n with reroute := n.reroute.filter (fun b => b != br.val) })
    let s2 := if br.val % 2 = 0 then s1.fitBridge (br.val + 1) 3 4096 else s1
    Gives (.bridgeRerouteComplete br) s (fun t => t = (s2.trailsOver br.val).foldl (fun u n => u.rerouteTrail n) s2))

/-! ### Cells, term strips, tiles, borders and clocks (chapters 2 and 3) -/

/-- R55, R56: the adder of the chapter's text. Cell i of the chain is C(i mod 16) of T(u, i div 16). -/
def Obligations.CarryChainAdds : Prop :=
  ∀ (x : Island) (u n a b : Nat), u < 48 → n ≤ 1024 →
    (∀ i < n, ∃ c : CellCfg, x.cfg.cell (16 * (u + 48 * (i / 16)) + i % 16) = c ∧
      c.table = 0x66666666AAAAAAAA ∧ c.tmode = 2 ∧ c.xsum = true ∧ c.gsel = 0 ∧ c.cinsel = (if i = 0 then 0 else 3) ∧
      c.a = .const (nbit a i) ∧ c.b = .const (nbit b i) ∧ c.c = .const false ∧ c.d = .const false ∧ c.e = .const false) →
    ∀ i < n, x.value (.cell (16 * (u + 48 * (i / 16)) + i % 16) 0) = nbit (a + b) i

/-- R57, R58, R60: cases of `FfCfg.next`. -/
def Obligations.FlipFlopRules : Prop :=
  ∀ (f : FfCfg) (cs : CtlSet) (level : BitVec 4) (ev : Option Edge) (q d ce sr : Bool),
    (f.latch = false → f.sruse = true → sr = true → cs.async = true → f.next cs level ev q d ce sr = f.srval) ∧
    (∀ e k, f.latch = false → ev = some e → cs.clk = some k → e.clk = k → e.rising ≠ cs.inv → ¬ (f.sruse ∧ sr ∧ cs.async) →
      f.next cs level ev q d ce sr = if f.sruse && sr then f.srval else if f.ceuse && !ce then q else d) ∧
    (f.latch = false → (ev = none ∨ cs.clk = none ∨ ∃ e, ev = some e ∧ (cs.clk ≠ some e.clk ∨ e.rising = cs.inv)) →
      ¬ (f.sruse ∧ sr ∧ cs.async) → f.next cs level ev q d ce sr = q) ∧
    (∀ k, f.latch = true → cs.clk = some k → (f.sruse && sr) = false →
      f.next cs level ev q d ce sr
        = if nbit level.toNat k.val != cs.inv then (if f.ceuse && !ce then q else d) else q)

/-- R57, R60, R86, R89: clock edges and handshake words. -/
def Obligations.ClockEdgeAndHandshake : Prop :=
  (∀ (s : State) (is : List (Fin 256)) (k : Fin 4) (rising : Bool) (ins : List (Nat × Bool)),
    Gives (.islandClockEdge is k rising ins) s (fun t =>
      t = { s with isl := t.isl, banks := t.banks, net := { s.net with settle := t.net.settle } })) ∧
  (∀ (s : State) (i : Fin 256) (k : Fin 4) (rising : Bool),
    nbit (s.get (CLK_ISL_STAT.RUNNING i.val)) k.val = true → Table.wf (fun _ => ({} : Island)) s.isl = true →
    ((s.island i.val).gsr = true → Gives (.islandClockEdge [i] k rising []) s (fun t =>
      t.island i.val = { s.facing i.val with level := (t.island i.val).level } ∧
      nbit (t.island i.val).level.toNat k.val = rising)) ∧
    ((s.island i.val).gsr = false → Gives (.islandClockEdge [i] k rising []) s (fun t =>
      t.island i.val = (s.setIsland i.val (s.facing i.val).settled).islandEdge i.val k rising))) ∧
  (∀ (s : State) (i : Fin 256) (side : Fin 4) (g : Fin 16) (j : Nat),
    let kj := groupKey (oppositeSide side.val) g.val
    let x := (s.facing i.val).settled
    let c := x.cfg.group (groupKey side.val g.val)
    neighbour i.val side.val = some j → c.mode = 2 → (x.chan (groupKey side.val g.val)).ready = true → x.value c.valid = true →
    s.groupClocked i.val (groupKey side.val g.val) = true → Table.wf (fun _ => ({} : Island)) s.isl = true →
    Table.wf (fun _ => ({} : BorderChan)) (s.island j).border = true →
    ∀ w : W32, (w.toNat = bitsOf x.value c.sigs → Gives (.handshakeWordWrite i side g w) s (fun t => t = { s with isl := t.isl } ∧
      ((t.island j).chan kj).fifo = ((s.island j).chan kj).fifo ++ [w])) ∧
      (w.toNat ≠ bitsOf x.value c.sigs → Gives (.handshakeWordWrite i side g w) s (fun t => t = s))) ∧
  (∀ (s : State) (i : Fin 256) (side : Fin 4) (g : Fin 16),
    let k := groupKey side.val g.val
    let x := (s.facing i.val).settled
    s.groupClocked i.val k = true → Table.wf (fun _ => ({} : Island)) s.isl = true →
    Table.wf (fun _ => ({} : BorderChan)) (s.island i.val).border = true →
    (((s.island i.val).chan k).visible < ((s.island i.val).chan k).fifo.length →
      Gives (.handshakeWordArrive i side g) s (fun t => t = { s with isl := t.isl } ∧
        (t.island i.val).chan k = { (s.island i.val).chan k with visible := ((s.island i.val).chan k).visible + 1 })) ∧
    (∀ w rest, ((s.island i.val).chan k).fifo = w :: rest → 0 < ((s.island i.val).chan k).visible →
      (x.cfg.group k).mode = 3 → x.value (x.cfg.group k).valid = true →
      Gives (.handshakeWordRead i side g) s (fun t => t = { s with isl := t.isl } ∧
        ((t.island i.val).chan k).lastRead = w ∧ ((t.island i.val).chan k).fifo = rest ∧
        ((t.island i.val).chan k).visible = ((s.island i.val).chan k).visible - 1)))

/-- R93: ERR 1 is RANGE, 2 IN_USE. -/
def Obligations.BaseClockWrites : Prop :=
  ∀ (s : State) (n : Fin 4) (fmul : BitVec 9), s.regsWf →
    (n = 3 → Gives (.clkBaseWrite n fmul) s (fun t => t = s)) ∧
    (n ≠ 3 → (fmul.toNat < 64 ∨ 320 < fmul.toNat) → Gives (.clkBaseWrite n fmul) s (fun t =>
      t = { s with regs := t.regs } ∧ t.get (CLK_BASE.ERR n.val) = 1 ∧ t.get (CLK_BASE.FMUL n.val) = s.get (CLK_BASE.FMUL n.val) ∧
        t.get (CLK_BASE.LOCKED n.val) = s.get (CLK_BASE.LOCKED n.val))) ∧
    (n ≠ 3 → 64 ≤ fmul.toNat → fmul.toNat ≤ 320 → s.baseInUse n.val = true → Gives (.clkBaseWrite n fmul) s (fun t =>
      t = { s with regs := t.regs } ∧ t.get (CLK_BASE.ERR n.val) = 2 ∧ t.get (CLK_BASE.FMUL n.val) = s.get (CLK_BASE.FMUL n.val) ∧
        t.get (CLK_BASE.LOCKED n.val) = s.get (CLK_BASE.LOCKED n.val))) ∧
    (n ≠ 3 → 64 ≤ fmul.toNat → fmul.toNat ≤ 320 → s.baseInUse n.val = false → Gives (.clkBaseWrite n fmul) s (fun t =>
      t = { s with regs := t.regs } ∧ t.get (CLK_BASE.ERR n.val) = 0 ∧ t.get (CLK_BASE.FMUL n.val) = fmul.toNat ∧
        t.get (CLK_BASE.LOCKED n.val) = 0)) ∧
    Gives (.baseClockLocked n) s (fun t => t = { s with regs := t.regs } ∧ t.get (CLK_BASE.LOCKED n.val) = 1)

/-- R98: ratios are held in sixteenths. -/
def Obligations.RampSteps : Prop :=
  ∀ (s : State) (i : Fin 256) (k : Fin 5), s.regsWf → Table.wf (fun _ => ({} : Island)) s.isl = true →
    let x := s.island i.val
    s.running i.val k.val = true → nbit (s.get (CLK_ISL_STAT.RAMPING i.val)) k.val = true → x.stretch = 0 →
    x.src[k] = clkSrc (s.setting i.val) k.val →
    Gives (.clockRampStep i k) s (fun t =>
      t = { s with isl := t.isl, regs := t.regs } ∧
      (x.ratio[k] ≤ x.target[k] → x.ratio[k] ≤ (t.island i.val).ratio[k] ∧ (t.island i.val).ratio[k] ≤ x.target[k] ∧
        8 * ((t.island i.val).ratio[k] - x.ratio[k]) ≤ x.ratio[k]) ∧
      (x.target[k] ≤ x.ratio[k] → x.target[k] ≤ (t.island i.val).ratio[k] ∧ (t.island i.val).ratio[k] ≤ x.ratio[k] ∧
        8 * (x.ratio[k] - (t.island i.val).ratio[k]) ≤ x.ratio[k]) ∧
      (∀ j : Fin 5, j ≠ k → (t.island i.val).ratio[j] = x.ratio[j]) ∧
      nbit (t.get (CLK_ISL_STAT.RAMPING i.val)) k.val = ((t.island i.val).ratio[k] != x.target[k]))

/-- R91, R92, R102, R104: stretch 1 is 1.25 ×, 2 is 1.125 ×, 0 none. -/
def Obligations.ClockEvents : Prop :=
  (∀ (s : State) (d n : Fin 4), s.pkg.southCopy.contains (4 * d.val + n.val) = false → Gives (.baseClockCopyFail d n) s (fun t =>
    t = { s with pkg := { s.pkg with southCopy := s.pkg.southCopy ++ [4 * d.val + n.val] } })) ∧
  (∀ (s : State) (d n : Fin 4), s.pkg.southCopy.contains (4 * d.val + n.val) = true → Gives (.baseClockCopyFail d n) s (fun t =>
    t = s.dieStops d.val true)) ∧
  (∀ (s : State), s.clk.holdover = 1 → Gives .holdoverSlew s (fun t => t = { s with clk := { s.clk with holdover := 2 } })) ∧
  (∀ (s : State) (ppm : BitVec 16), s.regsWf → Gives (.refReturn ppm) s (fun t =>
    t = { s with regs := t.regs, clk := { s.clk with holdover := 0 } } ∧ t.get CLK_REF_STAT.PPM_ERR = ppm.toNat ∧
    t.get CLK_REF_STAT.HOLDOVER = 0 ∧ t.get CLK_REF_STAT.REF_OK = 1)) ∧
  (∀ (s : State) (i : Fin 256), Table.wf (fun _ => ({} : Island)) s.isl = true → s.regsWf →
    Gives (.droopFire i) s (fun t => t = { s with isl := t.isl, regs := t.regs } ∧
      ∀ j ∈ s.joined i.val, j < 256 → (t.island j).stretch = 1 ∧ t.get (CLK_ISL_STAT.STRETCHED j) = 1)) ∧
  (∀ (s : State) (i : Fin 256), Table.wf (fun _ => ({} : Island)) s.isl = true → s.regsWf →
    ((s.island i.val).stretch = 1 → Gives (.droopStretchRelease i) s (fun t => t = { s with isl := t.isl } ∧
      ∀ j ∈ s.joined i.val, (t.island j).stretch = 2 ∧ (t.island j).droop = false)) ∧
    ((s.island i.val).stretch = 2 → Gives (.droopStretchEnd i) s (fun t => t = { s with isl := t.isl, regs := t.regs } ∧
      ∀ j ∈ s.joined i.val, (t.island j).stretch = 0))) ∧
  (∀ (s : State) (i : Fin 256) (k : Fin 5), s.regsWf → Table.wf (fun _ => ({} : Island)) s.isl = true →
    nbit (s.island i.val).stopping.toNat k.val = true →
    (s.clockIdle i.val k.val = true → Gives (.clockStopIdle i k) s (fun t => t = { s with isl := t.isl, regs := t.regs } ∧
      t.running i.val k.val = false ∧ nbit (t.island i.val).stopping.toNat k.val = false)) ∧
    (s.clockIdle i.val k.val = false → Gives (.clockStopForced i k) s (fun t => t = { s with isl := t.isl, regs := t.regs } ∧ t.running i.val k.val = false ∧
      t.get (CLK_ISL_STAT.STOP_FORCED i.val) = 1)))

/-- R107, R108: the clock meters. -/
def Obligations.ClockMeters : Prop :=
  ∀ (s : State) (m : Fin 5), s.regsWf →
    (s.get (CLK_MTR_CTL.BUSY m.val) = 0 → s.get (CLK_MTR_CTL.OWNER m.val) = 1 → Gives (.clkMtrStart m) s (fun t =>
      t = { s with regs := t.regs, clk := { s.clk with waiting := s.clk.waiting ++ [m.val] } } ∧
      t.get (CLK_MTR_CTL.BUSY m.val) = 1)) ∧
    (s.get (CLK_MTR_CTL.BUSY m.val) = 0 → s.get (CLK_MTR_CTL.OWNER m.val) = 0 → Gives (.clkMtrStart m) s (fun t =>
      if meterHas m.val (s.get (CLK_MTR_SEL.SEL_A m.val)) && meterHas m.val (s.get (CLK_MTR_SEL.SEL_B m.val)) then
        t.get (CLK_MTR_CTL.BUSY m.val) = 1
      else t.get (CLK_MTR_CTL.BUSY m.val) = 0 ∧ t.get (CLK_MTR_CTL.DONE m.val) = 1 ∧ t.get (CLK_MTR_CNT.COUNT m.val) = 0)) ∧
    (∀ count : W32, s.meterRuns m.val = true → s.countFits m.val count.toNat = true → Gives (.clkMtrDone m count) s (fun t => t = { s with regs := t.regs } ∧
      t.get (CLK_MTR_CNT.COUNT m.val) = count.toNat ∧ t.get (CLK_MTR_CTL.DONE m.val) = 1 ∧ t.get (CLK_MTR_CTL.BUSY m.val) = 0)) ∧
    (s.meterRuns m.val = true → (s.meterWindow m.val > 16 ∨ s.get (CLK_MTR_SEL.SEL_B m.val) ≠ 0) →
      Gives (.clkMtrAbort m) s (fun t => t = { s with regs := t.regs } ∧ t.get (CLK_MTR_CTL.ABORTED m.val) = 1 ∧
        t.get (CLK_MTR_CTL.DONE m.val) = 0 ∧ t.get (CLK_MTR_CTL.BUSY m.val) = 0 ∧ t.get (CLK_MTR_CTL.OWNER m.val) = 1)) ∧
    (s.meterWindow m.val ≤ 16 → s.get (CLK_MTR_SEL.SEL_B m.val) = 0 → Gives (.clkMtrAbort m) s (fun t => t = s)) ∧
    (s.lkoServes = true → s.meterRuns m.val = false → Gives (.lookoutClockSupervision m true) s (fun t =>
      t = { s with regs := t.regs } ∧ t.get (CLK_MTR_CTL.OWNER m.val) = 1)) ∧
    (s.clk.waiting.contains m.val = false → Gives (.lookoutClockSupervision m false) s (fun t =>
      t = { s with regs := t.regs } ∧ t.get (CLK_MTR_CTL.OWNER m.val) = 0)) ∧
    (s.clk.waiting.contains m.val = true → meterHas m.val (s.get (CLK_MTR_SEL.SEL_A m.val)) = true →
      meterHas m.val (s.get (CLK_MTR_SEL.SEL_B m.val)) = true → Gives (.lookoutClockSupervision m false) s (fun t =>
        t = { s with regs := t.regs, clk := { s.clk with waiting := s.clk.waiting.filter (fun k => k != m.val) } } ∧
        t.get (CLK_MTR_CTL.OWNER m.val) = 0 ∧ t.get (CLK_MTR_CTL.BUSY m.val) = s.get (CLK_MTR_CTL.BUSY m.val)))

/-! ### Memories and their codes (chapter 4) -/

/-- R122, R123: e inverts bits of the data, f bits of the check byte. -/
def Obligations.InnerCodeCorrects : Prop :=
  (List.range 64).map dataPos = (List.range 72).filter (fun p => !([0, 1, 2, 4, 8, 16, 32, 64].contains p)) ∧
  ∀ (d : W64),
    (∀ k < 7, nbit (checkBits d).toNat k = (List.range 64).foldl (fun a j => a != (nbit (dataPos j) k && nbit d.toNat j)) false) ∧
    nbit (checkBits d).toNat 7 = ((List.range 64).foldl (fun a j => a != nbit d.toNat j) false
      != (List.range 7).foldl (fun a k => a != nbit (checkBits d).toNat k) false) ∧
    decodeWord d (checkBits d) = .clean ∧
    (∀ j < 64, decodeWord (d ^^^ BitVec.ofNat 64 (2 ^ j)) (checkBits d) = .dataBit (dataPos j) j ∧
      (decodeWord (d ^^^ BitVec.ofNat 64 (2 ^ j)) (checkBits d)).value (d ^^^ BitVec.ofNat 64 (2 ^ j)) = d) ∧
    (∀ k < 8, decodeWord d (checkBits d ^^^ BitVec.ofNat 8 (2 ^ k)) = .checkBit (if k < 7 then 2 ^ k else 0) ∧
      (decodeWord d (checkBits d ^^^ BitVec.ofNat 8 (2 ^ k))).value d = d) ∧
    (∀ i j, i < j → j < 64 → decodeWord (d ^^^ BitVec.ofNat 64 (2 ^ i + 2 ^ j)) (checkBits d) = .bad) ∧
    (∀ i k, i < 64 → k < 8 → decodeWord (d ^^^ BitVec.ofNat 64 (2 ^ i)) (checkBits d ^^^ BitVec.ofNat 8 (2 ^ k)) = .bad) ∧
    (∀ i k, i < k → k < 8 → decodeWord d (checkBits d ^^^ BitVec.ofNat 8 (2 ^ i + 2 ^ k)) = .bad) ∧
    (∀ (s : State) (r : Region) (w : Nat), s.armed r.source 0 = false → s.armed r.source 1 = false →
      (∃ n j, s.wordState w = .dataBit n j) →
      (s.readCode r w).1 = s.wordValue w ∧ (s.readCode r w).2.1 = false ∧ (s.readCode r w).2.2.mem.data = s.mem.data)

/-- R124, R128: the sums are taken in the order of the indices. -/
def Obligations.PageGuardRebuilds : Prop :=
  ∀ (s : State) (r : Region) (D : Nat → W64), r.n ≤ 128 →
    s.guardP r.key = (List.range r.n).foldl (fun a i => a ^^^ D i) 0 →
    s.guardQ r.key = (List.range r.n).foldl (fun a i => a ^^^ mulWord (gfAlpha i) (D i)) 0 →
    s.pState r.key = .clean → s.qState r.key = .clean →
    (∀ i < r.n, i ∉ s.erased r r.n → s.wordValue (r.member i) = D i) →
    (s.erased r r.n).length ≤ 2 → s.rebuilt r = some ((s.erased r r.n).map (fun i => (i, D i)))

/-- R123, R127, R130, R131: accesses to deep memory. -/
def Obligations.MemoryAccesses : Prop :=
  ∀ (s : State) (addr : BitVec 48) (r : Region), s.canonical → inDeep addr.toNat = true →
    let w := addr.toNat / 8
    let o := 8 * w - deepBase
    regionOf (8 * w) = some r → s.mem.rebuilding = [] → s.cairn.checks = [] → s.deepCode {} (o / 0x4000000) (o / 0x200000 % 32) (8 * w) 8 = 0 →
    (s.mergeList r.unit).find? (fun e => e.word == w) = none → Table.wf (fun _ => ([] : List MergeEntry)) s.mem.merge = true →
    (s.wordState w = .clean → Gives (.memoryRead .network addr) s (fun t => t = s.answer (toBytes 8 (s.rawWord w).toNat))) ∧
    (∀ v : W64, Gives (.memoryWrite .network addr (v.setWidth 72) 0xFF none) s (fun t =>
      t.rawWord w = v ∧ t.checkAt w = checkBits v ∧ ∀ a, a / 8 ≠ w → t.byteAt a = s.byteAt a)) ∧
    (∀ (v : W64) (mask : Byte), mask ≠ 0 → mask ≠ 0xFF → (s.mergeList r.unit).length < 8 → Gives (.narrowWrite .network addr v mask) s (fun t =>
      t.mergeList r.unit = s.mergeList r.unit ++ [{ word := w, data := mergeWord 0 v mask, mask := mask }] ∧ t.mem.data = s.mem.data)) ∧
    (∀ v : W64, Gives (.narrowWrite .network addr v 0) s (fun t => t = s.answer [])) ∧
    (∀ e : MergeEntry, e.word = w → Gives (.mergeFlushAge addr) (s.setMergeList r.unit [e]) (fun t =>
      (t.mergeList r.unit).find? (fun x => x.word == w) = none))

/-- R128, R132 to R134. -/
def Obligations.RebuildAndScrub : Prop :=
  (∀ (s : State) (page : BitVec 45) (r : Region), regionOf (8 * page.toNat) = some r → s.mem.rebuilding = [(page.toNat, [])] →
    Gives (.pageRebuildComplete page) s (fun t => t.mem.rebuilding = [])) ∧
  (∀ (s : State) (cls : Fin 6) (unit : Fin 4), s.scrubPaused cls.val unit.val = true →
    Gives (.scrubWord cls unit) s (fun t => t = s)) ∧
  (∀ (s : State) (d : Fin 4), s.scrubPaused 1 d.val = false → s.cairn.checks = [] → s.mem.rebuilding = [] →
    Table.wf (fun _ => 0) s.mem.scrub = true →
    let n := s.mem.scrub.peek (fun _ => 0) (8 + d.val)
    n < 0x4000000 / 8 → n % 64 ≠ 63 → s.wordState ((deepBase + d.val * 0x4000000) / 8 + n) = .clean → s.mem.merge = [] →
    Gives (.scrubWord 1 d) s (fun t => t = { s with mem := { s.mem with scrub := t.mem.scrub } } ∧
      t.mem.scrub.peek (fun _ => 0) (8 + d.val) = n + 1))

/-- R141: counters and logs. -/
def Obligations.MemoryCountersCleared : Prop :=
  ∀ (s : State), s.regsWf →
    (∀ clr : BitVec 6, Gives (.memCntClr clr) s (fun t => t = { s with regs := t.regs } ∧ ∀ c < 6,
      t.get (MEM_CE_CNT.COUNT c) = (if nbit clr.toNat c then 0 else s.get (MEM_CE_CNT.COUNT c)) ∧
      t.get (MEM_PG_CNT.COUNT c) = (if nbit clr.toNat c then 0 else s.get (MEM_PG_CNT.COUNT c)) ∧
      t.get (MEM_UE_CNT.COUNT c) = (if nbit clr.toNat c then 0 else s.get (MEM_UE_CNT.COUNT c)))) ∧
    (∀ clr : BitVec 5, Gives (.memLogClear clr) s (fun t => t = { s with regs := t.regs } ∧ ∀ k < 5,
      t.get (MEM_LOG_OVF.OVF k) = (if nbit clr.toNat k then 0 else s.get (MEM_LOG_OVF.OVF k)) ∧
      ∀ e < 32, t.reg (MEM_LOG.ENTRY k e).addr = (if nbit clr.toNat k then 0 else s.reg (MEM_LOG.ENTRY k e).addr)))

/-! ### Signal engines (chapters 5 and 6) -/

/-- R183–R186, row by row; the state after is the state before with the one engine replaced. -/
def Obligations.ScalarSlots : Prop :=
  ∀ (s : State) (i : Fin 256),
    let e := s.eng i.val
    let next := e.pc + 1
    let go (c : Instr) (ctl : Ctl) (e' : Engine) (pc : BitVec 11) : Prop := s.issuesTo c i.val { c := ctl } e' pc
    let sca (c : Instr) (ctl : Ctl) (d : Fin 16) (v : W32) : Prop := go c ctl { e with s := e.s.set d v } next
    e.straight →
    (go (.nop i) .nop e next) ∧
    (∀ d a b : Fin 16, let x := e.s[a]; let y := e.s[b]
      sca (.add i d a b) (.alu .add d a b) d (x + y) ∧
      sca (.sub i d a b) (.alu .sub d a b) d (x - y) ∧
      sca (.and i d a b) (.alu .and d a b) d (x &&& y) ∧
      sca (.or i d a b) (.alu .or d a b) d (x ||| y) ∧
      sca (.xor i d a b) (.alu .xor d a b) d (x ^^^ y) ∧
      sca (.shl i d a b) (.alu .shl d a b) d (x <<< (y.toNat % 32)) ∧
      sca (.shr i d a b) (.alu .shr d a b) d (x >>> (y.toNat % 32)) ∧
      sca (.sar i d a b) (.alu .sar d a b) d (x.sshiftRight (y.toNat % 32)) ∧
      sca (.mul i d a b) (.alu .mul d a b) d (BitVec.ofNat 32 (x.toNat * y.toNat)) ∧
      sca (.mulh i d a b) (.alu .mulh d a b) d ((x.signExtend 64 * y.signExtend 64).extractLsb' 32 32) ∧
      sca (.slt i d a b) (.alu .slt d a b) d (if x.toInt < y.toInt then 1 else 0) ∧
      sca (.sltu i d a b) (.alu .sltu d a b) d (if x.toNat < y.toNat then 1 else 0) ∧
      sca (.min i d a b) (.alu .min d a b) d (if y.toInt < x.toInt then y else x) ∧
      sca (.max i d a b) (.alu .max d a b) d (if x.toInt < y.toInt then y else x)) ∧
    (∀ (d a : Fin 16) (imm : BitVec 18), let x := e.s[a]
      sca (.addi i d a imm) (.alui .addi d a imm) d (x + imm.signExtend 32) ∧
      sca (.andi i d a imm) (.alui .andi d a imm) d (x &&& imm.zeroExtend 32) ∧
      sca (.ori i d a imm) (.alui .ori d a imm) d (x ||| imm.zeroExtend 32)) ∧
    (∀ (d a : Fin 16) (n : BitVec 5), let x := e.s[a]
      sca (.shli i d a n) (.alui .shli d a (n.zeroExtend 18)) d (x <<< n.toNat) ∧
      sca (.shri i d a n) (.alui .shri d a (n.zeroExtend 18)) d (x >>> n.toNat) ∧
      sca (.sari i d a n) (.alui .sari d a (n.zeroExtend 18)) d (x.sshiftRight n.toNat)) ∧
    (∀ (d : Fin 16) (imm : BitVec 22), sca (.li i d imm) (.li d imm) d (imm.signExtend 32)) ∧
    (∀ (d : Fin 16) (imm : BitVec 16), sca (.lui i d imm) (.lui d imm) d (imm ++ (e.s[d]).setWidth 16)) ∧
    (∀ (d a : Fin 16) (l : Fin 8), sca (.vext i d a l) (.vext d a l) d (e.v[a])[l] ∧
      go (.vins i d a l) (.vins d a l) { e with v := e.v.set d ((e.v[d]).set l e.s[a]) } next) ∧
    (∀ (r : Fin 16) (c : Fin 57), ((e.setCtl c (e.s[r]).toNat).straight → go (.movtc i r c) (.movtc r c) (e.setCtl c (e.s[r]).toNat) next) ∧
      sca (.movfc i r c) (.movfc r c) r (e.getCtl c)) ∧
    (∀ (c c' : Fin 57) (v : Nat), c' ≠ c → (e.setCtl c v).getCtl c' = e.getCtl c') ∧
    (∀ (c : Fin 57) (v : Nat), c.val ≠ 43 →
      let w := if c.val < 16 then 14 else if c.val < 24 then 16 else if c.val < 40 then 14 else if c.val = 40 then 32
        else if c.val = 41 then 5 else if c.val < 48 then 16 else if c.val < 56 then 11 else 3
      let signed := (16 ≤ c.val ∧ c.val < 24) ∨ c.val = 41 ∨ c.val = 42
      (e.setCtl c v).getCtl c = if signed then (BitVec.ofNat w v).signExtend 32 else (BitVec.ofNat w v).zeroExtend 32) ∧
    (∀ v : Nat, nbit ((e.setCtl 43 v).getCtl 43).toNat 22 = nbit e.esr.toNat 22) ∧
    (∀ (cond : Fin 7) (a : Fin 16) (target : BitVec 11), let x := (e.s[a]).toInt
      go (.br i cond a target) (.br cond a target) e
        (if cond = 0 ∨ (cond = 1 ∧ x = 0) ∨ (cond = 2 ∧ x ≠ 0) ∨ (cond = 3 ∧ x < 0) ∨ (cond = 4 ∧ 0 ≤ x) ∨ (cond = 5 ∧ 0 < x)
          ∨ (cond = 6 ∧ x ≤ 0) then target else next)) ∧
    (∀ target : BitVec 11, go (.call i target) (.call target) { e with s := e.s.set 15 (next.zeroExtend 32) } target) ∧
    go (.ret i) .ret e ((e.s[15]).setWidth 11) ∧
    go (.rti i) .rti { e with inTrap := false } (if e.inTrap then e.tpc else next) ∧
    go (.wdk i) .wdk { e with count := e.load, expired := false } next ∧
    (∀ (d : Fin 16) (ch : Fin 4), sca (.dmstat i d ch) (.dmstat d ch) d (BitVec.ofNat 32 (e.dm[ch]).stat)) ∧
    (∀ g : Fin 8, go (.bfopen i g) (.bfopen g)
      { e with esr := setField (setField (setField e.esr 31 31 1) 30 28 g.val) 27 23 31 } next) ∧
    (let sc : Int := min 15 (max (-15) ((nfield e.esr.toNat 27 23 : Int) - nfield e.esr.toNat 30 28))
     go (.bfclose i) .bfclose { e with
        sc := BitVec.ofInt 5 sc, bexp := BitVec.ofInt 16 (max (min (e.bexp.toInt - sc) 32767) (-32768))
        esr := setField e.esr 27 23 31 } next)

/-- R194, with the ends of R157 and R195. The body has `len + 1` bundles, `len` being ten bits wide. -/
def Obligations.LoopSlots : Prop :=
  ∀ (s : State) (i : Fin 256),
    let e := s.eng i.val
    let counted (x : Engine) : Engine := { x with lockBundles := if e.locked then e.lockBundles + 1 else e.lockBundles }
    let push (n : BitVec 16) (len : BitVec 10) : Engine :=
      counted { e with
        lc := e.lc.set! e.depth n
        ls := e.ls.set! e.depth (e.pc + 1)
        le := e.le.set! e.depth (e.pc + 1 + len.zeroExtend 11)
        ldepth := BitVec.ofNat 3 (e.depth + 1) }
    let inner := e.depth - 1
    let at_ : BitVec 11 := if e.locked then e.lockPc else e.pc
    let cut : Engine := if e.locked then e.broken else e
    let overflows (c : Instr) (ctl : Ctl) : Prop :=
      (e.trapEn = true → e.inTrap = false →
        s.issuesTo c i.val { c := ctl } { cut with tpc := at_, trapCause := 4, inTrap := true } e.vec) ∧
      ((e.trapEn = false ∨ e.inTrap = true) → s.ready i.val { c := ctl } → Gives c s (fun t =>
        t = (s.setEng i.val { cut with pc := at_, state := 1, fault := true, cause := 4 }).toCairn 0x13 (srcIsland i.val) sevMajor at_.toNat))
    (e.depth = 4 → ∀ (n : BitVec 16) (a : Fin 16) (len : BitVec 10),
      overflows (.loopi i n len) (.loopi n len) ∧ overflows (.loop i a len) (.loop a len)) ∧
    ((e.locked = false ∨ e.lockBundles < 64) →
      (e.depth < 4 → ∀ (n : BitVec 16) (a : Fin 16) (len : BitVec 10),
        s.issuesTo (.loopi i n len) i.val { c := .loopi n len } (push n len) (e.pc + 1) ∧
        s.issuesTo (.loop i a len) i.val { c := .loop a len } (push ((e.s[a]).setWidth 16) len) (e.pc + 1)) ∧
      (0 < e.depth → s.issuesTo (.lexit i) i.val { c := .lexit } (counted { e with ldepth := BitVec.ofNat 3 inner }) (e.pc + 1)) ∧
      (e.depth = 0 → s.issuesTo (.lexit i) i.val { c := .lexit } (counted e) (e.pc + 1)) ∧
      (0 < e.depth → e.le[inner]! = e.pc →
        (e.lc[inner]! ≠ 1 →
          s.issuesTo (.nop i) i.val {} (counted { e with lc := e.lc.set! inner (e.lc[inner]! - 1) }) e.ls[inner]!) ∧
        (e.lc[inner]! = 1 → (inner = 0 ∨ e.le[inner - 1]! ≠ e.pc) →
          s.issuesTo (.nop i) i.val {} (counted { e with ldepth := BitVec.ofNat 3 inner }) (e.pc + 1)) ∧
        (e.lc[inner]! = 1 → 0 < inner → e.le[inner - 1]! = e.pc → e.lc[inner - 1]! ≠ 1 →
          s.issuesTo (.nop i) i.val {}
            (counted { e with ldepth := BitVec.ofNat 3 inner, lc := e.lc.set! (inner - 1) (e.lc[inner - 1]! - 1) }) e.ls[inner - 1]!))) ∧
    (0 : BitVec 16) - 1 = 65535

/-- R166, R169, R170: traps at a bundle boundary. -/
def Obligations.TrapsAndLocks : Prop :=
  ∀ (s : State) (i : Fin 256),
    let e := s.eng i.val
    let taken (e : Engine) (cause : BitVec 8) (tpc : BitVec 11) : Engine :=
      { e with tpc := tpc, trapCause := cause, inTrap := true, pc := e.vec, skipHit := false }
    let w := progWord i.val e.pc.toNat
    (Table.wf (fun _ => ({} : Engine)) s.engines = true → e.state = 2 → s.keRuns i.val = true → e.dmTraps = false →
      e.haltPend = 0 → s.quiet w → s.quiet (w + 1) → s.wordHeld w = false → decodeBundle (s.rawWord w) (s.rawWord (w + 1)) = none → e.locked = false →
      (e.trapEn = true → e.inTrap = false → Gives (.nop i) s (fun t => t = s.setEng i.val (taken e 2 e.pc))) ∧
      ((e.trapEn = false ∨ e.inTrap = true) → Gives (.nop i) s (fun t =>
        t = (s.setEng i.val { e with state := 1, fault := true, cause := 2 }).toCairn 0x13 (srcIsland i.val) sevMajor e.pc.toNat))) ∧
    (e.straight → e.trapEn = true → e.inTrap = false → (e.brkHalt = false ∨ s.get DBG_STAT.LEVEL = 0) → s.ready i.val { c := .brk } →
      Gives (.brk i) s (fun t => t = s.setEng i.val (taken e 8 (e.pc + 1)))) ∧
    (e.straight → s.issuesTo (.lock i) i.val { c := .lock }
      { e with esr := e.esr ||| 0x00400000, lockPc := e.pc, lockBundles := 1 } (e.pc + 1)) ∧
    (e.locked = true → e.lockBundles < 64 → (e.depth = 0 ∨ e.le[e.depth - 1]! ≠ e.pc) →
      (∀ (r : Fin 16) (an : Fin 8) (m : Modifier), e.inRegion false (e.addr false an) = true → e.lockUsed < 16 →
        s.ready i.val { x := .op .sts r an m } → Gives (.sts i false r an m) s (fun t =>
          t = s.setEng i.val (t.eng i.val) ∧ (t.eng i.val).lockUsed = e.lockUsed + 1 ∧
          (t.eng i.val).lockBuf = e.lockBuf ++ [{ memY := false, word := e.addr false an, value := e.s[r] }])) ∧
      (e.lockBuf = [] → s.issuesTo (.unlk i) i.val { c := .unlk } (e.unlocked) (e.pc + 1)) ∧
      (∀ (k : Nat) (x y : W32), k < 8192 → e.lockBuf = [⟨false, 2 * k, x⟩, ⟨false, 2 * k + 1, y⟩] → nbit e.term.toNat 63 = false →
        s.ready i.val { c := .unlk } → Gives (.unlk i) s (fun t =>
          t.rawWord (xyWord i.val false (2 * k)) = y ++ x ∧ (t.eng i.val).locked = false ∧ (t.eng i.val).lockBuf = [])) ∧
      (e.trapEn = true → e.inTrap = false → s.issuesTo (.lock i) i.val { c := .lock }
        { e.broken with tpc := e.lockPc, trapCause := 2, inTrap := true } e.vec)) ∧
    (e.locked = true → s.keRuns i.val = true → e.state = 2 → e.haltPend = 0 → e.dmTraps = false → e.trapEn = true → e.inTrap = false →
      Table.wf (fun _ => ({} : Engine)) s.engines = true →
      Gives (.lockBreak i) s (fun t => t = s.setEng i.val (taken e.broken 5 e.lockPc))) ∧
    (e.broken.locked = false ∧ nbit e.broken.esr.toNat 21 = true ∧ e.broken.lockBuf = [] ∧ e.broken.v = e.v ∧ e.broken.s = e.s)

/-- R162–R165, for island windows that reach the engine. -/
def Obligations.StreamAndMoverSlots : Prop :=
  ∀ (s : State) (i : Fin 256),
    let e := s.eng i.val
    let next := e.pc + 1
    let lo (d : Fin 8) : Fin 16 := ⟨2 * d.val, by omega⟩
    let hi (d : Fin 8) : Fin 16 := ⟨2 * d.val + 1, by omega⟩
    let two (a : Fin 8) : W64 := e.s[hi a] ++ e.s[lo a]
    (e.straight →
      (∀ (d : Fin 8) (p : Fin 2) (w : W64) (rest : List W64), e.si[p] = w :: rest → s.issuesTo (.sin i d p) i.val { c := .sin d p }
        { e with s := (e.s.set (lo d) (w.setWidth 32)).set (hi d) ((w >>> 32).setWidth 32), si := e.si.set p rest } next) ∧
      (∀ (d : Fin 8) (p : Fin 2), e.si[p] = [] → s.ready i.val { c := .sin d p } → Gives (.sin i d p) s (fun t => t = s)) ∧
      (∀ (a : Fin 8) (p : Fin 2), (e.so[p]).length < 16 → s.issuesTo (.sout i a p) i.val { c := .sout a p }
        { e with so := e.so.set p (e.so[p] ++ [two a]) } next) ∧
      (∀ (d : Fin 16) (p : Fin 2) (l rest : List W64), l.length = 4 → e.si[p] = l ++ rest →
        s.issuesTo (.vsin i d p) i.val { c := .vsin d p } { e with
          v := e.v.set d (Vector.ofFn (fun k => ((l.getD (k.val / 2) 0) >>> (32 * (k.val % 2))).setWidth 32))
          si := e.si.set p rest } next) ∧
      (∀ (a : Fin 16) (p : Fin 2), (e.so[p]).length ≤ 12 → s.issuesTo (.vsout i a p) i.val { c := .vsout a p }
        { e with so := e.so.set p (e.so[p] ++ [(e.v[a])[1] ++ (e.v[a])[0], (e.v[a])[3] ++ (e.v[a])[2], (e.v[a])[5] ++ (e.v[a])[4],
                                              (e.v[a])[7] ++ (e.v[a])[6]]) } next) ∧
      (∀ (a b : Fin 8) (ch : Fin 4) (wait : Bool), let c := e.dm[ch]
        ((wait = true ∧ 4 ≤ c.queue.length) → s.ready i.val { c := .dmpush a b ch wait } →
          Gives (.dmpush i a b ch wait) s (fun t => t = s)) ∧
        (¬ (wait = true ∧ 4 ≤ c.queue.length) → s.issuesTo (.dmpush i a b ch wait) i.val { c := .dmpush a b ch wait }
          { e with
            dm := e.dm.set ch
              (if s.dmTrailOpen i.val (two a) = false then { c with rej := true, rejWhy := 1 }
               else if (two a).toNat % 4 ≠ 0 then { c with rej := true, rejWhy := 2 }
               else if 4 ≤ c.queue.length then { c with rej := true, rejWhy := 3 }
               else { c with queue := c.queue ++ [(two a, two b)] }) } next))) ∧
    (s.busSlow i.val = false → s.busFast i.val = false →
      (∀ (p : Fin 2) (w : W64), e.state ≠ 0 → (e.si[p]).length < 16 →
        Gives (.streamInWord i p w) s (fun t => t = s.setEng i.val { e with si := e.si.set p (e.si[p] ++ [w]) })) ∧
      (∀ (p : Fin 2) (w : W64) (rest : List W64), e.so[p] = w :: rest →
        Gives (.streamOutWord i p) s (fun t => t = s.setEng i.val { e with so := e.so.set p rest, soOut := e.soOut.set p w }))) ∧
    (s.winReaches i.val = true → ∀ ch : Fin 4, let c := e.dm[ch]
      (∀ w1 : W64, s.dmTrailOpen i.val c.held = true → c.held.toNat % 4 = 0 → c.queue.length < 4 → Gives (.engDmCmdWrite i ch w1) s
        (fun t => t = s.setEng i.val { e with dm := e.dm.set ch { c with queue := c.queue ++ [(c.held, w1)] } })) ∧
      (c.state = 2 → c.queue ≠ [] → Gives (.dmResume i ch) s
        (fun t => t = s.setEng i.val { e with dm := e.dm.set ch { c with state := 1, err := 0 } })) ∧
      (c.state = 1 → Gives (.dmAbort i ch) s (fun t =>
        t = s.setEng i.val { e with dm := e.dm.set ch { c with queue := [], state := 0, err := 5, aborted := c.flying != 0 } }))) ∧
    (∀ ch : Fin 4, let c := e.dm[ch]
      s.keRuns i.val = true → c.queue ≠ [] → Table.wf (fun _ => ({} : Engine)) s.engines = true →
      (c.state = 1 → c.flying = 0 → c.len ≤ c.wordsDone → Gives (.dmCommandComplete i ch) s (fun t =>
        
        let c' := { c with queue := c.queue.tail, state := 0, doneCnt := if nbit c.cur.2.toNat 0 then c.doneCnt + 1 else c.doneCnt }
        t = s.setEng i.val { e with dm := e.dm.set ch c' })) ∧
      (c.state = 0 → c.flying = 0 → s.islActive i.val = true → e.locked = false → e.lockBuf = [] → c.dir = true →
        s.tagFree (64 * portNo i.val 1 + 48 + 4 * ch.val) = true → (∀ k < 6, s.cmpOn i.val k = false) →
        let n := min 64 c.len
        let word (k : Nat) : Nat := xyWord i.val c.memY (c.word k)
        (∀ k < n, s.quiet (word k) ∧ s.wordHeld (word k) = false) → Gives (.dmCommandStart i ch) s (fun t =>
        t = (s.setEng i.val { e with dm := e.dm.set ch { c with
              state := 1, wordsDone := 0, err := 0, tag := BitVec.ofNat 16 (nfield c.cur.2.toNat 31 16)
              flying := n, sent := c.cur, first := 0 } }).ingress (.dm i.val ch.val)
            { op := if vpCtx (s.trail (nfield c.cur.1.toNat 59 48)).dst then 0x03 else 0x02
              trail := BitVec.ofNat 12 (nfield c.cur.1.toNat 59 48)
              tag := BitVec.ofNat 16 (64 * portNo i.val 1 + 48 + 4 * ch.val), len1 := BitVec.ofNat 8 (4 * n - 1)
              addr := BitVec.ofNat 48 (nfield c.cur.1.toNat 47 0), ctx := BitVec.ofNat 10 (s.occupant i.val)
              data := (List.range n).flatMap (fun k => toBytes 4 (halfOf (s.rawWord (word k)) (c.word k)).toNat) })) ∧
      (c.state = 0 → c.flying = 0 → s.islActive i.val = true → e.locked = false → c.dir = false →
        s.tagFree (64 * portNo i.val 1 + 48 + 4 * ch.val) = true → Gives (.dmCommandStart i ch) s (fun t =>
        t = (s.setEng i.val { e with dm := e.dm.set ch { c with
              state := 1, wordsDone := 0, err := 0, tag := BitVec.ofNat 16 (nfield c.cur.2.toNat 31 16)
              flying := min 64 c.len, sent := c.cur, first := 0 } }).ingress (.dm i.val ch.val)
            { op := 0x01, trail := BitVec.ofNat 12 (nfield c.cur.1.toNat 59 48)
              tag := BitVec.ofNat 16 (64 * portNo i.val 1 + 48 + 4 * ch.val), len1 := BitVec.ofNat 8 (4 * min 64 c.len - 1)
              addr := BitVec.ofNat 48 (nfield c.cur.1.toNat 47 0), ctx := BitVec.ofNat 10 (s.occupant i.val) })))

/-- R155, R156, R188. `set` gives the engine with the address register updated. -/
def Obligations.MoveSlots : Prop :=
  ∀ (s : State) (i : Fin 256) (y : Bool) (an : Fin 8),
    let e := s.eng i.val
    let next := e.pc + 1
    let b (m : Move) : Bundle := if y then { y := m } else { x := m }
    let set (m : Modifier) (e' : Engine) : Engine :=
      let a := BitVec.ofNat 14 (e.update y an (e.modifier y m))
      if y then { e' with ya := e.ya.set an a } else { e' with xa := e.xa.set an a }
    let at_ (k : Nat) : W32 := halfOf (s.rawWord (xyWord i.val y (e.lane y an k))) (e.lane y an k)
    let one : W32 := halfOf (s.rawWord (xyWord i.val y (e.addr y an))) (e.addr y an)
    let stored (c : Instr) (m : Move) (e' : Engine) (l : List (Nat × W32)) : Prop :=
      s.ready i.val (b m) → Gives c s (fun t =>
        t = ((s.setEng i.val e').writeNow i.val y l).setEng i.val { e' with pc := next, skipHit := false } ∧
        (s.mem.merge = [] → ∀ a, (∀ p ∈ l, xyWord i.val y p.1 ≠ a / 8) → t.byteAt a = s.byteAt a) ∧
        (s.mem.merge = [] → ∀ p, l = [p] → s.quiet (xyWord i.val y p.1) →
          halfOf (t.loadWord (xyWord i.val y p.1)).1 p.1 = p.2))
    e.straight → nbit e.term.toNat 63 = false →
    s.issuesTo (.mnop i y) i.val {} e next ∧
    (∀ (r : Fin 16) (m : Modifier), (∀ k < 8, s.quiet (xyWord i.val y (e.lane y an k))) →
      s.issuesTo (.ldv i y r an m) i.val (b (.op .ldv r an m)) (set m { e with v := e.v.set r (Vector.ofFn (fun k => at_ k.val)) }) next) ∧
    (∀ (r : Fin 16) (m : Modifier), s.quiet (xyWord i.val y (e.addr y an)) →
      s.issuesTo (.lds i y r an m) i.val (b (.op .lds r an m)) (set m { e with s := e.s.set r one }) next ∧
      s.issuesTo (.ldvb i y r an m) i.val (b (.op .ldvb r an m)) (set m { e with v := e.v.set r (Vector.replicate 8 one) }) next) ∧
    (∀ m : Modifier, s.issuesTo (.moda i y an m) i.val (b (.op .moda 0 an m)) (set m e) next) ∧
    (∀ (r : Fin 16) (m : Modifier), stored (.sts i y r an m) (.op .sts r an m) (set m e) [(e.addr y an, e.s[r])]) ∧
    (∀ (r : Fin 16) (m : Modifier), (e.mode y an ≠ 1 ∨ 8 ≤ e.len y an) →
      stored (.stv i y r an m) (.op .stv r an m) (set m e) ((List.range 8).map (fun k => (e.lane y an k, (e.v[r])[k]!)))) ∧
    (∀ (r : Fin 4) (m : Modifier), (e.mode y an ≠ 1 ∨ 8 ≤ e.len y an) → nbit e.esr.toNat 31 = false →
      (∀ k : Fin 8, (moveOut (e.a[r])[k] e.sc).2.sat = false) →
      stored (.staq i y r an m) (.op .staq ⟨r.val, by omega⟩ an m) (set m e)
        ((List.range 8).map (fun k => (e.lane y an k, (moveOut (e.a[r])[k]! e.sc).1)))) ∧
    (∀ m : Int, e.mode y an = 1 →
      wrap14 ((e.update y an m : Int) - e.base y an) < e.len y an ∧
      ∀ k < 8, wrap14 ((e.lane y an k : Int) - e.base y an) < e.len y an) ∧
    (∀ n : Nat, 0 < n → n ≤ 14 → e.mode y an = 2 → e.len y an = 2 ^ n →
      wrap14 ((e.addr y an : Int) - e.base y an) < 2 ^ n →
      revBits (wrap14 ((e.update y an ((2 : Int) ^ (n - 1)) : Int) - e.base y an)) n
        = (revBits (wrap14 ((e.addr y an : Int) - e.base y an)) n + 1) % 2 ^ n)

/-- R190. `lanes` gives a destination of V, `accs` one of A; both with the flags raised. -/
def Obligations.VectorSlots : Prop :=
  ∀ (s : State) (i : Fin 256) (wm : BitVec 8),
    let e := s.eng i.val
    let next := e.pc + 1
    let on (l : Fin 8) : Bool := nbit wm.toNat l.val
    let sat (x : Int) : W32 := BitVec.ofInt 32 (max (min x (2 ^ 31 - 1)) (-(2 ^ 31)))
    let flags (f : Fin 8 → FlagSet) : W32 :=
      orFlags e.esr ((List.finRange 8).foldl (fun g l => if on l then g.or (f l) else g) {})
    let vreg (c : Instr) (v : Vec) (f : Fin 8 → W32 × FlagSet) : Prop := s.issuesTo c i.val { v := v }
      { e with v := e.v.set v.d (Vector.ofFn (fun l => if on l then (f l).1 else (e.v[v.d])[l])), esr := flags (fun l => (f l).2) } next
    let lanes (c : Instr) (v : Vec) (f : W32 → W32 → W32 → W32) : Prop :=
      vreg c v (fun l => (f (e.v[v.a])[l] (e.v[v.b])[l] (e.v[v.c])[l], {}))
    let float (c : Instr) (v : Vec) (f : W32 → W32 → W32 → W32 × FlagSet) : Prop :=
      vreg c v (fun l => f (e.v[v.a])[l] (e.v[v.b])[l] (e.v[v.c])[l])
    let accs (c : Instr) (v : Vec) (d : Fin 4) (f : Fin 8 → Int) : Prop := s.issuesTo c i.val { v := v }
      { e with
        a := e.a.set d (Vector.ofFn (fun l => if on l then BitVec.ofInt 72 (f l) else (e.a[d])[l]))
        esr := flags (fun l => { aov := decide (f l < -(2 ^ 71) ∨ 2 ^ 71 - 1 < f l) }) } next
    let up (d : Fin 4) : Fin 16 := ⟨d.val, by omega⟩
    e.straight →
    s.issuesTo (.vnop i) i.val {} e next ∧
    (∀ d a b c : Fin 16,
      lanes (.vmov i d a wm) { op := .vmov, d, a, wm } (fun x _ _ => x) ∧
      lanes (.vaddq i d a b wm) { op := .vaddq, d, a, b, wm } (fun x y _ => sat (x.toInt + y.toInt)) ∧
      lanes (.vsubq i d a b wm) { op := .vsubq, d, a, b, wm } (fun x y _ => sat (x.toInt - y.toInt)) ∧
      lanes (.vmulq i d a b wm) { op := .vmulq, d, a, b, wm } (fun x y _ => sat (rhe (x.toInt * y.toInt) 31)) ∧
      lanes (.vabsq i d a wm) { op := .vabsq, d, a, wm } (fun x _ _ => sat x.toInt.natAbs) ∧
      lanes (.vminq i d a b wm) { op := .vminq, d, a, b, wm } (fun x y _ => BitVec.ofInt 32 (min x.toInt y.toInt)) ∧
      lanes (.vmaxq i d a b wm) { op := .vmaxq, d, a, b, wm } (fun x y _ => BitVec.ofInt 32 (max x.toInt y.toInt)) ∧
      lanes (.vand i d a b wm) { op := .vand, d, a, b, wm } (fun x y _ => x &&& y) ∧
      lanes (.vor i d a b wm) { op := .vor, d, a, b, wm } (fun x y _ => x ||| y) ∧
      lanes (.vxor i d a b wm) { op := .vxor, d, a, b, wm } (fun x y _ => x ^^^ y) ∧
      lanes (.vaddi i d a b wm) { op := .vaddi, d, a, b, wm } (fun x y _ => x + y) ∧
      float (.vaddf i d a b wm) { op := .vaddf, d, a, b, wm } (fun x y _ => fAdd x y) ∧
      float (.vsubf i d a b wm) { op := .vsubf, d, a, b, wm } (fun x y _ => fSub x y) ∧
      float (.vmulf i d a b wm) { op := .vmulf, d, a, b, wm } (fun x y _ => fMul x y) ∧
      float (.vfmaf i d a b c wm) { op := .vfmaf, d, a, b, c, wm } fFma ∧
      float (.vfnmf i d a b c wm) { op := .vfnmf, d, a, b, c, wm } (fun x y z => fFma (x ^^^ 0x80000000) y z) ∧
      float (.vminf i d a b wm) { op := .vminf, d, a, b, wm } (fun x y _ => fMinMax false x y) ∧
      float (.vmaxf i d a b wm) { op := .vmaxf, d, a, b, wm } (fun x y _ => fMinMax true x y) ∧
      float (.vabsf i d a wm) { op := .vabsf, d, a, wm } (fun x _ _ => fAbs x) ∧
      float (.vnegf i d a wm) { op := .vnegf, d, a, wm } (fun x _ _ => fNegOp x) ∧
      float (.vcvtqf i d a wm) { op := .vcvtqf, d, a, wm } (fun x _ _ => cvtQF x) ∧
      float (.vcvtfq i d a wm) { op := .vcvtfq, d, a, wm } (fun x _ _ => cvtFQ x)) ∧
    (∀ (d a : Fin 16) (imm : BitVec 18),
      lanes (.vaddk i d a imm wm) { op := .vaddk, d, a, imm, wm } (fun x _ _ => x + imm.signExtend 32)) ∧
    (∀ (d a : Fin 16) (n : BitVec 6), lanes (.vshq i d a n wm) { op := .vshq, d, a, imm := n.zeroExtend 18, wm } (fun x _ _ =>
      if 0 ≤ n.toInt then sat (x.toInt * 2 ^ n.toInt.toNat) else BitVec.ofInt 32 (rhe x.toInt (min 31 (-n.toInt).toNat)))) ∧
    (∀ (d a : Fin 16) (n : BitVec 3),
      vreg (.vbc i d a n wm) { op := .vbc, d, a, imm := n.zeroExtend 18, wm } (fun _ => ((e.v[a])[n.toNat]!, {})) ∧
      vreg (.vrot i d a n wm) { op := .vrot, d, a, imm := n.zeroExtend 18, wm } (fun l => ((e.v[a])[(l.val + n.toNat) % 8]!, {}))) ∧
    (∀ (d : Fin 16) (imm : BitVec 16),
      vreg (.vidx i d imm wm) { op := .vidx, d, imm := imm.zeroExtend 18, wm } (fun l => (BitVec.ofNat 32 (imm.toNat + l.val), {}))) ∧
    (∀ (d : Fin 4) (a b : Fin 16), let x (l : Fin 8) := ((e.v[a])[l]).toInt; let y (l : Fin 8) := ((e.v[b])[l]).toInt
      accs (.mpyq i d a b wm) { op := .mpyq, d := up d, a, b, wm } d (fun l => x l * y l) ∧
      accs (.macq i d a b wm) { op := .macq, d := up d, a, b, wm } d (fun l => ((e.a[d])[l]).toInt + x l * y l) ∧
      accs (.msuq i d a b wm) { op := .msuq, d := up d, a, b, wm } d (fun l => ((e.a[d])[l]).toInt - x l * y l) ∧
      accs (.aldq i d a wm) { op := .aldq, d := up d, a, wm } d (fun l => x l * 2 ^ 31) ∧
      accs (.aclr i d wm) { op := .aclr, d := up d, wm } d (fun _ => 0)) ∧
    (∀ d a : Fin 4,
      accs (.aadd i d a wm) { op := .aadd, d := up d, a := up a, wm } d (fun l => ((e.a[d])[l]).toInt + ((e.a[a])[l]).toInt) ∧
      (let sum : Int := ((List.finRange 8).map (fun l => if on l then ((e.a[a])[l]).toInt else 0)).sum
       s.issuesTo (.aredq i d a wm) i.val { v := { op := .aredq, d := up d, a := up a, wm } }
        { e with
          a := e.a.set d (Vector.replicate 8 (BitVec.ofInt 72 sum))
          esr := orFlags e.esr { aov := decide (sum < -(2 ^ 71) ∨ 2 ^ 71 - 1 < sum) } } next)) ∧
    (∀ (d : Fin 16) (a : Fin 4), nbit e.esr.toNat 31 = false →
      vreg (.amov i d a wm) { op := .amov, d, a := up a, wm } (fun l =>
        let r := rhe ((e.a[a])[l]).toInt (31 - max e.sc.toInt (-15)).toNat
        (sat r, { sat := decide (r < -(2 ^ 31) ∨ 2 ^ 31 - 1 < r) }))) ∧
    (∀ d a : Fin 16, let x (k : Fin 8) : W32 := if on k then (e.v[a])[k] else 0x80000000
      s.issuesTo (.vredf i d a wm) i.val { v := { op := .vredf, d, a, wm } }
        { e with
          v := e.v.set d (Vector.replicate 8
                   (fAdd (fAdd (fAdd (x 0) (x 1)).1 (fAdd (x 2) (x 3)).1).1 (fAdd (fAdd (x 4) (x 5)).1 (fAdd (x 6) (x 7)).1).1).1)
          esr := orFlags e.esr ([fAdd (x 0) (x 1), fAdd (x 2) (x 3), fAdd (x 4) (x 5), fAdd (x 6) (x 7),
                   fAdd (fAdd (x 0) (x 1)).1 (fAdd (x 2) (x 3)).1, fAdd (fAdd (x 4) (x 5)).1 (fAdd (x 6) (x 7)).1,
                   fAdd (fAdd (fAdd (x 0) (x 1)).1 (fAdd (x 2) (x 3)).1).1
                     (fAdd (fAdd (x 4) (x 5)).1 (fAdd (x 6) (x 7)).1).1].foldl (fun f r => f.or r.2) {}) } next)

/-- R191, R192, for signed Q1.31 and binary32 searches. -/
def Obligations.SearchSlots : Prop :=
  ∀ (s : State) (i : Fin 256) (wm : BitVec 8) (k : BitVec 2) (d : Fin 8),
    let e := s.eng i.val
    let next := e.pc + 1
    let on (l : Fin 8) : Bool := nbit wm.toNat l.val
    let lo : Fin 16 := ⟨2 * d.val, by omega⟩
    let hi : Fin 16 := ⟨2 * d.val + 1, by omega⟩
    let vals := e.v[lo]
    let idxs (l : Fin 8) : Nat := ((e.v[hi])[l]).toNat % 65536
    let flt := nbit k.toNat 0
    let lt (x y : W32) : Bool := if flt then fLt x y else decide (x.toInt < y.toInt)
    let eq (x y : W32) : Bool := if flt then fEq x y else x == y
    let better (x y : W32) : Bool := if nbit k.toNat 1 then lt y x else lt x y
    let part (l : Fin 8) : Bool := on l && idxs l != 65535
    let nans : Bool := flt && (List.finRange 8).any (fun l => part l && isNaN vals[l]) &&
      (List.finRange 8).any (fun l => (List.finRange 8).any (fun m => part l && part m && l != m))
    let all (v n : W32) : Engine :=
      { e with v := (e.v.set lo (Vector.replicate 8 v)).set hi (Vector.replicate 8 n), pc := next, skipHit := false }
    e.straight →
    s.issuesTo (.srinit i d k wm) i.val { v := { op := .srinit, d := lo, imm := k.zeroExtend 18, wm } }
      { e with
        v := (e.v.set lo (Vector.ofFn (fun l => if on l then 0x7FC00000 else vals[l]))).set hi
          (Vector.ofFn (fun l => if on l then 0x0000FFFF else (e.v[hi])[l])) } next ∧
    (∀ a b : Fin 16,
      let cand (l : Fin 8) : W32 := (e.v[a])[l]
      let ci (l : Fin 8) : Nat := ((e.v[b])[l]).toNat % 65536
      let takes (l : Fin 8) : Bool := on l && ci l != 65535 && !(flt && isNaN (cand l)) &&
        (idxs l == 65535 || better (cand l) vals[l] || (eq (cand l) vals[l] && decide (ci l < idxs l)))
      s.ready i.val { v := { op := .vsrch, d := lo, a, b, imm := k.zeroExtend 18, wm } } →
        Gives (.vsrch i d a b k wm) s (fun t =>
          t = s.setEng i.val (t.eng i.val) ∧ (t.eng i.val).s = e.s ∧ (t.eng i.val).a = e.a ∧ (t.eng i.val).pc = next ∧
          (∀ r : Fin 16, r ≠ lo → r ≠ hi → (t.eng i.val).v[r] = e.v[r]) ∧
          (∀ l : Fin 8, ((t.eng i.val).v[lo])[l] = (if takes l then cand l else vals[l]) ∧
            ((t.eng i.val).v[hi])[l] = (if takes l then BitVec.ofNat 32 (ci l) else (e.v[hi])[l])) ∧
          (t.eng i.val).esr = (if (List.finRange 8).any (fun l => on l && ci l != 65535 && flt && isSNaN (cand l)) then e.esr ||| 0x4000
            else e.esr))) ∧
    (s.ready i.val { v := { op := .vsred, d := lo, imm := k.zeroExtend 18, wm } } →
      (nans = false → (∀ l : Fin 8, part l = false) →
        Gives (.vsred i d k wm) s (fun t => t = s.setEng i.val (all (if flt then 0x7FC00000 else 0) 0xFFFF))) ∧
      (nans = false → ∀ l : Fin 8, part l = true →
        (∀ m : Fin 8, part m = true → m ≠ l → better vals[m] vals[l] = false ∧
          (eq vals[m] vals[l] = true → idxs l < idxs m ∨ (idxs l = idxs m ∧ l < m))) →
        Gives (.vsred i d k wm) s (fun t => t = s.setEng i.val (all vals[l] (BitVec.ofNat 32 (idxs l))))) ∧
      (nans = true → Gives (.vsred i d k wm) s (fun t => ∃ v n : W32, t = s.took.setEng i.val (all v n))))

/-- R160. A finite number stands for `F x` units of 2^-149. -/
def Obligations.Binary32Nearest : Prop :=
  let fin (x : W32) : Prop := fExp x ≠ 255
  let F (x : W32) : Int := fInt x * 2 ^ fPow x
  (∀ x y w : W32, fin x → fin y → fin w →
    (fin (fAdd x y).1 → (F (fAdd x y).1 - (F x + F y)).natAbs ≤ (F w - (F x + F y)).natAbs ∧
      (F w ≠ F (fAdd x y).1 → (F (fAdd x y).1 - (F x + F y)).natAbs = (F w - (F x + F y)).natAbs → nbit (fAdd x y).1.toNat 0 = false)) ∧
    (fin (fMul x y).1 → (F (fMul x y).1 * 2 ^ 149 - F x * F y).natAbs ≤ (F w * 2 ^ 149 - F x * F y).natAbs ∧
      (F w ≠ F (fMul x y).1 → (F (fMul x y).1 * 2 ^ 149 - F x * F y).natAbs = (F w * 2 ^ 149 - F x * F y).natAbs →
        nbit (fMul x y).1.toNat 0 = false))) ∧
  (∀ x y z w : W32, fin x → fin y → fin z → fin w → fin (fFma x y z).1 →
    (F (fFma x y z).1 * 2 ^ 149 - (F x * F y + F z * 2 ^ 149)).natAbs ≤ (F w * 2 ^ 149 - (F x * F y + F z * 2 ^ 149)).natAbs) ∧
  (∀ x y z : W32, ∀ r ∈ [fAdd x y, fSub x y, fMul x y, fFma x y z, fMinMax false x y, fMinMax true x y, fAbs x, fNegOp x],
    isNaN r.1 = true → r.1 = 0x7FC00000) ∧
  (∀ x y z : W32, (isSNaN x = true ∨ isSNaN y = true) →
    ∀ r ∈ [fAdd x y, fSub x y, fMul x y, fFma x y z, fMinMax false x y, fMinMax true x y], r.2.fi = true)

/-- R168, R171, R174, R175; R109 for the clock ratio. -/
def Obligations.EngineControl : Prop :=
  ∀ (s : State) (i : Fin 256),
    let e := s.eng i.val
    let to_ (c : Instr) (e' : Engine) : Prop := Gives c s (fun t => t = s.setEng i.val e')
    (s.winReaches i.val = true →
      (e.state = 1 → e.fault = false → to_ (.engCtlStart i) { e with state := 2 }) ∧
      (e.fault = true → to_ (.engCtlStart i) e) ∧
      (e.state = 2 → to_ (.engCtlStop i) { e with state := if e.locked then 4 else 1 }) ∧
      to_ (.clrFault i) { e with fault := false, cause := 0 } ∧
      (∀ pc : BitVec 11, to_ (.engStartWrite i pc) { e with startPc := pc, pc := if e.state = 1 then pc else e.pc }) ∧
      (∀ v : BitVec 56, to_ (.engSemaWrite i v) (if e.locked then { e with semaNext := some v } else { e with sema := v })) ∧
      to_ (.engWdogKick i) { e with count := e.load, expired := false } ∧
      (∀ (off : Fin 0x4C0) (n : Nat), (e.state = 2 ∨ e.state = 4) → Gives (.engStateAreaAccess i off (.read n)) s (fun t =>
        t = s.answer [] 3)) ∧
      (e.state = 1 → s.busFast i.val = false → ∀ r : Fin 16, ∀ h : 0x400 + 4 * r.val < 0x4C0,
        Gives (.engStateAreaAccess i ⟨0x400 + 4 * r.val, h⟩ (.read 4)) s (fun t =>
          t = (s.setEng i.val { e with busData := toBytes 4 (e.s[r]).toNat }).answer (toBytes 4 (e.s[r]).toNat))) ∧
      (e.state = 1 → ∀ (r : Fin 16) (d : List Byte), d.length = 4 → ∀ h : 0x400 + 4 * r.val < 0x4C0,
        Gives (.engStateAreaAccess i ⟨0x400 + 4 * r.val, h⟩ (.write d)) s (fun t =>
          t = (s.setEng i.val (t.eng i.val)).answer [] ∧ (t.eng i.val).s = e.s.set r (BitVec.ofNat 32 (ofBytes d)) ∧
          (t.eng i.val).v = e.v ∧ (t.eng i.val).a = e.a ∧ (t.eng i.val).pc = e.pc))) ∧
    (s.islActive i.val = true → s.engOut i.val = false → s.busSlow i.val = true →
      Gives (.engCtlStart i) s (fun t => t = s) ∧ Gives (.clrFault i) s (fun t => t = s)) ∧
    (s.keRuns i.val = true → to_ (.servicePortForce i) { e with forced := e.forced + 1 }) ∧
    (e.wdogEn = true → s.issues i.val = true → e.locked = false → e.haltPend = 0 → e.dmTraps = false → Table.wf (fun _ => ({} : Engine)) s.engines = true →
      (e.expired = false → e.trapEn = true → e.inTrap = false → to_ (.watchdogFirstExpiry i) { e with
        expired := true, count := e.load, tpc := e.pc, trapCause := 7, inTrap := true, pc := e.vec, skipHit := false }) ∧
      (e.expired = true → Gives (.watchdogHardStop i) s (fun t => t =
        (s.setEng i.val { e with state := 1, fault := true, cause := 7, count := 0 }).toCairn 0x14 (srcIsland i.val) sevMajor e.pc.toNat)))

/-! ### Trails and the package network (chapter 7) -/

/-- R212 as an invariant of opens; the table of trails is in canonical form. -/
def Obligations.AdmissionKeepsCaps : Prop :=
  ∀ (s : State) (w0 w1 w2 w3 : W64), s.regsWf → Table.wf (fun _ => ({} : Trail)) s.net.trails = true →
    let r := s.openTrail w0 w1 w2 w3
    ((∀ l, s.linkUnits l ≤ s.cap l ∧ s.linkBurst l ≤ s.bcap l) → ∀ l, r.2.2.linkUnits l ≤ s.cap l ∧ r.2.2.linkBurst l ≤ s.bcap l) ∧
    ((∀ v, s.credUsed v ≤ buffersOf v) → ∀ v, r.2.2.credUsed v ≤ buffersOf v) ∧
    (r.1 = 0 → (s.trail r.2.1).state = 0 ∧ r.2.1 < 0xFE0 ∧
      ((r.2.2.trail r.2.1).state = 1 ∨ (r.2.2.trail r.2.1).state = 2 ∨ (r.2.2.trail r.2.1).state = 3 ∨ (r.2.2.trail r.2.1).state = 4) ∧
      (r.2.2.trail r.2.1).src = nfield w0.toNat 31 16 ∧ (r.2.2.trail r.2.1).dst = nfield w0.toNat 47 32 ∧
      ∀ t, t ≠ r.2.1 → r.2.2.trail t = s.trail t) ∧
    (r.1 ≠ 0 → r.2.2 = s)

/-- R207, R209, R216, R223. -/
def Obligations.TrailDescriptors : Prop :=
  ∀ (s : State) (d : Desc), Table.wf (fun _ => ({} : Trail)) s.net.trails = true →
    let u := s.started d
    let r := u.openTrail d.w2 d.w3 d.w4 d.w5
    (s.mayStart d = true → d.opcode = 0x20 → d.zeroFrom 6 = true →
      (u.namesMoving d.w2 = false → Gives (.trailOpen d) s (fun t => t = r.2.2.opDone d r.1 (r.2.1 + (r.2.2.trail r.2.1).bound * 65536))) ∧
      (u.namesMoving d.w2 = true → Gives (.trailOpen d) s (fun t =>
        t = u.onNet (fun n => { n with aside := n.aside ++ [d] }) ∧ Gives (.trailOpenResume d) t (fun t' => t' = t)))) ∧
    (s.net.aside = [d] → s.namesMoving d.w2 = false →
      let v := s.onNet (fun n => { n with aside := [] })
      let q := v.openTrail d.w2 d.w3 d.w4 d.w5
      Gives (.trailOpenResume d) s (fun t => t = q.2.2.opDone d q.1 (q.2.1 + (q.2.2.trail q.2.1).bound * 65536))) ∧
    (s.mayStart d = true → d.opcode = 0x21 → d.only 2 0xFFF = true → d.zeroFrom 3 = true →
      let id := nfield d.w2.toNat 11 0
      (id < 0xFE0 → 1 ≤ (u.trail id).state → (u.trail id).state ≤ 4 → Gives (.trailClose d) s (fun t =>
        (t.trail id).state = 5 ∧ (t.trail id).closers = (u.trail id).closers ++ [d])) ∧
      ((0xFE0 ≤ id ∨ (u.trail id).state = 0) → Gives (.trailClose d) s (fun t => t = u.opDone d 1 0)) ∧
      (id < 0xFE0 → ((u.trail id).state = 1 ∨ (u.trail id).state = 3) → Gives (.trailClose d) s (fun t =>
        (t.trail id).state = 5 ∧ (t.trail id).closers = (u.trail id).closers ++ [d] ∧ (∀ k, k ≠ id → t.trail k = s.trail k) ∧
        t.mem = s.mem ∧ t.net.held = s.net.held))) ∧
    (∀ id : BitVec 12, (s.trail id.toNat).state = 5 → (s.trail id.toNat).closers = [] → s.net.held = [] →
      (s.trailBusy id.toNat = false → Gives (.trailCloseComplete id) s (fun t =>
        t.trail id.toNat = {} ∧ (∀ k, k ≠ id.toNat → t.trail k = s.trail k) ∧ t.mem = s.mem)) ∧
      Gives (.trailCloseTimeout id) s (fun t => t.trail id.toNat = {} ∧ (∀ k, k ≠ id.toNat → t.trail k = s.trail k) ∧ t.mem = s.mem)) ∧
    (∀ (tag : BitVec 16) (x : Txn) (i p : Nat), Table.wf (fun _ => (none : Option Txn)) s.net.txns = true →
      s.txn tag.toNat = some x → x.who = .port i p → x.trail < 4096 → x.op < 0x80 →
      (s.trail x.trail).state = 1 → vpCtx (s.trail x.trail).dst = false → vpClass (s.trail x.trail).dst = 0x0D →
      Gives (.requestTimeout tag) s (fun t => t.txn tag.toNat = none ∧ tag.toNat ∈ t.net.quarantine ∧ t.net.trails = s.net.trails ∧
        ∃ m : Msg, m.op = 0x8F ∧ m.status = 8 ∧ m.tag = tag ∧ t.net.rx = (s.toPort i p m).net.rx)) ∧
    (∀ tag : BitVec 16, tag.toNat ∈ s.net.quarantine → Gives (.tagQuarantineEnd tag) s (fun t =>
      t = { s with net := t.net } ∧ tag.toNat ∉ t.net.quarantine ∧ t.net.txns = s.net.txns))

/-- R202, R208, R211, R217. -/
def Obligations.MessageFlow : Prop :=
  ∀ (s : State), Table.wf (fun _ => ({} : Trail)) s.net.trails = true → Table.wf (fun _ => (none : Option Txn)) s.net.txns = true →
    Table.wf (fun _ => ([] : List Msg)) s.net.rx = true →
    (∀ (i : Fin 256) (p : Fin 2) (m : Msg), m.data.length ≤ 256 → s.islActive i.val = true → m.op.toNat < 0x80 →
      let tag := 64 * (2 * i.val + p.val) + m.tag.toNat % 64
      let m' : Msg := { m with
        tag := BitVec.ofNat 16 tag, ctx := BitVec.ofNat 10 (s.get (SWB_ISL_STAT.CTX i.val)), prov := false, poison := false }
      s.txn tag = none → tag ∉ s.net.quarantine → (p = 0 ∨ m.tag.toNat % 64 < 48) →
      (s.ingressCode (.port i.val p.val) m' = 0 → (s.trail m.trail.toNat).crcEn = false → Gives (.islandPortTxMessage i p m) s (fun t =>
        t = { s with net := t.net } ∧ t.net.held = s.net.held ++ [m'] ∧ t.net.trails = s.net.trails ∧ t.net.flight = s.net.flight ∧
        t.txn tag = some { trail := m.trail.toNat, op := m.op.toNat, addr := m.addr.toNat, len := m.len1.toNat + 1
                           who := .port i.val p.val, no := s.net.issueNo, start := s.now })) ∧
      (s.ingressCode (.port i.val p.val) m' ≠ 0 → Gives (.islandPortTxMessage i p m) s (fun t =>
        t.net.held = s.net.held ∧ t.txn tag = none ∧ t.mem = s.mem ∧
        ∃ q : Msg, q.op = 0x8F ∧ q.status.toNat = s.ingressCode (.port i.val p.val) m' ∧ t.net.rx = (s.toPort i.val p.val q).net.rx))) ∧
    (∀ (id : BitVec 12) (m : Msg), s.net.held = [m] → m.trail = id → s.mayRelease (s.trail id.toNat) m = true →
      Gives (.messageRelease id) s (fun t => t = { s with net := t.net } ∧ t.net.held = [] ∧
        t.net.flight = s.net.flight ++ [{ msg := m, age := s.now % 1024 }] ∧ (t.trail id.toNat).used = (s.trail id.toNat).used + 1)) ∧
    (∀ id : BitVec 12, s.unconsumed id.toNat < (s.trail id.toNat).used → Gives (.creditReturn id) s (fun t =>
      t = s.setTrail id.toNat { s.trail id.toNat with used := (s.trail id.toNat).used - 1 })) ∧
    (∀ (m : Msg) (i p : Nat), s.net.flight = [{ msg := m }] → s.host.pending = [] → m.ord = false → m.poison = false →
      (s.trail m.trail.toNat).crcEn = false → vpCtx (s.trail m.trail.toNat).dst = true → s.ctxPort (s.trail m.trail.toNat).dst = some (i, p) →
      s.get PWR_DIE_RUNG.CUR = 0 →
      ∀ c ∈ [(Instr.rd m.tag false, (0x01 : BitVec 8)), (.wr m.tag false {}, 0x02), (.msg m.tag 0 0, 0x03)], m.op = c.2 →
        Gives c.1 s (fun t => t = { s with net := t.net } ∧ t.net.flight = [] ∧ t.net.rx = (s.toPort i p m).net.rx)) ∧
    (∀ (m : Msg) (d b : Nat), d < 4 → b < 32 → s.net.flight = [{ msg := m }] → s.host.pending = [] → m.ord = false → m.poison = false →
      (s.trail m.trail.toNat).crcEn = false → (s.trail m.trail.toNat).dst = 0x0400 + 0x100 * d + b → s.get PWR_DIE_RUNG.CUR = 0 →
      m.op = 0x01 → m.len1 = 7 → m.addr.toNat % 8 = 0 → s.mem.rebuilding = [] →
      s.deepCode (s.callerOf m) d b m.addr.toNat 8 = 0 → s.quiet (m.addr.toNat / 8) →
      Gives (.rd m.tag false) s (fun t => t = { s with net := t.net } ∧ t.net.flight = [] ∧
        ∃ q : Msg, t.net.resp = s.net.resp ++ [{ msg := q, age := s.now % 1024 }] ∧ q.op = 0x81 ∧ q.tag = m.tag ∧ q.trail = m.trail ∧
          q.status = 0 ∧ q.data = toBytes 8 (s.rawWord (m.addr.toNat / 8)).toNat)) ∧
    (∀ (m : Msg) (x : Txn) (i p : Nat), s.net.resp = [{ msg := m }] → m.poison = false → (s.trail m.trail.toNat).crcEn = false →
      s.txn m.tag.toNat = some x → x.who = .port i p → m.prov = false →
      ∀ c ∈ [(Instr.rdrsp m.tag, (0x81 : BitVec 8)), (.wrack m.tag, 0x82), (.msgack m.tag, 0x83), (.allocrsp m.tag, 0x84),
          (.freersp m.tag, 0x85), (.err m.tag, 0x8F)], m.op = c.2 →
        Gives c.1 s (fun t => t = { s with net := t.net } ∧ t.net.resp = [] ∧ t.txn m.tag.toNat = none ∧
          t.net.rx = (s.toPort i p m).net.rx ∧ t.net.trails = s.net.trails)) ∧
    (∀ (m : Msg) (x : Txn) (i p : Nat), s.net.resp = [{ msg := m }] → m.poison = false → (s.trail m.trail.toNat).crcEn = false →
      s.txn m.tag.toNat = some x → x.who = .port i p → m.op = 0x8E → Table.wf (fun _ => ([] : List (BitVec 6 × Bool))) s.net.settle = true →
      Gives (.settle m.tag) s (fun t => t = { s with net := t.net } ∧ t.net.resp = [] ∧ t.txn m.tag.toNat = none ∧ t.net.rx = s.net.rx ∧
        t.net.settle.peek (fun _ => []) (2 * i + p) =
          s.net.settle.peek (fun _ => []) (2 * i + p) ++ [(m.tag.setWidth 6, m.status == 0)])) ∧
    (∀ (i : Fin 256) (p : Fin 2) (q m : Msg), m.data.length ≤ 256 → s.islActive i.val = true → 0x80 ≤ m.op.toNat →
      s.owes i.val p.val m = some q → m.badResponse = false → (s.trail m.trail.toNat).crcEn = false →
      Gives (.islandPortTxMessage i p m) s (fun t => t = { s with net := t.net } ∧ t.net.trails = s.net.trails ∧
        t.net.resp = s.net.resp ++ [{ msg := { m with prov := false, poison := false }, age := s.now % 1024 }] ∧
        t.net.rx.peek (fun _ => []) (2 * i.val + p.val) = (s.net.rx.peek (fun _ => []) (2 * i.val + p.val)).erase q)) ∧
    (∀ (at_ : BitVec 12) (f : Flight) (k : Fin 9) (data : BitVec 256) (side : W32) (check : BitVec 16),
      s.net.flight = [f] → k.val < f.msg.flits → flitCheck data side ≠ check.toNat → s.cairn.checks = [] →
      Gives (.flitForward at_ f.msg.tag false k data side check) s (fun t => t = { s with net := t.net } ∧
        ∃ g : Flight, t.net.flight = [g] ∧ g.msg.poison = true))

/-- R206, R224, R225, with the words of R204. The units of a system trail are those of R207. -/
def Obligations.TrailQueries : Prop :=
  ∀ (s : State) (v : W32), s.regsWf →
    let only (t : State) (l : List Nat) : Prop := t = { s with regs := t.regs } ∧ ∀ off, off ∉ l → t.reg off = s.reg off
    Gives (.trlTqSelWrite v) s (fun t =>
      let id := nfield v.toNat 11 0
      let x := s.trail id
      let f (k hi lo : Nat) : Nat := nfield (t.get (TRL_TQ_W.WORD k)) hi lo
      only t [0x10040, 0x10048, 0x10050, 0x10058, 0x10060] ∧ t.get TRL_TQ_SEL.TRAIL_ID = id ∧
      (id < 0xFE0 → x.state = 0 → ∀ k < 4, t.get (TRL_TQ_W.WORD k) = 0) ∧
      (0xFE0 ≤ id → id < 0xFE4 → s.sysState (id - 0xFE0) = 1 → f 0 63 52 = id ∧ f 0 50 48 = 1 ∧ f 0 5 5 = 1 ∧ f 1 63 57 = 32 ∧ f 1 56 50 = 32) ∧
      (id < 0xFE0 → 0 < x.state → x.state < 8 → x.dst < 65536 → x.src < 65536 → x.owner < 1024 → x.bePrio < 4 →
        x.fu < 128 → x.ru < 128 → x.fb < 128 → x.rb < 128 → x.srcBrg < 4 → x.dstBrg < 4 → x.cred < 32 → x.bound < 4096 →
        x.nr < 32 → x.nh < 16 → x.nb < 4 → x.bmax < 128 → x.sbUsed < 2 → x.dbUsed < 2 → x.winBase < 2 ^ 36 → x.winLog2 < 64 →
        (f 0 63 52 = id ∧ f 0 51 51 = bit x.assign ∧ f 0 50 48 = x.state ∧ f 0 47 32 = x.dst ∧ f 0 31 16 = x.src ∧ f 0 15 6 = x.owner ∧
          f 0 5 5 = bit x.reserved ∧ f 0 4 4 = bit x.crcEn ∧ f 0 3 2 = x.bePrio ∧ f 0 1 1 = bit x.demoted ∧ f 0 0 0 = 0) ∧
        (f 1 63 57 = x.fu ∧ f 1 56 50 = x.ru ∧ f 1 49 43 = x.fb ∧ f 1 42 36 = x.rb ∧ f 1 35 34 = x.srcBrg ∧ f 1 33 32 = x.dstBrg ∧
          f 1 31 27 = x.cred ∧ f 1 26 0 = 0) ∧
        (f 2 63 52 = x.bound ∧ f 2 51 47 = x.nr ∧ f 2 46 43 = x.nh ∧ f 2 42 41 = x.nb ∧ f 2 40 34 = x.bmax ∧ f 2 33 33 = x.sbUsed ∧
          f 2 32 32 = x.dbUsed ∧ f 2 31 0 = 0) ∧
        (f 3 63 28 = x.winBase ∧ f 3 27 22 = x.winLog2 ∧ f 3 21 0 = 0))) ∧
    Gives (.trlLqSelWrite v) s (fun t =>
      let l := lqLink (nfield v.toNat 15 13) (nfield v.toNat 12 7) (nfield v.toNat 6 3) (nfield v.toNat 2 0 + 8 * s.get TRL_LQ_RES.LQ_HI)
      only t [0x10020, 0x10028] ∧ t.get TRL_LQ_SEL.DIE = nfield v.toNat 15 13 ∧ t.get TRL_LQ_SEL.ROUTER = nfield v.toNat 12 7 ∧
      t.get TRL_LQ_SEL.OUT = nfield v.toNat 6 3 ∧ t.get TRL_LQ_SEL.LINK = nfield v.toNat 2 0 ∧
      t.get TRL_LQ_RES.LQ_HI = s.get TRL_LQ_RES.LQ_HI ∧
      (l = none → t.get TRL_LQ_RES.CAP = 0 ∧ t.get TRL_LQ_RES.UNITS = 0 ∧ t.get TRL_LQ_RES.BURST = 0) ∧
      (∀ k, l = some k → s.cap k < 2048 → s.linkUnits k < 2048 → s.linkBurst k < 128 →
        t.get TRL_LQ_RES.CAP = s.cap k ∧ t.get TRL_LQ_RES.UNITS = s.linkUnits k ∧ t.get TRL_LQ_RES.BURST = s.linkBurst k)) ∧
    Gives (.trlPmapQWrite v) s (fun t =>
      let vp := nfield v.toNat 15 0
      let ok := if vpCtx vp then s.registered (vpCtxId vp) else vpFixedOk vp
      only t [0x10030, 0x10034] ∧ t.get TRL_PMAP_Q.VPID = vp ∧ t.get TRL_PMAP_S.VALID = bit ok ∧
      (ok = false → t.get TRL_PMAP_Q.PPORT = 0) ∧
      (ok = true → s.pmapState vp = 0 → s.physPort vp < 65536 → t.get TRL_PMAP_Q.PPORT = s.physPort vp ∧ t.get TRL_PMAP_S.STATE = 0) ∧
      (ok = true → 0 < s.pmapState vp → s.pmapState vp < 4 → t.get TRL_PMAP_Q.PPORT = 0 ∧ t.get TRL_PMAP_S.STATE = s.pmapState vp)) ∧
    Gives (.trlCntClr v) s (fun t =>
      if nbit v.toNat 0 then
        only t (0x10180 :: (List.range 16).map (fun k => 0x10104 + 4 * k)) ∧
        (∀ k, 1 ≤ k → k ≤ 16 → t.get (TRL_ERR_CNT.COUNT k) = 0) ∧ t.get TRL_LATE_CNT.COUNT = 0
      else t = s)

/-! ### Contexts and deep memory (chapter 8) -/

/-- R232, R235, R251. `q` is the machine in which the descriptor has been numbered as a request. -/
def Obligations.ContextDescriptors : Prop :=
  ∀ (s : State) (d : Desc), s.mayStart d = true →
    let u := s.started d
    let q := u.onSwb (fun w => { w with seq := w.seq + 1 })
    (d.opcode = 0x28 → d.only 2 (bitsHL 47 0) = true → d.f 2 47 47 = 1 → d.only 3 (bitsHL 44 0 + bitsHL 55 48) = true →
      d.zeroFrom 4 = true →
      let c := d.f 3 41 32
      let v := d.f 3 44 42
      ∀ (read : ImageRead), read.cfgs.all IslandCfg.legal = true →
      u.hostCode (d.f 2 47 0) (d.f 3 31 0) = 0 →
      let img := imageOf read.bytes read.cfgs read.hashOk read.sigOk
      let go (P : State → Prop) : Prop := Gives (.ctxRegister d read 0) s P
      (∀ rd : BitVec 8, rd ≠ 0 → Gives (.ctxRegister d read rd) s (fun t => t = u.endDesc d rd.toNat 0 0)) ∧
      ((c = 0x3FF ∨ (u.image c v).isSome = true ∨ (u.swb.images.any (fun r => r.ctx == c) = true ∧ d.f 3 55 48 ≠ (u.ctx c).group)) →
        go (fun t => t = u.opDone d 2 0)) ∧
      (c ≠ 0x3FF → u.registered c = false → u.swb.images.length < 4096 →
        (u.badImage img (d.f 3 31 0) = true → go (fun t => t = u.opDone d 1 0)) ∧
        (u.badImage img (d.f 3 31 0) = false → u.makeRoom img.bytes 4097 = none → go (fun t => t = u.opDone d 7 0)) ∧
        (∀ (a : Nat) (room : State), u.badImage img (d.f 3 31 0) = false → img.trails = [] →
          u.makeRoom img.bytes 4097 = some (a, room) →
          let w := (room.storeWrite a (read.bytes.take img.imageLen.toNat)).onSwb (fun w => { w with
            images := w.images ++ [{ ctx := c, variant := v, img := img, addr := a }] })
          (w.ctx c).state = 8 → go (fun t => t = ((w.setCtx c { w.ctx c with
              state := 0, prio := img.prio.toNat, restore := img.restore.toNat, group := d.f 3 55 48, boot := false
              quantumUs := img.quantumUs.toNat, quiesceUs := img.quiesceTmoUs.toNat, quota := img.deepQuota.toNat
            }).countCtxs).opDone d 0 0))) ∧
      (c ≠ 0x3FF → (u.ctx c).boot = false → u.swb.images.any (fun r => r.ctx == c) = true → u.image c v = none →
        d.f 3 55 48 = (u.ctx c).group → u.swb.images.length < 4096 → u.badImage img (d.f 3 31 0) = false →
        ∀ (a : Nat) (room : State), u.makeRoom img.bytes 4097 = some (a, room) →
          let w := (room.storeWrite a (read.bytes.take img.imageLen.toNat)).onSwb (fun w => { w with
            images := w.images ++ [{ ctx := c, variant := v, img := img, addr := a }] })
          go (fun t => t = w.countCtxs.opDone d 0 0))) ∧
    (d.opcode = 0x2B → d.only 2 (bitsHL 9 0 + bitsHL 20 16 + bitsHL 26 24 + bitsHL 29 28) = true → d.only 4 (bitsHL 31 0) = true →
      d.zeroFrom 5 = true →
      let c := d.f 2 9 0
      let on (k : Nat) : Bool := nbit (d.f 2 20 16) k
      c ≠ 0x3FF → u.registered c = true →
      ((s.ctx c).busy = false → Gives (.ctxPolicy d) s (fun t => t = (q.modCtx c (fun x => { x with
        prio := if on 0 then d.f 2 26 24 else x.prio, restore := if on 1 then d.f 2 29 28 else x.restore
        quantumUs := if on 2 then d.f 3 31 0 else x.quantumUs, quiesceUs := if on 3 then d.f 3 63 32 else x.quiesceUs
        quota := if on 4 then d.f 4 31 0 else x.quota })).endDesc d 0 0 0)) ∧
      ((s.ctx c).busy = true → Gives (.ctxPolicy d) s (fun t => t = q.modCtx c (fun x => { x with
        queue := x.queue ++ [{ ctx := c, kind := 7, desc := some d, seq := s.swb.seq }] })))) ∧
    (d.opcode = 0x2C → d.only 2 (bitsHL 9 0) = true → d.only 3 (bitsHL 47 0) = true → d.f 3 47 47 = 1 → d.zeroFrom 4 = true →
      let c := d.f 2 9 0
      ∀ table : List W64, c ≠ 0x3FF → u.registered c = true → (s.ctx c).busy = false → u.hostCode (d.f 3 47 0) 128 = 0 →
      ((s.ctx c).state = 4 → ((∃ p ∈ numbered (q.islandsOf c), q.clockRange ((table[p.1]?).getD 0).toNat = true) ∨
        q.joinClash (q.islandsOf c) table = true) → Gives (.ctxClock d table 0) s (fun t => t = q.opDone d 6 0)) ∧
      ((s.ctx c).state ≠ 4 → Gives (.ctxClock d table 0) s (fun t => t = q.opDone d 2 0)) ∧
      ((s.ctx c).state = 4 → (∀ p ∈ numbered (q.islandsOf c), q.clockRange ((table[p.1]?).getD 0).toNat = false) →
        q.joinClash (q.islandsOf c) table = false → Gives (.ctxClock d table 0) s (fun t =>
          t = (q.forAll (numbered (q.islandsOf c)) (fun p s =>
            (s.applySetting p.2 ((table[p.1]?).getD 0)).gateClocks p.2 (s.rungAt p.2))).opDone d 0 0))) ∧
    (d.opcode = 0x29 → d.only 2 (bitsHL 9 0) = true → d.zeroFrom 3 = true →
      let c := d.f 2 9 0
      c ≠ 0x3FF → u.registered c = true → (s.ctx c).state = 0 → Table.wf (fun _ => ({} : Context)) s.swb.ctxs = true →
      Gives (.ctxUnregister d) s (fun t => t.registered c = false ∧ (t.ctx c).placed = false ∧ (∀ g, t.ownerOf g ≠ c + 1) ∧
        (∀ p ∈ t.swb.pages, p.space ≠ c) ∧ ∀ r ∈ s.swb.images, r.ctx ≠ c → r ∈ t.swb.images))

/-- R235, R240, R243. -/
def Obligations.ContextRequests : Prop :=
  (∀ (s : State) (d : Desc), s.mayStart d = true → d.opcode = 0x2A → d.only 2 requestMask = true → d.only 3 1 = true →
    (d.f 2 3 0 ≠ 2 → d.w3 = 0) → d.zeroFrom 4 = true →
    let c := d.f 2 25 16
    let u := s.started d
    let q := u.onSwb (fun w => { w with seq := w.seq + 1 })
    let r : LoadReq := { requestOf d.w2 false (some d) none with seq := s.swb.seq }
    c ≠ 0x3FF → u.registered c = true → s.regsWf → Table.wf (fun _ => ({} : Context)) s.swb.ctxs = true →
    Table.wf (fun _ => ({} : Island)) s.isl = true →
    (d.f 2 3 0 = 1 → (s.ctx c).state = 4 → Gives (.ctxLoad d) s (fun t =>
      let v := q.modCtx c (fun x => { x with lastUse := s.now, pinned := x.pinned || r.pin })
      t = v.opDone d 0 (v.ctxArg c))) ∧
    (d.f 2 3 0 = 1 → (s.ctx c).state < 2 → r.anyVar = false → (u.image c r.variant).isSome = true → q.heldBack c = false → r.victim = 0x3FF →
      (∀ x : SiteAt, q.choose r = .now x → Gives (.ctxLoad d) s (fun t => (t.ctx c).state = 3 ∧ (t.ctx c).variant = x.variant ∧
        (t.ctx c).die = x.die ∧ (t.ctx c).ax = x.ax ∧ (t.ctx c).ay = x.ay ∧ t.islandsOf c ≠ [] ∧
        ∀ i ∈ t.islandsOf c, s.islState i = 0 ∧ s.placeable i = true ∧ t.islState i = 1 ∧ t.get (SWB_ISL_STAT.CTX i) = c)) ∧
      (q.choose r = .wait → s.swb.queue.length < 256 → r.noWait = false → Gives (.ctxLoad d) s (fun t => (t.ctx c).state = 2 ∧
        (∃ w ∈ t.swb.queue, w.ctx = c ∧ w.victims = []) ∧ t.isl = s.isl ∧ t.mem = s.mem ∧ t.net = s.net)) ∧
      (q.choose r = .wait → r.noWait = true → Gives (.ctxLoad d) s (fun t =>
        let v := (q.unqueue c).modCtx c (fun x => { x with waiting := false, state := x.rest })
        t = v.opDone d 3 (v.ctxArg c)))) ∧
    (d.f 2 3 0 = 2 → (s.ctx c).state = 4 → (s.ctx c).pinned = true → Gives (.ctxEvict d) s (fun t => t = q.opDone d 4 (q.ctxArg c))) ∧
    (d.f 2 3 0 = 2 → (s.ctx c).state = 4 → (s.ctx c).pinned = false → ∀ (i : Nat) (is : List Nat), s.islandsOf c = i :: is →
      Gives (.ctxEvict d) s (fun t => (t.ctx c).state = 5 ∧ (t.island i).qreq = true ∧
        (∀ j ∈ i :: is, t.islState j = 4) ∧ (∀ j, j ≠ i → t.island j = s.island j) ∧ t.engines = s.engines ∧ t.mem = s.mem)) ∧
    (d.f 2 3 0 = 2 → (s.ctx c).state = 0 → Gives (.ctxEvict d) s (fun t => t = q.opDone d 0 (q.ctxArg c))) ∧
    (d.f 2 3 0 = 3 → (s.ctx c).state = 4 → Gives (.ctxPin d) s (fun t =>
      let v := q.modCtx c (fun x => { x with pinned := true })
      t = v.opDone d 0 (v.ctxArg c))) ∧
    (d.f 2 3 0 = 4 → (s.ctx c).busy = false → Gives (.ctxUnpin d) s (fun t =>
      let v := q.modCtx c (fun x => { x with pinned := false })
      t = v.opDone d 0 (v.ctxArg c)))) ∧
  (∀ (s : State), s.swb.queue = [] → Gives .queuedLoadStart s (fun t => t = s)) ∧
  (∀ (s : State) (r : LoadReq) (x : SiteAt), s.swb.queue = [r] → (s.ctx r.ctx).state = 2 → r.victims = [] → s.choose r = .now x →
    Table.wf (fun _ => ({} : Context)) s.swb.ctxs = true →
    Gives .queuedLoadStart s (fun t => (t.ctx r.ctx).state = 3 ∧ t.swb.queue = [] ∧ (t.ctx r.ctx).variant = x.variant))

/-- R244, R246, R249, R250. -/
def Obligations.ContextMoves : Prop :=
  ∀ (s : State) (c : BitVec 10), s.regsWf → Table.wf (fun _ => ({} : Context)) s.swb.ctxs = true →
    Table.wf (fun _ => ({} : Island)) s.isl = true → Table.wf (fun _ => ({} : Engine)) s.engines = true →
    let n := c.toNat
    let x := s.ctx n
    (∀ (i : Nat) (is : List Nat), s.islandsOf n = i :: is → x.state = 5 → x.acked = false → x.victimOf = none →
      (Gives (.qack c) s (fun t => (t.ctx n).pmap = 1 ∧ (t.ctx n).acked = true ∧ (t.ctx n).state = 5 ∧ (t.island i).qack = true ∧
        t.engines = s.engines)) ∧
      (∀ w : LoadReq, x.evict = some w → w.kind = 1 → w.force = false → x.quiesceUs ≠ 0 → x.queue = [] →
        s.get SWB_QTMO.COUNT < 2 ^ 32 - 1 → Gives (.quiesceTimeout c) s (fun t => (t.ctx n).state = 4 ∧ (t.ctx n).evict = none ∧
        (∀ j ∈ i :: is, t.islState j = 3 ∧ (t.island j).qreq = false) ∧ t.get SWB_QTMO.COUNT = s.get SWB_QTMO.COUNT + 1))) ∧
    (x.state = 5 → x.pmap = 1 → x.victimOf = none →
      let ends (P : State → Prop) : Prop := Gives (.drainTimeout c) s P ∧ (s.undrained n = false → Gives (.drainComplete c) s P)
      ((∀ r, s.image n x.variant = some r → nbit r.img.flags.toNat 0 = true) → (s.image n x.variant).isSome = true → x.saves = true →
        ends (fun t => (t.ctx n).state = 6 ∧ s.swapJob n ∈ t.swb.portJobs ∧
          ∀ i ∈ s.islandsOf n, t.islState i = 5 ∧ (t.eng i).state = 0)) ∧
      (x.saves = false → x.queue = [] → (∀ w : LoadReq, x.evict = some w → w.kind = 1) → ends (fun t => (t.ctx n).state = 0 ∧
        (t.ctx n).placed = false ∧ (t.ctx n).pmap = 2 ∧ ∀ i ∈ s.islandsOf n, t.get (SWB_ISL_STAT.CTX i) = 0x3FF))) ∧
    (x.state = 6 → s.jobRuns (s.swapJob n) = true → x.queue = [] → x.victimOf = none → (∀ w : LoadReq, x.evict = some w → w.kind = 1) →
      ∀ r, s.image n x.variant = some r → (s.saveAll r.img (numbered (s.islandsOf n))).2.1 = false →
      Gives (.readbackComplete c) s (fun t => (t.ctx n).state = 1 ∧ (t.ctx n).placed = false ∧
        (t.ctx n).saved = some { variant := x.variant, islands := (s.saveAll r.img (numbered (s.islandsOf n))).1 } ∧
        t.jobRuns (s.swapJob n) = false)) ∧
    (∀ (k : Fin 16) (i : Nat) (imgBad slotBad : List (BitVec 42)), x.state = 3 → s.jobRuns (s.swapJob n) = true → (s.islandsOf n)[k.val]? = some i → k.val ∉ x.written →
      ((s.imageBad n imgBad).1 = true → Gives (.islandLoadComplete c k imgBad slotBad) s (fun t => t = ((s.imageBad n imgBad).2.onSwb (fun w => { w with
        images := w.images.filter (fun r => !(r.ctx == n && r.variant == x.variant)) })).failLoad n 1)) ∧
      (s.imageBad n imgBad = (false, s) → x.restoring = false → Gives (.islandLoadComplete c k imgBad slotBad) s (fun t =>
        (t.ctx n).written = x.written ++ [k.val] ∧ t.islState i = 2 ∧ (t.island i).cfg = s.framesFor n k.val i ∧
        ∀ j, j ≠ i → t.island j = s.island j))) ∧
    (x.state = 3 → x.written.length = (s.islandsOf n).length → x.queue = [] →
      (∀ p ∈ numbered (s.islandsOf n), s.clockRange (((s.ctxClocks n)[p.1]?).getD 0).toNat = false) → Gives (.contextRelease c) s (fun t =>
        (t.ctx n).state = 4 ∧ (t.ctx n).pmap = 0 ∧ (t.ctx n).releasedAt = s.now ∧
        ∀ i ∈ s.islandsOf n, t.islState i = 3 ∧ (t.island i).gsr = false)) ∧
    (∀ (d : Fin 4) (job : PortJob), s.swb.portJobs = [job] → job.die = d.val → (∀ k ∈ s.swb.portRun, k.die ≠ d.val) →
      s.dieAsleep d.val = false →
      (if job.rank = 1 ∧ job.ctx = 0x3FF then s.presence d.val = .rejoining else s.dieGone d.val = false) → Gives (.configPortJobStart d) s (fun t =>
        t = s.onSwb (fun w => { w with portJobs := [], portRun := job :: s.swb.portRun }))) ∧
    (x.state = 7 → x.waiting = true → (x.restore = 1 ∨ x.restore = 2) → Gives (.rejoinWaitExpiry c) s (fun t =>
      (t.ctx n).waiting = false ∧ (t.ctx n).state < 4)) ∧
    (∀ v : W32, v.toNat % 1024 = n → x.state < 16 → x.prio < 8 → x.restore < 4 → x.group < 256 → x.quota < 131072 → x.variant < 8 → x.anchor < 256 →
      (s.swb.owners.filter (fun p => p.2 == n + 1)).length < 131072 → Gives (.swbCtxSelWrite v) s (fun t => t = { s with regs := t.regs } ∧
      (∀ off, off ≠ 0x20100 → off ≠ 0x20108 → t.reg off = s.reg off) ∧
      t.get SWB_CTX_SEL.CTX = n ∧ t.get SWB_CTX_INFO.STATE = x.state ∧ t.get SWB_CTX_INFO.PRIO = x.prio ∧
      t.flag SWB_CTX_INFO.PINNED = x.pinned ∧ t.get SWB_CTX_INFO.RESTORE = x.restore ∧ t.get SWB_CTX_INFO.GROUP = x.group ∧
      t.get SWB_CTX_INFO.QUOTA = x.quota ∧ t.get SWB_CTX_INFO.USED = (s.swb.owners.filter (fun p => p.2 == n + 1)).length ∧
      t.get SWB_CTX_INFO.ANCHOR = (if x.placed then x.anchor else 0) ∧ (x.placed = true → t.get SWB_CTX_INFO.VARIANT = x.variant))) ∧
    (∀ v : W32, Gives (.swbCntClr v) s (fun t => t = { s with regs := t.regs } ∧
      (∀ off, off ∉ [0x20200, 0x20204, 0x20208, 0x2020C, 0x20210] → t.reg off = s.reg off) ∧
      (nbit v.toNat 0 = false → t = s) ∧ (nbit v.toNat 0 = true → t.get SWB_SWAPS.COUNT = 0 ∧ t.get SWB_QTMO.COUNT = 0 ∧
        t.get SWB_PG_FAULTS.COUNT = 0 ∧ t.get SWB_PG_MIGS.COUNT = 0 ∧ t.get SWB_PG_ERR.COUNT = 0)))

/-- R253 to R259. -/
def Obligations.DeepMemoryAndPages : Prop :=
  (∀ (s : State) (c n sel die : Nat) (home : Option Nat), 0 < n → Table.wf (fun _ => 0) s.swb.owners = true →
    let r := s.allocate c n sel die home
    (r.1 = 0 → c ≠ 0x3FF ∧ s.registered c = true ∧ r.2.1 % 512 + n ≤ 512 ∧ s.bankReserved (r.2.1 / 512) = false ∧
      s.granulesOf c + n ≤ (s.ctx c).quota ∧ r.2.2.granulesOf c = s.granulesOf c + n ∧
      (∀ g, (r.2.1 ≤ g ∧ g < r.2.1 + n → s.ownerOf g = 0 ∧ r.2.2.ownerOf g = c + 1) ∧
        (¬ (r.2.1 ≤ g ∧ g < r.2.1 + n) → r.2.2.ownerOf g = s.ownerOf g)) ∧
      ∀ a, r.2.2.byteAt a = (if granuleAt r.2.1 ≤ a ∧ a < granuleAt r.2.1 + n * 4096 then 0 else s.byteAt a)) ∧
    (r.1 ≠ 0 → r.2.2 = s)) ∧
  (∀ (s : State) (d : Desc), s.mayStart d = true →
    let u := s.started d
    let c := d.f 2 9 0
    (d.opcode = 0x2D → d.only 2 (bitsHL 9 0 + bitsHL 29 16) = true → d.zeroFrom 3 = true → Gives (.alloc (.host d)) s (fun t =>
      let r := u.allocate c (d.f 2 24 16 + 1) (d.f 2 27 26) (d.f 2 29 28) (if (s.ctx c).placed then some (s.ctx c).die else none)
      t = if r.1 = 0 then r.2.2.endDesc d 0 0 (granuleAt r.2.1) else u.endDesc d 0x0D r.1 0)) ∧
    (d.opcode = 0x2E → d.only 2 (bitsHL 9 0 + bitsHL 24 16) = true → d.only 3 (bitsHL 47 0) = true → d.zeroFrom 4 = true →
      c ≠ 0x3FF → u.registered c = true → d.f 3 47 0 % 4096 = 0 → inDeep (d.f 3 47 0) = true → Gives (.free (.host d)) s (fun t =>
      let g := (d.f 3 47 0 - deepBase) / 4096
      let n := d.f 2 24 16 + 1
      t = if (List.range n).all (fun k => s.ownerOf (g + k) == c + 1) then (u.own g n 0).endDesc d 0 0 0
        else u.endDesc d 0x0D 3 0)) ∧
    (d.opcode = 0x30 → d.only 2 (bitsHL 13 0 + bitsHL 63 32) = true → d.pageRange = true → d.only 4 (bitsHL 47 0) = true →
      d.zeroFrom 5 = true → hostBase ≤ d.f 4 47 0 →
      let z := pageSize (d.f 2 10 10 == 1)
      let k := d.f 2 63 32
      d.f 4 47 0 + k * z ≤ 2 ^ 48 → u.spaceOk c = true →
      let new : List Page := (List.range k).map (fun j => { space := c, dva := d.f 3 47 0 + j * z, big := d.f 2 10 10 == 1, loc := 2
                                                            pin := d.f 2 13 12 == 3, rclass := d.f 2 13 12, w := d.f 2 11 11 == 1
                                                            dev := false, addr := d.f 4 47 0 + j * z, backing := d.f 4 47 0 + j * z })
      let v := u.onSwb (fun w => { w with pages := w.pages ++ new })
      let meets (p : Page) : Bool := p.space == c && spansMeet (d.f 3 47 0) (d.f 3 47 0 + k * z) p.dva (p.dva + p.size)
      ((∀ p ∈ u.swb.pages, p.valid = true ∧ meets p = false) →
        (∀ r : State, v.syncTables = some r → Gives (.map d) s (fun t => t = r.showMaps.opDone d 0 0 ∧ t.swb.pages = s.swb.pages ++ new)) ∧
        (v.syncTables = none → Gives (.map d) s (fun t => t = u.opDone d 7 0))) ∧
      (∀ p ∈ u.swb.pages, p.valid = true → meets p = true → Gives (.map d) s (fun t => t = u.endDesc d stOverlap 0 0))) ∧
    (d.opcode = 0x32 → d.only 2 (bitsHL 15 0 + bitsHL 63 32) = true → d.pageRange = true → d.zeroFrom 4 = true → u.spaceOk c = true →
      (∀ p ∈ u.swb.pages, p.dev = false) → Gives (.pagePolicy d) s (fun t => t = (u.modPages d.covers (fun p => { p with
        rclass := if d.f 2 15 15 = 1 then d.f 2 13 12 else p.rclass
        pin := if d.f 2 15 15 = 1 ∧ d.f 2 13 12 = 3 then true else if d.f 2 14 14 = 1 then d.f 2 11 11 == 1 else p.pin })).showMaps.opDone d 0 0)) ∧
    (d.opcode = 0x31 → d.only 2 (bitsHL 10 0 + bitsHL 15 15 + bitsHL 63 32) = true → d.pageRange = true → d.zeroFrom 4 = true →
      u.spaceOk c = true → (∀ p ∈ u.swb.pages, d.covers p = true → p.d = false ∧ p.loc = 2) → Gives (.unmap d) s (fun t =>
        (∀ p ∈ t.swb.pages, d.covers p = false) ∧ (∀ p ∈ s.swb.pages, p.valid = true → d.covers p = false → p ∈ t.swb.pages) ∧
        t.engines = s.engines ∧ t.isl = s.isl ∧ t.swb.owners = s.swb.owners))) ∧
  (∀ (s : State) (m : Msg), s.net.flight = [{ msg := m }] → m.poison = false → m.ord = false → (s.trail m.trail.toNat).crcEn = false →
    (s.trail m.trail.toNat).dst = 0x0D00 →
    let v := s.onNet (fun n => { n with flight := [] })
    let p := m.operand.toNat
    let home := (s.ctxPort (s.trail m.trail.toNat).src).map (fun q => dieOf q.1)
    let a := v.allocate m.ctx.toNat (nfield p 8 0 + 1) (nfield p 11 10) (nfield p 13 12) home
    let f := v.freeDeep m.ctx.toNat (nfield p 8 0 + 1) m.addr.toNat
    (m.op = 0x04 → Gives (.alloc (.msg m.tag)) s (fun t =>
      t = (if a.1 = 0 then a.2.2.respond m 0x84 0 [] (BitVec.ofNat 96 (nfield p 8 0 + a.2.1 / 16384 * 2 ^ 12 +
        a.2.2.quotaLeft m.ctx.toNat * 2 ^ 32)) (granuleAt a.2.1) else v.respond m 0x8F 0x0D [] (BitVec.ofNat 96 a.1)))) ∧
    (m.op = 0x05 → Gives (.free (.msg m.tag)) s (fun t =>
      t = (if f.1 = 0 then f.2.respond m 0x85 0 [] (BitVec.ofNat 96 (f.2.quotaLeft m.ctx.toNat * 2 ^ 32))
        else v.respond m 0x8F 0x0D [] (BitVec.ofNat 96 f.1))))) ∧
  (∀ (s : State) (mig : Migration) (p : Page), s.swb.migrations = [mig] → s.swb.pages = [p] → p.valid = true → p.space = mig.space →
    p.dva = mig.dva → p.loc = 3 → p.big = false → mig.space < 1024 → mig.dva < 2 ^ 48 → mig.srcLoc = 1 → mig.dstLoc = 1 → s.swb.unmaps = [] →
    (s.load mig.srcAddr 65536).2.1 = false → Gives (.pageMigrationComplete (BitVec.ofNat 10 mig.space) (BitVec.ofNat 48 mig.dva) true []) s (fun t =>
      t.swb.migrations = [] ∧ t.swb.pages = [{ p with loc := 1, addr := mig.dstAddr, a := true }] ∧
      t.net.flight = mig.held.map (fun q => { msg := q }) ++ s.net.flight))

/-! ### HBM and inline encryption (chapter 9) -/

/-- R276: AES-256 in XTS mode and the CMAC tag, as the encryption stage applies them. -/
def Obligations.EncryptedLineRoundTrip : Prop :=
  ∀ (s : State) (line slot epoch : Nat) (data : List Byte), (s.slotKey slot).length = 96 → data.length = 64 →
    line < 2 ^ 64 → epoch < 2 ^ 32 →
    let c := s.sealLine line slot epoch data
    c.1.length = 64 ∧ c.2.length = 8 ∧ s.openLine line slot epoch c.1 c.2 = (data, true) ∧
    ∀ tag : List Byte, tag ≠ c.2 → (s.openLine line slot epoch c.1 tag).2 = false

/-- R265, R266, R268 to R271. -/
def Obligations.HbmControllers : Prop :=
  ∀ (s : State) (st : Fin 2) (pc : Fin 32), s.regsWf → s.cairn.checks = [] →
    let p := pcNo st pc
    let k := st.val
    (∀ (r : HbmReq), s.hbm.queue = [r] → r.pc = p → r.retries = 0 → s.hbmUp k = true → s.mayIssue r = true →
      (r.msg.op = 0x01 → s.hbm.batch = [] → r.msg.len1 = 7 → r.msg.addr.toNat % 8 = 0 → s.hbmCheck r.msg.addr.toNat 8 = 0 →
        s.lineForm (r.msg.addr.toNat / 64) = .plain → s.wordState (r.msg.addr.toNat / 8) = .clean → s.mem.merge = [] →
        s.mem.rebuilding = [] → Table.wf (fun _ => 0) s.hbm.rows = true →
        Gives (.hbmRequestIssue st { pc := pc }) s (fun t => t.hbm.queue = [] ∧ t.mem = s.mem ∧ t.cry = s.cry ∧
          t.net = (s.respond r.msg opRDRSP 0 (toBytes 8 (s.rawWord (r.msg.addr.toNat / 8)).toNat)).net ∧
          t.hbm.rows.peek (fun _ => 0) (bankKey p r.msg.addr.toNat) = r.msg.addr.toNat / 1024 + 1)) ∧
      (r.msg.op = 0x01 → s.hbm.batch = [] → s.hbmCheck r.msg.addr.toNat r.msg.len = 0 →
        Gives (.hbmRequestIssue st { pc := pc, odecc := true }) s (fun t => t.hbm.queue = [] ∧ t.mem = s.mem ∧ t.net = (s.respond r.msg opERR 4).net)) ∧
      (r.promoted = false → Gives (.requestPromotion st pc) s (fun t =>
        t = s.onHbm (fun h => { h with queue := [{ r with promoted := true }] }))) ∧
      (r.msg.op = 0x02 → s.hbm.batch = [] → Gives (.writeBatchStart st pc) s (fun t => t = s.onHbm (fun h => { h with batch := [p] }))) ∧
      (r.msg.op = 0x02 → ∀ took : Bool, Gives (.hbmWriteParityError st pc took) s (fun t =>
        t.hbm.queue = [{ r with retries := 1 }] ∧ t.mem = s.mem ∧ t.net = s.net)) ∧
      (r.msg.op = 0x01 → Gives (.hbmReadParityError st pc) s (fun t =>
        t.hbm.queue = [{ r with retries := 1 }] ∧ t.mem = s.mem ∧ t.net = s.net)) ∧
      (r.msg.op = 0x01 → s.hbm.batch = [] → Gives (.hbmCaParityError st pc [false]) s (fun t =>
        t.hbm.queue = [] ∧ t.mem = s.mem ∧ t.net = (s.respond r.msg opERR 15).net))) ∧
    (s.hbmUp k = true → ∀ bank : BitVec 10, Gives (.perBankRefresh st pc bank) s (fun t =>
      t = { s with hbm := t.hbm } ∧ t.hbm.queue = s.hbm.queue ∧ (Table.wf (fun _ => 0) s.hbm.rows = true →
        t.hbm.rows.peek (fun _ => 0) (1024 * p + bank.toNat) = 0))) ∧
    (s.get (HBM_STAT.STATE k) ≠ 0 → ∀ temp : BitVec 8, Gives (.hbmTempRead st temp) s (fun t =>
      t = { s with regs := t.regs, hbm := t.hbm } ∧ t.get (HBM_STAT.TEMP k) = temp.toNat ∧
      t.flag (HBM_STAT.HOT k) = decide (85 < temp.toInt) ∧ t.get (HBM_STAT.STATE k) = s.get (HBM_STAT.STATE k))) ∧
    (s.hbmUp k = true → s.get HBM_POL.TRAIN_MS ≠ 0 → s.hbm.rotNext.peek (fun _ => 0) k = pc.val →
      Table.wf (fun _ => 0) s.hbm.rotNext = true →
      (Gives (.periodicTrainingStep st 0) s (fun t => t.hbm.rotNext.peek (fun _ => 0) k = (pc.val + 1) % 32 ∧ t = { s with hbm := t.hbm })) ∧
      (s.pcRetired p = false → p ∉ s.hbm.retiring → Gives (.periodicTrainingStep st 2) s (fun t =>
        t.flag (HBM_STAT.TRAIN_FAIL k) = true ∧ t.hbm.retiring = s.hbm.retiring ++ [p] ∧
        nbit (t.get (HBM_PC_REQ.RETIRE k)) pc.val = true))) ∧
    (s.get (HBM_STAT.STATE k) = 1 → s.hbm.record = [] → Gives (.hbmTrainingComplete st (Vector.replicate 32 0)) s (fun t =>
      t.get (HBM_STAT.STATE k) = 2 ∧ t.get (HBM_STAT.RETIRED k) = 0 ∧ t.mem = s.mem)) ∧
    (Gives .hbmLogClear s (fun t => t.get HBM_LOG_CTL.VALID = 0 ∧ t.get HBM_LOG_CTL.OVF = 0 ∧ t = { s with regs := t.regs, hbm := t.hbm } ∧
      ∀ e < 64, t.reg (HBM_LOG.ENTRY e).addr = 0)) ∧
    (∀ v : W32, Gives (.hbmPcReq st v) s (fun t => t = { s with regs := t.regs, hbm := t.hbm } ∧
      ∀ q, q ∈ t.hbm.retiring ↔ q ∈ s.hbm.retiring ∨ (q / 32 = k ∧ nbit v.toNat (q % 32) = true ∧ s.pcRetired q = false))) ∧
    (s.hbm.retiring = [p] → s.swb.pages = [] → s.swb.images = [] → s.swb.tables = [] → s.swb.migrations = [] → s.get (HBM_STAT.RETIRED k) < 32 →
      ∀ img sav tab : List (BitVec 42), Gives (.pcRetireComplete st pc img sav tab) s (fun t => t.hbm.retiring = [] ∧ nbit (t.get (HBM_PC_RET.RETIRED k)) pc.val = true ∧
        nbit (t.get (HBM_PC_REQ.RETIRE k)) pc.val = false ∧ p ∈ t.hbm.record ∧
        t.get (HBM_STAT.RETIRED k) = s.get (HBM_STAT.RETIRED k) + 1)) ∧
    (∀ n < 96768, hbmPc (2 ^ 18 * n) = (n % 32) ^^^ (n / 32 % 32))

/-- R281, R284. -/
def Obligations.KeysAndRanges : Prop :=
  (∀ (s : State) (d : Desc), s.mayStart d = true → s.regsWf →
    let u := s.started d
    let n := d.f 2 3 0
    let slot := d.f 2 12 8
    (d.opcode = 0x38 → d.only 2 (bitsHL 4 0) = true → d.only 3 (bitsHL 47 0) = true → d.f 3 47 47 = 1 → d.f 3 2 0 = 0 → d.zeroFrom 4 = true →
      ∀ blob : List Byte, u.hostCode (d.f 3 47 0) 104 = 0 →
      (∀ rd : BitVec 8, rd ≠ 0 → Gives (.keyLoad d blob rd) s (fun t => t = u.endDesc d rd.toNat 0 0)) ∧
      (s.cry.kwk ≠ [] → u.slotInUse (d.f 2 4 0) = false →
        kwUnwrap (s.cry.kwk.map (fun b => b.toNat)) 12 (blob.map (fun b => b.toNat)) = none → Gives (.keyLoad d blob 0) s (fun t =>
        t = (u.toCairn 0x17 (srcSaddle 4) sevMajor (d.f 2 4 0)).opDone d 4 0)) ∧
      (s.cry.kwk = [] → Gives (.keyLoad d blob 0) s (fun t => t = u.opDone d 7 0)) ∧
      (s.cry.kwk ≠ [] → u.slotInUse (d.f 2 4 0) = true → Gives (.keyLoad d blob 0) s (fun t => t = u.opDone d 5 0)) ∧
      (∀ key : List Nat, s.cry.kwk ≠ [] → u.slotInUse (d.f 2 4 0) = false →
        kwUnwrap (s.cry.kwk.map (fun b => b.toNat)) 12 (blob.map (fun b => b.toNat)) = some key → Gives (.keyLoad d blob 0) s (fun t =>
        t = (u.setSlot (d.f 2 4 0) (key.map (fun b => BitVec.ofNat 8 b))).opDone d 0 0))) ∧
    (d.opcode = 0x39 → d.only 2 (bitsHL 4 0) = true → d.zeroFrom 3 = true → Gives (.keyZero d) s (fun t =>
      t = if u.slotInUse (d.f 2 4 0) then u.opDone d 5 0 else (u.setSlot (d.f 2 4 0) []).opDone d 0 0)) ∧
    (d.opcode = 0x3A → d.only 2 (bitsHL 12 0 + bitsHL 30 16) = true → (d.f 2 7 6 = 1 ∨ d.f 2 7 6 = 2) → d.only 3 (bitsHL 47 21) = true →
      d.only 4 (bitsHL 47 18) = true → d.zeroFrom 5 = true →
      (s.rngState n ≠ 0 → Gives (.rangeEnable d) s (fun t => t = u.opDone d 3 0)) ∧
      (s.rngState n = 0 → u.badRange n (d.f 2 4 4 == 1) (d.f 3 47 0) (d.f 2 30 16 * 0x200000) (d.f 4 47 0) = true →
        Gives (.rangeEnable d) s (fun t => t = u.opDone d 1 0)) ∧
      (s.rngState n = 0 → u.badRange n (d.f 2 4 4 == 1) (d.f 3 47 0) (d.f 2 30 16 * 0x200000) (d.f 4 47 0) = false →
        s.slotLoaded slot = true → s.cry.queue.length < 16 → Gives (.rangeEnable d) s (fun t => t.rngState n = 1 ∧
          t.rngBase n = d.f 3 47 0 ∧ t.treeline n = d.f 3 47 0 ∧ t.get (CRY_RNG_CTL.EPOCH n) = 1 ∧ t.get (CRY_RNG_CTL.SLOT n) = slot ∧
          t.slotInUse slot = true ∧ t.cry.queue = s.cry.queue ++ [{ range := n }] ∧ t.mem = s.mem ∧
          ∀ m, m ≠ n → m < 16 → t.rngState m = s.rngState m ∧ t.treeline m = s.treeline m))) ∧
    (d.opcode = 0x3B → d.only 2 (bitsHL 3 0 + bitsHL 12 8) = true → d.zeroFrom 3 = true →
      (s.rngState n ≠ 2 → Gives (.rekey d) s (fun t => t = u.opDone d 3 0)) ∧
      (s.rngState n = 2 → s.slotLoaded slot = true → slot ≠ s.get (CRY_RNG_CTL.SLOT n) → s.get (CRY_RNG_CTL.EPOCH n) < 0xFFFFFFFF →
        s.cry.queue.length < 16 → Gives (.rekey d) s (fun t => t.rngState n = 3 ∧ t.get (CRY_RNG_CTL.OLD_SLOT n) = s.get (CRY_RNG_CTL.SLOT n) ∧
          t.get (CRY_RNG_CTL.SLOT n) = slot ∧ t.get (CRY_RNG_CTL.EPOCH n) = s.get (CRY_RNG_CTL.EPOCH n) + 1 ∧
          t.treeline n = s.rngBase n ∧ t.cry.queue = s.cry.queue ++ [{ range := n }] ∧ t.mem = s.mem))) ∧
    (d.opcode = 0x3C → d.only 2 (bitsHL 3 0 + bitsHL 7 6) = true → (d.f 2 7 6 = 1 ∨ d.f 2 7 6 = 2) → d.zeroFrom 3 = true →
      (s.rngState n = 0 → Gives (.rangeDisable d) s (fun t => t = u.opDone d 3 0)) ∧
      (s.rngState n = 2 → s.cry.queue.length < 16 → Gives (.rangeDisable d) s (fun t => t.rngState n = 4 ∧
        t.get (CRY_RNG_CTL.CONV n) = d.f 2 7 6 ∧ t.treeline n = s.rngBase n ∧ t.mem = s.mem))) ∧
    (d.opcode = 0x3D → d.only 2 (bitsHL 3 0 + bitsHL 5 5) = true → d.zeroFrom 3 = true →
      (s.rngState n ≠ 2 → Gives (.rangeMode d) s (fun t => t = u.opDone d 3 0)) ∧
      (s.rngState n = 2 → Gives (.rangeMode d) s (fun t => t = (u.put (CRY_RNG_CTL.VERIFY_FIRST n) (d.f 2 5 5)).opDone d 0 0)))) ∧
  (∀ (s : State), s.regsWf → let n := s.get CRY_CTL.RKY_RANGE
    (∀ (j : ConvJob) (rest : List ConvJob), s.cry.queue = j :: rest → j.range < 16 → s.flag CRY_CTL.RKY_BUSY = false → s.rngState j.range ≠ 0 → j.off = false →
      Gives .conversionStart s (fun t => t.cry.queue = rest ∧ t.flag CRY_CTL.RKY_BUSY = true ∧ t.get CRY_CTL.RKY_RANGE = j.range ∧
        t.rngState j.range = s.rngState j.range ∧ t.mem = s.mem)) ∧
    (s.flag CRY_CTL.RKY_BUSY = true → s.treeline n < s.rngEnd n → s.rangeReady n = true → s.rngState n = 1 → s.get (CRY_RNG_CTL.CONV n) = 1 →
      s.flag (CRY_RNG_BASE.HOST n) = false → s.pcRetired (pcOf (s.treeline n)) = false → Gives (.lineConversion [] []) s (fun t =>
        t = (s.putConverted n (s.treeline n / 64) (List.replicate 64 0) false).setTree n (s.treeline n + 64))) ∧
    (s.flag CRY_CTL.RKY_BUSY = true → s.rngEnd n ≤ s.treeline n → Gives .conversionComplete s (fun t => t.flag CRY_CTL.RKY_BUSY = false ∧
      t.rngState n = (if s.rngState n = 4 then 0 else 2) ∧ t.mem = s.mem)) ∧
    (∀ v : Verdict, s.cry.verdicts = [v] → (v.ok = true → Gives (.tagVerdict v.msg.tag) s (fun t =>
        t = (s.onCry (fun c => { c with verdicts := [] })).respond v.msg opSETTLE 0)) ∧
      (v.ok = false → Gives (.tagVerdict v.msg.tag) s (fun t =>
        t = ((((s.onCry (fun c => { c with verdicts := [] })).respond v.msg opSETTLE 5)).errCount 5).authAlarm (v.dpa / 64) v.msg.trail.toNat))) ∧
    (s.flag CRY_ARL_STAT.KEYED = true →
      let other (t : State) : Prop := t.get CRY_ARL_STAT.KEY_ID = 1 - s.get CRY_ARL_STAT.KEY_ID ∧
        t = { s with regs := t.regs, cry := { s.cry with arlSent := 0, arlSince := s.now }, free := t.free }
      (2 ^ 40 ≤ s.arlUsed → Gives .areteKeyUpdate s (fun t => other t ∧ t.free = s.free)) ∧
      (s.arlUsed < 2 ^ 40 → Gives .areteKeyUpdate s (fun t => (other t ∨ t = s.took) ∧ t.free = s.free + 1))) ∧
    (s.flag CRY_ARL_STAT.KEYED = false → Gives .areteKeyUpdate s (fun t => t = s)) ∧
    (s.cry.arlOld = true → Gives .areteOldKeyExpiry s (fun t => t = { s with cry := { s.cry with arlOld := false } })) ∧
    (∀ k : Fin 2, s.flag (CRY_IDE_STAT.SECURE k.val) = true → Gives (.ideCheckFail k) s (fun t => t.flag (CRY_IDE_STAT.SECURE k.val) = false ∧
      t.get (CRY_IDE_STAT.CHECK_FAIL k.val) = min 65535 (s.get (CRY_IDE_STAT.CHECK_FAIL k.val) + 1) ∧ t.host.aer = s.host.aer + 1 ∧
      k.val ∈ t.host.ideShut)) ∧
    (∀ (k : Fin 2) (sub : Fin 6) (set : Bool) (a : IdeAssoc), Table.wf (fun _ => ({} : IdeAssoc)) s.host.ide = true →
      Table.wf (fun _ => false) s.host.ideSets = true → Gives (.keySetGo { stream := k, sub := sub } { kset := set, assoc := a }) s (fun t =>
      t = { s with regs := t.regs, host := t.host } ∧ t.flag (CRY_IDE_STAT.SECURE k.val) = true ∧ t.flag (CRY_IDE_STAT.KSET k.val) = set ∧
      k.val ∉ t.host.ideShut ∧ t.host.ide.peek (fun _ => {}) k.val = a ∧ t.host.ideSets.peek (fun _ => false) (8 * k.val + sub.val) = set)))

/-! ### The host interface (chapter 10) -/

/-- R301 to R308, R322. What a posted event does is `State.post`; the turn of a ring is `State.ringTurn` (assumption log 82). -/
def Obligations.RingsAndDoorbells : Prop :=
  ∀ (s : State) (r : Fin 256), s.regsWf → Table.wf (fun _ => ([] : List Slot)) s.host.slots = true →
    Table.wf (fun _ => 0) s.host.fetching = true →
    let k := r.val
    let n := s.ringSize k
    let st := s.ringState k
    let q := s.get (HIF_RING_CFG.EQ k)
    let base := s.get (HIF_RING_BASE.BASE k) * 64
    let ctl := (HIF_RING_CTL.ENABLE k).addr
    let head := (HIF_RING_HEAD.INDEX k).addr
    let tail := (HIF_RING_TAIL.INDEX k).addr
    let stat := (HIF_RING_STAT.STATE k).addr
    let same (t : State) (l : List Nat) : Prop := t = { s with regs := t.regs, host := t.host } ∧ t.host.mem = s.host.mem ∧
      t.host.msix = s.host.msix ∧ ∀ off, off ∉ l → t.reg off = s.reg off
    let fault (u : State) (why : Nat) (t : State) : Prop := t.ringState k = 3 ∧ t.get (HIF_RING_STAT.ERR_WHY k) = why ∧
      t = ((u.setRingState k 3).put (HIF_RING_STAT.ERR_WHY k) why).post 0x0101 (k + why * 256)
    let rcd (d : Desc) (status result arg : Nat) : Rec := { queue := q, compl := true, w1 := d.w1, w2 := BitVec.ofNat 64 arg, ring := k, index := d.index.toNat, code := d.opcode, result := result, status := status, irq := nbit d.w0.toNat 10 }
    (∀ (v : W32) (whole : Bool) (rest : List Desc), s.barUp = false → ∀ c ∈ [(Instr.ringEnable r), (Instr.ringDisable r), (Instr.ringResume r),
      (Instr.ringFlush r rest), (Instr.ringDoorbell r v whole), (Instr.hifCntClr v)], Gives c s (fun t => t = s)) ∧
    (s.barUp = true → st = 0 → s.flag HIF_STAT.READY = true →
      (base % min (64 * n) 4096 = 0 → Gives (.ringEnable r) s (fun t => same t [ctl, head, tail, stat, 0x54] ∧ t.ringState k = 1 ∧
        t.get (HIF_RING_CTL.ENABLE k) = 1 ∧ t.get (HIF_RING_HEAD.INDEX k) = 0 ∧ t.get (HIF_RING_TAIL.INDEX k) = 0 ∧
        t.get (HIF_RING_STAT.ERR_WHY k) = 0 ∧ t.host.slots = s.host.slots ∧ t.host.recs = s.host.recs)) ∧
      (base % min (64 * n) 4096 ≠ 0 → Gives (.ringEnable r) s (fun t => t.get (HIF_RING_HEAD.INDEX k) = 0 ∧
        t.get (HIF_RING_TAIL.INDEX k) = 0 ∧ fault (((((s.put (HIF_RING_CTL.ENABLE k) 1).put (HIF_RING_HEAD.INDEX k) 0).put
          (HIF_RING_TAIL.INDEX k) 0).put (HIF_RING_STAT.ERR_WHY k) 0).onHost (fun x => { x with fetching := x.fetching.poke (fun _ => 0) k 0 })) 5 t))) ∧
    (s.barUp = true → (st ≠ 0 ∨ s.flag HIF_STAT.READY = false) → Gives (.ringEnable r) s (fun t => t = s)) ∧
    (∀ v : W32, s.barUp = true →
      let u := if s.flag PWR_CTL.DB_WAKE = true then s.wake else s
      let p := s.ringPending k
      let p' := s.ringCount k v.toNat
      ((st = 1 ∨ st = 2) → v.toNat < 2 * n → p ≤ p' → p' ≤ n → Gives (.ringDoorbell r v true) s (fun t =>
        t = { u with regs := t.regs, host := { u.host with bells := u.host.bells.poke (fun _ => 0) k v.toNat } } ∧ (∀ off, off ≠ tail → t.reg off = u.reg off) ∧
        t.get (HIF_RING_TAIL.INDEX k) = v.toNat ∧ t.ringPending k = p' ∧ t.ringState k = st)) ∧
      ((st = 1 ∨ st = 2) → (v.toNat ≥ 2 * n ∨ p' > n ∨ p' < p) → Gives (.ringDoorbell r v true) s (fun t =>
        fault u (if v.toNat ≥ 2 * n then 3 else if p' > n then 1 else 2) t ∧ t.get (HIF_RING_TAIL.INDEX k) = s.get (HIF_RING_TAIL.INDEX k) ∧
        t.host.slots = s.host.slots)) ∧
      (∀ whole : Bool, (st = 0 ∨ st = 3 ∨ st = 4 ∨ whole = false) → Gives (.ringDoorbell r v whole) s (fun t => t = u.bump HIF_DB_DROP.COUNT))) ∧
    (let m := s.host.fetching.peek (fun _ => 0) k
     let h := s.get (HIF_RING_HEAD.INDEX k)
     (st = 1 → s.ringsAdmit = true → m < s.ringPending k → s.ringAhead k < 8 → s.ringTurn k = true → s.hostOut < 4096 →
       Gives (.descriptorFetch r) s (fun t => t = s.onHost (fun x => { x with fetching := t.host.fetching, turns := t.host.turns }) ∧
         t.host.fetching.peek (fun _ => 0) k = m + 1)) ∧
     ((st ≠ 1 ∨ s.ringsAdmit = false ∨ s.ringPending k ≤ m ∨ 8 ≤ s.ringAhead k) → Gives (.descriptorFetch r) s (fun t => t = s)) ∧
     (∀ d : Desc, d.ring = r → d.index.toNat = h → 0 < m →
       (s.host.linkUp = true → s.badCommon d = false → (∀ x ∈ s.slots k, s.badCommon x.desc = false) →
         Gives (.descriptorReadComplete d true) s (fun t => same t [head, stat] ∧ t.get (HIF_RING_HEAD.INDEX k) = (h + 1) % (2 * n) ∧
           t.slots k = s.slots k ++ [{ desc := d }] ∧ t.ringState k = st ∧ t.host.recs = s.host.recs ∧
           t.host.fetching.peek (fun _ => 0) k = m - 1)) ∧
       (s.host.linkUp = true → s.badCommon d = true → s.slots k = [] → st = 1 → s.eqOn q = true → s.eqFill q + s.eqWaiting q < s.eqSize q →
         Gives (.descriptorReadComplete d true) s (fun t => same t [head, stat] ∧ t.get (HIF_RING_HEAD.INDEX k) = (h + 1) % (2 * n) ∧
           t.slots k = [] ∧ t.ringState k = (if s.ringType k = 0 then 2 else 1) ∧ t.host.recs = s.host.recs ++ [rcd d 0x20 0 0])) ∧
       (∀ ok : Bool, (ok = false ∨ s.host.linkUp = false) → Gives (.descriptorReadComplete d ok) s (fun t =>
         fault (s.onHost (fun x => { x with fetching := x.fetching.poke (fun _ => 0) k 0 })) 4 t ∧
         t.get (HIF_RING_HEAD.INDEX k) = h ∧ t.slots k = s.slots k)))) ∧
    (s.barUp = true → st ≠ 0 → Gives (.ringDisable r) s (fun t => same t [ctl, stat, 0x54] ∧ t.ringState k = 4 ∧ t.get (HIF_RING_CTL.ENABLE k) = 0 ∧
      t.slots k = (s.slots k).filter (fun x => x.started) ∧ t.host.recs = s.host.recs)) ∧
    (s.barUp = true → st = 0 → Gives (.ringDisable r) s (fun t => t = s)) ∧
    (st = 4 → s.slots k = [] → Gives (.ringStopComplete r) s (fun t => same t [stat, 0x54] ∧ t.ringState k = 0 ∧ t.host = s.host)) ∧
    (s.barUp = true → st = 2 → (∀ x ∈ s.slots k, s.badCommon x.desc = false) → Gives (.ringResume r) s (fun t => same t [stat, 0x54] ∧
      t.ringState k = 1 ∧ t.host = s.host)) ∧
    (s.barUp = true → st ≠ 2 → ∀ rest : List Desc, Gives (.ringResume r) s (fun t => t = s) ∧ Gives (.ringFlush r rest) s (fun t => t = s)) ∧
    (∀ rest : List Desc, s.barUp = true → st = 2 → (∀ x ∈ s.slots k, x.desc.ring = r ∧ (x.started = true → x.done.isSome = true)) →
      rest.length = s.ringPending k →
      (∀ p ∈ numbered rest, p.2.ring = r ∧ p.2.index.toNat = (s.get (HIF_RING_HEAD.INDEX k) + p.1) % (2 * n)) →
      s.eqOn q = true → Gives (.ringFlush r rest) s (fun t => same t [head, stat, 0x54] ∧ t.ringState k = 1 ∧
        t.get (HIF_RING_HEAD.INDEX k) = s.get (HIF_RING_TAIL.INDEX k) ∧ t.slots k = [] ∧
        t.host.recs = s.host.recs ++ (s.slots k).flatMap (fun x => match x.done with
          | some y => if y.1 = 0 ∧ nbit x.desc.w0.toNat 8 = false then [] else [rcd x.desc y.1 y.2.1 y.2.2]
          | none => [rcd x.desc 0x24 0 0]) ++ rest.map (fun d => rcd d 0x24 0 0))) ∧
    (∀ d : Desc, s.mayStart d = true → d.opcode = 0 →
      Gives (.nopDescriptor d) s (fun t => t = (s.started d).endDesc d 0 0 0) ∧
      (s.slots k = [{ desc := d }] → d.ring = r → s.eqOn q = true → s.eqFill q + s.eqWaiting q < s.eqSize q → Gives (.nopDescriptor d) s (fun t =>
        same t [stat] ∧ t.slots k = [] ∧ t.ringState k = st ∧
        t.host.recs = s.host.recs ++ if nbit d.w0.toNat 8 = true then [rcd d 0 0 0] else []))) ∧
    (∀ v : W32, s.barUp = true → Gives (.hifCntClr v) s (fun t => same t [0xA0, 0xA4, 0xA8] ∧ t.host = s.host ∧ (fieldOf v 0 0 = 0 → t = s) ∧
      (fieldOf v 0 0 = 1 → t.get HIF_DB_DROP.COUNT = 0 ∧ t.get HIF_EVT_DROP.COUNT = 0 ∧ t.get HIF_BAR4_ERR.COUNT = 0)))

/-- R309 to R312, R300. `roleReceiver` names the receivers of STREAM_OUT, `vpCtx` the sources of STREAM_IN. -/
def Obligations.DataDescriptors : Prop :=
  (∀ (s : State) (d : Desc) (tag : Nat), s.mayStart d = true → s.jobTag d = some tag →
    let u := s.started d
    let a := d.f 4 47 0
    let whole := [(d.f 3 47 0, d.len)]
    let two := d.only 2 (bitsHL 63 32 + bitsHL 27 16 + bitsHL 11 0) && d.only 3 (bitsHL 47 0) && d.only 4 (bitsHL 47 0)
    let ends (c : Instr) (status result : Nat) : Prop := Gives c s (fun t => t = u.endDesc d status result 0)
    let dstOut := (u.trail d.dstTrail).admits a d.len == false
    let dstPages := u.rangePages d.dstTrail a d.len true
    (∀ x ∈ [(Instr.copy d, 1, d.zeroFrom 5, roleMemory, roleMemory), (Instr.streamOut d, 4, d.segOk && d.zeroFrom 6, roleMemory, roleReceiver),
        (Instr.streamIn d, 5, d.segOk && d.zeroFrom 6, vpCtx, roleMemory)], d.opcode = x.2.1 →
      let fields := two && x.2.2.1
      let bad := u.badTrail d.srcTrail x.2.2.2.1 || u.badTrail d.dstTrail x.2.2.2.2
      let out := (u.trail d.srcTrail).admits (d.f 3 47 0) d.len == false || dstOut
      let srcPages := u.rangePages d.srcTrail (d.f 3 47 0) d.len false
      (fields = false → ends x.1 0x20 0) ∧
      (fields = true → d.len = 0 → ends x.1 0x22 0) ∧
      (fields = true → d.len ≠ 0 → bad = true → ends x.1 0x21 0) ∧
      (fields = true → d.len ≠ 0 → bad = false → out = true → ends x.1 0x23 0) ∧
      (fields = true → d.len ≠ 0 → bad = false → out = false → srcPages ≠ 0 → ends x.1 0x0C srcPages) ∧
      (fields = true → d.len ≠ 0 → bad = false → out = false → srcPages = 0 → dstPages ≠ 0 → ends x.1 0x0C dstPages) ∧
      (fields = true → d.len ≠ 0 → bad = false → out = false → srcPages = 0 → dstPages = 0 →
        Gives x.1 s (fun t => t = u.jobGo d { tag := tag, src := whole, wild := u.overlaps d whole }))) ∧
    (d.opcode = 2 →
      let fields := d.only 2 (bitsHL 63 32 + bitsHL 27 16) && d.only 3 0 && d.only 4 (bitsHL 47 0) && d.zeroFrom 6
      let bad := u.badTrail d.dstTrail roleMemory
      (fields = false → ends (.fill d) 0x20 0) ∧
      (fields = true → d.len = 0 → ends (.fill d) 0x22 0) ∧
      (fields = true → d.len ≠ 0 → bad = true → ends (.fill d) 0x21 0) ∧
      (fields = true → d.len ≠ 0 → bad = false → dstOut = true → ends (.fill d) 0x23 0) ∧
      (fields = true → d.len ≠ 0 → bad = false → dstOut = false → dstPages ≠ 0 → ends (.fill d) 0x0C dstPages) ∧
      (fields = true → d.len ≠ 0 → bad = false → dstOut = false → dstPages = 0 →
        Gives (.fill d) s (fun t => t = u.jobGo d { tag := tag }))) ∧
    (d.opcode = 3 → ∀ (e : List (BitVec 128)) (ok : Bool),
      let n := d.f 5 12 0
      let fields := two && d.f 3 3 0 == 0 && d.only 5 (bitsHL 12 0) && 1 ≤ n && n ≤ 4096 && d.zeroFrom 6
      let bad := u.badTrail d.srcTrail roleMemory || u.badTrail d.dstTrail roleMemory
      let unread := !ok || !s.host.linkUp || e.length < n
      let rsv := (e.take n).any (fun y => nfield y.toNat 63 48 != 0 || nfield y.toNat 127 96 != 0)
      let src := (e.take n).map (fun y => (nfield y.toNat 47 0, nfield y.toNat 95 64))
      let wrong := src.any (fun p => p.2 == 0) || (src.map (fun p => p.2)).sum != d.len
      let out := src.any (fun p => (u.trail d.srcTrail).admits p.1 p.2 == false) || dstOut
      let pages := ((src.map (fun p => u.rangePages d.srcTrail p.1 p.2 false)).find? (fun c => c != 0)).getD dstPages
      (fields = false → ends (.gather d e ok) 0x20 0) ∧
      (fields = true → unread = false → rsv = true → ends (.gather d e ok) 0x20 0) ∧
      (fields = true → d.len ≠ 0 → bad = false → unread = true → ends (.gather d e ok) 0x26 0) ∧
      (fields = true → unread = false → rsv = false →
        (d.len = 0 → ends (.gather d e ok) 0x22 0) ∧
        (d.len ≠ 0 → bad = true → ends (.gather d e ok) 0x21 0) ∧
        (d.len ≠ 0 → bad = false → wrong = true → ends (.gather d e ok) 0x22 0) ∧
        (d.len ≠ 0 → bad = false → wrong = false → out = true → ends (.gather d e ok) 0x23 0) ∧
        (d.len ≠ 0 → bad = false → wrong = false → out = false → pages ≠ 0 → ends (.gather d e ok) 0x0C pages) ∧
        (d.len ≠ 0 → bad = false → wrong = false → out = false → pages = 0 →
          Gives (.gather d e ok) s (fun t => t = u.jobGo d { tag := tag, src := src, wild := u.overlaps d src }))))) ∧
  (∀ (d : Desc) (tag : Nat), d.opcode = 1 → d.len ≠ 0 →
    match ({ tag := tag, src := [(d.f 3 47 0, d.len)] } : Job).next d with
    | some p => p.1.op = 0x01 ∧ p.1.trail.toNat = d.srcTrail ∧ p.1.addr.toNat = d.f 3 47 0 ∧ p.1.len = min d.len (256 - d.f 3 47 0 % 256) ∧
        p.2.pos = 0 ∧ p.2.fail = none
    | none => False) ∧
  (∀ (s : State) (d : Desc) (j : Job), s.jobEnded d = some j → Gives (.dataDescriptorComplete d) s (fun t =>
    t = s.endDesc d (j.fail.getD (0, 0)).1 (j.fail.getD (0, 0)).2 j.pos)) ∧
  (∀ (s : State) (tag : BitVec 16) (f : Flight) (h : HostRead), s.hostPending tag.toNat = some (f, h) →
    let v := (s.dropFlight f).onHost (fun x => { x with pending := x.pending.erase h })
    let n := h.left.headD 0
    Gives (.pcieCompletionTimeout tag) s (fun t => t = v.respond f.msg 0x8F 0x0E) ∧
    (∀ (ok : Bool) (feed : List Byte), (ok = false ∨ feed.length < n) → Gives (.pcieCompletion tag ok feed) s (fun t =>
      t = v.respond f.msg 0x8F 0x0E)) ∧
    (∀ feed : List Byte, n ≤ feed.length → let got := h.got ++ feed.take n
      (1 < h.left.length → Gives (.pcieCompletion tag true feed) s (fun t => t = s.onHost (fun x => { x with
        pending := x.pending.map (fun y => if y = h then { h with left := h.left.drop 1, got := got } else y) }))) ∧
      (h.left.length ≤ 1 → s.atGateway f.msg = false → f.msg.op = 0x01 →
        (∀ p ∈ spansOf f.msg.addr.toNat f.msg.len, v.lineForm p.1 = .plain) → got.length = f.msg.len →
        Gives (.pcieCompletion tag true feed) s (fun t => t = v.respond f.msg 0x81 0 got))))

/-- R315 to R317, R319 to R321. -/
def Obligations.EventQueuesAndTimebase : Prop :=
  ∀ (s : State) (q : Fin 64), s.regsWf → Table.wf (fun _ => 0) s.host.since = true → Table.wf (fun _ => 0) s.host.firstAt = true →
    Table.wf (fun _ => 0) s.host.lostNow = true →
    let k := q.val
    let n := s.eqSize k
    let tail := s.get (HIF_EQ_TAIL.INDEX k)
    let vec := s.get (HIF_EQ_CFG.VECTOR k)
    let count := s.get (HIF_EQ_MOD.COUNT k)
    let since := s.since k
    let stat := (HIF_EQ_STAT.ARMED k).addr
    let cfg := (HIF_EQ_CFG.ENABLE k).addr
    let tailAt := (HIF_EQ_TAIL.INDEX k).addr
    let headAt := (HIF_EQ_HEAD.INDEX k).addr
    let same (t : State) (l : List Nat) : Prop := t = { s with regs := t.regs, host := t.host } ∧ ∀ off, off ∉ l → t.reg off = s.reg off
    let sends (t : State) : Prop := t.flag (HIF_EQ_STAT.ARMED k) = false ∧ (t.since k).1 = 0 ∧
      (s.flag (HIF_MSIX_DATA.MASK vec) = false → t.host.msix = s.host.msix ++ [vec]) ∧
      (s.flag (HIF_MSIX_DATA.MASK vec) = true → t.host.msix = s.host.msix ∧ nbit (t.get HIF_MSIX_PBA.PENDING) vec = true)
    (s.barUp = true → s.eqOn k = false → s.flag HIF_STAT.READY = true →
      (s.get (HIF_EQ_BASE.BASE k) * 32 % min (32 * n) 4096 = 0 → Gives (.eqEnable q) s (fun t => same t [cfg, tailAt, headAt, stat] ∧ t.eqOn k = true ∧
        t.get (HIF_EQ_TAIL.INDEX k) = 0 ∧ t.get (HIF_EQ_HEAD.INDEX k) = 0 ∧ t.get (HIF_EQ_STAT.LOST k) = 0 ∧
        t.flag (HIF_EQ_STAT.ARMED k) = true ∧ t.host.mem = s.host.mem ∧ t.host.recs = s.host.recs)) ∧
      (s.get (HIF_EQ_BASE.BASE k) * 32 % min (32 * n) 4096 ≠ 0 → Gives (.eqEnable q) s (fun t =>
        t = s.put (HIF_EQ_STAT.BAD_BASE k) 1))) ∧
    ((s.barUp = false ∨ s.eqOn k = true ∨ s.flag HIF_STAT.READY = false) → Gives (.eqEnable q) s (fun t => t = s)) ∧
    (s.barUp = true → s.eqOn k = true →
      let off := ((s.put (HIF_EQ_CFG.ENABLE k) 0).put HIF_EVT_DROP.COUNT (satAdd 32 (s.get HIF_EVT_DROP.COUNT) (s.eqWaiting k))).onHost
        (fun h => { h with recs := h.recs.filter (fun r => r.queue != k), lostNow := h.lostNow.poke (fun _ => 0) k 0 })
      Gives (.eqDisable q) s (fun t => t = off.retireFor k ∧ (s.host.slots = [] → t = off ∧ t.eqOn k = false))) ∧
    ((s.barUp = false ∨ s.eqOn k = false) → ∀ v : W32, Gives (.eqDisable q) s (fun t => t = s) ∧ Gives (.eqHeadDoorbell q v) s (fun t => t = s)) ∧
    (∀ v : W32, s.barUp = true → s.eqOn k = true →
      let h := fieldOf v 16 0
      let ok := fieldOf v 30 17 = 0 ∧ h < 2 * n ∧ (tail + 2 * n - h) % (2 * n) ≤ s.eqFill k
      (ok → s.host.slots = [] →
        Gives (.eqHeadDoorbell q v) s (fun t => same t [headAt, stat, HIF_MSIX_PBA.PENDING.addr] ∧ t.get (HIF_EQ_HEAD.INDEX k) = h ∧
          t.host.recs = s.host.recs ∧ t.host.mem = s.host.mem ∧
          t.flag (HIF_EQ_STAT.FULL k) = decide ((tail + 2 * n - h) % (2 * n) = n) ∧
          (fieldOf v 31 31 = 0 → t.flag (HIF_EQ_STAT.ARMED k) = s.flag (HIF_EQ_STAT.ARMED k) ∧ t.host.msix = s.host.msix) ∧
          (fieldOf v 31 31 = 1 → since.1 = 0 → t.flag (HIF_EQ_STAT.ARMED k) = true ∧ t.host.msix = s.host.msix) ∧
          (fieldOf v 31 31 = 1 → since.1 ≠ 0 → (count ≤ since.1 ∨ since.2 = true) → sends t))) ∧
      (¬ ok → Gives (.eqHeadDoorbell q v) s (fun t => t = s.put (HIF_EQ_STAT.BAD_HEAD k) 1))) ∧
    (∀ r : Rec, s.eqOn k = true → s.recsHeld = false → s.eqFill k < n → tail < 2 * n → Table.wf (fun _ => (0 : Byte)) s.host.mem = true →
      let a := s.get (HIF_EQ_BASE.BASE k) * 32 + 32 * (tail % n)
      let lost := s.host.lostNow.peek (fun _ => 0) k
      (lost ≠ 0 ∨ s.host.recs.find? (fun x => x.queue == k) = some r) → s.ideBlocks a 32 = false →
      let w := if lost ≠ 0 then { queue := k, compl := false, w1 := BitVec.ofNat 64 k, w2 := BitVec.ofNat 64 lost, code := 0x0102 } else r
      let irq := since.2 = true ∨ w.irq = true
      Gives (.eventRecordWrite q) s (fun t => same t [tailAt, stat, HIF_MSIX_PBA.PENDING.addr] ∧ t.get (HIF_EQ_TAIL.INDEX k) = (tail + 1) % (2 * n) ∧
        t.host.recs = (if lost ≠ 0 then s.host.recs else dropRec k s.host.recs) ∧ t.host.lostNow.peek (fun _ => 0) k = 0 ∧
        t.host.wrRelaxed = false ∧
        (∀ j < 32, Table.peek (fun _ => (0 : Byte)) t.host.mem (a + j) =
          (toBytes 8 s.now ++ toBytes 8 w.w1.toNat ++ toBytes 8 w.w2.toNat ++ toBytes 8 (w.w3 (decide (tail < n)))).getD j 0) ∧
        (∀ b, ¬ (a ≤ b ∧ b < a + 32) → Table.peek (fun _ => (0 : Byte)) t.host.mem b = Table.peek (fun _ => (0 : Byte)) s.host.mem b) ∧
        (s.flag (HIF_EQ_STAT.ARMED k) = true → (count ≤ since.1 + 1 ∨ irq) → sends t) ∧
        (s.flag (HIF_EQ_STAT.ARMED k) = true → since.1 + 1 < count → ¬ irq → s.get (HIF_EQ_MOD.TIME_US k) = 0 →
          t.flag (HIF_EQ_STAT.ARMED k) = true ∧ t.host.msix = s.host.msix ∧ t.since k = (since.1 + 1, false)) ∧
        (s.flag (HIF_EQ_STAT.ARMED k) = false → t.flag (HIF_EQ_STAT.ARMED k) = false ∧ t.host.msix = s.host.msix))) ∧
    (s.get (HIF_EQ_MOD.TIME_US k) ≠ 0 → s.flag (HIF_EQ_STAT.ARMED k) = true → since.1 ≠ 0 → s.recsHeld = false →
      Gives (.eqModerationTimer q) s (fun t => same t [stat, HIF_MSIX_PBA.PENDING.addr] ∧ sends t ∧ t.host.recs = s.host.recs ∧ t.host.mem = s.host.mem)) ∧
    (s.barUp = true → ∀ (lo hi : W32) (v : W64),
      let step (x : Nat) (t : State) : Prop := t.now = max s.now x ∧ t.host.tbLow = none ∧
        (x ≤ s.now → t = s.onHost (fun h => { h with tbLow := none })) ∧
        (s.now < x → t = ((s.onHost (fun h => { h with tbLow := none })).setReg HIF_TB.NS.addr (BitVec.ofNat 64 x)).post 0x0104 s.now x)
      Gives (.hifTbSet 0 v) s (step v.toNat) ∧
      Gives (.hifTbSet 1 (lo.setWidth 64)) s (fun t => t = s.onHost (fun h => { h with tbLow := some lo })) ∧
      (s.host.tbLow = some lo → Gives (.hifTbSet 2 (hi.setWidth 64)) s (step (hi.toNat * 2 ^ 32 + lo.toNat)))) ∧
    (s.barUp = true → s.get HIF_TB_CTL.SRC = 1 → Gives .ptmRequest s (fun t => t = s.onHost (fun h => { h with ptmOut := true }))) ∧
    (s.barUp = true → s.host.ptmOut = true → s.now < 2 ^ 63 → ∀ (x : W64) (locks : Bool),
      let big : Int := 1000 * (max 1 (s.get HIF_TB_CTL.STEP_US) : Nat)
      Gives (.ptmResponse x locks) s (fun t => same t [HIF_TB.NS.addr, HIF_TB_STAT.OFFSET.addr, HIF_EVT_DROP.COUNT.addr, (HIF_EQ_STAT.LOST (s.get (HIF_EVT_ROUTE.EQ 1))).addr] ∧
        t.host.ptmOut = false ∧ t.host.ptmMissed = 0 ∧
        t.flag HIF_TB_STAT.LOCKED = (locks || s.flag HIF_TB_STAT.LOCKED) ∧
        (-x.toInt ≤ big → t.now = s.now) ∧ (big < -x.toInt → t.now = s.now + (-x.toInt).toNat) ∧
        (-(2 ^ 30) ≤ x.toInt → x.toInt < 2 ^ 30 → t.get HIF_TB_STAT.OFFSET = x.toNat % 2 ^ 31))) ∧
    (s.host.ptmOut = true → Gives .ptmResponseTimeout s (fun t =>
      same t [HIF_TB_STAT.LOCKED.addr, HIF_EVT_DROP.COUNT.addr, (HIF_EQ_STAT.LOST (s.get (HIF_EVT_ROUTE.EQ 1))).addr] ∧
      t.host.ptmOut = false ∧ t.host.ptmMissed = s.host.ptmMissed + 1 ∧
      t.flag HIF_TB_STAT.LOCKED = (s.flag HIF_TB_STAT.LOCKED && decide (s.host.ptmMissed < 2))))

/-- R91, R94, R290, R293, R294, R297, R299, R301, R322. What hot reset keeps of HIF_STAT and of identity is assumption log 82. -/
def Obligations.LinkResetsAndWindows : Prop :=
  ∀ (s : State), s.regsWf →
    let pend := s.get HIF_MSIX_PBA.PENDING
    let lost (k : Nat) : FaultMsg := { kind := 0x08, source := srcSaddle k, sev := 2, addr := 0 }
    let down : FaultMsg := { kind := 0x1A, source := srcSaddle 0, sev := 2, addr := 0 }
    let flushed (t : State) : Prop := ∀ v < 64, nbit pend v = true → s.flag (HIF_MSIX_DATA.MASK v) = false →
      v ∈ t.host.msix ∧ nbit (t.get HIF_MSIX_PBA.PENDING) v = false
    (s.host.linkUp = true → Gives .pcieLinkDown s (fun t => t.host.linkUp = false ∧ t.recsHeld = true ∧ t.host.pending = [] ∧
      t.inbox = s.inbox ++ [down] ∧ t.host.recs = s.host.recs ∧ t.host.slots = s.host.slots ∧ t.mem = s.mem ∧
      (s.host.pending = [] → t = { s with host := { s.host with linkUp := false, ptmOut := false }, inbox := s.inbox ++ [down] }) ∧
      (∀ f : Flight, s.net.flight.filter (fun g => s.hostAwaits g.msg.tag.toNat) = [f] →
        t.net = ((s.dropFlight f).respond f.msg 0x8F 0x0E).net))) ∧
    (s.host.linkUp = false → Gives .pcieLinkDown s (fun t => t = s)) ∧
    (let v := s.fresh.toNat
      let up := s.took.onHost (fun h => { h with
        linkUp := true, d3 := false, port := { h.port with rate := Fin.ofNat 6 v, width := Fin.ofNat 4 (v / 8), flit := nbit v 5 || v % 6 == 5 } })
      (s.host.linkUp = false → s.host.perst = false → 16 ∉ s.clk.unlocked →
        Gives .pcieLinkUp s (fun t => t.host.linkUp = true ∧ flushed t ∧
          (pend = 0 → t = if s.lko.owes = true then (up.post 0x0A08).onLko (fun l => { l with owes := false }) else up))) ∧
      ((s.host.linkUp = true ∨ s.host.perst = true ∨ 16 ∈ s.clk.unlocked) → Gives .pcieLinkUp s (fun t => t = s))) ∧
    (let gone (P : State → Prop) : Prop := Gives .perstN s P ∧ Gives .d3cold s P
     (s.host.perst = false → s.cfg.phase ≠ 0 → s.cfg.phase ≠ 7 → gone (fun t =>
       t.fuses = s.fuses ∧ t.cfg.phase = 6 ∧ t.host.perst = true ∧ t.host.linkUp = false ∧ t.host.slots = [] ∧ t.host.recs = [] ∧
       t.host.mem = s.host.mem ∧ t.now = s.now ∧ t.net = State.reset.net ∧ t.swb = State.reset.swb ∧ t.engines = State.reset.engines ∧
       t.isl = State.reset.isl ∧ t.cry = State.reset.cry ∧ t.hbm = { record := s.hbm.record } ∧ t.flag HIF_STAT.READY = false ∧ t.pending = s.pending)) ∧
     (s.host.perst = false → (s.cfg.phase = 0 ∨ s.cfg.phase = 7) → gone (fun t =>
       t = s.onHost (fun h => { h with linkUp := false, perst := true }))) ∧
     (s.host.perst = true → gone (fun t => t = s))) ∧
    (s.host.perst = true →
      ((s.cfg.phase ≠ 6 ∨ s.cfg.progLow = true) → Gives .perstNRelease s (fun t => t = s.onHost (fun h => { h with perst := false }))) ∧
      (s.cfg.phase = 6 → s.cfg.progLow = false → Gives .perstNRelease s (fun t => t.cfg.phase = 1 ∧
        t.get (HBM_STAT.STATE 0) = 1 ∧ t.get (HBM_STAT.STATE 1) = 1 ∧
        t = { s with regs := t.regs, cfg := { s.cfg with phase := 1 }, host := { s.host with perst := false } }))) ∧
    (s.host.perst = false → Gives .hotReset s (fun t => t.host = { mem := s.host.mem, linkUp := s.host.linkUp, aer := s.host.aer, tbAcc := s.host.tbAcc, port := { rate := s.host.port.rate, width := s.host.port.width, flit := s.host.port.flit } } ∧
      t.get HIF_STAT.RINGS_ON = 0 ∧ t.flag HIF_STAT.READY = s.flag HIF_STAT.READY ∧ t.mem = s.mem ∧ t.swb = s.swb ∧ t.cry = s.cry ∧ t.hbm = s.hbm ∧
      t.engines = s.engines ∧ t.isl = s.isl ∧
      (s.host.pending = [] → t = { s with regs := t.regs, host := t.host } ∧ ∀ off, off ≠ 0x54 → t.reg off = if 0x10000 ≤ off ∨ (0x100 ≤ off ∧ off < 0x120) ∨ (8 ≤ off ∧ off < 0x50) ∨ off = HIF_GRADE.SPEED.addr
        then s.reg off else regReset off))) ∧
    (s.host.linkUp = true → s.host.d3 = false →
      let r := if 1 ≤ s.get PWR_CTL.D3_RUNG ∧ s.get PWR_CTL.D3_RUNG ≤ 4 then s.get PWR_CTL.D3_RUNG else 2
      Gives .d3hot s (fun t => t.host.d3 = true ∧ t.barUp = false ∧ t.recsHeld = true ∧ t.mem = s.mem ∧ t.net = s.net ∧ t.host.slots = s.host.slots ∧
        (s.pwr.failed = false → s.rungWhy r = 0 → t.host = { s.host with d3 := true } ∧ t.get PWR_RUNG.REQ = r ∧ t.pwr.want = some r))) ∧
    (s.host.d3 = true → Gives .returnToD0 s (fun t => t.host.d3 = false ∧ (s.host.linkUp = true → flushed t) ∧
      (pend = 0 → s.flag FLT_STAT.PARKED = true → t = s.onHost (fun h => { h with d3 := false })) ∧
      (s.flag FLT_STAT.PARKED = false → s.pwr.failed = false → s.rungWhy 0 = 0 → t.get PWR_RUNG.REQ = 0 ∧ t.pwr.want = some 0))) ∧
    (s.host.d3 = false → Gives .returnToD0 s (fun t => t = s)) ∧
    Gives .vauxRemoval s (fun t => t.fuses = s.fuses ∧ t.now = 0 ∧ t.net = State.reset.net ∧ t.swb = State.reset.swb ∧ t.cfg = State.reset.cfg ∧
      t.mem = State.reset.mem ∧ t.engines = State.reset.engines ∧ t.isl = State.reset.isl ∧ t.cry = State.reset.cry ∧
      t.lko.flash = s.lko.flash ∧ t.host = { mem := s.host.mem } ∧ t.pending = s.pending) ∧
    (s.clk.holdover = 0 → Gives .refLost s (fun t => t.flag CLK_REF_STAT.REF_OK = false ∧ t.flag CLK_REF_STAT.HOLDOVER = true ∧
      t.clk.holdover = 1 ∧ (∀ k : Fin 3, 16 + k.val ∈ t.clk.unlocked) ∧ (16 ∉ s.clk.unlocked → t.host.linkUp = false) ∧ (∀ q < 16, t.quadLocked q = false) ∧
      t.inbox.any (fun m => m.kind == 0x07 && m.source == srcSaddle 7) = true)) ∧
    (∀ k : Fin 3, (16 + k.val ∉ s.clk.unlocked → Gives (.pllLossOfLock k) s (fun t => t.clk = { s.clk with unlocked := s.clk.unlocked ++ [16 + k.val] } ∧
        t.mem = s.mem ∧
        (k ≠ 0 → t = { s with clk := t.clk, inbox := s.inbox ++ [lost (k.val + 1)] }) ∧
        (k = 0 → t.host.linkUp = false ∧ t.host.pending = (if s.host.linkUp = true then [] else s.host.pending) ∧
          t.inbox = s.inbox ++ lost 0 :: if s.host.linkUp = true then [down] else []))) ∧
      (s.clk.holdover = 0 → 16 + k.val ∈ s.clk.unlocked → Gives (.privilegedPllRelock k) s (fun t =>
        t = s.onClk (fun c => { c with unlocked := c.unlocked.filter (fun x => x != 16 + k.val) }) ∧ 16 + k.val ∉ t.clk.unlocked)) ∧
      (s.clk.holdover ≠ 0 → Gives (.privilegedPllRelock k) s (fun t => t = s))) ∧
    (∀ (off : BitVec 36) (n : Fin 4096) (v : Nat), let a := s.bar4At off
      ((s.barUp = false ∨ s.bar4Ok a = false) → Gives (.bar4Read off n) s (fun t => t = s.answer [] 0x100)) ∧
      (s.barUp = true → s.bar4Ok a = true → a % 256 + n.val + 1 ≤ 256 → endpointOf a = some v → s.endWaits {} v a (n.val + 1) false = false →
        let r := s.readEnd {} v a (n.val + 1)
        Gives (.bar4Read off n) s (fun t => (r.1 = 0 → t = r.2.2.answer r.2.1) ∧ (r.1 = 4 → t = (r.2.2.errCount 4).answer [] 0x102) ∧
          (r.1 ≠ 0 → r.1 ≠ 4 → t = (r.2.2.errCount r.1).answer [] 0x101))) ∧
      (s.barUp = true → s.bar4Ok a = true → a % 256 + n.val + 1 ≤ 256 → endpointOf a = none →
        Gives (.bar4Read off n) s (fun t => t = (s.errCount 3).answer [] 0x101)) ∧
      (∀ bs : List Byte, bs ≠ [] → bs.length ≤ 4096 →
        ((s.barUp = false ∨ s.bar4Ok a = false) → Gives (.bar4Write off bs) s (fun t => t = s.answer [] 0x100)) ∧
        (s.barUp = true → s.bar4Ok a = true → s.flag HIF_CTL.BAR4_WR = false → Gives (.bar4Write off bs) s (fun t => t = s.answer [])) ∧
        (s.barUp = true → s.bar4Ok a = true → s.flag HIF_CTL.BAR4_WR = true → a % 256 + bs.length ≤ 256 → endpointOf a = some v →
          s.endWaits {} v a bs.length true = false →
          let w := s.writeEnd {} {} v a bs
          Gives (.bar4Write off bs) s (fun t =>
            t = (if w.1 = 0 then w.2 else ((w.2.errCount w.1).bump HIF_BAR4_ERR.COUNT).post 0x0103 a w.1).answer [])))) ∧
    (∀ (x : W64) (wide : Bool) (r : Fin 256) (q : Fin 64) (w : WriteAux),
      let baseReg : RegAt := .setup (BitVec.ofNat 24 (0x1000 + 0x20 * r.val))
      let statReg : RegAt := .setup (BitVec.ofNat 24 (0x3018 + 0x20 * q.val))
      (s.barUp = false → ∀ off : BitVec 24, Gives (.registerWrite (.setup off) x wide w) s (fun t => t = s)) ∧
      (s.barUp = true →
        (∀ c ∈ [(Instr.registerWrite (.setup 0x0000) x wide w), (Instr.registerWrite (.setup 0xF0000) x wide w),
          (Instr.registerWrite (.setup 0x005A) x wide w)], Gives c s (fun t => t = s)) ∧
        Gives (.registerWrite (.setup 0x0058) x false w) s (fun t => t = { s with regs := t.regs } ∧
          t.get HIF_BAR4_BASE.BASE = x.toNat % 4096 ∧ ∀ off, off ≠ 0x0058 → t.reg off = s.reg off) ∧
        Gives (.registerWrite baseReg x true w) s (fun t =>
          (s.flag HIF_STAT.READY = true → s.ringState r.val = 0 → t = { s with regs := t.regs } ∧
            t.get (HIF_RING_BASE.BASE r.val) = fieldOf x 46 6 ∧ ∀ off, off ≠ 0x1000 + 0x20 * r.val → t.reg off = s.reg off) ∧
          ((s.flag HIF_STAT.READY = false ∨ s.ringState r.val ≠ 0) → t = s)) ∧
        (s.flag HIF_STAT.READY = true → Gives (.registerWrite statReg 0x8 false w) s (fun t =>
          t = { s with regs := t.regs } ∧ t.flag (HIF_EQ_STAT.BAD_BASE q.val) = false ∧ t.flag (HIF_EQ_STAT.BAD_HEAD q.val) = s.flag (HIF_EQ_STAT.BAD_HEAD q.val) ∧
          t.get (HIF_EQ_STAT.LOST q.val) = s.get (HIF_EQ_STAT.LOST q.val)))) ∧
      (∀ (i : Fin 256) (off : BitVec 12), s.islActive i.val = false → Gives (.registerWrite (.engine i off) x wide w) s (fun t => t = s)) ∧
      (∀ (i : Fin 256) (off : BitVec 12), s.islActive i.val = true → s.engOut i.val = false → off.toNat % (if wide then 8 else 4) = 0 →
        Gives (.registerWrite (.engine i off) x wide w) s (fun t => t = s.engBytes i.val off.toNat (toBytes (if wide then 8 else 4) x.toNat))))

/-! ### Configuration and start-up (chapter 11) -/

/-- R22, R325 to R337, R348. `fails` says what an attempt that ends with a code leaves. -/
def Obligations.ConfigurationAttempts : Prop :=
  ∀ (s : State), s.regsWf →
    let c := s.cfg
    let fails (e : Instr) (slot code : Nat) : Prop := Gives e s (fun t =>
      t.cfg.attempts = c.attempts ++ [(slot, code)] ∧ t.isl = [] ∧ t.engines = [] ∧ t.swb.ctxs = [] ∧ t.cfg.boots = [] ∧ t.net = s.net ∧
      t.cfg.mode = c.mode ∧ t.flag HIF_STAT.READY = s.flag HIF_STAT.READY ∧
      (retryCode code = true → c.retry = false → c.forced = none → (c.mode = 0 ∨ c.mode = 2) →
        t.cfg.phase = 1 ∧ t.cfg.retry = true ∧ t.cfg.slot = 1 - slot) ∧
      (¬ (retryCode code = true ∧ c.retry = false ∧ c.forced = none ∧ (c.mode = 0 ∨ c.mode = 2)) → t.cfg.phase = 5))
    (∀ (fused : Fused) (grades : BitVec 4) (mode : BitVec 3) (pullN : Bool), let ids := fused.records
      (c.phase = 0 → Gives (.identityCheck fused grades mode pullN) s (fun t =>
        t = { s with regs := t.regs, pkg := { s.pkg with records := ids.toList, idBad := idFault ids.toList }, bst := t.bst, cfg := t.cfg } ∧
        t.bst.part = fused.part ∧ t.bst.gold = Table.pokes (fun _ => 0) s.bst.gold (fused.gold.map (fun (p : BitVec 16 × W32) => (p.1.toNat, p.2.toNat))) ∧
        t.reg HIF_SADDLE_ID.RECORD.addr = ids.toList.getD 0 0 ∧ t.get HIF_GRADE.SPEED = max 1 (grades.toNat % 4) ∧
        t.get HIF_GRADE.TEMP = grades.toNat / 4 ∧ t.cfg.mode = mode.toNat ∧ t.cfg.pullDown = pullN ∧
        ((idFault ids.toList).isSome = true → t.cfg.phase = 7 ∧ t.cfg.attempts = [(0, 1)]) ∧
        (idFault ids.toList = none → t.cfg.phase = (if c.progLow || s.host.perst then 6 else 1) ∧
          ∀ r ∈ ids.toList, idPos r < 4 → t.reg (HIF_DIE_ID.RECORD (idPos r)).addr = r))) ∧
      (c.phase ≠ 0 → Gives (.identityCheck fused grades mode pullN) s (fun t => t = s))) ∧
    (c.progLow = false → (c.phase = 0 ∨ c.phase = 7) → Gives .progNLow s (fun t => t = s.onCfg (fun x => { x with progLow := true }))) ∧
    (c.progLow = false → c.phase ≠ 0 → c.phase ≠ 7 → Gives .progNLow s (fun t => t.cfg.phase = 6 ∧ t.cfg.progLow = true ∧ t.fuses = s.fuses ∧
      t.isl = [] ∧ t.engines = [] ∧ t.swb = State.reset.swb ∧ t.net = State.reset.net ∧ t.cry = State.reset.cry ∧
      t.flag HIF_STAT.READY = false ∧ t.now = s.now ∧ t.host.mem = s.host.mem ∧ t.host.slots = [] ∧ t.host.perst = s.host.perst)) ∧
    (∀ (mode : BitVec 3) (pullN : Bool), (c.progLow = true → Gives (.progNRise mode pullN) s (fun t => t = { s with regs := t.regs, cfg := t.cfg } ∧
      t.cfg.mode = mode.toNat ∧ t.cfg.pullDown = pullN ∧ t.cfg.progLow = false ∧
      (c.phase = 6 → s.host.perst = false → t.cfg.phase = 1 ∧ t.get (HBM_STAT.STATE 0) = 1 ∧ t.get (HBM_STAT.STATE 1) = 1) ∧
      ((c.phase ≠ 6 ∨ s.host.perst = true) → t.cfg.phase = c.phase ∧ t.regs = s.regs))) ∧
      (c.progLow = false → Gives (.progNRise mode pullN) s (fun t => t = s)) ∧ (c.progLow = true → Gives .progNLow s (fun t => t = s))) ∧
    (∀ v : W32,
      ((c.phase ≠ 4 ∨ fieldOf v 15 8 ≠ 0xA5 ∨ fieldOf v 0 0 = 0 ∨ s.pwr.failed = true) → Gives (.cfgReconf v) s (fun t => t = s)) ∧
      (c.phase = 4 → fieldOf v 15 8 = 0xA5 → fieldOf v 0 0 = 1 → s.pwr.failed = false → Gives (.cfgReconf v) s (fun t => t.cfg.phase = 1 ∧
        t.cfg.forced = some (fieldOf v 1 1) ∧ t.isl = [] ∧ t.engines = [] ∧ t.swb = State.reset.swb ∧ t.net = State.reset.net ∧
        t.flag HIF_STAT.READY = false ∧ t.fuses = s.fuses ∧ t.now = s.now))) ∧
    (c.phase = 1 → ∀ view : FlashView,
      (c.mode ≥ 6 → fails (.configAttempt view) c.slot 2) ∧
      (c.mode < 6 → c.mode ≠ 4 → view.answers = false → fails (.configAttempt view) c.slot 3) ∧
      (c.mode < 6 → c.mode ≠ 4 → view.answers = true → pickTable view.tableA view.tableB = none → fails (.configAttempt view) c.slot 4) ∧
      (∀ table : List Byte, c.mode < 6 → (c.mode ≠ 4 → view.answers = true ∧ pickTable view.tableA view.tableB = some table) →
        let slot := if c.mode = 4 then 0 else if c.retry then c.slot else c.forced.getD (if c.mode = 5 then 1 else activeSlot table 0)
        let code := s.headerCode view.header 0x41264A60 (if c.mode = 4 then none else some (slotSize table 0 slot)) true
        (code ≠ 0 → fails (.configAttempt view) slot code) ∧
        (code = 0 → Gives (.configAttempt view) s (fun t => t = { s with cfg := t.cfg } ∧ t.cfg.phase = 2 ∧ t.cfg.slot = slot ∧ t.cfg.pos = 128 ∧
          t.cfg.next = 0 ∧ t.cfg.total = leAt view.header 0x10 8 ∧ t.cfg.startup = leAt view.header 0x24 4 ∧ t.cfg.attempts = c.attempts ∧
          t.cfg.fallback = ((c.mode == 0 || c.mode == 1 || c.mode == 5) && !view.octalOk))))) ∧
    (c.phase = 2 → fails .configIdleTimeout c.slot 12) ∧
    (c.phase = 2 → c.next ≤ 5 → ∀ (hdr : List Byte) (l : List W32) (g : IslandCfg),
      let typ := leAt hdr 0 1
      let die := leAt hdr 1 1
      let i := leAt hdr 2 1
      let seg := Instr.configSegment hdr l g
      let fits := c.pos + 32 + 4 * l.length ≤ c.total - 224 ∧ segOk hdr l c.compressed = true
      let look (k : Nat) : Option (List W32) := if c.boots.any (fun z => z.2.2.1 == k) then some (c.outs.peek (fun _ => []) k) else none
      let past := s.onCfg (fun x => { x with pos := c.pos + 32 + 4 * l.length })
      let placed := (typ = 1 ∧ die = 7 ∧ i = 0 ∧ c.next = 0) ∨ (typ = 2 ∧ i = 0 ∧ die + 1 = c.next ∧ die < 4) ∨
        (typ = 3 ∧ i < 64 ∧ die + 2 = c.next ∧ die < 4)
      g.legal = true →
      (c.pos + 32 > c.total - 224 → fails seg c.slot 11) ∧
      (c.pos + 32 ≤ c.total - 224 → segOk hdr l c.compressed = false → fails seg c.slot 14) ∧
      (fits → segNext c.next typ die = none → fails seg c.slot 14) ∧
      (c.pos + 32 ≤ c.total - 224 → c.total - 224 < c.pos + 32 + 4 * l.length → segOk hdr l c.compressed = true → placed → fails seg c.slot 11) ∧
      (fits → placed → typ ≠ 1 → s.dieGone die = true → fails seg c.slot 15) ∧
      (fits → placed → (typ = 1 ∨ s.dieGone die = false) →
        (unpack look hdr l = none → fails seg c.slot 16) ∧
        ∀ m : List W32, unpack look hdr l = some m →
        (typ = 1 → ((past.onCfg (fun x => { x with next := 1 })).saddleRecords m = none → fails seg c.slot 14) ∧
          (∀ u, (past.onCfg (fun x => { x with next := 1 })).saddleRecords m = some u → Gives seg s (fun t => t = u))) ∧
        (typ = 2 → m.length ≠ 66 → fails seg c.slot 14) ∧
        (typ = 2 → m.length = 66 → Gives seg s (fun t => t.cfg.next = c.next + 1 ∧ t.cfg.pos = c.pos + 32 + 4 * l.length ∧
          t.get (MEM_DEEP_RSV.RSV die) = (m.getD 0 0).toNat ∧ t.isl = s.isl ∧ t.mem = s.mem ∧ t.net = s.net ∧ t.swb = s.swb ∧
          ∀ n < 8, t.get (IOB_BANK_STAT.VCLASS (8 * die + n)) = leAt (bytesOf m) (8 + 32 * n) 1)) ∧
        (let ctx := leAt hdr 0x0C 2
         let refused := 2 ^ 14 ≤ ctx ∨ ctx % 1024 = 0x3FF ∨ c.boots.any (fun z => z.2.2.1 == 64 * die + i) = true
         (typ = 3 → refused → fails seg c.slot 14) ∧
         (typ = 3 → ¬ refused → Table.wf (fun _ => ({} : Island)) s.isl = true → Gives seg s (fun t =>
          t.cfg.next = c.next ∧ t.cfg.pos = c.pos + 32 + 4 * l.length ∧ (t.island (64 * die + i)).cfg = g ∧ (t.island (64 * die + i)).gsr = true ∧
          t.net = s.net ∧ t.swb = s.swb ∧ t.mem = ((s.clearMemories (64 * die + i)).setIsland (64 * die + i) (t.island (64 * die + i))
            |>.writeMem (64 * die + i) g (fun _ => true)).mem ∧
          (∀ j, j ≠ 64 * die + i → t.island j = s.island j ∧ t.eng j = s.eng j) ∧
          t.cfg.boots = c.boots ++ [(ctx % 1024, ctx / 1024, 64 * die + i, BitVec.ofNat 64 (leAt hdr 0x10 8), g)])))) ∧
      (fits → leAt hdr 3 1 = 0 → typ = 4 → die = 0 → i = 0 → c.next = 5 → leAt hdr 4 8 = 0 → l = [] → c.pos + 32 = c.total - 224 →
        ((∀ b ∈ c.bootIds, (bootShape (c.bootIslands b)).isSome = true) → Gives seg s (fun t => t = past.onCfg (fun x => { x with next := 6 }))) ∧
        ((c.bootIds.any (fun b => (bootShape (c.bootIslands b)).isNone)) = true → fails seg c.slot 14))) ∧
    (c.phase = 2 → c.next = 6 → ∀ tv : TrailerView,
      (tv.crcOk = false → fails (.trailerCheck tv) c.slot 17) ∧
      (tv.crcOk = true → tv.sigOk = false → fails (.trailerCheck tv) c.slot 18) ∧
      (tv.crcOk = true → tv.sigOk = true → c.encrypted = true → tv.gcmOk = false → fails (.trailerCheck tv) c.slot 19) ∧
      (tv.crcOk = true → tv.sigOk = true → (c.encrypted = true → tv.gcmOk = true) → Table.wf (fun _ => ({} : Context)) s.swb.ctxs = true → s.net.trails = [] →
        Gives (.trailerCheck tv) s (fun t => t.cfg = { c with phase := 3, step := 0, digest := tv.digest } ∧ t.mem = s.mem ∧ t.isl = s.isl ∧
          ∀ b ∈ c.bootIds, ∀ w : Nat × Nat × Nat × Nat, bootShape (c.bootIslands b) = some w → (t.ctx b).boot = true ∧ (t.ctx b).pinned = true ∧
            (t.ctx b).prio = 7 ∧ (t.ctx b).shape = w.1 ∧ (t.ctx b).die = w.2.1 ∧ (t.ctx b).ax = w.2.2.1 ∧ (t.ctx b).ay = w.2.2.2)))

/-- R339 to R342, R347. -/
def Obligations.StartupAndReload : Prop :=
  ∀ (s : State), s.regsWf → Table.wf (fun _ => ({} : Context)) s.swb.ctxs = true → Table.wf (fun _ => ({} : Island)) s.isl = true →
    Table.wf (fun _ => ({} : Engine)) s.engines = true →
    let c := s.cfg
    (c.dueStep = some 0 → Gives .startupLockTimeout s (fun t => t.cfg.attempts = c.attempts ++ [(c.slot, 20)] ∧ t.isl = [] ∧ t.engines = [] ∧
      (t.cfg.phase = 1 ∨ t.cfg.phase = 5))) ∧
    (c.dueStep = some 0 → (∀ k ∈ s.clk.unlocked, k < 16 ∨ 32 ≤ k) → Gives .startupLock s (fun t =>
      t.cfg = { c with locked := true, step := c.step + 1 } ∧ t.flag CLK_REF_STAT.REF_OK = true ∧ (∀ n < 4, t.flag (CLK_BASE.LOCKED n) = true) ∧
      (∀ b < 32, (s.bank b).pllEn = true → t.flag (IOB_BANK_STAT.PLL_LOCK b) = true) ∧ t.mem = s.mem ∧ t.swb = s.swb ∧ t.net = s.net ∧
      (∀ z : Nat × Nat × Nat × W64 × IslandCfg, c.boots = [z] → z.2.2.1 < 256 → s.clockRange z.2.2.2.1.toNat = false →
        t.get (CLK_ISL_CFG.SETTING z.2.2.1) = z.2.2.2.1.toNat) ∧
      ∀ i, (t.island i).gsr = (s.island i).gsr ∧ (t.island i).cfg = (s.island i).cfg)) ∧
    (c.dueStep = some 1 → (∀ z ∈ c.boots, z.2.2.1 < 256) → s.net.trails = [] → Gives .startupGsr s (fun t => t.cfg = { c with gsr := true, step := c.step + 1 } ∧
      (∀ b ∈ c.bootIds, (t.ctx b).state = 4 ∧ (t.ctx b).pmap = 0) ∧ (∀ z ∈ c.boots, t.islState z.2.2.1 = 3 ∧ (t.island z.2.2.1).gsr = false ∧
        (c.we = false → (t.eng z.2.2.1).state = 1)) ∧
      (∀ j, (∀ z ∈ c.boots, z.2.2.1 ≠ j) → t.island j = s.island j ∧ t.eng j = s.eng j))) ∧
    (c.dueStep = some 2 → Gives .startupWe s (fun t => t = { s with cfg := t.cfg, engines := t.engines } ∧
      t.cfg = { c with we := true, step := c.step + 1 } ∧ (c.gsr = false → t.engines = s.engines) ∧
      (c.gsr = true → ∀ z ∈ c.boots, (s.eng z.2.2.1).autoStart = true → (s.eng z.2.2.1).state = 1 → (t.eng z.2.2.1).state = 2))) ∧
    (c.dueStep = some 3 → Gives .startupOut s (fun t => t.cfg = { c with out := true, step := c.step + 1 } ∧ t.isl = s.isl ∧
      t.engines = s.engines ∧ t.mem = s.mem ∧ t.net = s.net)) ∧
    (∀ us : W32, c.phase = 3 → c.step = 4 → c.slot < 2 → c.bus < 3 → c.mode < 8 → (∀ a ∈ c.attempts, a.2 < 32) → s.get (HBM_STAT.STATE 0) = 2 → s.get (HBM_STAT.STATE 1) = 2 →
      Gives (.doneRelease us) s (fun t => t.cfg = { c with phase := 4, attempts := c.attempts ++ [(c.slot, 0)] } ∧
        t.flag HIF_STAT.READY = true ∧ t.get CFG_BOOT_TIME.US = us.toNat ∧ t.get CFG_STAT.MODE = c.mode ∧ t.get CFG_STAT.BUS = c.bus ∧
        t.flag CFG_STAT.RETRIED = c.retry ∧ (c.bus ≠ 2 → t.get CFG_STAT.BOOT_SLOT = c.slot) ∧ (c.retry = false → t.get CFG_STAT.FIRST_ERR = 0) ∧
        t.get CFG_STARTUP.ORDER = c.startup % 256 ∧ t.isl = s.isl ∧ t.engines = s.engines ∧
        (∀ i < 256, s.dieGone (i / 64) = false → i / 64 ∉ s.pkg.degraded → t.placeable i = true))) ∧
    (∀ b : BitVec 10, let n := b.toNat
      let x := s.ctx n
      (x.boot = true → (x.reloading = 1 ∨ x.reloading = 3) → Gives (.bootContextReload b) s (fun t => t = { s with swb := t.swb } ∧
        t.swb.portJobs = s.swb.portJobs ++ [{ die := x.die, rank := 1, ctx := n }] ∧ (t.ctx n).reloading = x.reloading + 1 ∧
        ∀ k, k ≠ n → t.ctx k = s.ctx k)) ∧
      (∀ digest : Option (List Byte), x.boot = true → (x.reloading = 2 ∨ x.reloading = 4) → s.jobRuns (s.reloadJob n) = true → x.queue = [] →
        let ok := digest == some c.digest && c.bus != 2
        let img (k : Nat) : IslandCfg := (x.bootCfg[k]?).getD {}
        Gives (.bootReloadComplete b digest) s (fun t => (t.ctx n).state = 4 ∧ (t.ctx n).reloading = 0 ∧ (t.ctx n).pmap = 0 ∧
          t.jobRuns (s.reloadJob n) = false ∧ (∀ i ∈ s.islandsOf n, t.islState i = 3 ∧ (t.island i).gsr = false) ∧
          t.mem = (s.forAll (numbered (s.islandsOf n)) (fun p v =>
            if ok then (v.clearMemories p.2).writeMem p.2 (img p.1) (fun _ => true) else v.clearMemories p.2)).mem))) ∧
    (∀ (i : Fin 256) (f : W32) (bad last : Bool), s.sweeps i.val = true →
      (match c.sweepAt with
        | some (j, n) => j < i.val || (j == i.val && n ≤ f.toNat)
        | none => true) = true →
      Gives (.frameSweepCheck i f bad last) s (fun t => t.island i.val = { s.island i.val with frameBad := (s.island i.val).frameBad || bad } ∧
        (∀ j, j ≠ i.val → t.island j = s.island j) ∧ t.get CFG_FRAME_CNT.COUNT = satAdd 32 (s.get CFG_FRAME_CNT.COUNT) (bit bad) ∧
        t.get CFG_SWEEP_CNT.COUNT = satAdd 32 (s.get CFG_SWEEP_CNT.COUNT) (bit last) ∧ t.flag CFG_SWEEP.ACTIVE = !last ∧
        t.inbox = s.inbox ++ (if bad then [{ kind := 0x15, source := srcIsland i.val, sev := 2, addr := f.toNat }] else []) ∧
        t.mem = s.mem ∧ t.engines = s.engines))

/-! ### Transceivers and user pins (chapter 12) -/

/-- R352 to R355, R360, R361. The word of IDLE = 3 is a free value (assumption log 83). -/
def Obligations.TransceiverLanes : Prop :=
  ∀ (s : State), s.regsWf →
    (∀ q : Fin 16,
      (s.quadLocked q.val = true → Gives (.quadPllLossOfLock q) s (fun t => t = { s with regs := t.regs, clk := t.clk, host := t.host, inbox := t.inbox } ∧
        (∀ k < 16, (s.ethLanes (k / 4) (k % 4)).any (fun l => l / 4 == q.val) = true → nbit (t.get (IOB_ETH_STAT.LINK_UP (k / 4))) (k % 4) = false) ∧
        (s.flag (IOB_JESD_CFG.EN q.val) = true → t.flag (IOB_JESD_STAT.SYNC q.val) = false) ∧
        t.quadLocked q.val = false ∧ (∀ k < 4, t.flag (IOB_LANE_STAT.CDR_LOCK (4 * q.val + k)) = false) ∧ q.val ∈ t.clk.unlocked ∧
        t.inbox = s.inbox ++ [{ kind := 0x09, source := srcSaddle (0x10 + q.val), sev := 1, addr := 0 }])) ∧
      (s.quadLocked q.val = false → s.flag CLK_REF_STAT.REF_OK = true → Gives (.quadPllRelock q) s (fun t =>
        t = { s with regs := t.regs, clk := t.clk } ∧ t.quadLocked q.val = true ∧ q.val ∉ t.clk.unlocked ∧
        (∀ k < 4, t.flag (IOB_LANE_STAT.CDR_LOCK (4 * q.val + k)) = (s.laneOwner (4 * q.val + k) != 0 && !s.flag (IOB_LANE_STAT.LOS (4 * q.val + k)))))) ∧
      ((s.quadLocked q.val = true ∨ s.flag CLK_REF_STAT.REF_OK = false) → Gives (.quadPllRelock q) s (fun t => t = s)) ∧
      (∀ v : W32, let fb := fieldOf v 11 0
        ((fb < 640 ∨ 2240 < fb ∨ ¬ (∀ k < 4, s.laneOwner (4 * q.val + k) = 0)) → Gives (.iobQpllWrite q v) s (fun t => t = s)) ∧
        (640 ≤ fb → fb ≤ 2240 → (∀ k < 4, s.laneOwner (4 * q.val + k) = 0) → Gives (.iobQpllWrite q v) s (fun t =>
          t.get (IOB_QPLL.FB q.val) = fb ∧ t.quadLocked q.val = false ∧ (s.quadLocked q.val = false → t = { s with regs := t.regs }))))) ∧
    (∀ (l : Fin 64) (v : W32),
      let u := if fieldOf v 31 31 = 1 then s.put (IOB_LANE_CFG.ERR l.val) 0 else s
      let arete := s.twinOn = true ∧ 56 ≤ l.val
      let held := (s.unit (unitOf 4 0 l.val)).state ≠ 0 ∧ fieldOf v 2 0 ≠ 0
      let ok := rateOk (s.get (IOB_QPLL.FB (l.val / 4))) (fieldOf v 6 4) (fieldOf v 7 7 == 1)
      (arete → Gives (.iobLaneCfgWrite l v) s (fun t => t = u)) ∧
      (¬ arete → (held ∨ s.laneOwner l.val ≠ 0 ∨ ok = false) → Gives (.iobLaneCfgWrite l v) s (fun t => t = u.put (IOB_LANE_CFG.ERR l.val) 1)) ∧
      (¬ arete → ¬ held → s.laneOwner l.val = 0 → ok = true → Gives (.iobLaneCfgWrite l v) s (fun t =>
        t = { s with regs := t.regs, host := t.host } ∧
        t.get (IOB_LANE_CFG.OWNER l.val) = fieldOf v 2 0 ∧ t.get (IOB_LANE_CFG.D l.val) = fieldOf v 6 4 ∧
        t.get (IOB_LANE_CFG.PAM4 l.val) = fieldOf v 7 7 ∧ t.get (IOB_LANE_CFG.IDLE l.val) = fieldOf v 11 10 ∧
        t.get (IOB_LANE_CFG.TXPOL l.val) = fieldOf v 8 8 ∧ t.get (IOB_LANE_CFG.RXPOL l.val) = fieldOf v 9 9 ∧
        t.get (IOB_LANE_CFG.ERR l.val) = u.get (IOB_LANE_CFG.ERR l.val)))) ∧
    (∀ l : Fin 64,
      (s.laneOn l.val 3 = true →
        let idle := s.get (IOB_LANE_CFG.IDLE l.val)
        let inv (b : List Byte) : List Byte := if s.flag (IOB_LANE_CFG.TXPOL l.val) = true then b.map (fun y => ~~~y) else b
        (∀ p ∈ [((0, 0x55) : Nat × Byte), (1, 0x00), (2, 0xFF)], idle = p.1 → Gives (.rawUnderrun l) s (fun t =>
          t = (s.bump (IOB_LANE_STAT.UNDERRUN l.val)).toLine (0xB00 + l.val) (inv (List.replicate 8 p.2)))) ∧
        (idle = 3 → Gives (.rawUnderrun l) s (fun t =>
          t = (s.took.bump (IOB_LANE_STAT.UNDERRUN l.val)).toLine (0xB00 + l.val) (inv (toBytes 8 s.fresh.toNat))))) ∧
      (∀ (tag : BitVec 16) (data : List Byte), data.length = 256 → s.laneOn l.val 3 = true → s.laneHears l.val = true → pinTag tag.toNat = true →
        s.tagFree tag.toNat = true →
        (s.canReceive (0xB00 + l.val) 1 = none → Gives (.rawReceive l tag data) s (fun t => t = s.bump (IOB_LANE_STAT.OVERRUN l.val))) ∧
        (∀ r, s.canReceive (0xB00 + l.val) 1 = some r → Gives (.rawReceive l tag data) s (fun t =>
          t = s.fromPin (0xB00 + l.val) r tag.toNat 0 (if s.flag (IOB_LANE_CFG.RXPOL l.val) = true then data.map (fun y => ~~~y) else data) 0))) ∧
      (∀ lost : Bool, s.laneOwner l.val ≠ 0 → s.flag (IOB_LANE_STAT.LOS l.val) = !lost → Gives (.lossOfSignal l lost) s (fun t =>
        t = { s with regs := t.regs, host := t.host } ∧ t.flag (IOB_LANE_STAT.LOS l.val) = lost ∧
        t.flag (IOB_LANE_STAT.CDR_LOCK l.val) = (s.quadLocked (l.val / 4) && !lost)))) ∧
    (∀ q : Fin 16,
      (s.jesdOn q.val = true → s.flag (IOB_JESD_CFG.DIR q.val) = true → Gives (.jesdUnderrun q) s (fun t =>
        t = (s.bump (IOB_JESD_STAT.UNDERRUN q.val)).toLine (0xA00 + q.val) (List.replicate 256 0))) ∧
      (∀ (tag : BitVec 16) (data : List Byte), data.length = 256 → s.jesdOn q.val = true → s.flag (IOB_JESD_CFG.DIR q.val) = false →
        s.flag (IOB_JESD_STAT.SYNC q.val) = true → pinTag tag.toNat = true → s.tagFree tag.toNat = true →
        (s.canReceive (0xA00 + q.val) 1 = none → Gives (.jesdReceive q tag data) s (fun t => t = s.bump (IOB_JESD_STAT.UNDERRUN q.val))) ∧
        (∀ r, s.canReceive (0xA00 + q.val) 1 = some r → Gives (.jesdReceive q tag data) s (fun t =>
          t = s.fromPin (0xA00 + q.val) r tag.toNat 0 data 0))) ∧
      (s.jesdOn q.val = true → (∀ l ∈ s.jesdLanes q.val, s.jesdRate l = true) → q.val ∈ s.pins.aligned → Gives (.extendedMultiblockLockGain q) s (fun t => t = s.put (IOB_JESD_STAT.SYNC q.val) 1)) ∧
      (∀ bad : Bool, s.flag (IOB_JESD_STAT.SYNC q.val) = true → Gives (.extendedMultiblockLockLoss q bad) s (fun t =>
        t = { s with regs := t.regs, host := t.host, pins := t.pins } ∧ t.flag (IOB_JESD_STAT.SYNC q.val) = false ∧
        (bad = true → q.val ∉ t.pins.aligned) ∧ (bad = false → t.pins = s.pins)))) ∧
    (∀ d : Fin 4, s.dieGone d.val = false → Gives (.sysref d) s (fun t => t = { s with pins := t.pins } ∧
      ∀ q < 16, (q ∈ t.pins.aligned ↔ q ∈ s.pins.aligned ∨ (s.flag (IOB_JESD_CFG.EN q) = true ∧ s.get (IOB_JESD_CFG.SREF q) = d.val))))

/-- R356 to R359, R364 to R367. -/
def Obligations.EthernetAndBanks : Prop :=
  ∀ (s : State), s.regsWf → Table.wf (fun _ => ({} : Bank)) s.banks = true →
    (∀ (e p : Fin 4), let links := s.get (IOB_ETH_STAT.LINK_UP e.val)
      (s.ethOn e.val p.val = true → (∀ l ∈ s.ethLanes e.val p.val, s.laneHears l = true ∧ s.ethRate e.val l = true) → Gives (.ethLinkStateChange e p true) s (fun t =>
        t = { s with regs := t.regs, host := t.host } ∧ t.get (IOB_ETH_STAT.LINK_UP e.val) = links ||| 2 ^ p.val)) ∧
      Gives (.ethLinkStateChange e p false) s (fun t => t = { s with regs := t.regs, host := t.host } ∧
        nbit (t.get (IOB_ETH_STAT.LINK_UP e.val)) p.val = false ∧ (nbit links p.val = false → t = s)) ∧
      (∀ (tag : BitVec 16) (frame : List Byte) (fcs mine : Bool) (ts : W64), nbit links p.val = true →
        (∀ k < (frame.length + 255) / 256, pinTag (tag.toNat + k) = true ∧ s.tagFree (tag.toNat + k) = true) →
        let v := 0x900 + 4 * e.val + p.val
        let clock := s.get HIF_TB_CTL.SRC = 2 ∧ s.get IOB_PTP_CTL.ENGINE = e.val ∧ s.get IOB_PTP_CTL.PORT = p.val ∧
          (frame.drop 12).take 2 = [0x88, 0xF7] ∧ mine = true
        let good := fcs = true ∧ 60 ≤ frame.length ∧ frame.length ≤ 9216
        (¬ good → Gives (.ethFrameReceive e p tag frame fcs mine ts) s (fun t => t = s.bump (IOB_ETH_STAT.RX_DROP e.val))) ∧
        (good → clock → Gives (.ethFrameReceive e p tag frame fcs mine ts) s (fun t => t = s.onPins (fun x => { x with ptp := frame }))) ∧
        (good → ¬ clock → s.canReceive v ((frame.length + 255) / 256) = none → Gives (.ethFrameReceive e p tag frame fcs mine ts) s (fun t =>
          t = s.bump (IOB_ETH_STAT.RX_DROP e.val))) ∧
        (good → ¬ clock → ∀ r, s.canReceive v ((frame.length + 255) / 256) = some r → Gives (.ethFrameReceive e p tag frame fcs mine ts) s (fun t =>
          t = s.frameOut v r tag.toNat frame.length 0 ts.toNat frame ((frame.length + 255) / 256))) ∧
        (good → ¬ clock → frame.length ≤ 256 → ∀ r, s.canReceive v 1 = some r → Gives (.ethFrameReceive e p tag frame fcs mine ts) s (fun t =>
          t = s.fromPin v r tag.toNat (frame.length * 2 ^ 20) frame ts.toNat))) ∧
      (∀ (m : Msg) (flen : Nat), s.pins.eth = [] → nbit links p.val = true → 1 ≤ flen → flen ≤ 256 → m.addr.toNat = flen * 2 ^ 20 →
        m.len = flen → m.data.length = flen →
        (s.ethTx (4 * e.val + p.val) m 0).1 = true ∧
        (s.ethTx (4 * e.val + p.val) m 0).2.pins.tx.peek (fun _ => []) (0x900 + 4 * e.val + p.val) = m.data ++ List.replicate (60 - flen) 0)) ∧
    (∀ v : BitVec 4, Gives (.ptpPortChange v) s (fun t => t = { s with regs := t.regs, host := t.host } ∧
      t.get IOB_PTP_CTL.PORT = v.toNat % 4 ∧ t.get IOB_PTP_CTL.ENGINE = v.toNat / 4 ∧
      (s.get HIF_TB_CTL.SRC = 2 → (s.get IOB_PTP_CTL.PORT ≠ v.toNat % 4 ∨ s.get IOB_PTP_CTL.ENGINE ≠ v.toNat / 4) →
        t.flag HIF_TB_STAT.LOCKED = false) ∧ (s.get HIF_TB_CTL.SRC ≠ 2 → t.flag HIF_TB_STAT.LOCKED = s.flag HIF_TB_STAT.LOCKED))) ∧
    (∀ b : Fin 32,
      (∀ mv : BitVec 12, let nominal := 50 * s.get (IOB_BANK_STAT.VCLASS b.val)
        let ok := nominal ≠ 0 ∧ 10 * mv.toNat ≤ 11 * nominal ∧ 9 * nominal ≤ 10 * mv.toNat
        Gives (.vccioMonitor b mv) s (fun t => t = { s with regs := t.regs, host := t.host, banks := t.banks, inbox := t.inbox } ∧
          t.get (IOB_BANK_STAT.VCCIO_MV b.val) = mv.toNat / 4 ∧ (t.flag (IOB_BANK_STAT.VCCIO_OK b.val) = true ↔ ok) ∧
          (¬ ok → s.cfg.out = true → (s.bank b.val).lost = 0 → t.flag (IOB_BANK_STAT.SAFE b.val) = true) ∧
          (ok → t.inbox = s.inbox ∧ t.host = s.host) ∧
          (¬ ok → nominal ≠ 0 → (s.bank b.val).vccioBad = false →
            t.inbox = s.inbox ++ [{ kind := 0x0B, source := srcGpio b.val, sev := 2, addr := mv.toNat }]) ∧
          (∀ k, k ≠ b.val → t.bank k = s.bank k))) ∧
      (s.flag (IOB_BANK_STAT.PLL_LOCK b.val) = true → Gives (.bankPllLossOfLock b) s (fun t =>
        t = { s with regs := t.regs, host := t.host, banks := t.banks, inbox := t.inbox, clk := t.clk } ∧
        t.flag (IOB_BANK_STAT.PLL_LOCK b.val) = false ∧ t.bank b.val = { s.bank b.val with pllLost := true } ∧
        t.inbox = s.inbox ++ [{ kind := 0x0A, source := srcGpio b.val, sev := 2, addr := 0 }] ∧
        (s.cfg.out = true → (s.bank b.val).lost = 0 → t.flag (IOB_BANK_STAT.SAFE b.val) = true))) ∧
      ((s.bank b.val).pllEn = true → s.flag (IOB_BANK_STAT.PLL_LOCK b.val) = false → s.flag CLK_REF_STAT.REF_OK = true →
        Gives (.bankPllRelock b) s (fun t => t = { s with regs := t.regs, banks := t.banks, clk := t.clk } ∧
          t.flag (IOB_BANK_STAT.PLL_LOCK b.val) = true ∧ t.bank b.val = { s.bank b.val with pllLost := false } ∧
          t.flag (IOB_BANK_STAT.SAFE b.val) = t.bankSafe b.val)))

/-! ### Power (chapter 13) -/

/-- R373 to R376, R378 to R380; numbers in 1/8 W. -/
def Obligations.BudgetsAndMonitors : Prop :=
  ∀ (s : State), s.regsWf →
    (∀ (saddle hbm p0 p1 p2 p3 : BitVec 12) (late : BitVec 4),
      let need := 40 + saddle.toNat + hbm.toNat
      Gives (.budgetUpdate saddle hbm p0 p1 p2 p3 late) s (fun t => t = { s with regs := t.regs, pwr := t.pwr, host := t.host } ∧
        t.get PWR_SHB.SADDLE_P = saddle.toNat ∧ t.get PWR_SHB.HBM_P = hbm.toNat ∧
        (∀ p ∈ [((0 : Fin 4), p0), (1, p1), (2, p2), (3, p3)], s.dieGone p.1.val = false → t.get (PWR_DIE.POWER p.1.val) = p.2.toNat) ∧
        (∀ d : Fin 4, s.dieGone d.val = true → (t.dieP d).budget = 0) ∧
        (∀ d : Fin 4, s.dieGone d.val = false → 64 ≤ (t.dieP d).budget ∧ (t.dieP d).budget ≤ 600 ∧
          (8 * s.capW < need + 256 → (t.dieP d).budget = 64)) ∧
        (need + 256 ≤ 8 * s.capW → (dies4.map (fun d => (t.dieP d).budget)).sum + need ≤ 8 * s.capW))) ∧
    (∀ (d : Fin 4), s.dieGone d.val = false → Table.wf (fun _ => Presence.present) s.pkg.presence = true →
      let x := s.dieP d
      let caps (t : State) : Prop := Table.wf (fun _ => ({} : Engine)) s.engines = true → ∀ k < 64, (t.eng (64 * d.val + k)).issueCap = (t.dieP d).cap
      (∀ a b : BitVec 12, Gives (.currentSample d a b) s (fun t => t = { s with pwr := t.pwr } ∧ (t.dieP d).sample = a.toNat ∧
        (t.dieP d).average = b.toNat ∧ t.dieP d = { x with sample := a.toNat, average := b.toNat } ∧ ∀ e : Fin 4, e ≠ d → t.dieP e = s.dieP e)) ∧
      ((x.average > x.inForce ∨ 4 * x.sample > 5 * x.inForce) → Gives (.throttleTighten d) s (fun t =>
        (x.tf < 32 → t.dieP d = { x with tf := x.tf + 1 }) ∧ (32 ≤ x.tf → t.dieP d = { x with cap := if 1 < x.cap then x.cap - 1 else 1 }) ∧
        (∀ e : Fin 4, e ≠ d → t.dieP e = s.dieP e) ∧ t.mem = s.mem ∧ t.net = s.net ∧ caps t)) ∧
      (10 * x.average < 9 * x.inForce → x.throttled = true → Gives (.throttleRelax d) s (fun t =>
        (x.cap < 8 → t.dieP d = { x with cap := x.cap + 1 }) ∧ (8 ≤ x.cap → t.dieP d = { x with tf := x.tf - 1 }) ∧
        (∀ e : Fin 4, e ≠ d → t.dieP e = s.dieP e) ∧ t.mem = s.mem ∧ t.net = s.net ∧ caps t)) ∧
      (∀ (k : Fin 9) (v : BitVec 8) (ms : Bool), Gives (.temperatureSample d k v ms) s (fun t => t.get (PWR_DIE.TEMP_MAX d.val) = v.toNat ∧
        ((v.toInt > (s.highC : Int)) → (t.dieP d).high = true) ∧ (v.toInt ≤ (s.highC : Int) - 2 → (t.dieP d).high = false) ∧
        (v.toInt ≥ (s.critC : Int) → x.crit = false → t.inbox.any (fun m => m.kind == 0x04 && m.source == srcDiePower d.val) = true) ∧
        (v.toInt ≥ 120 → s.presence d.val = .present → t.presence d.val = .silent) ∧
        (v.toInt < 120 → t = { s with regs := t.regs, pwr := t.pwr, host := t.host, inbox := t.inbox })))) ∧
    (∀ d : Fin 4, s.dieGone d.val = true → ∀ (k : Fin 9) (v : BitVec 8) (ms : Bool) (a b : BitVec 12),
      ∀ c ∈ [(Instr.currentSample d a b), (Instr.throttleTighten d), (Instr.throttleRelax d), (Instr.temperatureSample d k v ms)],
        Gives c s (fun t => t = s)) ∧
    (s.pwr.paced = [] → Gives .currentChangeAdmit s (fun t => t = s)) ∧
    (∀ (i : Nat) (l : List Nat), s.pwr.paced = i :: l →
      let g := s.joined i
      let u := s.onPwr (fun p => { p with paced := l.filter (fun j => !g.contains j) })
      let tf := (s.dieP (Fin.ofNat 4 (i / 64))).tf
      Gives .currentChangeAdmit s (fun t => t.pwr = u.pwr ∧ t.mem = s.mem ∧ t.net = s.net ∧ t.engines = s.engines ∧
        (g = [i] → t = u.setTf i tf) ∧
        ∀ j ∈ g, j < 256 → t.get (CLK_ISL_STAT.THROTTLE j) = tfCap (s.setting j) (max 8 (min 32 tf)))) ∧
    (∀ i : Fin 256, (s.island i.val).droop = true → Gives (.droopPersists i) s (fun t =>
      t = { s with regs := t.regs, host := t.host, inbox := s.inbox ++ [{ kind := 0x05, source := srcIsland i.val, sev := 1, addr := 0 }] })) ∧
    (∀ (r : Fin 11) (mv : BitVec 12), let g := railRange r.val
      Table.wf (fun _ => 0) s.pwr.railBad = true →
      (g.1 ≤ mv.toNat → mv.toNat ≤ g.2 → Gives (.railSample r mv) s (fun t => t = { s with regs := t.regs, pwr := t.pwr } ∧
        nbit (t.get PWR_RAIL_STAT.OK) r.val = true ∧ t.pwr.railBad.peek (fun _ => 0) r.val = 0)) ∧
      (¬ (g.1 ≤ mv.toNat ∧ mv.toNat ≤ g.2) →
        (s.pwr.railBad.peek (fun _ => 0) r.val = 2 → Gives (.railSample r mv) s (fun t => nbit (t.get PWR_RAIL_STAT.OK) r.val = false ∧
          t = { s with regs := t.regs, pwr := t.pwr, host := t.host, inbox := t.inbox } ∧ t.pwr.railBad.peek (fun _ => 0) r.val = 3 ∧
          t.flag PWR_RAIL_STAT.OOT = true ∧ t.inbox = s.inbox ++ [{ kind := 0x03, source := srcPower, sev := 3, addr := r.val }])) ∧
        (s.pwr.railBad.peek (fun _ => 0) r.val ≠ 2 → Gives (.railSample r mv) s (fun t => t = { s with pwr := t.pwr } ∧
          t.pwr.railBad.peek (fun _ => 0) r.val = min 3 (s.pwr.railBad.peek (fun _ => 0) r.val + 1))))) ∧
    (∀ code : BitVec 12, s.get PWR_BUS_CFG.DIV = 0 → Gives (.busSample code) s (fun t => t = s)) ∧
    (∀ code : BitVec 12, s.get PWR_BUS_CFG.DIV ≠ 0 → Gives (.busSample code) s (fun t =>
      t.get PWR_BUS_STAT.NOW = min 4095 (code.toNat * s.get PWR_BUS_CFG.DIV * 10 / 4096) ∧
      t.get PWR_BUS_STAT.MIN ≤ t.get PWR_BUS_STAT.NOW ∧ t.get PWR_BUS_STAT.NOW ≤ t.get PWR_BUS_STAT.MAX ∧ t.pwr.busSeen = true ∧
      (s.pwr.swell = true → t.pwr.swell = decide (s.get PWR_BUS_CFG.SWELL_DV < t.get PWR_BUS_STAT.NOW)) ∧ (s.pwr.swell = false → t.pwr.swell = false) ∧
      t = { s with regs := t.regs, pwr := t.pwr, host := t.host })) ∧
    (s.busOn = true →
      (s.get PWR_BUS_CFG.SAG_DV ≠ 0 → s.busNow < s.get PWR_BUS_CFG.SAG_DV → s.pwr.sag = false → Gives .busSagEnter s (fun t =>
        t.pwr = { s.pwr with sag := true } ∧ t.capW = min s.capW (s.get PWR_BUS_CFG.SAG_CAP_W) ∧ t.inbox = s.inbox)) ∧
      (s.pwr.sag = true → s.busNow > s.get PWR_BUS_CFG.SAG_DV + 10 → Gives .busSagExit s (fun t =>
        t.pwr = { s.pwr with sag := false } ∧ t.capW = max 60 (min 400 (s.get PWR_CAP.CAP_W)) ∧ t.inbox = s.inbox)) ∧
      (s.get PWR_BUS_CFG.SWELL_DV ≠ 0 → s.busNow > s.get PWR_BUS_CFG.SWELL_DV → s.pwr.swell = false → Gives .busSwellTimer s (fun t =>
        t.pwr = { s.pwr with swell := true } ∧ t.inbox = s.inbox ++ [{ kind := 0x06, source := srcPower, sev := 1, addr := s.busNow }]))) ∧
    Gives .pwrBusStatClr s (fun t => t = { s with regs := t.regs } ∧ t.get PWR_BUS_STAT.MIN = s.busNow ∧ t.get PWR_BUS_STAT.MAX = s.busNow) ∧
    Gives .pwrCntClr s (fun t => t = { s with regs := t.regs } ∧ ∀ d < 4, t.get (PWR_DROOP_CNT.COUNT d) = 0)

/-- R381 to R389. -/
def Obligations.PowerLadder : Prop :=
  ∀ (s : State), s.regsWf →
    (∀ r : BitVec 3, let why := s.rungWhy r.toNat
      (s.pwr.failed = true → Gives (.pwrRungRequest r) s (fun t => t = s)) ∧
      (s.pwr.failed = false → why = 0 → Gives (.pwrRungRequest r) s (fun t => t = { s with regs := t.regs, pwr := t.pwr } ∧
        t.get PWR_RUNG.REQ = r.toNat ∧ t.get PWR_RUNG.CUR = s.get PWR_RUNG.CUR ∧ t.pwr = { s.pwr with want := some r.toNat })) ∧
      (s.pwr.failed = false → why ≠ 0 → Gives (.pwrRungRequest r) s (fun t => t = { s with regs := t.regs, host := t.host } ∧
        t.get PWR_RUNG.WHY = why ∧ t.get PWR_RUNG.REQ = s.get PWR_RUNG.REQ ∧ t.get PWR_RUNG.CUR = s.get PWR_RUNG.CUR)) ∧
      (5 ≤ r.toNat → why = 5) ∧ (r.toNat < 5 → s.flag HIF_STAT.READY = false → why = 3) ∧
      (s.flag HIF_STAT.READY = true → s.flag FLT_STAT.PARKED = true → r.toNat < 3 → why = 6) ∧
      (s.flag HIF_STAT.READY = true → r = 4 → s.twinOn = true → why = 1) ∧
      (s.flag HIF_STAT.READY = true → r = 4 → s.twinOn = false → (why = 2 ↔ (s.storeRegion false).2 < s.dormantBytes))) ∧
    (∀ v : BitVec 8, s.pwr.failed = true → Gives (.pwrDieRungRequest v) s (fun t => t = s)) ∧
    (∀ (v : BitVec 8) (d : Fin 4), s.pwr.failed = false → Table.wf (fun _ => (none : Option Nat)) s.pwr.dieWant = true →
      let r := nfield v.toNat (2 * d.val + 1) (2 * d.val)
      let old := nfield (s.get PWR_DIE_RUNG.REQ) (2 * d.val + 1) (2 * d.val)
      let sole := ∀ e : Fin 4, e ≠ d → nfield v.toNat (2 * e.val + 1) (2 * e.val) = nfield (s.get PWR_DIE_RUNG.REQ) (2 * e.val + 1) (2 * e.val)
      Gives (.pwrDieRungRequest v) s (fun t => t = { s with regs := t.regs, pwr := t.pwr, host := t.host } ∧
        t.get PWR_RUNG.CUR = s.get PWR_RUNG.CUR ∧ t.get PWR_DIE_RUNG.CUR = s.get PWR_DIE_RUNG.CUR ∧
        (r ≠ old → (r = 3 ∨ s.dieGone d.val = true ∨ s.flag HIF_STAT.READY = false ∨ s.flag FLT_STAT.PARKED = true) →
          t.pwr.dieWant.peek (fun _ => none) d.val = s.pwr.dieWant.peek (fun _ => none) d.val ∧
          nfield (t.get PWR_DIE_RUNG.REQ) (2 * d.val + 1) (2 * d.val) = old ∧
          (sole → t.get PWR_RUNG.WHY = if r = 3 ∨ s.dieGone d.val = true then 4 else if s.flag HIF_STAT.READY = false then 3 else 6)) ∧
        (r = old → t.pwr.dieWant.peek (fun _ => none) d.val = s.pwr.dieWant.peek (fun _ => none) d.val) ∧
        (r ≠ old → r ≠ 3 → s.dieGone d.val = false → s.flag HIF_STAT.READY = true → s.flag FLT_STAT.PARKED = false →
          t.pwr.dieWant.peek (fun _ => none) d.val = some r ∧ nfield (t.get PWR_DIE_RUNG.REQ) (2 * d.val + 1) (2 * d.val) = r))) ∧
    (s.pwr.want = none → s.pwr.dieWant = [] → Gives .rungTransitionStart s (fun t => t = s)) ∧
    (∀ r : Nat, s.pwr.want = some r → s.pwr.run = none → s.pwr.failed = false → s.swapRuns [0, 1, 2, 3] = false → Gives .rungTransitionStart s (fun t =>
      t.pwr.want = none ∧ t.get PWR_RUNG.CUR = s.get PWR_RUNG.CUR ∧
      (r < s.get PWR_RUNG.CUR → t.mem = s.mem ∧ t.isl = s.isl ∧ t.swb = s.swb) ∧
      (r = s.get PWR_RUNG.CUR → t.pwr.run = none) ∧
      (r ≠ s.get PWR_RUNG.CUR → t.pwr.run = some { scope := 7, old := s.get PWR_RUNG.CUR, new := r } ∧ t.flag PWR_RUNG.BUSY = true))) ∧
    (∀ (r : Nat) (d : Fin 4), s.pwr.want = none → s.pwr.dieWant.peek (fun _ => none) d.val = some r → (∀ e < d.val, s.pwr.dieWant.peek (fun _ => none) e = none) →
      s.pwr.run = none → s.pwr.failed = false → s.swapRuns [d.val] = false → Gives .rungTransitionStart s (fun t =>
        t.get PWR_RUNG.CUR = s.get PWR_RUNG.CUR ∧ (t.dieP d).own = (s.dieP d).own ∧
        (r = (s.dieP d).own → t.pwr.run = none) ∧
        (r ≠ (s.dieP d).own → t.pwr.run = some { scope := d.val, old := (s.dieP d).own, new := r } ∧ t.flag PWR_RUNG.BUSY = true))) ∧
    ((s.pwr.run.isSome = true ∨ s.pwr.failed = true ∨ s.swapRuns [0, 1, 2, 3] = true) → s.pwr.want ≠ none → Gives .rungTransitionStart s (fun t => t = s)) ∧
    (∀ (m : RungMove) (ns : BitVec 32), s.pwr.run = some m → m.scope = 7 ∨ m.scope < 4 → m.new < 5 →
      let at_ (t : State) : Prop := t.flag PWR_RUNG.BUSY = false ∧ t.pwr.run = none ∧
        (m.scope = 7 → t.get PWR_RUNG.CUR = m.new) ∧ (m.scope < 4 → t.get PWR_RUNG.CUR = s.get PWR_RUNG.CUR ∧ (t.dieP (Fin.ofNat 4 m.scope)).own = m.new)
      (m.old < m.new → (s.flag PWR_RUNG.EMULATED = false → ∀ i < 256, (m.new < 3 ∨ s.keptRun i = true) → (s.island i).stopping = 0) →
        (3 ≤ m.new → m.old < 3 → s.toEvict = []) →
        (m.new < 2 ∨ s.quietFor m = true → Gives (.rungEntryComplete ns) s (fun t => at_ t ∧
          (m.new = 1 → t = { s with regs := t.regs, pwr := t.pwr, host := t.host }) ∧ (m.new = 2 → s.mem.merge = [] → t.mem = s.mem ∧ t.swb = s.swb) ∧
          (m.new = 4 → m.scope = 7 → s.flag PWR_RUNG.EMULATED = false → ∀ a, inHbm a = true → Table.peek (fun _ => (0 : Byte)) t.mem.data a = 0))) ∧
        (2 ≤ m.new → s.quietFor m = false → Gives (.rungEntryComplete ns) s (fun t => t = { s with pwr := { s.pwr with stall := t.pwr.stall } }))) ∧
      (m.new < m.old → Gives (.rungExitComplete ns) s (fun t => at_ t ∧ t.pwr.wakeReads = [] ∧
        (m.scope = 7 → 3 ≤ m.old → m.new < 3 → s.flag PWR_RUNG.EMULATED = false → s.swb.reload = [] → s.swb.queue = [] →
          ∀ a, deepBase ≤ a → a < deepBase + 0x10000000 → Table.peek (fun _ => (0 : Byte)) t.mem.data a = 0)))) ∧
    (s.pwr.failed = false → s.rungWhy 0 = 0 → s.flag FLT_STAT.PARKED = false →
      (s.get PWR_WAKE.MS ≠ 0 → 2 ≤ s.get PWR_RUNG.CUR → Gives .pwrWakeExpiry s (fun t => t = { s with regs := t.regs, pwr := t.pwr } ∧
        t.get PWR_RUNG.REQ = 0 ∧ t.pwr.want = some 0)) ∧
      (∀ (q : Fin 256) (v : W32) (whole : Bool), s.barUp = true → s.asleep = true → s.flag PWR_CTL.DB_WAKE = true → s.ringState q.val = 0 →
        Gives (.ringDoorbell q v whole) s (fun t => t.pwr.want = some 0 ∧ t.get PWR_RUNG.REQ = 0)) ∧
      (∀ (off : BitVec 20) (n : Fin 17), s.barUp = true → s.readWakes off.toNat = true →
        Gives (.bar0WakeRead { off := off, n := n }) s (fun t => t = { s with regs := t.regs, pwr := t.pwr } ∧ t.pwr.want = some 0 ∧
          t.pwr.wakeReads = s.pwr.wakeReads ++ [(off.toNat, n.val)]))) ∧
    (s.flag FLT_STAT.PARKED = true → s.get PWR_WAKE.MS ≠ 0 → 2 ≤ s.get PWR_RUNG.CUR → Gives .pwrWakeExpiry s (fun t => t = s.put PWR_WAKE.MS 0)) ∧
    (∀ (bar2 : Bool) (off : BitVec 20) (n : Fin 17),
      (s.readWakes off.toNat = true ↔ 3 ≤ s.get PWR_RUNG.CUR ∧ off.toNat / 0x10000 ≠ 0 ∧ off.toNat / 0x10000 ≠ 8) ∧
      (s.host.linkUp = true → s.host.d3 = true → Gives (.bar0WakeRead { bar2 := bar2, off := off, n := n }) s (fun t => t = s.answer [] 0x100)) ∧
      (s.barUp = true →
        (s.readWakes off.toNat = true → (s.flag FLT_STAT.PARKED = true ∨ s.pwr.failed = true) →
          Gives (.bar0WakeRead { off := off, n := n }) s (fun t => t = s.answer (List.replicate n.val 0))) ∧
        (s.readWakes off.toNat = false → (¬ (n.val = 4 ∨ n.val = 8) ∨ off.toNat % n.val ≠ 0) →
          Gives (.bar0WakeRead { off := off, n := n }) s (fun t => t = s.answer [] 0x100)) ∧
        (s.readWakes off.toNat = false → s.flag HIF_STAT.READY = false → off.toNat / 0x10000 ≠ 0 → (n.val = 4 ∨ n.val = 8) → off.toNat % n.val = 0 →
          Gives (.bar0WakeRead { off := off, n := n }) s (fun t => t = s.answer (List.replicate n.val 0))) ∧
        (s.readWakes off.toNat = false → s.flag HIF_STAT.READY = true ∨ off.toNat / 0x10000 = 0 → (n.val = 4 ∨ n.val = 8) → off.toNat % n.val = 0 →
          off.toNat / 8 * 8 ≠ 0x90018 → Gives (.bar0WakeRead { off := off, n := n }) s (fun t => t = s.answer (toBytes n.val (s.busRead off.toNat (n.val == 8))))) ∧
        (∀ r : Fin 256, off.toNat = 0x1000 * (r.val / 16) + 0x100 * (r.val % 16) → n.val = 4 → Gives (.bar0WakeRead { bar2 := true, off := off, n := n }) s (fun t =>
          t = s.answer (toBytes 4 (s.host.bells.peek (fun _ => 0) r.val)))))) ∧
    (s.pwr.failed = true → Gives .pwrfailNFall s (fun t => t = s) ∧ Gives .busFail s (fun t => t = s)) ∧
    (s.pwr.run = none → ∀ ns : BitVec 32, Gives (.rungEntryComplete ns) s (fun t => t = s) ∧ Gives (.rungExitComplete ns) s (fun t => t = s)) ∧
    (s.pwr.failed = false → Table.wf (fun _ => ({} : Context)) s.swb.ctxs = true →
      let after (t : State) : Prop := t.pwr.failed = true ∧ t.flag PWR_RUNG.PF = true ∧ t.get PWR_RUNG.CUR = max (s.get PWR_RUNG.CUR) 3 ∧
        t.pwr.run = none ∧ t.pwr.want = none ∧ t.cry.slots = [] ∧ t.swb.owners = [] ∧ t.fuses = s.fuses ∧
        (∀ k, (t.ctx k).boot = false → (t.ctx k).placed = false) ∧ t.inbox.any (fun m => m.kind == 0x02 && m.sev == 3) = true ∧
        (∀ b < 32, s.cfg.out = true → (s.bank b).lost = 0 → t.flag (IOB_BANK_STAT.SAFE b) = true)
      Gives .pwrfailNFall s after ∧ (s.busOn = true → s.flag PWR_BUS_CFG.FAIL_EN = true → s.busNow < s.get PWR_BUS_CFG.FAIL_DV →
        Gives .busFail s after))

/-! ### Lookout and Cairn (chapter 14) -/

/-- R393 to R396, R400, R401, R403, R314. -/
def Obligations.LookoutServices : Prop :=
  ∀ (s : State), s.regsWf →
    (∀ (ta tb t0 : List Byte) (a b : FwView), s.lko.tx = [] → s.cairn.fifo = [] → s.get MGT_STAT.STATE = 0 →
      (pickTable ta tb = none → Gives (.lookoutFirmwareLoad ta tb a b) s (fun t => t.get MGT_STAT.STATE = 4 ∧ t.mem = s.mem ∧
        t = { s with lko := t.lko, regs := t.regs, host := t.host, cairn := t.cairn })) ∧
      (pickTable ta tb = some t0 → let v := if activeSlot t0 1 = 0 then a else b
        let x := s.firmwareCode (slotSize t0 1 (activeSlot t0 1)) v
        let z := if activeSlot t0 1 = 0 then b else a
        let y := s.firmwareCode (slotSize t0 1 (1 - activeSlot t0 1)) z
        let runs (t : State) (k : Nat) (w : FwView) : Prop := t.get MGT_STAT.STATE = 1 ∧ t.get MGT_STAT.FW_SLOT = k ∧
          t.get MGT_FW_VER.VERSION = w.version.toNat ∧ t.lko.secVer = leAt w.header 0x20 4 ∧ t.lko.log = s.lko.log ∧ t.lko.flash = s.lko.flash
        (x.1 = 0 → Gives (.lookoutFirmwareLoad ta tb a b) s (fun t => runs t (activeSlot t0 1) v)) ∧
        (x.1 ≠ 0 → y.1 = 0 → Gives (.lookoutFirmwareLoad ta tb a b) s (fun t => runs t (1 - activeSlot t0 1) z)) ∧
        (x.1 ≠ 0 → y.1 ≠ 0 → Gives (.lookoutFirmwareLoad ta tb a b) s (fun t => t.get MGT_STAT.STATE = 4 ∧ t.mem = s.mem ∧
          t = { s with lko := t.lko, regs := t.regs, host := t.host, cairn := t.cairn })))) ∧
    (∀ (ta tb : List Byte) (a b : FwView), s.get MGT_STAT.STATE = 3 → s.lko.loaded = false →
      Gives (.lookoutFirmwareLoad ta tb a b) s (fun t => t.get MGT_STAT.STATE = 3 ∧ t.lko.loaded = true ∧ t.lko.log = s.lko.log)) ∧
    (∀ (ta tb : List Byte) (a b : FwView), s.get MGT_STAT.STATE ≠ 0 → (s.get MGT_STAT.STATE = 3 → s.lko.loaded = true) →
      Gives (.lookoutFirmwareLoad ta tb a b) s (fun t => t = s)) ∧
    (let halts (t : State) (cause : Nat) : Prop := t.get MGT_STAT.STATE = 3 ∧ t.flag MGT_STAT.SPDM = false ∧ t.lko.tx = [] ∧ t.lko.rx = [] ∧
        t.lko.asm = none ∧ t.lko.update = none ∧ t.lko.cause = cause ∧ t.lko.log = s.lko.log ∧ t.get MGT_MBX_STAT.TX_FREE = 1024 ∧
        t = { s with regs := t.regs, lko := t.lko, inbox := t.inbox }
     s.lkoRuns = true →
      Gives .mgtCtlRestart s (fun t => halts t 0 ∧ t.inbox = s.inbox) ∧
      (s.flag DBG_LKO_CTL.HALTED = false → ∀ pc : W32,
        Gives (.lkoWatchdogExpiry pc) s (fun t => halts t 1 ∧
          t.inbox = s.inbox ++ [{ kind := 0x1B, source := srcSaddle 9, sev := 2, addr := pc.toNat }]) ∧
        Gives (.lookoutTrap pc) s (fun t => halts t 2 ∧
          t.inbox = s.inbox ++ [{ kind := 0x1C, source := srcSaddle 9, sev := 2, addr := pc.toNat }]))) ∧
    (s.get MGT_STAT.STATE = 0 ∨ s.get MGT_STAT.STATE = 3 → Gives .mgtCtlRestart s (fun t => t = s)) ∧
    (s.get MGT_STAT.STATE = 3 → s.lko.loaded = true → s.lko.tx = [] → s.cairn.fifo = [] →
      Gives .lookoutRestartComplete s (fun t => t.get MGT_STAT.STATE = (if s.lko.recover then 4 else 1) ∧ t.lko.loaded = false ∧
        t.lko.log.any (fun e => e.typ == 5 && e.info == s.lko.cause && e.seq == s.lko.seq) = true ∧ t.lko.seq = s.lko.seq + 1 ∧ t.mem = s.mem ∧ t.net = s.net)) ∧
    (∀ (en : LogEntry) (k : Fin 8), s.lkoServes = true → s.cfgHasFlash = false → s.flag MGT_STAT.RAM_ONLY = false →
      s.lko.log.find? (fun x => x.seq ≥ s.lko.copied) = some en → s.lko.cur = some k.val → s.lko.sectors[k].entries.length < 2046 →
      Gives .logFlashCopy s (fun t => t = { s with lko := t.lko } ∧ t.lko.copied = en.seq + 1 ∧ t.lko.log = s.lko.log ∧
        t.lko.sectors[k] = { s.lko.sectors[k] with entries := s.lko.sectors[k].entries ++ [en] } ∧
        ∀ j : Fin 8, j ≠ k → t.lko.sectors[j] = s.lko.sectors[j])) ∧
    ((s.lkoServes = false ∨ s.cfgHasFlash = true ∨ s.uncopied = false) → Gives .logFlashCopy s (fun t => t = s)) ∧
    (∀ w : W32, (1024 ≤ s.lko.tx.length → Gives (.mgtMbxTxPush w) s (fun t => t = { s with regs := t.regs } ∧ t.flag MGT_MBX_STAT.TX_DROP = true)) ∧
      (s.lko.tx.length < 1024 → s.lkoServes = false → Gives (.mgtMbxTxPush w) s (fun t =>
        t = { s with regs := t.regs, lko := { s.lko with tx := s.lko.tx ++ [w] } } ∧ t.get MGT_MBX_STAT.TX_FREE = 1023 - s.lko.tx.length)) ∧
      (∀ (n : Nat) (l : List W32), s.lko.tx = [] → s.lkoServes = true → s.lkoSlow = false → s.lko.reqs = [] → s.lko.rx = [] →
        s.lko.asm = some (n, l) → 4 * (l.length + 1) = n →
        let body := bytesOf (l ++ [w])
        16 ≤ n → mgtCmds.contains (leAt body 0 2) = true → Gives (.mgtMbxTxPush w) s (fun t =>
          t = { s with regs := t.regs, lko := { s.lko with asm := none, reqs := [{ body, src := .regs }] } }))) ∧
    (∀ (w : W32) (l : List W32), s.lko.tx = [] → s.lko.rx = w :: l → s.get MGT_MBX_RX.DATA = w.toNat → s.flag MGT_MBX_RX.VALID = true →
      Gives (.mgtMbxRxPop false) s (fun t => t.lko = { s.lko with rx := l } ∧ t.get MGT_MBX_STAT.RX_WORDS = l.length % 2048 ∧
        t.flag MGT_MBX_RX.VALID = !l.isEmpty ∧ t = { s with regs := t.regs, lko := t.lko, mem := t.mem } ∧ t.mem.lastRead = toBytes 8 (s.reg 0x90018).toNat) ∧
      Gives (.mgtMbxRxPop true) s (fun t => t = s.answer (toBytes 8 (s.reg 0x90018).toNat))) ∧
    (s.lko.rx = [] → Gives (.mgtMbxRxPop false) s (fun t => t = s.answer (toBytes 8 (s.reg 0x90018).toNat))) ∧
    (∀ (d : Desc) (body : List Byte), s.lkoServes = true → s.mayStart d = true → d.opcode = 0x60 → d.zeroFrom 5 = true →
      d.only 2 (bitsHL 47 0) = true → d.only 3 (bitsHL 47 0) = true → d.only 4 (bitsHL 12 0 + bitsHL 28 16) = true →
      hostBase ≤ d.f 2 47 0 → hostBase ≤ d.f 3 47 0 → 16 ≤ d.f 4 12 0 → d.f 4 12 0 ≤ 4096 → d.f 4 28 16 ≤ 4096 →
      body.length = d.f 4 12 0 → mgtCmds.contains (leAt body 0 2) = true →
      let code := (s.started d).hostCode (d.f 2 47 0) (d.f 4 12 0)
      (code = 0 → Gives (.mbx d 0 body) s (fun t => t = { (s.started d) with lko := { s.lko with reqs := s.lko.reqs ++ [{ body, src := .desc d }] } })) ∧
      (∀ rd : Byte, code ≠ 0 ∨ rd ≠ 0 → Gives (.mbx d rd body) s (fun t => t = (s.started d).endDesc d (if code ≠ 0 then code else rd.toNat) 0 0))) ∧
    (∀ (d : Desc) (rd : Byte) (body : List Byte), s.lkoServes = false → Gives (.mbx d rd body) s (fun t => t = s)) ∧
    Gives (.mctpMessage .wake) s (fun t => t = s.wake) ∧
    (s.lkoServes = true → Gives (.mctpMessage .discover) s (fun t => t = { s with lko := { s.lko with outbox := s.lko.outbox ++ [[0, 2, 5]] } }) ∧
      ∀ body : List Byte, 16 ≤ body.length → 0x10 ≤ leAt body 0 2 → leAt body 0 2 ≤ 0x13 → Gives (.mctpMessage (.update body)) s (fun t =>
        t = { s with lko := { s.lko with reqs := s.lko.reqs ++ [{ body, src := .mctp }] } })) ∧
    (s.lkoServes = false → ∀ (eid : Byte) (first : W32) (body : List Byte),
      ∀ m ∈ [Mctp.setEid eid, Mctp.discover, Mctp.log first, Mctp.update body, Mctp.spdm body], Gives (.mctpMessage m) s (fun t => t = s)) ∧
    (s.get MGT_STAT.STATE = 1 → s.lkoServes = true →
      (∀ eid : Byte, Gives (.mctpMessage (.setEid eid)) s (fun t => t = { s with lko := { s.lko with eid := eid.toNat } })) ∧
      (∀ vals : Vector W32 85, Gives (.mctpMessage (.sensors vals)) s (fun t =>
        t = { s with lko := { s.lko with outbox := s.lko.outbox ++ [s.sensorBytes vals] } } ∧ (s.sensorBytes vals).length = 696)) ∧
      (∀ first : W32, Gives (.mctpMessage (.log first)) s (fun t => t = { s with lko := { s.lko with outbox := s.lko.outbox ++ [s.logFrom first.toNat] } })) ∧
      (∀ body : List Byte, 16 ≤ body.length → leAt body 0 2 = 0x30 → Gives (.mctpMessage (.spdm body)) s (fun t =>
        t = { s with lko := { s.lko with reqs := s.lko.reqs ++ [{ body, src := .mctp }] } })))

/-- R397 to R402, R275. -/
def Obligations.ManagementCommands : Prop :=
  ∀ (s : State) (r : MgtReq) (rest : List MgtReq), s.regsWf → s.lkoServes = true → s.lko.reqs = r :: rest → s.lko.tx = [] →
    let p := r.body.drop 16
    let seq := leAt r.body 4 4
    let told (t : State) (status : Nat) (pl : List Byte) : Prop := t.lko.reqs = rest ∧ t.lko.outbox = s.lko.outbox ++ [r.answer status pl]
    let sent (t : State) : List Byte := (t.lko.outbox.getLast?.getD []).drop (if r.session then 32 else 16)
    let only (t : State) : Prop := t = { s with lko := { s.lko with reqs := t.lko.reqs, outbox := t.lko.outbox } }
    (∀ (status : Nat) (pl : List Byte), r.session = false →
      r.answer status pl = toBytes 2 r.cmd ++ toBytes 2 status ++ toBytes 4 seq ++ toBytes 4 pl.length ++ [0, 0, 0, 0] ++ pl) ∧
    (r.src = .regs → s.lko.rx = [] → r.cmd = 3 → 4 ≤ p.length → s.get MGT_STAT.STATE = 1 → let m := r.answer 0 (s.logFrom (leAt p 0 4))
      Gives .readLog s (fun t => t = { s with regs := t.regs, lko := { s.lko with reqs := rest, rx := BitVec.ofNat 32 m.length :: wordsOf m.length m } } ∧
        t.flag MGT_MBX_RX.VALID = true ∧ t.get MGT_MBX_RX.DATA = m.length)) ∧
    (r.src = .mctp → r.cmd = 1 → Gives .getInfo s (fun t => only t ∧ (let pl := sent t
        told t 0 pl ∧ pl.length = 49 ∧ pl.take 4 = toBytes 4 (s.get MGT_FW_VER.VERSION) ∧
      pl[4]! = BitVec.ofNat 8 (s.get MGT_STAT.FW_SLOT) ∧ pl[7]! = BitVec.ofNat 8 (s.get MGT_ARB.COUNT) ∧
      (pl[48]!.getLsbD 0 = true ↔ s.fuses.keyHash ≠ [])))) ∧
    (r.src = .mctp → s.get MGT_STAT.STATE = 4 → (r.cmd < 0x50 ∨ r.session = true) → ∀ (vals : Vector W32 85) (eyes : Vector W32 34) (dir : Fin 2),
      ∀ c ∈ [((2 : Nat), (Instr.getSensors vals)), (3, (Instr.readLog)), (4, (Instr.laneHealth { dir := dir, eyes := eyes })), (5, (Instr.getCfgAttempts)),
        (0x14, (Instr.arbAdvance)), (0x20, (Instr.fltClear)), (0x40, (Instr.ptpCfg)), (0x50, (Instr.hbmPcClear)), (0x51, (Instr.fuseProgram)), (0x52, (Instr.setKwk))], r.cmd = c.1 → Gives c.2 s (fun t => only t ∧ told t 3 [])) ∧
    (r.src = .mctp → s.get MGT_STAT.STATE = 1 → (0x50 ≤ r.cmd → r.session = true) →
      (r.cmd = 2 → ∀ vals : Vector W32 85, Gives (.getSensors vals) s (fun t => only t ∧ told t 0 (s.sensorBytes vals))) ∧
      (r.cmd = 3 → (p.length < 4 → Gives .readLog s (fun t => only t ∧ told t 2 [])) ∧
        (4 ≤ p.length → Gives .readLog s (fun t => only t ∧
          told t 0 (((s.logEntries.filter (fun e => e.seq ≥ leAt p 0 4)).take 127).flatMap LogEntry.bytes)))) ∧
      (r.cmd = 4 → 3 ≤ p.length → ∀ (dir : Fin 2) (eyes : Vector W32 34), let lg := 2 * (16 * (2 * leAt p 0 1 + leAt p 1 1) + leAt p 2 1) + dir.val
        (leAt p 0 1 < 4 → leAt p 1 1 < 2 → leAt p 2 1 < 16 → Gives (.laneHealth { dir := dir, eyes := eyes }) s (fun t => (let pl := sent t
        told t 0 pl ∧ pl.length = 272 ∧ t = { s with lko := { s.lko with reqs := t.lko.reqs, outbox := t.lko.outbox }, pkg := { s.pkg with eyes := t.pkg.eyes } } ∧
          (∀ l : Fin 34, leAt pl (8 * l.val + 4) 4 = eyes[l].toNat ∧
            leAt pl (8 * l.val) 4 = s.pkg.laneErr.peek (fun _ => 0) (34 * lg + l.val) % 2 ^ 32) ∧
          (Table.wf (fun _ => (0 : W32)) s.pkg.eyes = true → ∀ l : Fin 34, t.pkg.eyes.peek (fun _ => 0) (34 * lg + l.val) = eyes[l])))) ∧
        (4 ≤ leAt p 0 1 ∨ 2 ≤ leAt p 1 1 ∨ 16 ≤ leAt p 2 1 → Gives (.laneHealth { dir := dir, eyes := eyes }) s (fun t => only t ∧ told t 1 []))) ∧
      (r.cmd = 5 → Gives .getCfgAttempts s (fun t => only t ∧ (let pl := sent t
        told t 0 pl ∧ pl.length = 5 ∧ pl[0]! = BitVec.ofNat 8 s.cfg.attempts.length ∧
          (s.pkg.idBad = none → ∀ k < 2, ∀ z : Nat × Nat, s.cfg.attempts[k]? = some z →
            leAt pl (1 + 2 * k) 1 = z.1 % 256 ∧ leAt pl (2 + 2 * k) 1 = z.2 % 256)))) ∧
      (∀ t0 : List Byte, pickTable s.lko.tableA s.lko.tableB = some t0 → s.cfgHasFlash = false →
        (r.cmd = 0x10 → 8 ≤ p.length → leAt p 0 1 < 2 → let g := leAt p 0 1
          let k := 1 - activeSlot t0 g
          (s.lko.update = none → 1 ≤ leAt p 4 4 → leAt p 4 4 ≤ slotSize t0 g k → Gives .updateBegin s (fun t => told t 0 [] ∧
            t.lko.update = some { target := g, len := leAt p 4 4 } ∧ (t.lko.slots.toList.getD (2 * g + k) {}).state = 0 ∧
            (∀ j, j ≠ 2 * g + k → t.lko.slots.toList.getD j {} = s.lko.slots.toList.getD j {}) ∧ t = { s with lko := t.lko })) ∧
          (s.lko.update ≠ none → Gives .updateBegin s (fun t => only t ∧ told t 9 []))) ∧
        (r.cmd = 0x11 → 8 ≤ p.length → p.length ≤ 4072 → ∀ u : Update, s.lko.update = some u → leAt p 0 4 = u.got → leAt p 0 4 % 4 = 0 →
          leAt p 0 4 + (p.length - 8) ≤ u.len → Table.wf (fun _ => (0xFF : Byte)) s.lko.flash = true →
          let base := slotBase t0 u.target (1 - activeSlot t0 u.target) + u.got
          Gives .updateData s (fun t => told t 0 [] ∧ t = { s with lko := t.lko } ∧ t.lko.update = some { u with got := u.got + (p.length - 8) } ∧
            t.flashBytes base (p.length - 8) = p.drop 8 ∧ ∀ a, a < base ∨ base + (p.length - 8) ≤ a → t.flashBytes a 1 = s.flashBytes a 1)) ∧
        (r.cmd = 0x12 → ∀ (u : Update) (code : Fin 32) (sig : Bool), s.lko.update = some u →
          let k := 1 - activeSlot t0 u.target
          let x := s.slotCode u (slotBase t0 u.target k) (slotSize t0 u.target k) code.val sig
          Gives (.updateEnd code sig) s (fun t => t.lko.update = none ∧ t.lko.reqs = rest ∧ t.lko.flash = s.lko.flash ∧
            (t.lko.slots.toList.getD (2 * u.target + k) {} = if u.target < 2 then { state := if x.1 = 0 then 1 else 2, secVer := x.2 }
              else s.lko.slots.toList.getD (2 * u.target + k) {}) ∧
            (x.1 = 0 → told t 0 [0]) ∧ (x.1 = 10 → told t 5 [10]) ∧ t = { s with lko := t.lko, regs := t.regs, host := t.host })) ∧
        (r.cmd = 0x13 → 2 ≤ p.length → leAt p 0 1 < 2 → leAt p 1 1 < 2 → s.lko.update = none →
          let i := 2 * leAt p 0 1 + leAt p 1 1
          ((s.lko.slots.toList.getD i {}).state ≠ 1 → Gives .slotActivate s (fun t => only t ∧ told t 3 [])) ∧
          ((s.lko.slots.toList.getD i {}).state = 1 → Gives .slotActivate s (fun t => told t 0 [] ∧ t = { s with lko := t.lko } ∧
            t.lko.tableA = t.lko.tableB ∧ activeSlot t.lko.tableA (leAt p 0 1) = leAt p 1 1 ∧
            leAt t.lko.tableA 8 4 = (leAt t0 8 4 + 1) % 2 ^ 32)))) ∧
      (r.cmd = 0x14 → 1 ≤ p.length → s.vauxOk = true → leAt p 0 1 ≤ s.lko.secVer → s.cfg.phase = 4 → leAt p 0 1 ≤ s.get CFG_IMG_ID.SEC_VER →
        s.get MGT_ARB.COUNT < 64 → Gives .arbAdvance s (fun t => t.get MGT_ARB.COUNT = max (s.get MGT_ARB.COUNT) (min (leAt p 0 1) 64) ∧
          told t 0 [BitVec.ofNat 8 (t.get MGT_ARB.COUNT)] ∧ t = { s with lko := t.lko, regs := t.regs })) ∧
      (r.cmd = 0x14 → 1 ≤ p.length → s.get MGT_ARB.COUNT ≠ 64 → s.cfg.phase = 4 → (s.get CFG_IMG_ID.SEC_VER < leAt p 0 1 ∨ s.lko.secVer < leAt p 0 1) →
        Gives .arbAdvance s (fun t => only t ∧ told t 3 [])) ∧
      (r.cmd = 0x14 → 1 ≤ p.length → s.get MGT_ARB.COUNT = 64 → Gives .arbAdvance s (fun t => told t 8 [] ∧ t.get MGT_ARB.COUNT = 64)) ∧
      (r.cmd = 0x15 → Gives .lkoRestart s (fun t => t.lko.outbox = s.lko.outbox ++ [r.answer 0 []] ∧ t.get MGT_STAT.STATE = 3 ∧ t.lko.rx = [])) ∧
      (r.cmd = 0x20 → 4 ≤ p.length → Gives .fltClear s (fun t => told t 0 (toBytes 4 (t.reg 0xA0000).toNat) ∧
        t.reg 0xA0000 = (s.fltClear (leAt p 0 4)).reg 0xA0000 ∧ t.lko = { s.lko with reqs := rest, outbox := t.lko.outbox })) ∧
      (r.cmd = 0x30 → ∀ reply : List Byte,
        Gives (.spdm reply none none) s (fun t => only t ∧ told t 0 reply) ∧
        (∀ open_ : Bool, Gives (.spdm reply (some open_) none) s (fun t => told t 0 reply ∧ t.flag MGT_STAT.SPDM = open_)) ∧
        (∀ app : List Byte, r.session = false → s.flag MGT_STAT.SPDM = true → 16 ≤ app.length → mgtCmds.contains (leAt app 0 2) = true → leAt app 0 2 ≠ 0x30 →
          Gives (.spdm reply none (some app)) s (fun t =>
            t = { s with lko := { s.lko with reqs := { body := app, src := .mctp, session := true } :: rest } }))) ∧
      (r.cmd = 0x40 → 2 ≤ p.length → Gives .ptpCfg s (fun t => told t 0 [] ∧
        t = { s with lko := { s.lko with
          reqs := rest, outbox := t.lko.outbox, ptpOn := leAt p 0 1 != 0, ptpDomain := leAt p 1 1 } })) ∧
      (r.cmd = 0x50 → 8 ≤ p.length → leAt p 0 1 < 2 → s.flag MGT_STAT.RAM_ONLY = false → Gives .hbmPcClear s (fun t => told t 0 [] ∧
        t = { s with lko := t.lko, hbm := { s.hbm with record := t.hbm.record } } ∧
        ∀ x, x ∈ t.hbm.record ↔ x ∈ s.hbm.record ∧ ¬ (x / 32 = leAt p 0 1 ∧ nbit (leAt p 4 4) (x % 32) = true))) ∧
      (r.cmd = 0x51 → s.vauxOk = true → 52 ≤ p.length →
        (leAt p 0 1 = 1 → s.fuses.keyHash = [] → Gives .fuseProgram s (fun t => told t 0 [] ∧ t.fuses = { s.fuses with keyHash := (p.drop 4).take 48 })) ∧
        (leAt p 0 1 = 1 → s.fuses.keyHash ≠ [] → Gives .fuseProgram s (fun t => only t ∧ told t 8 [])) ∧
        (leAt p 0 1 = 3 → s.fuses.debugHash = [] → Gives .fuseProgram s (fun t => told t 0 [] ∧ t.flag DBG_STAT.OPEN = false ∧
          t.fuses = { s.fuses with debugHash := (p.drop 4).take 48 }))) ∧
      (r.cmd = 0x52 → 32 ≤ p.length → Gives .setKwk s (fun t => told t 0 [] ∧ t.cry = { s.cry with kwk := p.take 32 } ∧ t.flag CRY_CTL.KWK = true ∧
        t = { s with lko := t.lko, cry := t.cry, regs := t.regs }))) ∧
    (r.src = .mctp → s.get MGT_STAT.STATE = 1 → r.session = false →
      (r.cmd = 0x51 → Gives .fuseProgram s (fun t => only t ∧ told t 6 [])) ∧ (r.cmd = 0x52 → Gives .setKwk s (fun t => only t ∧ told t 6 [])) ∧
      (r.cmd = 0x50 → Gives .hbmPcClear s (fun t => only t ∧ told t 6 [])))

/-- R404 to R419, R39. -/
def Obligations.CairnReactions : Prop :=
  ∀ (s : State), s.regsWf →
    (∀ (m : FaultMsg) (rest : List FaultMsg) (ns : BitVec 32), s.inbox = m :: rest → m.kind < 64 → m.source < 4096 → m.sev < 4 →
      (let ring : FaultMsg := { kind := 0x1D, source := srcCairn, sev := 3, addr := if m.source / 512 < 4 then m.source / 512 else 4 }
       Gives (.cairnMessage false ns) s (fun t => t = { s with inbox := rest ++ [ring] })) ∧
      (let k := m.kind
       let count := min (s.get (FLT_KIND_CNT.COUNT k) + 1) 0xFFFFFFFF
       let sev := max m.sev (s.get (FLT_KIND_CFG.SEV_FLOOR k))
       (s.flag (FLT_KIND_CFG.MASK k) = true → Gives (.cairnMessage true ns) s (fun t => t = { s with inbox := rest, regs := t.regs } ∧
         t.get (FLT_KIND_CNT.COUNT k) = count ∧ t.reg 0xA0000 = s.reg 0xA0000)) ∧
       (s.flag (FLT_KIND_CFG.MASK k) = false → s.reacts k 4 = false → s.reacts k 5 = false → Gives (.cairnMessage true ns) s (fun t =>
         t = { s with inbox := rest, regs := t.regs, cairn := t.cairn, lko := t.lko, host := t.host } ∧
         t.get (FLT_KIND_CNT.COUNT k) = count ∧ t.flag FLT_STAT.LATCHED = true ∧
         (s.flag FLT_STAT.LATCHED = false → t.get FLT_FIRST_MSG.SOURCE = m.source ∧ t.get FLT_FIRST_MSG.KIND = k ∧ t.get FLT_FIRST_MSG.SEV = sev ∧
           t.flag FLT_FIRST_MSG.RELATCH = false ∧ t.get FLT_FIRST_TIME.VALUE = s.now ∧ t.flag FLT_STAT.OVF = s.flag FLT_STAT.OVF) ∧
         (s.flag FLT_STAT.LATCHED = true → t.flag FLT_STAT.OVF = true ∧ t.get FLT_FIRST_MSG.KIND = s.get FLT_FIRST_MSG.KIND) ∧
         t.flag FLT_STAT.CRIT = (s.flag FLT_STAT.CRIT || sev == 3) ∧ (sev = 3 → t.flag FLT_STAT.ALIVE_RUN = false) ∧
         t.flag FLT_STAT.SAFE = (s.flag FLT_STAT.SAFE || s.reacts k 3))) ∧
       (s.flag (FLT_KIND_CFG.MASK k) = false → s.reacts k 4 = true → Gives (.cairnMessage true ns) s (fun t =>
         t.flag FLT_STAT.SAFE = true ∧ t.flag FLT_STAT.PARKED = true ∧ t.flag FLT_STAT.ALIVE_RUN = false ∧ t.get (FLT_KIND_CNT.COUNT k) = count)) ∧
       (s.flag (FLT_KIND_CFG.MASK k) = false → s.reacts k 4 = false → s.reacts k 5 = true → let d := m.source / 512
         Gives (.cairnMessage true ns) s (fun t => t.get (FLT_KIND_CNT.COUNT k) = count ∧
           (4 ≤ d → t.flag FLT_STAT.SAFE = true ∧ t.pkg = s.pkg) ∧
           (d < 4 → s.dieGone d = true ∨ s.pkg.dieReset.contains d = true → t.pkg = s.pkg) ∧
           (d < 4 → s.presence d = .present → s.pkg.dieReset = [] → t.pkg.dieReset = [d] ∧ t.presence d = .silent)))))  ∧
    (∀ d : Fin 4, s.pkg.dieReset.contains d.val = true → s.dieGone d.val = true → Gives (.dieResetRelease d) s (fun t =>
      t = { s with pkg := { s.pkg with dieReset := t.pkg.dieReset } } ∧ ∀ e, e ∈ t.pkg.dieReset ↔ e ∈ s.pkg.dieReset ∧ e ≠ d.val)) ∧
    (∀ d : Fin 4, (s.pkg.dieReset.contains d.val && s.dieGone d.val) = false → Gives (.dieResetRelease d) s (fun t => t = s)) ∧
    (∀ ns : BitVec 32, s.inbox = [] → Gives (.cairnMessage true ns) s (fun t => t = s)) ∧
    (∀ g : Fin 5, (s.segmentOff g.val = true ∨ s.cairn.missing.contains g.val = true → Gives (.ringTokenTimeout g false) s (fun t => t = s)) ∧
      (s.cairn.missing.contains g.val = false → Gives (.ringTokenTimeout g true) s (fun t => t = s))) ∧
    (s.flag FLT_STAT.SAFE_REQ = true → Gives .safeReqNLow s (fun t => t = s)) ∧ (s.flag FLT_STAT.SAFE_REQ = false → Gives .safeReqNRise s (fun t => t = s)) ∧
    (∀ g : Fin 5, s.segmentOff g.val = false →
      (s.cairn.missing.contains g.val = false → Gives (.ringTokenTimeout g false) s (fun t => t.flag FLT_STAT.RING_OK = false ∧
        t.inbox = s.inbox ++ [{ kind := 0x1D, source := srcCairn, sev := 3, addr := g.val }] ∧ g.val ∈ t.cairn.missing ∧
        t = { s with regs := t.regs, cairn := { s.cairn with missing := t.cairn.missing }, inbox := t.inbox })) ∧
      (s.cairn.missing = [g.val] → Gives (.ringTokenTimeout g true) s (fun t => t.flag FLT_STAT.RING_OK = true ∧
        t = { s with regs := t.regs, cairn := { s.cairn with missing := [] } }))) ∧
    (s.flag FLT_STAT.SAFE_REQ = false → Gives .safeReqNLow s (fun t => t.flag FLT_STAT.SAFE_REQ = true ∧
      t = { s with regs := t.regs, inbox := s.inbox ++ [{ kind := 0x01, source := 0xE0C, sev := 2, addr := 0 }] })) ∧
    (s.flag FLT_STAT.SAFE_REQ = true → Gives .safeReqNRise s (fun t => t.flag FLT_STAT.SAFE_REQ = false ∧ t.inbox = s.inbox ∧
      (s.flag FLT_CTL.REQ_AUTO = false → t.flag FLT_STAT.SAFE = s.flag FLT_STAT.SAFE ∧ t = { s with regs := t.regs }))) ∧
    (∀ w : W32, let live := s.causes.filter (fun c => !s.flag (FLT_KIND_CFG.MASK c.2.1))
      let park := live.any (fun c => s.reacts c.2.1 4)
      let safe := park || live.any (fun c => s.reacts c.2.1 3)
      let crit := live.any (fun c => s.severity c.2.1 (kindSev c.2.1) == 3)
      Gives (.fltStatClear w) s (fun t => t = { s with regs := t.regs, host := t.host } ∧
        t.flag FLT_STAT.OVF = (s.flag FLT_STAT.OVF && !w.getLsbD 30) ∧ t.flag FLT_STAT.CRIT = (s.flag FLT_STAT.CRIT && (crit || !w.getLsbD 29)) ∧
        t.flag FLT_STAT.SAFE = (s.flag FLT_STAT.SAFE && (safe || !w.getLsbD 28)) ∧ t.flag FLT_STAT.PARKED = (s.flag FLT_STAT.PARKED && (park || !w.getLsbD 27)) ∧
        (live = [] ∨ w.getLsbD 31 = false → t.flag FLT_STAT.LATCHED = (s.flag FLT_STAT.LATCHED && !w.getLsbD 31) ∧
          t.get FLT_FIRST_MSG.KIND = s.get FLT_FIRST_MSG.KIND) ∧
        (live ≠ [] → w.getLsbD 31 = true → t.flag FLT_STAT.LATCHED = true ∧ t.flag FLT_FIRST_MSG.RELATCH = true ∧ t.get FLT_FIRST_TIME.VALUE = s.now ∧
          live.all (fun c => t.get FLT_FIRST_MSG.SOURCE ≤ c.1) = true ∧
          live.any (fun c => c.1 == t.get FLT_FIRST_MSG.SOURCE && c.2.1 == t.get FLT_FIRST_MSG.KIND) = true))) ∧
    (s.flag FLT_STAT.SAFE_REQ = true → s.flag FLT_CTL.REQ_AUTO = true → Gives .safeReqNRise s (fun t =>
      t = (s.putB FLT_STAT.SAFE_REQ false).fltClear (2 ^ 31 + 2 ^ 28))) ∧
    (∀ inj : W64, (fieldOf inj 59 59 = 0 → Gives (.fltInjGo inj) s (fun t => t = { s with regs := t.regs } ∧
        t.get FLT_INJ.KIND = fieldOf inj 45 40 ∧ t.get FLT_INJ.ALLOW = s.get FLT_INJ.ALLOW)) ∧
      (fieldOf inj 59 59 = 1 → fieldOf inj 61 60 = 1 →
        (nbit (s.get FLT_INJ.ALLOW) 0 = true → kindListed (fieldOf inj 45 40) = true → Gives (.fltInjGo inj) s (fun t =>
          let sent := t.inbox.getLast?.getD { kind := 0, source := 0, sev := 0, addr := 0 }
          t.inbox = s.inbox ++ [sent] ∧ sent.kind = fieldOf inj 45 40 ∧ sent.source = fieldOf inj 57 46 ∧ sent.inj = true ∧
            t = { s with regs := t.regs, inbox := t.inbox, free := t.free })) ∧
        (nbit (s.get FLT_INJ.ALLOW) 0 = false ∨ kindListed (fieldOf inj 45 40) = false → Gives (.fltInjGo inj) s (fun t =>
          t = { s with regs := t.regs } ∧ t.flag FLT_INJ.ERR = true))) ∧
      (fieldOf inj 59 59 = 1 → fieldOf inj 61 60 = 2 → let chk := fieldOf inj 39 37
        (nbit (s.get FLT_INJ.ALLOW) 1 = true → chk < 6 → Gives (.fltInjGo inj) s (fun t => t = { s with regs := t.regs, cairn := { s.cairn with
          checks := s.cairn.checks ++ [(fieldOf inj 57 46, chk, max 1 (fieldOf inj 36 29))] } })) ∧
        (nbit (s.get FLT_INJ.ALLOW) 1 = false → Gives (.fltInjGo inj) s (fun t => t = { s with regs := t.regs } ∧ t.flag FLT_INJ.ERR = true)))) ∧
    Gives .fltCntClr s (fun t => t = { s with regs := t.regs } ∧ t.get FLT_STAT.LKO_OVF = 0 ∧ ∀ k < 64, t.get (FLT_KIND_CNT.COUNT k) = 0)

/-! ### Twin mode (chapter 15) -/

/-- R420 to R431, R434, R285. -/
def Obligations.PairingAndMirroring : Prop :=
  ∀ (s : State), s.regsWf →
    (∀ (d : Desc) (hash : List Byte), s.mayStart d = true →
      (d.opcode = 0x48 → d.only 2 1 = true → d.only 3 (bitsHL 47 0) = true → d.f 3 47 47 = 1 → d.zeroFrom 4 = true →
        let code := (s.started d).hostCode (d.f 3 47 0) 48
        (∀ rd : Byte, code ≠ 0 ∨ rd ≠ 0 → Gives (.twnPair d hash rd) s (fun t => t = (s.started d).endDesc d (if code ≠ 0 then code else rd.toNat) 0 0)) ∧
        (code = 0 → s.role = 0 → (∀ k < 8, s.get (IOB_LANE_CFG.OWNER (56 + k)) = 0) → Gives (.twnPair d hash 0) s (fun t => t.role = 1 ∧
          t.twin = { s.twin with hash := hash, desc := some d, asked := 2 + d.f 2 0 0, stage := 1 } ∧
          (∀ k < 8, t.get (IOB_LANE_CFG.OWNER (56 + k)) = 4) ∧ (∀ q < 2, t.get (IOB_QPLL.FB (14 + q)) = 2240) ∧ t.mem = s.mem)) ∧
        (code = 0 → s.role ≠ 0 → Gives (.twnPair d hash 0) s (fun t => t = (s.started d).opDone d 1 0)) ∧
        (code = 0 → s.role = 0 → ¬ (∀ k < 8, s.get (IOB_LANE_CFG.OWNER (56 + k)) = 0) → Gives (.twnPair d hash 0) s (fun t =>
          t = (s.started d).opDone d 2 0))) ∧
      (d.opcode = 0x49 → d.zeroFrom 2 = true →
        (s.role < 2 → Gives (.twnUnpair d) s (fun t => t = (s.started d).opDone d 1 0)) ∧
        (2 ≤ s.role → Gives (.twnUnpair d) s (fun t => t.role = 0 ∧ t.partnerUp = false ∧ t.twin.notices = s.twin.notices ++ [2, 2, 2] ∧
          t.twin.desc = none ∧ t.twin.ckpt = [] ∧ t.twin.held = [] ∧ t.twin.out = [] ∧ (∀ n < 16, t.regionSt n = 0) ∧
          (s.twin.desc = none → s.twin.out = [] → t.mem = s.mem)))) ∧
      (d.opcode = 0x4E → d.only 2 (bitsHL 7 0) = true → d.zeroFrom 3 = true → Gives (.versionSet d) s (fun t =>
        t = { s with regs := t.regs, host := t.host } ∧ t.get TWN_VER.PINNED = d.f 2 7 0 ∧ t.get TWN_VER.ACTIVE = s.get TWN_VER.ACTIVE)) ∧
      (d.opcode = 0x4A → d.only 2 (bitsHL 31 16 + bitsHL 4 0) = true → d.only 3 (bitsHL 47 0) = true → d.only 4 (bitsHL 14 0) = true →
        d.zeroFrom 5 = true → d.f 2 4 4 = 1 ∨ 10 ≤ d.f 2 31 16 → ∀ peer : Bool,
        let n := d.f 2 3 0
        let base := d.f 3 47 0
        let fits : Bool := d.f 4 14 0 != 0 && base % unit2M == 0 && hbmRegionOk base (d.f 4 14 0) && peer && s.regionSt n == 0 &&
          !s.takenSpans.any (fun p => spansMeet base (base + d.f 4 14 0 * unit2M) p.1 p.2)
        (s.role ≠ 2 → Gives (.mirrorAdd d peer) s (fun t => t = (s.started d).opDone d 1 0)) ∧
        (s.role = 2 → fits = false → Gives (.mirrorAdd d peer) s (fun t => t = (s.started d).opDone d 5 0)) ∧
        (s.role = 2 → fits = true → Gives (.mirrorAdd d peer) s (fun t => t.regionSt n = (if s.partnerUp then 1 else 3) ∧
          t.regionBase n = base ∧ t.get (TWN_REG.SIZE n) = d.f 4 14 0 ∧ t.get (TWN_REG.SYNC n) = d.f 2 4 4 ∧
          t.get (TWN_REG.LAG_US n) = (if d.f 2 4 4 = 1 then 0 else d.f 2 31 16) ∧
          (∀ k < 16, k ≠ n → t.regionSt k = s.regionSt k) ∧ t = { s with regs := t.regs, host := t.host, twin := t.twin }))) ∧
      (d.opcode = 0x4B → d.only 2 (bitsHL 3 0) = true → d.zeroFrom 3 = true → let n := d.f 2 3 0
        (s.role ≠ 2 → Gives (.mirrorRemove d) s (fun t => t = (s.started d).opDone d 1 0)) ∧
        (s.role = 2 → s.regionSt n = 0 → Gives (.mirrorRemove d) s (fun t => t = (s.started d).opDone d 5 0)) ∧
        (s.role = 2 → s.regionSt n ≠ 0 → (∀ x ∈ s.twin.out, x.wrack = none) → Gives (.mirrorRemove d) s (fun t => t.regionSt n = 0 ∧
          t.get (TWN_REG.SIZE n) = 0 ∧ (∀ k < 16, k ≠ n → t.regionSt k = s.regionSt k) ∧ t = { s with regs := t.regs, host := t.host, twin := t.twin } ∧
          t.twin = { s.twin with out := s.twin.out.filter (fun x => !(x.kind == 3 && x.region == n)) })))) ∧
    (∀ (role : Fin 2) (vmin vmax : Byte),
      (s.role = 1 → s.twin.stage = 1 → s.areteUp = true →
        (∀ ok : Bool, ok = false ∨ s.twin.asked = 2 + role.val → Gives (.hello role vmin vmax ok) s (fun t =>
          t = s.pairFail (if ok then 7 else 3) ∧ t.role = 0 ∧ t.twin.desc = none ∧ ∀ k < 8, t.get (IOB_LANE_CFG.OWNER (56 + k)) = 0)) ∧
        (s.twin.asked ≠ 2 + role.val → Gives (.hello role vmin vmax true) s (fun t =>
          t = { s with regs := t.regs, cry := t.cry, twin := { s.twin with stage := 2 } } ∧
          t.cry = { s.cry with arlRx := false, arlOld := false, arlFails := 0, arlSent := 0, arlSince := s.now } ∧
          t.get TWN_VER.PEER_MIN = vmin.toNat ∧ t.get TWN_VER.PEER_MAX = vmax.toNat ∧ t.flag CRY_ARL_STAT.KEYED = true ∧ t.get CRY_ARL_STAT.KEY_ID = 0))) ∧
      (2 ≤ s.role → s.areteUp = true → s.partnerUp = true → Gives (.hello role vmin vmax true) s (fun t => t = { s with regs := t.regs } ∧
        t.get TWN_VER.PEER_MIN = vmin.toNat ∧ t.get TWN_VER.PEER_MAX = vmax.toNat ∧ t.role = s.role)) ∧
      (s.role = 0 ∨ s.areteUp = false → ∀ ok : Bool, Gives (.hello role vmin vmax ok) s (fun t => t = s))) ∧
    (s.role = 1 → s.twin.stage = 1 → Gives .helloTimeout s (fun t => t = s.pairFail 6 ∧ t.role = 0 ∧ t.twin.desc = none)) ∧
    (s.role = 1 → s.twin.stage = 2 → s.twin.asked < 8 →
      (s.negotiate = none → Gives .pairingComplete s (fun t => t = s.pairFail 4 ∧ t.role = 0 ∧ t.twin.desc = none)) ∧
      (∀ v : Nat, s.negotiate = some v → Gives .pairingComplete s (fun t => t.role = s.twin.asked ∧ t.partnerUp = true ∧ t.get TWN_VER.ACTIVE = v ∧
        t.twin.desc = none ∧ t.twin.sendSeq = 0 ∧ t.twin.gotSeq = 0 ∧ t.twin.gotOther = 0 ∧ t = { s with regs := t.regs, host := t.host, twin := t.twin }))) ∧
    (s.role ≠ 1 → Gives .helloTimeout s (fun t => t = s) ∧ Gives .pairingComplete s (fun t => t = s)) ∧
    (∀ n : Fin 16, let k := s.get (TWN_REG.SIZE n.val) * 4096
      (s.role = 2 → s.partnerUp = true → s.regionSt n.val = 1 → Gives (.mirrorSweepComplete n) s (fun t => t.regionSt n.val = 2 ∧
        nbit (t.get TWN_STAT.IN_SYNC) n.val = true ∧ t.twin.sendSeq = s.twin.sendSeq + k ∧
        t = { s with regs := t.regs, host := t.host, twin := t.twin, cry := { s.cry with arlSent := s.cry.arlSent + k } })) ∧
      (s.role ≠ 2 ∨ s.partnerUp = false ∨ s.regionSt n.val ≠ 1 → Gives (.mirrorSweepComplete n) s (fun t => t = s))) ∧
    (∀ h : ArlHead, s.areteUp = true →
      let lossless (c : Instr) : Prop := (s.arlGood h = false → Gives c s (fun t => t = s.arlFailed.say 5 s.twin.gotSeq)) ∧
        (s.arlGood h = true → h.seq < s.twin.gotSeq → Gives c s (fun t => t = s.replayed)) ∧
        (s.arlGood h = true → s.twin.gotSeq < h.seq → Gives c s (fun t => t = s.frameGood.say 5 s.twin.gotSeq))
      let single (c : Instr) : Prop := (s.arlGood h = false → Gives c s (fun t => t = s.arlFailed)) ∧
        (s.arlGood h = true → h.seq < s.twin.gotOther → Gives c s (fun t => t = s.replayed))
      let fresh : Prop := s.arlGood h = true ∧ s.twin.gotOther ≤ h.seq
      (∀ (n : Fin 16) (dpa : BitVec 48) (mask : List Bool) (data : List Byte), s.role = 3 → s.regionSt n.val ≠ 0 → data ≠ [] → data.length ≤ 512 →
        mask.length = data.length → lossless (.mirrorWr n h.seq dpa mask data { key := h.key, ok := h.ok }) ∧
        (s.arlGood h = true → s.twin.gotSeq = h.seq → mask = List.replicate data.length true → dpa.toNat % 64 + data.length ≤ 64 →
          (s.hbmCheck dpa.toNat data.length = 0 → s.lineForm (dpa.toNat / 64) = .plain → Gives (.mirrorWr n h.seq dpa mask data { key := h.key, ok := h.ok }) s (fun t =>
            t.twin = { s.twin with gotSeq := h.seq + 1, reply := some (4, h.seq) } ∧ t.mem = (s.frameGood.store dpa.toNat data).mem)) ∧
          (s.hbmCheck dpa.toNat data.length ≠ 0 → Gives (.mirrorWr n h.seq dpa mask data { key := h.key, ok := h.ok }) s (fun t =>
            t.twin = { s.twin with gotSeq := h.seq + 1, reply := some (5, h.seq) } ∧ t.mem = s.mem)))) ∧
      (s.role ≠ 3 → ∀ (n : Fin 16) (dpa : BitVec 48) (data : List Byte), data ≠ [] → data.length ≤ 512 →
        Gives (.mirrorWr n h.seq dpa (List.replicate data.length true) data { key := h.key, ok := h.ok }) s (fun t => t = s)) ∧
      (∀ (role : Fin 5) (missed : Fin 5) (seq : Nat) (skew failed : Bool), 2 ≤ s.role →
        single (.ack seq skew h) ∧ single (.nak seq failed h) ∧ (s.role < 4 → single (.heartbeat role missed [] h)) ∧
        (s.flag CRY_ARL_STAT.KEYED = true → single (.key h)) ∧
        (fresh → s.takingOver = false → s.twin.ckpt = [] → (∀ x ∈ s.twin.out, x.wrack = none) → Gives (.ack seq skew h) s (fun t =>
          t = { s.frameGood with twin := { s.twin with out := s.twin.out.filter (fun x => !decide (x.seq ≤ seq)), gotOther := h.seq + 1 } })) ∧
        (let again := (s.twin.out.filter (fun x => decide (seq ≤ x.seq))).length
         fresh → Gives (.nak seq false h) s (fun t =>
          t = { s with regs := t.regs, twin := { s.twin with gotOther := h.seq + 1 }, cry := { s.cry with arlFails := 0, arlSent := s.cry.arlSent + again } } ∧
          t.get TWN_LINK.RETX = min (s.get TWN_LINK.RETX + again) 65535)) ∧
        (∀ x : TwinFrame, fresh → s.twin.out.find? (fun g => g.seq == seq && g.kind == 3) = some x → (∀ g ∈ s.twin.out, g.wrack = none) →
          x.region < 16 → s.regionSt x.region ≠ 0 → Gives (.nak seq true h) s (fun t => t.regionSt x.region = 1 ∧
            t.twin.out = s.twin.out.filter (fun g => !(g.seq == seq)) ∧ t.inbox = s.inbox ++ [{ kind := 0x22, source := srcArete, sev := 2, addr := 0 }] ∧
            t = { s with regs := t.regs, host := t.host, twin := t.twin, cry := t.cry, inbox := t.inbox })) ∧
        (fresh → s.flag CRY_ARL_STAT.KEYED = true → Gives (.key h) s (fun t => t = { s with
          twin := { s.twin with gotOther := h.seq + 1 }, cry := { s.cry with arlFails := 0, arlRx := !s.cry.arlRx, arlOld := true } }))) ∧
      (∀ (role : Fin 5) (missed : Fin 5), s.role = 2 → fresh → s.twin.out = [] →
        (∀ v : Nat, role.val ≠ 2 → s.negotiate = some v → Gives (.heartbeat role missed [] h) s (fun t => t.role = 2 ∧ t.partnerUp = true ∧
          t.get TWN_VER.ACTIVE = v ∧ t.twin.lastBeat = s.now ∧ t.get TWN_LINK.MISSED = min (s.get TWN_LINK.MISSED + missed.val) 65535 ∧
          (s.partnerUp = false → ∀ n < 16, s.regionSt n ≠ 0 → t.regionSt n = 1) ∧ (s.partnerUp = true → ∀ n < 16, t.regionSt n = s.regionSt n))) ∧
        (role.val = 2 → s.flag TWN_STAT.DUAL = false → Gives (.heartbeat role missed [] h) s (fun t => t.role = 2 ∧ t.flag TWN_STAT.DUAL = true ∧
          t.partnerUp = false ∧ ∀ n < 16, s.regionSt n ≠ 0 → t.regionSt n = 3))) ∧
      (∀ (role : Fin 5) (missed : Fin 5) (n : Fin 16) (w : W64) (v : Nat), s.role = 3 → fresh → s.negotiate = some v →
        Gives (.heartbeat role missed [(n, w)] h) s (fun t => t.role = 3 ∧ t.partnerUp = true ∧ t.reg (TWN_REG.STATE n.val).addr = w ∧
          t.twin = { s.twin with gotOther := h.seq + 1, lastBeat := s.now } ∧ t.mem = s.mem)) ∧
      (∀ cause : Fin 5, s.role = 2 ∨ s.role = 3 → lossless (.notice cause h.seq { key := h.key, ok := h.ok }) ∧
        (s.arlGood h = true → s.twin.gotSeq = h.seq → s.partnerUp = true → s.takingOver = false → s.twin.out = [] →
          Gives (.notice cause h.seq { key := h.key, ok := h.ok }) s (fun t => t.role = (if cause.val = 2 then 0 else if s.role = 2 then 2 else 4) ∧ t.partnerUp = false ∧ t.mem = s.mem ∧
            t.inbox = s.inbox ++ [{ kind := 0x20, source := srcArete, sev := 2, addr := 0 }])))) ∧
    (s.partnerUp = true → s.takingOver = false → s.twin.out = [] → (s.role = 2 ∨ s.role = 3) → Gives .partnerHeartbeatTimeout s (fun t => t.partnerUp = false ∧
      t.role = (if s.role = 3 ∧ s.flag TWN_CTL.AUTO_PROMOTE = true then 4 else s.role) ∧
      t.get TWN_LINK.MISSED = min (s.get TWN_LINK.MISSED + 5) 65535 ∧ (s.role = 2 → ∀ n < 16, s.regionSt n ≠ 0 → t.regionSt n = 3) ∧
      t.inbox = s.inbox ++ [{ kind := 0x20, source := srcArete, sev := 2, addr := 0 }])) ∧
    (s.partnerUp = false → Gives .partnerHeartbeatTimeout s (fun t => t = s)) ∧
    (∀ v : W32, (v.getLsbD 0 = true → Gives (.twnCntClr v) s (fun t => t = { s with regs := t.regs } ∧ t.get TWN_LINK.MISSED = 0 ∧ t.get TWN_LINK.RETX = 0)) ∧
      (v.getLsbD 0 = false → Gives (.twnCntClr v) s (fun t => t = s)))

/-- R429 to R431, R435, R438. -/
def Obligations.CheckpointsAndPromotion : Prop :=
  ∀ (s : State), s.regsWf → Table.wf (fun _ => ({} : CkptSet)) s.twin.ckpt = true →
    (∀ d : Desc, s.mayStart d = true →
      (d.opcode = 0x4C → d.only 2 (bitsHL 32 16 + bitsHL 9 0) = true → d.zeroFrom 3 = true → let c := d.f 2 9 0
        (s.role ≠ 2 → Gives (.ckptSet d) s (fun t => t = (s.started d).opDone d 1 0)) ∧
        (s.role = 2 → s.stateful c = false → Gives (.ckptSet d) s (fun t => t = (s.started d).opDone d 8 0)) ∧
        (s.role = 2 → s.stateful c = true → d.f 2 31 16 = 0 → Gives (.ckptSet d) s (fun t => t.ckptOf c = {} ∧ t.mem = s.mem ∧
          ∀ e, e ≠ c → t.ckptOf e = s.ckptOf e)) ∧
        let fits := (s.modCkpt c (fun k => { k with interval := d.f 2 31 16, quiesce := d.f 2 32 32 == 1 })).ckptFits
        (s.role = 2 → s.stateful c = true → d.f 2 31 16 ≠ 0 → fits = false → Gives (.ckptSet d) s (fun t => t = (s.started d).opDone d 9 0)) ∧
        (s.role = 2 → s.stateful c = true → d.f 2 31 16 ≠ 0 → fits = true →
          Gives (.ckptSet d) s (fun t => t.ckptOf c = { s.ckptOf c with interval := d.f 2 31 16, quiesce := d.f 2 32 32 == 1 } ∧
            t = { s with regs := t.regs, host := t.host, twin := t.twin } ∧ ∀ e, e ≠ c → t.ckptOf e = s.ckptOf e))) ∧
      (d.opcode = 0x4D → d.zeroFrom 2 = true → s.twin.desc = none →
        (s.role ≠ 2 ∨ s.partnerUp = false ∨ ¬ (∀ n < 16, s.regionSt n = 0 ∨ s.regionSt n = 2) → Gives (.takeover d) s (fun t =>
          t = (s.started d).opDone d 1 0)) ∧
        (s.role = 2 → s.partnerUp = true → (∀ n < 16, s.regionSt n = 0 ∨ s.regionSt n = 2) → s.twin.ckpt = [] → s.twin.out = [] →
          Gives (.takeover d) s (fun t => t.role = 3 ∧ t.twin.notices = s.twin.notices ++ [4, 4, 4] ∧ t.twin.desc = none ∧
            t = { s with regs := t.regs, host := t.host, twin := t.twin, cry := { s.cry with arlSent := s.cry.arlSent + 3 } })) ∧
        (let cs := ((s.twin.ckpt.filter (fun p => p.2.interval != 0)).map (fun p => p.1)).filter (fun c => (s.ctx c).state == 4 || (s.ctx c).state == 5)
         s.role = 2 → s.partnerUp = true → (∀ n < 16, s.regionSt n = 0 ∨ s.regionSt n = 2) → cs ≠ [] → Gives (.takeover d) s (fun t =>
           t.role = 2 ∧ t.twin.desc = some d ∧ t.twin.drain = cs ∧ t.twin.notices = s.twin.notices))) ∧
      (d.opcode = 0x4F → d.zeroFrom 2 = true →
        (s.role ≠ 3 ∨ s.partnerUp = true → Gives (.promote d) s (fun t => t = (s.started d).opDone d 1 0)) ∧
        (s.role = 3 → s.partnerUp = false → Gives (.promote d) s (fun t => t.role = 4 ∧ t.twin = { s.twin with rx := none, promoted := s.now, desc := some d })))) ∧
    (s.role ≠ 2 → ∀ c : BitVec 10, Gives (.checkpointInterval c) s (fun t => t = s)) ∧
    (∀ c : BitVec 10, let n := c.toNat
      s.role = 2 → (s.ckptOf n).interval ≠ 0 → (s.ckptOf n).run = 0 → (s.ctx n).state = 4 → s.takingOver = false →
      ((s.ckptOf n).quiesce = false → Gives (.checkpointInterval c) s (fun t => (t.ckptOf n).run = 2 ∧
        t.swb.portJobs = s.swb.portJobs ++ [{ die := (s.ctx n).die, rank := 3, ctx := n }] ∧ t = { s with twin := t.twin, swb := t.swb })) ∧
      (∀ (i : Nat) (l : List Nat), (s.ckptOf n).quiesce = true → s.islandsOf n = i :: l → Table.wf (fun _ => ({} : Island)) s.isl = true →
        Gives (.checkpointInterval c) s (fun t => (t.ckptOf n).run = 1 ∧ (t.island i).qreq = true ∧ t = { s with twin := t.twin, isl := t.isl }))) ∧
    (∀ c : BitVec 10, let n := c.toNat
      s.takingOver = false →
        ((s.ckptOf n).run = 0 → Gives (.checkpointReadbackComplete c) s (fun t => t = s)) ∧
        ((s.ckptOf n).run ≠ 0 → (s.ctx n).state ≠ 4 → (s.ctx n).state ≠ 6 → Gives (.checkpointReadbackComplete c) s (fun t => t = s.failCkpt n 1 ∧
          (t.ckptOf n).run = 0))) ∧
    (∀ (seq : Nat) (h : ArlHead), s.role = 2 → s.areteUp = true → s.arlGood h = true → s.twin.gotOther ≤ h.seq → s.takingOver = false →
      Gives (.ack seq false h) s (fun t => ∀ p ∈ s.twin.ckpt, ∀ k : Nat, p.2.lastFrame = some k →
        (k ≤ seq → t.ckptOf p.1 = { s.ckptOf p.1 with lastFrame := none, peerOk := true, skew := false }) ∧ (seq < k → t.ckptOf p.1 = s.ckptOf p.1))) ∧
    (∀ (c : BitVec 10) (reg : Registered), let n := c.toNat
      let take := s.saveAll reg.img (numbered (s.islandsOf n))
      s.takingOver = false → (s.ckptOf n).run = 2 → (s.ctx n).state = 4 → s.jobRuns (s.ckptJob n) = true → s.image n (s.ctx n).variant = some reg →
      (take.2.1 = false → s.partnerUp = false → Gives (.checkpointReadbackComplete c) s (fun t => (t.ckptOf n).run = 0 ∧
        (t.ckptOf n).no = (s.ckptOf n).no + 1 ∧ (t.ckptOf n).lastFrame = (s.ckptOf n).lastFrame ∧ t.twin.out = s.twin.out)) ∧
      (take.2.1 = false → s.partnerUp = true → Gives (.checkpointReadbackComplete c) s (fun t => (t.ckptOf n).run = 0 ∧
        (t.ckptOf n).no = (s.ckptOf n).no + 1 ∧ t.twin.out.length = s.twin.out.length + take.1.length)) ∧
      (take.2.1 = true → Gives (.checkpointReadbackComplete c) s (fun t => t.ckptOf n = { s.ckptOf n with run := 0 }))) ∧
    (s.role ≠ 3 → ∀ (part : CkptPart) (h : ArlHead), Gives (.ckpt part h.seq { key := h.key, ok := h.ok }) s (fun t => t = s)) ∧
    (∀ (part : CkptPart) (h : ArlHead), s.role = 3 → s.areteUp = true →
      (s.arlGood h = false → Gives (.ckpt part h.seq { key := h.key, ok := h.ok }) s (fun t => t = s.arlFailed.say 5 s.twin.gotSeq)) ∧
      (s.arlGood h = true → h.seq < s.twin.gotSeq → Gives (.ckpt part h.seq { key := h.key, ok := h.ok }) s (fun t => t = s.replayed)) ∧
      (s.arlGood h = true → s.twin.gotSeq < h.seq → Gives (.ckpt part h.seq { key := h.key, ok := h.ok }) s (fun t => t = s.frameGood.say 5 s.twin.gotSeq)) ∧
      (s.arlGood h = true → s.twin.gotSeq = h.seq →
        (s.registered part.ctx.toNat = false → Gives (.ckpt part h.seq { key := h.key, ok := h.ok }) s (fun t => t.twin = { s.twin with gotSeq := h.seq + 1, reply := some (4, h.seq) })) ∧
        (s.registered part.ctx.toNat = true → s.twin.rx = none →
          (part.parts = 1 → Gives (.ckpt part h.seq { key := h.key, ok := h.ok }) s (fun t => t.twin.rx = none ∧ t.twin.reply = some (4, h.seq) ∧
            t.twin.held.any (fun x => x.ctx == part.ctx.toNat && x.no == part.no && x.hash == part.hash && x.time == part.time.toNat) = true)) ∧
          (1 < part.parts → Gives (.ckpt part h.seq { key := h.key, ok := h.ok }) s (fun t => t.twin.held = s.twin.held ∧ t.twin.reply = some (4, h.seq) ∧
            (t.twin.rx.map (fun x => (x.ctx, x.no, x.got))) = some (part.ctx.toNat, part.no, 1)))))) ∧
    (s.role ≠ 4 → Gives .promotionComplete s (fun t => t = s)) ∧
    (s.role = 4 → Gives .promotionComplete s (fun t => t.role = 2 ∧ t.twin.held = [])) ∧
    (s.role = 4 → (∀ h ∈ s.twin.held, s.registered h.ctx = false) → Gives .promotionComplete s (fun t => t.role = 2 ∧
      (∀ n < 16, s.regionSt n ≠ 0 → t.regionSt n = 3) ∧ (∀ n < 16, s.regionSt n = 0 → t.regionSt n = 0) ∧ t.twin = { s.twin with held := [], ckpt := [], desc := none } ∧
      t.inbox = s.inbox ++ [{ kind := 0x21, source := srcArete, sev := 2, addr := 0 }] ∧
      t = { s with regs := t.regs, host := t.host, twin := t.twin, inbox := t.inbox })) ∧
    (∀ v : W32, let c := fieldOf v 9 0
      let k := s.ckptOf c
      k.interval < 65536 → Gives (.twnCkptSelWrite v) s (fun t => t = { s with regs := t.regs } ∧ t.get TWN_CKPT_SEL.CTX = c ∧
        t.get TWN_CKPT_INFO.INTERVAL_MS = k.interval ∧ t.flag TWN_CKPT_INFO.QUIESCE = k.quiesce ∧
        t.flag TWN_CKPT_INFO.LOCAL_OK = (k.slotA.isSome || k.slotB.isSome) ∧
        t.flag TWN_CKPT_INFO.PEER_OK = (k.peerOk || (s.twin.held.find? (fun h => h.ctx == c)).isSome)))

/-! ### Self-test (chapter 16) -/

/-- R442 to R447, R449, R450, R453. -/
def Obligations.UnitTests : Prop :=
  ∀ (s : State), s.regsWf → Table.wf (fun _ => ({} : BstUnit)) s.bst.units = true →
    (∀ d : Desc, s.mayStart d = true → let u := d.f 2 15 0
      (d.opcode = 0x40 → d.only 2 (bitsHL 18 0 + bitsHL 47 32) = true → d.zeroFrom 3 = true →
        let busy := s.unitBusy u (d.f 2 17 17 == 1)
        (s.badUnit u = true → Gives (.bstRun d) s (fun t => t = (s.started d).opDone d 4 0)) ∧
        (s.badUnit u = false → busy ≠ 0 → Gives (.bstRun d) s (fun t => t = (s.started d).opDone d busy 0)) ∧
        (s.badUnit u = false → busy = 0 → Gives (.bstRun d) s (fun t =>
          t.bst.tests = s.bst.tests ++ [{ unit := u, force := d.f 2 16 16 == 1, keepOff := d.f 2 18 18 == 1, desc := d }] ∧
          (t.unit u).state = (if (s.unit u).state = 0 then 1 else (s.unit u).state) ∧ (∀ k, k ≠ u → t.unit k = s.unit k) ∧
          (unitCls u = 0 → t.get (SWB_ISL_STAT.PLACEABLE (unitIsland u)) = 0) ∧
          t = { s with regs := t.regs, host := t.host, bst := t.bst, swb := t.swb }))) ∧
      (d.opcode = 0x41 → d.only 2 (bitsHL 15 0) = true → d.zeroFrom 3 = true →
        (s.bst.tests.find? (fun t => t.unit == u) = none → Gives (.bstAbort d) s (fun t => t = (s.started d).opDone d 4 0)) ∧
        (∀ x : BstTest, s.bst.tests.find? (fun t => t.unit == u) = some x → x.state = 0 → x.bypass = false → Gives (.bstAbort d) s (fun t =>
          t.bst.tests = s.bst.tests.erase x ∧ (t.unit u).result = 3 ∧ (t.unit u).runs = (s.unit u).runs ∧ t.mem = s.mem ∧
          ((s.unit u).state = 1 → (t.unit u).state = 0))) ∧
        (∀ x : BstTest, s.bst.tests.find? (fun t => t.unit == u) = some x → x.state ≠ 2 → x.bypass = true → Gives (.bstAbort d) s (fun t =>
          t.bst.tests = s.bst.tests.erase x ∧ (t.unit u).result = (s.unit u).result ∧ ((s.unit u).state = 1 → (t.unit u).state = 0))) ∧
        (∀ x : BstTest, s.bst.tests.find? (fun t => t.unit == u) = some x → x.state = 2 → x.bypass = false → x.keepOff = false → unitCls u = 4 →
          Gives (.bstAbort d) s (fun t => t.bst.tests = s.bst.tests.erase x ∧ (t.unit u).state = 0 ∧ (t.unit u).result = 3 ∧
            (t.unit u).runs = (s.unit u).runs ∧ t = { s with regs := t.regs, host := t.host, bst := t.bst }))) ∧
      (d.opcode = 0x43 → d.only 2 (bitsHL 15 0) = true → d.zeroFrom 3 = true →
        ((s.badUnit u || !canBypass u) = true → Gives (.bstOffline d) s (fun t => t = (s.started d).opDone d 4 0)) ∧
        (s.badUnit u = false → canBypass u = true → (s.unit u).state = 3 → Gives (.bstOffline d) s (fun t => t = (s.started d).opDone d 0 0)) ∧
        (s.badUnit u = false → canBypass u = true → (s.unit u).state ≠ 3 → s.unitBusy u true ≠ 0 → Gives (.bstOffline d) s (fun t =>
          t = (s.started d).opDone d (s.unitBusy u true) 0)) ∧
        (s.badUnit u = false → canBypass u = true → (s.unit u).state ≠ 3 → s.unitBusy u true = 0 → Gives (.bstOffline d) s (fun t =>
          t.bst.tests = s.bst.tests ++ [{ unit := u, bypass := true, desc := d }] ∧
          (t.unit u).state = (if (s.unit u).state = 0 then 1 else (s.unit u).state) ∧
          t = { s with regs := t.regs, host := t.host, bst := t.bst, swb := t.swb }))) ∧
      (d.opcode = 0x44 → d.only 2 (bitsHL 15 0) = true → d.zeroFrom 3 = true → s.swb.queue = [] →
        (s.badUnit u = true ∨ (s.unit u).state ≠ 3 → Gives (.bstOnline d) s (fun t => t = (s.started d).opDone d 4 0)) ∧
        (s.badUnit u = false → (s.unit u).state = 3 → Gives (.bstOnline d) s (fun t => (t.unit u).state = 0 ∧
          (∀ k, k ≠ u → t.unit k = s.unit k) ∧ t.mem = s.mem)))) ∧
    (∀ (code : BitVec 16) (a b c : List (BitVec 42)), s.bst.tests.find? (fun t => t.unit == code.toNat && t.state != 2) = none → Gives (.bstIsolationComplete code a b c) s (fun t => t = s)) ∧
    (∀ (code : BitVec 16) (x : BstTest) (a b c : List (BitVec 42)), s.bst.tests.find? (fun t => t.unit == code.toNat && t.state != 2) = some x →
      (s.testTurn x && s.isolated x && s.bst.saddle == 0) = false → Gives (.bstIsolationComplete code a b c) s (fun t => t = s)) ∧
    (∀ (code : BitVec 16) (x : BstTest) (a b c : List (BitVec 42)),
      s.bst.tests.find? (fun t => t.unit == code.toNat && t.state != 2) = some x → s.testTurn x = true → s.isolated x = true → s.bst.saddle = 0 →
      (x.bypass = true → Gives (.bstIsolationComplete code a b c) s (fun t => (t.unit code.toNat).state = 3 ∧
        t.bst.tests = s.bst.tests.erase x ∧ (unitCls code.toNat = 4 → t.mem = s.mem))) ∧
      (x.bypass = false → s.get PWR_RUNG.CUR ≠ 0 → Gives (.bstIsolationComplete code a b c) s (fun t => t = s)) ∧
      (x.bypass = false → s.get PWR_RUNG.CUR = 0 →
        (unitCls code.toNat = 4 → Gives (.bstIsolationComplete code a b c) s (fun t => (t.unit code.toNat).state = 2 ∧
          t.bst.tests.any (fun y => y.unit == code.toNat && y.state == 2 && y.start == s.now) = true ∧ t = { s with regs := t.regs, bst := t.bst })) ∧
        (unitCls code.toNat = 0 → unitIsland code.toNat < 256 → s.islState (unitIsland code.toNat) = 0 → s.get PWR_DIE_RUNG.CUR = 0 →
          Gives (.bstIsolationComplete code a b c) s (fun t => (t.unit code.toNat).state = 2 ∧ t.islState (unitIsland code.toNat) = 7 ∧
            t.get (SWB_ISL_STAT.PLACEABLE (unitIsland code.toNat)) = 0 ∧
            t = { s with regs := t.regs, bst := t.bst, mem := t.mem, isl := t.isl, engines := t.engines })))) ∧
    (∀ (code : BitVec 16) (sig : W32), s.bst.tests.find? (fun t => t.unit == code.toNat && t.state == 2) = none →
      Gives (.bstTestComplete code sig) s (fun t => t = s)) ∧
    (∀ (code : BitVec 16) (sig : W32) (x : BstTest), s.bst.tests.find? (fun t => t.unit == code.toNat && t.state == 2) = some x → s.swb.queue = [] →
      s.bst.saddle = 0 → x.keepOff = false →
      (unitCls code.toNat = 4 →
        (sig = 0 → Gives (.bstTestComplete code sig) s (fun t => t.unit code.toNat = { state := 0, result := 0, runs := min ((s.unit code.toNat).runs + 1) 2097151, sig := 0, ended := s.now } ∧
          t.bst.tests = s.bst.tests.erase x ∧ t = { s with regs := t.regs, bst := t.bst, host := t.host })) ∧
        (sig ≠ 0 → Gives (.bstTestComplete code sig) s (fun t => (t.unit code.toNat).state = 4 ∧ (t.unit code.toNat).result = 1 ∧ (t.unit code.toNat).sig = sig.toNat ∧
          t.get BST_FAIL_CNT.COUNT = min (s.get BST_FAIL_CNT.COUNT + 1) 0xFFFFFFFF ∧
          t.inbox = s.inbox ++ [{ kind := 0x24, source := unitSrc code.toNat, sev := 2, addr := code.toNat }] ∧
          t = { s with regs := t.regs, bst := t.bst, host := t.host, inbox := t.inbox }))) ∧
      (unitCls code.toNat = 0 → sig.toNat ≠ s.bst.gold.peek (fun _ => 0) code.toNat → Gives (.bstTestComplete code sig) s (fun t =>
        (t.unit code.toNat).state = 4 ∧ (t.unit code.toNat).result = 1 ∧ t.get BST_FAIL_CNT.COUNT = min (s.get BST_FAIL_CNT.COUNT + 1) 0xFFFFFFFF ∧
        t.inbox.any (fun m => m.kind == 0x24 && m.source == unitSrc code.toNat && m.addr == code.toNat) = true)) ∧
      (unitCls code.toNat = 0 → unitIsland code.toNat < 256 → sig.toNat = s.bst.gold.peek (fun _ => 0) code.toNat → s.islState (unitIsland code.toNat) = 7 →
        (s.unit (unitOf 1 (unitDie code.toNat) (unitIdx code.toNat))).state = 0 → unitValid code.toNat = true →
        Gives (.bstTestComplete code sig) s (fun t => (t.unit code.toNat).state = 0 ∧ t.islState (unitIsland code.toNat) = 0 ∧
          t.flag (SWB_ISL_STAT.PLACEABLE (unitIsland code.toNat)) = s.dieTakes (unitDie code.toNat)))) ∧
    (∀ v : W32, let x := s.unit (fieldOf v 15 0)
      x.state < 8 → x.result < 256 → x.runs < 2097152 → x.sig < 2 ^ 32 → x.ended < 2 ^ 64 → Gives (.bstUnitSelWrite v) s (fun t => t = { s with regs := t.regs } ∧
        t.get BST_UNIT_SEL.UNIT = fieldOf v 15 0 ∧ t.get BST_UNIT_INFO.STATE = x.state ∧ t.get BST_UNIT_INFO.LAST_RESULT = x.result ∧
        t.get BST_UNIT_INFO.RUNS = x.runs ∧ t.get BST_UNIT_INFO.LAST_SIG = x.sig ∧ t.get BST_UNIT_TIME.NS = x.ended ∧
        (unitCls (fieldOf v 15 0) = 4 → t.get BST_UNIT_GOLD.GOLD = 0)))

/-- R448. -/
def Obligations.MaintenanceStop : Prop :=
  ∀ (s : State), s.regsWf →
    (∀ d : Desc, s.mayStart d = true → d.opcode = 0x42 → d.only 2 (bitsHL 7 0) = true → d.zeroFrom 3 = true →
      ((d.f 2 7 0 ≠ 0x5A ∨ s.twinOn = true) → Gives (.bstSaddle d) s (fun t => t = (s.started d).opDone d 6 0)) ∧
      (d.f 2 7 0 = 0x5A → s.twinOn = false → s.bst.tests.any (fun x => x.state == 2) = true → Gives (.bstSaddle d) s (fun t =>
        t = { s with regs := t.regs, host := t.host, bst := { s.bst with saddle := 1 } })) ∧
      (d.f 2 7 0 = 0x5A → s.twinOn = false → s.bst.tests.any (fun x => x.state == 2) = false → Gives (.bstSaddle d) s (fun t =>
        t.bst = { s.bst with saddle := 2 } ∧ t.cry.slots = [] ∧ t.cry.kwk = [] ∧ t.get CRY_SLOT_STAT.LOADED = 0 ∧ t.flag CRY_CTL.KWK = false ∧
        t.flag CRY_ARL_STAT.KEYED = false ∧ (∀ k < 2, t.flag (CRY_IDE_STAT.SECURE k) = false) ∧ t.fuses = s.fuses ∧ t.pending = s.pending))) ∧
    (∀ (code : BitVec 16) (sig : W32) (x : BstTest), s.bst.tests.find? (fun t => t.unit == code.toNat && t.state == 2) = some x → unitCls code.toNat = 4 →
      s.swb.queue = [] → s.bst.saddle = 1 → Gives (.bstTestComplete code sig) s (fun t =>
        t.bst.saddle = if (s.bst.tests.erase x).any (fun y => y.state == 2) then 1 else 2)) ∧
    (∀ sigs : Vector W32 16, (s.bst.saddle ≠ 2 → Gives (.bstSaddleComplete sigs) s (fun t => t = s)) ∧
      (s.bst.saddle = 2 → Gives (.bstSaddleComplete sigs) s (fun t =>
        t.get BST_SADDLE_RES.RESULT = (if sigs = s.bst.part then 1 else 2) ∧
        (∀ k : Fin 16, nbit (t.get BST_SADDLE_RES.FAIL_MASK) k.val = (sigs[k] != s.bst.part[k])) ∧
        t.cfg.phase = 1 ∧ t.cfg.forced = (pickTable s.lko.tableA s.lko.tableB).map (fun x => activeSlot x 0) ∧ t.bst.saddle = 0 ∧
        t.bst.part = s.bst.part ∧ t.fuses = s.fuses ∧ t.pending = s.pending ∧ t.get HIF_TB.NS = s.get HIF_TB.NS)))

/-! ### Debug and run control (chapter 17) -/

/-- R454 to R462; the order of LOCKED_OUT, RATE and the other codes is the model's choice (log 60). -/
def Obligations.DebugAuthorisation : Prop :=
  ∀ (s : State), s.regsWf →
    (let cleared (t : State) : Prop := ∀ k < 32, t.get (DBG_BUF.BYTES k) = 0
     let kept (t : State) (code : Nat) : Prop := t.get DBG_STAT.RESULT = code ∧ t.level = s.level ∧ t.get DBG_STAT.SCOPE = s.get DBG_STAT.SCOPE
     let bare (t : State) : Prop := t = { s with regs := t.regs, dbg := t.dbg }
     Gives .challenge s (fun t => cleared t ∧ kept t (if s.authBar ≠ 0 then s.authBar else if s.fuses.debugHash = [] ∧ s.flag DBG_STAT.OPEN = false
        then 5 else 0) ∧ t.dbg = { s.dbg with nonce := true } ∧ t = { s with regs := t.regs, dbg := t.dbg, free := t.free }) ∧
     (∀ (pcie sig : Bool) (key : List Byte), let lv := s.dbgByte 97
        let scope := if lv = 3 then 0x3FF else (s.dbgByte 98 + 256 * s.dbgByte 99) % 1024
        let good := 1 ≤ lv ∧ lv ≤ 3
        (good → s.flag DBG_STAT.OPEN = true ∨ (s.authBar = 0 ∧ s.dbg.nonce = true ∧ s.fuses.debugHash ≠ [] ∧ key = s.fuses.debugHash ∧ sig = true) →
          Gives (.respond pcie key sig) s (fun t => cleared t ∧ t.level = lv ∧ t.get DBG_STAT.SCOPE = scope ∧ t.get DBG_STAT.RESULT = 0 ∧
            t.get DBG_STAT.FAILS = s.get DBG_STAT.FAILS ∧ t.dbg = { s.dbg with nonce := false } ∧
            t = { s with regs := t.regs, dbg := t.dbg, host := t.host })) ∧
        (¬ good → s.flag DBG_STAT.OPEN = true → s.authBar ≠ 0 ∨ s.dbg.nonce = false → Gives (.respond pcie key sig) s (fun t => cleared t ∧
          kept t (if s.authBar ≠ 0 then s.authBar else 4) ∧ bare t ∧ t.dbg.nonce = false)) ∧
        (¬ good → s.flag DBG_STAT.OPEN = true → s.authBar = 0 → s.dbg.nonce = true → Gives (.respond pcie key sig) s (fun t => cleared t ∧ kept t 2 ∧
          t.get DBG_STAT.FAILS = min 8 (s.get DBG_STAT.FAILS + 1))) ∧
        (s.flag DBG_STAT.OPEN = false →
          (s.authBar ≠ 0 → Gives (.respond pcie key sig) s (fun t => cleared t ∧ kept t s.authBar ∧ bare t ∧ t.dbg.nonce = false)) ∧
          (s.authBar = 0 → s.dbg.nonce = false → Gives (.respond pcie key sig) s (fun t => kept t 4 ∧ bare t ∧ t.dbg.nonce = false)) ∧
          (s.authBar = 0 → s.dbg.nonce = true → s.fuses.debugHash = [] → Gives (.respond pcie key sig) s (fun t => kept t 5 ∧ bare t)) ∧
          (s.authBar = 0 → s.dbg.nonce = true → s.fuses.debugHash ≠ [] → (key ≠ s.fuses.debugHash ∨ sig = false ∨ ¬ good) →
            Gives (.respond pcie key sig) s (fun t => cleared t ∧ kept t (if key ≠ s.fuses.debugHash then 1 else 2) ∧ t.dbg.nonce = false ∧
              t.dbg.last = some s.now ∧ t.get DBG_STAT.FAILS = min 8 (s.get DBG_STAT.FAILS + 1) ∧
              (s.get DBG_STAT.FAILS = 7 → t.flag DBG_STAT.LOCKOUT = true ∧
                t.inbox = s.inbox ++ [{ kind := 0x25, source := 0xE30, sev := 1, addr := 0 }]) ∧
              (s.get DBG_STAT.FAILS < 7 → t.inbox = s.inbox))))) ∧
     (∀ (pcie : Bool) (hash : List Byte), let len := s.dbgByte 64
        (s.authBar ≠ 0 → Gives (.password pcie hash) s (fun t => cleared t ∧ kept t s.authBar ∧ bare t)) ∧
        (s.authBar = 0 → s.fuses.pwHash = [] → Gives (.password pcie hash) s (fun t => cleared t ∧ kept t 5 ∧ bare t)) ∧
        (s.authBar = 0 → s.fuses.pwHash ≠ [] → (len < 16 ∨ 64 < len ∨ hash ≠ s.fuses.pwHash) → Gives (.password pcie hash) s (fun t =>
          kept t 3 ∧ t.get DBG_STAT.FAILS = min 8 (s.get DBG_STAT.FAILS + 1) ∧ t.dbg.last = some s.now)) ∧
        (s.authBar = 0 → s.fuses.pwHash ≠ [] → 16 ≤ len → len ≤ 64 → hash = s.fuses.pwHash → s.fuses.pwLevel < 4 → Gives (.password pcie hash) s (fun t =>
          cleared t ∧ t.level = s.fuses.pwLevel ∧ t.get DBG_STAT.SCOPE = 0x3FF ∧ t.get DBG_STAT.RESULT = 0 ∧
          t = { s with regs := t.regs, host := t.host })))) ∧
    (s.dbg.nonce = true → Gives .nonceExpiry s (fun t => t = { s with dbg := { s.dbg with nonce := false } })) ∧
    (s.dbg.nonce = false → Gives .nonceExpiry s (fun t => t = s)) ∧
    (s.level = 0 → Gives .dbgLock s (fun t => t = { s with regs := t.regs } ∧ t.level = 0 ∧ ∀ k < 32, t.get (DBG_BUF.BYTES k) = 0)) ∧
    Gives .dbgLock s (fun t => t.level = 0 ∧ (∀ k < 32, t.get (DBG_BUF.BYTES k) = 0) ∧ (s.level ≠ 0 → t.flag DBG_STAT.ATTACHED = false ∧
      t.get DBG_CTL.ATTACH = 0 ∧ t.flag PWR_RUNG.EMULATED = false ∧ t.get DBG_STAT.SCOPE = 0 ∧ t.flag DBG_TRC_CTL.EN = false)) ∧
    (s.flag PWR_RUNG.EMULATED = false → s.level ≠ 0 → s.dbg.trails = [] → s.lko.tx = [] → s.cairn.fifo = [] →
      Table.wf (fun _ => ({} : Engine)) s.engines = true → Gives .dbgLock s (fun t => t.flag DBG_LKO_CTL.HALTED = false ∧
        ∀ i < 256, (s.eng i).state = 3 → (t.eng i).state = (if (s.eng i).stopAfter then 4 else 2) ∧ ∀ k : Fin 6, (t.eng i).comp[k].getLsbD 63 = false)) ∧
    (∀ on : Bool, (s.level = 0 → Gives (.attach on) s (fun t => t = s)) ∧
      (s.level ≠ 0 → on = true → Gives (.attach on) s (fun t => t = { s with regs := t.regs } ∧ t.flag DBG_STAT.ATTACHED = true ∧ t.get DBG_CTL.ATTACH = 1)) ∧
      (s.level ≠ 0 → on = false → s.flag DBG_STAT.ATTACHED = true → s.flag PWR_RUNG.EMULATED = false → Gives (.attach on) s (fun t =>
        t = { s with regs := t.regs } ∧ t.flag DBG_STAT.ATTACHED = false ∧ t.get DBG_CTL.ATTACH = 0)) ∧
      (s.level ≠ 0 → on = false → s.flag DBG_STAT.ATTACHED = true → s.flag PWR_RUNG.EMULATED = true → Gives (.attach on) s (fun t =>
        t.flag PWR_RUNG.EMULATED = false ∧ t.flag DBG_STAT.ATTACHED = false ∧ t.get DBG_CTL.ATTACH = 0 ∧ t.level = s.level)) ∧
      (on = false → s.flag DBG_STAT.ATTACHED = false → Gives (.attach on) s (fun t => t = s))) ∧
    (∀ (v : BitVec 96) (aux : WriteAux), s.cfg.phase = 0 ∨ nfield v.toNat 79 64 % 8 ≠ 0 → Gives (.dbgregUpdateDr v aux) s (fun t => t = s)) ∧
    (∀ (v : BitVec 96) (aux : WriteAux), s.cfg.phase ≠ 0 → nfield v.toNat 79 64 % 8 = 0 →
      (nbit v.toNat 95 = false → Gives (.dbgregUpdateDr v aux) s (fun t =>
        t = { s with dbg := { s.dbg with tdo := BitVec.ofNat 64 (s.busRead (0xE0000 + nfield v.toNat 79 64) true) } })) ∧
      (nbit v.toNat 95 = true → nfield v.toNat 79 64 = 0x208 → Gives (.dbgregUpdateDr v aux) s (fun t => t = { s with regs := t.regs } ∧
        t.get DBG_AP_ADDR.ADDR = nfield v.toNat 47 0)) ∧
      (nbit v.toNat 95 = true → 0x300 ≤ nfield v.toNat 79 64 → nfield v.toNat 79 64 < 0x320 → s.level ≠ 3 → Gives (.dbgregUpdateDr v aux) s (fun t => t = s))) ∧
    (let a := s.get DBG_AP_ADDR.ADDR
     let n := 2 ^ s.get DBG_AP_CTL.SIZE
     let ends (code : Nat) : Prop := Gives .accessPortGo s (fun t => t = { s with regs := t.regs } ∧ t.get DBG_AP_CTL.STATUS = code ∧ t.flag DBG_AP_CTL.BUSY = false)
     (s.flag DBG_AP_CTL.BUSY = true → Gives .accessPortGo s (fun t => t = s)) ∧
     (s.flag DBG_AP_CTL.BUSY = false →
       (s.get DBG_AP_CTL.SPACE = 0 → s.apAllowed a n = false → ends 0x0B) ∧ (s.get DBG_AP_CTL.SPACE = 1 → s.level < 2 → ends 0x0B) ∧
       (s.get DBG_AP_CTL.SPACE = 2 → s.level ≠ 3 → ends 0x0B) ∧ (s.get DBG_AP_CTL.SPACE = 0 → s.level = 3 → a % n ≠ 0 → ends 3) ∧
       (s.get DBG_AP_CTL.SPACE = 1 → 2 ≤ s.level → a % n ≠ 0 ∨ 0x80000 < a + n → ends 3) ∧
       (s.get DBG_AP_CTL.SPACE = 2 → s.level = 3 → (s.flag DBG_AP_CTL.WRITE = true → ends 0x0A) ∧ (s.flag DBG_AP_CTL.WRITE = false →
         (a % n ≠ 0 ∨ nfield a 47 46 = 0 → ends 3) ∧
         (a % n = 0 → nfield a 47 46 ≠ 0 → s.dieGone (dieOf (nfield a 45 38)) = true → ends 1) ∧
         (a % n = 0 → nfield a 47 46 ≠ 0 → s.dieGone (dieOf (nfield a 45 38)) = false → Gives .accessPortGo s (fun t => t.flag DBG_AP_CTL.BUSY = true ∧
           t.swb.portJobs = s.swb.portJobs ++ [readbackJob (nfield a 45 38)] ∧ (t.dbg.ap.map (fun r => (r.1.length, r.2))) = some (n, 0) ∧
           (nfield a 47 46 = 1 → t = { s with regs := t.regs, dbg := t.dbg, swb := t.swb }))))))) ∧
    ((s.flag DBG_AP_CTL.BUSY = false ∨ s.dbg.ap = none ∨ s.readbackWaits = true) → Gives .accessPortComplete s (fun t => t = s)) ∧
    (∀ (data : List Byte) (code : Nat), s.dbg.ap = some (data, code) → s.flag DBG_AP_CTL.BUSY = true → s.readbackWaits = false → code < 256 → data.length ≤ 8 →
      Gives .accessPortComplete s (fun t => t.get DBG_AP_CTL.STATUS = code ∧ t.flag DBG_AP_CTL.BUSY = false ∧ t.dbg = { s.dbg with ap := none } ∧
        t.get DBG_AP_DATA.DATA = (if data = [] ∨ code ≠ 0 then s.get DBG_AP_DATA.DATA else ofBytes data) ∧
        t = { s with regs := t.regs, dbg := t.dbg, swb := t.swb }))

/-- R464 to R471. -/
def Obligations.RunControl : Prop :=
  ∀ (s : State), s.regsWf → Table.wf (fun _ => ({} : Engine)) s.engines = true →
    (∀ i : Fin 256, s.winReaches i.val = true → let e := s.eng i.val
      ((e.state = 2 ∨ e.state = 4) →
        (e.locked = false → Gives (.engDbgHalt i) s (fun t => t.eng i.val = { e with
            state := 3, haltPc := e.pc, why := 1, hit := 0, haltPend := 0, stopAfter := e.state == 4 } ∧
          (∀ j, j ≠ i.val → t.eng j = s.eng j) ∧ t = { s with engines := t.engines, regs := t.regs, host := t.host, trace := t.trace })) ∧
        (e.locked = true → e.haltPend = 0 → Gives (.engDbgHalt i) s (fun t => t = s.setEng i.val { e with haltPend := 1, hit := 0 }))) ∧
      (e.state ≠ 2 → e.state ≠ 4 → Gives (.engDbgHalt i) s (fun t => t = s)) ∧
      (e.state ≠ 3 → Gives (.engDbgStep i) s (fun t => t = s) ∧ Gives (.engDbgResume i) s (fun t => t = s)) ∧
      (e.state = 3 → (s.setEng i.val { e with state := 2, skipHit := true }).ready i.val { c := .nop } → e.straight → e.stopAfter = false →
        Gives (.engDbgStep i) s (fun t => (t.eng i.val).state = 3 ∧ (t.eng i.val).why = 2 ∧ (t.eng i.val).pc = e.pc + 1 ∧
          (t.eng i.val).haltPc = e.pc + 1 ∧ (∀ j, j ≠ i.val → t.eng j = s.eng j))) ∧
      (e.state = 3 → Gives (.engDbgResume i) s (fun t => t.eng i.val = { e with
          state := if e.stopAfter then 4 else 2, stopAfter := false, skipHit := true
          count := if e.count.toNat < e.wdogMin.toNat then e.wdogMin else e.count } ∧
        t = { s with engines := t.engines, regs := t.regs, trace := t.trace })) ∧
      Gives (.engDbgRxack i) s (fun t => t = s.setEng i.val { e with txFifo := e.txFifo.drop 1 }) ∧
      (∀ w : W32, (s.termWaits i.val = true → Gives (.engDbgWr i w) s (fun t => t = s)) ∧ (nbit e.term.toNat 63 = false → Gives (.engDbgWr i w) s (fun t => t = s)) ∧
        (let x := fieldOf e.term 47 34
         let k := xyWord i.val false x
         nbit e.term.toNat 63 = true → s.termWaits i.val = false → s.quiet k → x < 16384 →
          (halfOf (s.rawWord k) x ≠ 0 → Gives (.engDbgWr i w) s (fun t => t = s)) ∧
          (halfOf (s.rawWord k) x = 0 → s.wordState k = .clean → s.mem.merge = [] → s.cairn.checks = [] → Gives (.engDbgWr i w) s (fun t =>
            halfOf (t.loadWord k).1 x = w ∧ halfOf (t.loadWord k).1 (x + 1) = halfOf (s.rawWord k) (x + 1) ∧ t.eng i.val = e)))) ∧
      (s.busFast i.val = false →
        Gives (.engDbgRxPop i true) s (fun t => t.mem.lastRead = toBytes 8 (s.engReg i.val 0x848).toNat ∧ (t.eng i.val).txFifo = e.txFifo) ∧
        Gives (.engDbgRxPop i false) s (fun t => t.mem.lastRead = toBytes 8 (s.engReg i.val 0x848).toNat ∧ (t.eng i.val).txFifo = e.txFifo.drop 1))) ∧
    (∀ (i : Fin 256) (w : W32), s.winReaches i.val = false → s.termWaits i.val = false →
      ∀ c ∈ [(Instr.engDbgHalt i), (Instr.engDbgStep i), (Instr.engDbgResume i), (Instr.engDbgRxack i), (Instr.engDbgWr i w)], Gives c s (fun t => t = s)) ∧
    (∀ i : Fin 256, ((s.eng i.val).locked = false ∨ (s.eng i.val).haltPend = 0 ∨ s.keRuns i.val = false) → Gives (.haltDeferExpiry i) s (fun t => t = s)) ∧
    (∀ i : Fin 256, let e := s.eng i.val
      e.locked = true → e.haltPend ≠ 0 → s.keRuns i.val = true → Gives (.haltDeferExpiry i) s (fun t => (t.eng i.val).state = 3 ∧
        (t.eng i.val).why = e.haltPend ∧ (t.eng i.val).hit = e.hit ∧ (t.eng i.val).pc = e.lockPc ∧ (t.eng i.val).haltPc = e.lockPc ∧
        (t.eng i.val).locked = false ∧ (t.eng i.val).lockBuf = [] ∧ (t.eng i.val).lockBrk = true ∧ (t.eng i.val).haltPend = 0 ∧ t.mem = s.mem)) ∧
    (∀ pc : W32, (s.level < 2 → Gives (.lkoHalt pc) s (fun t => t = s) ∧ Gives (.lkoStep pc) s (fun t => t = s) ∧ Gives .lkoResume s (fun t => t = s)) ∧
      (2 ≤ s.level → (∀ m < 5, s.flag (CLK_MTR_CTL.OWNER m) = false) →
        (s.lkoServes = true → Gives (.lkoHalt pc) s (fun t => t.flag DBG_LKO_CTL.HALTED = true ∧ t.get DBG_LKO_PC.PC = pc.toNat ∧ t.lkoServes = false ∧
          t = { s with regs := t.regs, free := t.free, host := t.host })) ∧
        (s.flag DBG_LKO_CTL.HALTED = true → Gives (.lkoStep pc) s (fun t => t.flag DBG_LKO_CTL.HALTED = true ∧ t.get DBG_LKO_PC.PC = pc.toNat ∧
          t = { s with regs := t.regs, free := t.free, host := t.host })) ∧
        (∀ k : Fin 2, s.lkoServes = true → s.flag (DBG_LKO_BRK.EN k.val) = true → Gives (.lkoBreakpointHit k) s (fun t =>
          t.flag DBG_LKO_CTL.HALTED = true ∧ t.get DBG_LKO_PC.PC = 2 * s.get (DBG_LKO_BRK.PC k.val)))) ∧
      (2 ≤ s.level → s.flag DBG_LKO_CTL.HALTED = true → s.cairn.fifo = [] → s.lko.tx = [] → Gives .lkoResume s (fun t =>
        t = { s with regs := t.regs } ∧ t.flag DBG_LKO_CTL.HALTED = false ∧ t.get DBG_LKO_PC.PC = 0 ∧ ∀ k < 31, t.get (DBG_LKO_GPR.X (k + 1)) = 0))) ∧
    (∀ k : Fin 2, (s.level < 2 ∨ s.lkoServes = false ∨ s.flag (DBG_LKO_BRK.EN k.val) = false) → Gives (.lkoBreakpointHit k) s (fun t => t = s)) ∧
    (∀ (v : W32) (jtag : Bool), v.getLsbD 31 = false → Gives (.traceEnable v jtag) s (fun t => t = s)) ∧
    (∀ (v : W32) (jtag : Bool), v.getLsbD 31 = true →
      (jtag = true → s.level ≠ 3 → Gives (.traceEnable v jtag) s (fun t => t = s)) ∧
      (jtag = false → s.flag DBG_TRC_CTL.EN = true → Gives (.traceEnable v jtag) s (fun t => t = { s with regs := t.regs } ∧ t.flag DBG_TRC_CTL.EN = true ∧
        t.get DBG_TRC_PTR.PTR = s.get DBG_TRC_PTR.PTR ∧ t.flag DBG_TRC_CTL.WRAP = v.getLsbD 30)) ∧
      (jtag = false → s.flag DBG_TRC_CTL.EN = false → let good := (s.put DBG_TRC_CTL.SIZE (fieldOf v 23 0)).traceRegionOk
        Gives (.traceEnable v jtag) s (fun t => t = { s with regs := t.regs } ∧ t.flag DBG_TRC_CTL.EN = good ∧ (good = true → t.get DBG_TRC_PTR.PTR = 0) ∧
          (good = false → t.flag DBG_TRC_CTL.ERR = true) ∧ t.flag DBG_TRC_CTL.WRAP = v.getLsbD 30))) ∧
    ((s.trace = [] ∨ s.flag DBG_TRC_CTL.EN = false) → Gives .tracePacketWrite s (fun t => t = s)) ∧
    (∀ (p : TracePkt) (rest : List TracePkt), s.trace = p :: rest → s.flag DBG_TRC_CTL.EN = true →
      let a := s.get DBG_TRC_BASE.BASE * 4096 + 16 * s.get DBG_TRC_PTR.PTR
      s.hbmUp (hbmStack a) = true → s.hbmCheck a 16 ≠ 0 → Gives .tracePacketWrite s (fun t => t = { s with regs := t.regs, trace := rest } ∧
        t.get DBG_TRC_LOST.COUNT = min (s.get DBG_TRC_LOST.COUNT + 1) 0xFFFFFFFF ∧ t.get DBG_TRC_PTR.PTR = s.get DBG_TRC_PTR.PTR)) ∧
    (∀ (p : TracePkt) (rest : List TracePkt), s.trace = p :: rest → s.flag DBG_TRC_CTL.EN = true →
      let a := s.get DBG_TRC_BASE.BASE * 4096 + 16 * s.get DBG_TRC_PTR.PTR
      let next := s.get DBG_TRC_PTR.PTR + 1
      s.hbmUp (hbmStack a) = true → s.hbmCheck a 16 = 0 → s.lineForm (a / 64) = .plain → next < 2 ^ 44 →
      (16 * next < s.get DBG_TRC_CTL.SIZE * 4096 → Gives .tracePacketWrite s (fun t => t.trace = rest ∧ t.get DBG_TRC_PTR.PTR = next ∧
        t.get DBG_TRC_LOST.COUNT = s.get DBG_TRC_LOST.COUNT)) ∧
      (s.get DBG_TRC_CTL.SIZE * 4096 ≤ 16 * next → s.flag DBG_TRC_CTL.WRAP = true → Gives .tracePacketWrite s (fun t => t.trace = rest ∧
        t.get DBG_TRC_PTR.PTR = 0 ∧ t.flag DBG_TRC_CTL.EN = true)) ∧
      (s.get DBG_TRC_CTL.SIZE * 4096 ≤ 16 * next → s.flag DBG_TRC_CTL.WRAP = false → Gives .tracePacketWrite s (fun t => t.trace = [] ∧
        t.flag DBG_TRC_CTL.FULL = true ∧ t.flag DBG_TRC_CTL.EN = false)))

/-! ### The block as a whole -/

/-- What a step is. That an idle step lets a nanosecond pass on the timebase is the model's choice (log 1). -/
def Obligations.StepTakesTheFront : Prop :=
  (∀ (c : Instr) (rest : List Instr) (s : State), s.pending = c :: rest → step s = exec c { s with pending := rest }) ∧
  (∀ s : State, s.regsWf → s.pending = [] → 
    let acc := s.host.tbAcc + s.tbAdjust
    ∃ t, step s = .next t ∧ t = { s with regs := t.regs, host := { s.host with tbAcc := t.host.tbAcc } } ∧
      (∀ o, o ≠ HIF_TB.NS.addr → t.reg o = s.reg o) ∧
      (-1000000000 < acc → acc < 1000000000 → t.now = (s.now + 1) % 2 ^ 64 ∧ t.host.tbAcc = acc) ∧
      (1000000000 ≤ acc → t.now = (s.now + 2) % 2 ^ 64 ∧ t.host.tbAcc = acc - 1000000000) ∧
      (acc ≤ -1000000000 → t.now = s.now ∧ t.host.tbAcc = acc + 1000000000))

/-- Reset, as the registers' headings give it. What the manual gives no reset value for is the model's choice (log 2). -/
def Obligations.ResetState : Prop :=
  State.reset.canonical ∧ State.reset.pending = [] ∧ State.reset.fuses.keyHash = [] ∧ State.reset.fuses.pwHash = [] ∧
  (∀ a, State.reset.byteAt a = 0) ∧ (∀ i, (State.reset.eng i).state = 0 ∧ (State.reset.eng i).pc = 0) ∧
  State.reset.reg 0 = 0x41260001 ∧ State.reset.reg 0x10000 = 0x0FE00FE0 ∧ State.reset.reg 0x10008 = 0x005F2438 ∧
  State.reset.reg 0x20000 = 0x10000000 ∧ State.reset.reg 0x20008 = 0x410001F4 ∧ State.reset.reg 0x40010 = 0x640A0880 ∧
  (∀ d < 4, State.reset.reg (0x40 + 4 * d) = 0x00101000) ∧ State.reset.reg 0x108 = 0x03E80A00 ∧
  (∀ b < 32, State.reset.reg (0xD0800 + 4 * b) = 0x0FFC0000) ∧ State.reset.reg 0x80004 = 0xA0000006 ∧
  State.reset.reg 0x80028 = 0x12C0000000000500 ∧ State.reset.reg 0x90020 = 0x80000000 ∧ State.reset.reg 0xA0000 = 0x01000000 ∧
  (∀ i < 256, State.reset.reg (0x72000 + 4 * i) = 0x00020000) ∧ (∀ i < 256, State.reset.reg (0x21000 + 4 * i) = 0x0FFC0000)

/-- Nothing that the part can be given ends a run. -/
def Obligations.EveryCommandCompletes : Prop :=
  ∀ (c : Instr) (s : State), (c.wf = true → Completes (exec c s)) ∧ (c.wf = false → exec c s = .fault .illFormed)

/-- The canonical form of the register file, of memory, of check bits and of the page guard is kept by every command. -/
def Obligations.CanonicalKept : Prop :=
  ∀ s t : State, s.canonical → step s = .next t → t.canonical

/-- R399, of every command. -/
def Obligations.FusesWrittenOnce : Prop :=
  ∀ s t : State, step s = .next t →
    (s.fuses.keyHash ≠ [] → t.fuses.keyHash = s.fuses.keyHash) ∧ (s.fuses.bitKey ≠ [] → t.fuses.bitKey = s.fuses.bitKey) ∧
    (s.fuses.debugHash ≠ [] → t.fuses.debugHash = s.fuses.debugHash) ∧
    (s.fuses.pwHash ≠ [] → t.fuses.pwHash = s.fuses.pwHash ∧ t.fuses.pwLevel = s.fuses.pwLevel)
end

