-- ==== Sys2Proof/Laws/State.lean ====
section
/-!
SUPPORT. What each named update of the state leaves as it is, field by field, and what it writes; all true by definition.
-/

namespace Sys2Proof.Machine

variable (s : State)

/-! ### setReg -/

@[simp] theorem State.setReg_pending (off : Nat) (v : W64) : (s.setReg off v).pending = s.pending := rfl
@[simp] theorem State.setReg_regs (off : Nat) (v : W64) : (s.setReg off v).regs = s.regs.poke regReset off v := rfl
@[simp] theorem State.setReg_mem (off : Nat) (v : W64) : (s.setReg off v).mem = s.mem := rfl
@[simp] theorem State.setReg_engines (off : Nat) (v : W64) : (s.setReg off v).engines = s.engines := rfl
@[simp] theorem State.setReg_pkg (off : Nat) (v : W64) : (s.setReg off v).pkg = s.pkg := rfl
@[simp] theorem State.setReg_isl (off : Nat) (v : W64) : (s.setReg off v).isl = s.isl := rfl
@[simp] theorem State.setReg_clk (off : Nat) (v : W64) : (s.setReg off v).clk = s.clk := rfl
@[simp] theorem State.setReg_banks (off : Nat) (v : W64) : (s.setReg off v).banks = s.banks := rfl
@[simp] theorem State.setReg_net (off : Nat) (v : W64) : (s.setReg off v).net = s.net := rfl
@[simp] theorem State.setReg_swb (off : Nat) (v : W64) : (s.setReg off v).swb = s.swb := rfl
@[simp] theorem State.setReg_hbm (off : Nat) (v : W64) : (s.setReg off v).hbm = s.hbm := rfl
@[simp] theorem State.setReg_cry (off : Nat) (v : W64) : (s.setReg off v).cry = s.cry := rfl
@[simp] theorem State.setReg_pins (off : Nat) (v : W64) : (s.setReg off v).pins = s.pins := rfl
@[simp] theorem State.setReg_pwr (off : Nat) (v : W64) : (s.setReg off v).pwr = s.pwr := rfl
@[simp] theorem State.setReg_host (off : Nat) (v : W64) : (s.setReg off v).host = s.host := rfl
@[simp] theorem State.setReg_fuses (off : Nat) (v : W64) : (s.setReg off v).fuses = s.fuses := rfl
@[simp] theorem State.setReg_cfg (off : Nat) (v : W64) : (s.setReg off v).cfg = s.cfg := rfl
@[simp] theorem State.setReg_lko (off : Nat) (v : W64) : (s.setReg off v).lko = s.lko := rfl
@[simp] theorem State.setReg_cairn (off : Nat) (v : W64) : (s.setReg off v).cairn = s.cairn := rfl
@[simp] theorem State.setReg_twin (off : Nat) (v : W64) : (s.setReg off v).twin = s.twin := rfl
@[simp] theorem State.setReg_bst (off : Nat) (v : W64) : (s.setReg off v).bst = s.bst := rfl
@[simp] theorem State.setReg_dbg (off : Nat) (v : W64) : (s.setReg off v).dbg = s.dbg := rfl
@[simp] theorem State.setReg_trace (off : Nat) (v : W64) : (s.setReg off v).trace = s.trace := rfl
@[simp] theorem State.setReg_inbox (off : Nat) (v : W64) : (s.setReg off v).inbox = s.inbox := rfl
@[simp] theorem State.setReg_free (off : Nat) (v : W64) : (s.setReg off v).free = s.free := rfl

/-! ### put -/

@[simp] theorem State.put_pending (f : Fld) (v : Nat) : (s.put f v).pending = s.pending := rfl
@[simp] theorem State.put_mem (f : Fld) (v : Nat) : (s.put f v).mem = s.mem := rfl
@[simp] theorem State.put_engines (f : Fld) (v : Nat) : (s.put f v).engines = s.engines := rfl
@[simp] theorem State.put_pkg (f : Fld) (v : Nat) : (s.put f v).pkg = s.pkg := rfl
@[simp] theorem State.put_isl (f : Fld) (v : Nat) : (s.put f v).isl = s.isl := rfl
@[simp] theorem State.put_clk (f : Fld) (v : Nat) : (s.put f v).clk = s.clk := rfl
@[simp] theorem State.put_banks (f : Fld) (v : Nat) : (s.put f v).banks = s.banks := rfl
@[simp] theorem State.put_net (f : Fld) (v : Nat) : (s.put f v).net = s.net := rfl
@[simp] theorem State.put_swb (f : Fld) (v : Nat) : (s.put f v).swb = s.swb := rfl
@[simp] theorem State.put_hbm (f : Fld) (v : Nat) : (s.put f v).hbm = s.hbm := rfl
@[simp] theorem State.put_cry (f : Fld) (v : Nat) : (s.put f v).cry = s.cry := rfl
@[simp] theorem State.put_pins (f : Fld) (v : Nat) : (s.put f v).pins = s.pins := rfl
@[simp] theorem State.put_pwr (f : Fld) (v : Nat) : (s.put f v).pwr = s.pwr := rfl
@[simp] theorem State.put_host (f : Fld) (v : Nat) : (s.put f v).host = s.host := rfl
@[simp] theorem State.put_fuses (f : Fld) (v : Nat) : (s.put f v).fuses = s.fuses := rfl
@[simp] theorem State.put_cfg (f : Fld) (v : Nat) : (s.put f v).cfg = s.cfg := rfl
@[simp] theorem State.put_lko (f : Fld) (v : Nat) : (s.put f v).lko = s.lko := rfl
@[simp] theorem State.put_cairn (f : Fld) (v : Nat) : (s.put f v).cairn = s.cairn := rfl
@[simp] theorem State.put_twin (f : Fld) (v : Nat) : (s.put f v).twin = s.twin := rfl
@[simp] theorem State.put_bst (f : Fld) (v : Nat) : (s.put f v).bst = s.bst := rfl
@[simp] theorem State.put_dbg (f : Fld) (v : Nat) : (s.put f v).dbg = s.dbg := rfl
@[simp] theorem State.put_trace (f : Fld) (v : Nat) : (s.put f v).trace = s.trace := rfl
@[simp] theorem State.put_inbox (f : Fld) (v : Nat) : (s.put f v).inbox = s.inbox := rfl
@[simp] theorem State.put_free (f : Fld) (v : Nat) : (s.put f v).free = s.free := rfl

/-! ### putB -/

@[simp] theorem State.putB_pending (f : Fld) (b : Bool) : (s.putB f b).pending = s.pending := rfl
@[simp] theorem State.putB_mem (f : Fld) (b : Bool) : (s.putB f b).mem = s.mem := rfl
@[simp] theorem State.putB_engines (f : Fld) (b : Bool) : (s.putB f b).engines = s.engines := rfl
@[simp] theorem State.putB_pkg (f : Fld) (b : Bool) : (s.putB f b).pkg = s.pkg := rfl
@[simp] theorem State.putB_isl (f : Fld) (b : Bool) : (s.putB f b).isl = s.isl := rfl
@[simp] theorem State.putB_clk (f : Fld) (b : Bool) : (s.putB f b).clk = s.clk := rfl
@[simp] theorem State.putB_banks (f : Fld) (b : Bool) : (s.putB f b).banks = s.banks := rfl
@[simp] theorem State.putB_net (f : Fld) (b : Bool) : (s.putB f b).net = s.net := rfl
@[simp] theorem State.putB_swb (f : Fld) (b : Bool) : (s.putB f b).swb = s.swb := rfl
@[simp] theorem State.putB_hbm (f : Fld) (b : Bool) : (s.putB f b).hbm = s.hbm := rfl
@[simp] theorem State.putB_cry (f : Fld) (b : Bool) : (s.putB f b).cry = s.cry := rfl
@[simp] theorem State.putB_pins (f : Fld) (b : Bool) : (s.putB f b).pins = s.pins := rfl
@[simp] theorem State.putB_pwr (f : Fld) (b : Bool) : (s.putB f b).pwr = s.pwr := rfl
@[simp] theorem State.putB_host (f : Fld) (b : Bool) : (s.putB f b).host = s.host := rfl
@[simp] theorem State.putB_fuses (f : Fld) (b : Bool) : (s.putB f b).fuses = s.fuses := rfl
@[simp] theorem State.putB_cfg (f : Fld) (b : Bool) : (s.putB f b).cfg = s.cfg := rfl
@[simp] theorem State.putB_lko (f : Fld) (b : Bool) : (s.putB f b).lko = s.lko := rfl
@[simp] theorem State.putB_cairn (f : Fld) (b : Bool) : (s.putB f b).cairn = s.cairn := rfl
@[simp] theorem State.putB_twin (f : Fld) (b : Bool) : (s.putB f b).twin = s.twin := rfl
@[simp] theorem State.putB_bst (f : Fld) (b : Bool) : (s.putB f b).bst = s.bst := rfl
@[simp] theorem State.putB_dbg (f : Fld) (b : Bool) : (s.putB f b).dbg = s.dbg := rfl
@[simp] theorem State.putB_trace (f : Fld) (b : Bool) : (s.putB f b).trace = s.trace := rfl
@[simp] theorem State.putB_inbox (f : Fld) (b : Bool) : (s.putB f b).inbox = s.inbox := rfl
@[simp] theorem State.putB_free (f : Fld) (b : Bool) : (s.putB f b).free = s.free := rfl

/-! ### bump -/

@[simp] theorem State.bump_pending (f : Fld) (n : Nat) : (s.bump f n).pending = s.pending := rfl
@[simp] theorem State.bump_mem (f : Fld) (n : Nat) : (s.bump f n).mem = s.mem := rfl
@[simp] theorem State.bump_engines (f : Fld) (n : Nat) : (s.bump f n).engines = s.engines := rfl
@[simp] theorem State.bump_pkg (f : Fld) (n : Nat) : (s.bump f n).pkg = s.pkg := rfl
@[simp] theorem State.bump_isl (f : Fld) (n : Nat) : (s.bump f n).isl = s.isl := rfl
@[simp] theorem State.bump_clk (f : Fld) (n : Nat) : (s.bump f n).clk = s.clk := rfl
@[simp] theorem State.bump_banks (f : Fld) (n : Nat) : (s.bump f n).banks = s.banks := rfl
@[simp] theorem State.bump_net (f : Fld) (n : Nat) : (s.bump f n).net = s.net := rfl
@[simp] theorem State.bump_swb (f : Fld) (n : Nat) : (s.bump f n).swb = s.swb := rfl
@[simp] theorem State.bump_hbm (f : Fld) (n : Nat) : (s.bump f n).hbm = s.hbm := rfl
@[simp] theorem State.bump_cry (f : Fld) (n : Nat) : (s.bump f n).cry = s.cry := rfl
@[simp] theorem State.bump_pins (f : Fld) (n : Nat) : (s.bump f n).pins = s.pins := rfl
@[simp] theorem State.bump_pwr (f : Fld) (n : Nat) : (s.bump f n).pwr = s.pwr := rfl
@[simp] theorem State.bump_host (f : Fld) (n : Nat) : (s.bump f n).host = s.host := rfl
@[simp] theorem State.bump_fuses (f : Fld) (n : Nat) : (s.bump f n).fuses = s.fuses := rfl
@[simp] theorem State.bump_cfg (f : Fld) (n : Nat) : (s.bump f n).cfg = s.cfg := rfl
@[simp] theorem State.bump_lko (f : Fld) (n : Nat) : (s.bump f n).lko = s.lko := rfl
@[simp] theorem State.bump_cairn (f : Fld) (n : Nat) : (s.bump f n).cairn = s.cairn := rfl
@[simp] theorem State.bump_twin (f : Fld) (n : Nat) : (s.bump f n).twin = s.twin := rfl
@[simp] theorem State.bump_bst (f : Fld) (n : Nat) : (s.bump f n).bst = s.bst := rfl
@[simp] theorem State.bump_dbg (f : Fld) (n : Nat) : (s.bump f n).dbg = s.dbg := rfl
@[simp] theorem State.bump_trace (f : Fld) (n : Nat) : (s.bump f n).trace = s.trace := rfl
@[simp] theorem State.bump_inbox (f : Fld) (n : Nat) : (s.bump f n).inbox = s.inbox := rfl
@[simp] theorem State.bump_free (f : Fld) (n : Nat) : (s.bump f n).free = s.free := rfl

/-! ### setEng -/

@[simp] theorem State.setEng_pending (i : Nat) (e : Engine) : (s.setEng i e).pending = s.pending := rfl
@[simp] theorem State.setEng_regs (i : Nat) (e : Engine) : (s.setEng i e).regs = s.regs := rfl
@[simp] theorem State.setEng_mem (i : Nat) (e : Engine) : (s.setEng i e).mem = s.mem := rfl
@[simp] theorem State.setEng_engines (i : Nat) (e : Engine) : (s.setEng i e).engines = s.engines.poke (fun _ => {}) i e := rfl
@[simp] theorem State.setEng_pkg (i : Nat) (e : Engine) : (s.setEng i e).pkg = s.pkg := rfl
@[simp] theorem State.setEng_isl (i : Nat) (e : Engine) : (s.setEng i e).isl = s.isl := rfl
@[simp] theorem State.setEng_clk (i : Nat) (e : Engine) : (s.setEng i e).clk = s.clk := rfl
@[simp] theorem State.setEng_banks (i : Nat) (e : Engine) : (s.setEng i e).banks = s.banks := rfl
@[simp] theorem State.setEng_net (i : Nat) (e : Engine) : (s.setEng i e).net = s.net := rfl
@[simp] theorem State.setEng_swb (i : Nat) (e : Engine) : (s.setEng i e).swb = s.swb := rfl
@[simp] theorem State.setEng_hbm (i : Nat) (e : Engine) : (s.setEng i e).hbm = s.hbm := rfl
@[simp] theorem State.setEng_cry (i : Nat) (e : Engine) : (s.setEng i e).cry = s.cry := rfl
@[simp] theorem State.setEng_pins (i : Nat) (e : Engine) : (s.setEng i e).pins = s.pins := rfl
@[simp] theorem State.setEng_pwr (i : Nat) (e : Engine) : (s.setEng i e).pwr = s.pwr := rfl
@[simp] theorem State.setEng_host (i : Nat) (e : Engine) : (s.setEng i e).host = s.host := rfl
@[simp] theorem State.setEng_fuses (i : Nat) (e : Engine) : (s.setEng i e).fuses = s.fuses := rfl
@[simp] theorem State.setEng_cfg (i : Nat) (e : Engine) : (s.setEng i e).cfg = s.cfg := rfl
@[simp] theorem State.setEng_lko (i : Nat) (e : Engine) : (s.setEng i e).lko = s.lko := rfl
@[simp] theorem State.setEng_cairn (i : Nat) (e : Engine) : (s.setEng i e).cairn = s.cairn := rfl
@[simp] theorem State.setEng_twin (i : Nat) (e : Engine) : (s.setEng i e).twin = s.twin := rfl
@[simp] theorem State.setEng_bst (i : Nat) (e : Engine) : (s.setEng i e).bst = s.bst := rfl
@[simp] theorem State.setEng_dbg (i : Nat) (e : Engine) : (s.setEng i e).dbg = s.dbg := rfl
@[simp] theorem State.setEng_trace (i : Nat) (e : Engine) : (s.setEng i e).trace = s.trace := rfl
@[simp] theorem State.setEng_inbox (i : Nat) (e : Engine) : (s.setEng i e).inbox = s.inbox := rfl
@[simp] theorem State.setEng_free (i : Nat) (e : Engine) : (s.setEng i e).free = s.free := rfl

/-! ### modEng -/

@[simp] theorem State.modEng_pending (i : Nat) (f : Engine → Engine) : (s.modEng i f).pending = s.pending := rfl
@[simp] theorem State.modEng_regs (i : Nat) (f : Engine → Engine) : (s.modEng i f).regs = s.regs := rfl
@[simp] theorem State.modEng_mem (i : Nat) (f : Engine → Engine) : (s.modEng i f).mem = s.mem := rfl
@[simp] theorem State.modEng_pkg (i : Nat) (f : Engine → Engine) : (s.modEng i f).pkg = s.pkg := rfl
@[simp] theorem State.modEng_isl (i : Nat) (f : Engine → Engine) : (s.modEng i f).isl = s.isl := rfl
@[simp] theorem State.modEng_clk (i : Nat) (f : Engine → Engine) : (s.modEng i f).clk = s.clk := rfl
@[simp] theorem State.modEng_banks (i : Nat) (f : Engine → Engine) : (s.modEng i f).banks = s.banks := rfl
@[simp] theorem State.modEng_net (i : Nat) (f : Engine → Engine) : (s.modEng i f).net = s.net := rfl
@[simp] theorem State.modEng_swb (i : Nat) (f : Engine → Engine) : (s.modEng i f).swb = s.swb := rfl
@[simp] theorem State.modEng_hbm (i : Nat) (f : Engine → Engine) : (s.modEng i f).hbm = s.hbm := rfl
@[simp] theorem State.modEng_cry (i : Nat) (f : Engine → Engine) : (s.modEng i f).cry = s.cry := rfl
@[simp] theorem State.modEng_pins (i : Nat) (f : Engine → Engine) : (s.modEng i f).pins = s.pins := rfl
@[simp] theorem State.modEng_pwr (i : Nat) (f : Engine → Engine) : (s.modEng i f).pwr = s.pwr := rfl
@[simp] theorem State.modEng_host (i : Nat) (f : Engine → Engine) : (s.modEng i f).host = s.host := rfl
@[simp] theorem State.modEng_fuses (i : Nat) (f : Engine → Engine) : (s.modEng i f).fuses = s.fuses := rfl
@[simp] theorem State.modEng_cfg (i : Nat) (f : Engine → Engine) : (s.modEng i f).cfg = s.cfg := rfl
@[simp] theorem State.modEng_lko (i : Nat) (f : Engine → Engine) : (s.modEng i f).lko = s.lko := rfl
@[simp] theorem State.modEng_cairn (i : Nat) (f : Engine → Engine) : (s.modEng i f).cairn = s.cairn := rfl
@[simp] theorem State.modEng_twin (i : Nat) (f : Engine → Engine) : (s.modEng i f).twin = s.twin := rfl
@[simp] theorem State.modEng_bst (i : Nat) (f : Engine → Engine) : (s.modEng i f).bst = s.bst := rfl
@[simp] theorem State.modEng_dbg (i : Nat) (f : Engine → Engine) : (s.modEng i f).dbg = s.dbg := rfl
@[simp] theorem State.modEng_trace (i : Nat) (f : Engine → Engine) : (s.modEng i f).trace = s.trace := rfl
@[simp] theorem State.modEng_inbox (i : Nat) (f : Engine → Engine) : (s.modEng i f).inbox = s.inbox := rfl
@[simp] theorem State.modEng_free (i : Nat) (f : Engine → Engine) : (s.modEng i f).free = s.free := rfl

/-! ### setIsland -/

@[simp] theorem State.setIsland_pending (i : Nat) (x : Island) : (s.setIsland i x).pending = s.pending := rfl
@[simp] theorem State.setIsland_regs (i : Nat) (x : Island) : (s.setIsland i x).regs = s.regs := rfl
@[simp] theorem State.setIsland_mem (i : Nat) (x : Island) : (s.setIsland i x).mem = s.mem := rfl
@[simp] theorem State.setIsland_engines (i : Nat) (x : Island) : (s.setIsland i x).engines = s.engines := rfl
@[simp] theorem State.setIsland_pkg (i : Nat) (x : Island) : (s.setIsland i x).pkg = s.pkg := rfl
@[simp] theorem State.setIsland_isl (i : Nat) (x : Island) : (s.setIsland i x).isl = s.isl.poke (fun _ => {}) i x := rfl
@[simp] theorem State.setIsland_clk (i : Nat) (x : Island) : (s.setIsland i x).clk = s.clk := rfl
@[simp] theorem State.setIsland_banks (i : Nat) (x : Island) : (s.setIsland i x).banks = s.banks := rfl
@[simp] theorem State.setIsland_net (i : Nat) (x : Island) : (s.setIsland i x).net = s.net := rfl
@[simp] theorem State.setIsland_swb (i : Nat) (x : Island) : (s.setIsland i x).swb = s.swb := rfl
@[simp] theorem State.setIsland_hbm (i : Nat) (x : Island) : (s.setIsland i x).hbm = s.hbm := rfl
@[simp] theorem State.setIsland_cry (i : Nat) (x : Island) : (s.setIsland i x).cry = s.cry := rfl
@[simp] theorem State.setIsland_pins (i : Nat) (x : Island) : (s.setIsland i x).pins = s.pins := rfl
@[simp] theorem State.setIsland_pwr (i : Nat) (x : Island) : (s.setIsland i x).pwr = s.pwr := rfl
@[simp] theorem State.setIsland_host (i : Nat) (x : Island) : (s.setIsland i x).host = s.host := rfl
@[simp] theorem State.setIsland_fuses (i : Nat) (x : Island) : (s.setIsland i x).fuses = s.fuses := rfl
@[simp] theorem State.setIsland_cfg (i : Nat) (x : Island) : (s.setIsland i x).cfg = s.cfg := rfl
@[simp] theorem State.setIsland_lko (i : Nat) (x : Island) : (s.setIsland i x).lko = s.lko := rfl
@[simp] theorem State.setIsland_cairn (i : Nat) (x : Island) : (s.setIsland i x).cairn = s.cairn := rfl
@[simp] theorem State.setIsland_twin (i : Nat) (x : Island) : (s.setIsland i x).twin = s.twin := rfl
@[simp] theorem State.setIsland_bst (i : Nat) (x : Island) : (s.setIsland i x).bst = s.bst := rfl
@[simp] theorem State.setIsland_dbg (i : Nat) (x : Island) : (s.setIsland i x).dbg = s.dbg := rfl
@[simp] theorem State.setIsland_trace (i : Nat) (x : Island) : (s.setIsland i x).trace = s.trace := rfl
@[simp] theorem State.setIsland_inbox (i : Nat) (x : Island) : (s.setIsland i x).inbox = s.inbox := rfl
@[simp] theorem State.setIsland_free (i : Nat) (x : Island) : (s.setIsland i x).free = s.free := rfl

/-! ### modIsland -/

@[simp] theorem State.modIsland_pending (i : Nat) (f : Island → Island) : (s.modIsland i f).pending = s.pending := rfl
@[simp] theorem State.modIsland_regs (i : Nat) (f : Island → Island) : (s.modIsland i f).regs = s.regs := rfl
@[simp] theorem State.modIsland_mem (i : Nat) (f : Island → Island) : (s.modIsland i f).mem = s.mem := rfl
@[simp] theorem State.modIsland_engines (i : Nat) (f : Island → Island) : (s.modIsland i f).engines = s.engines := rfl
@[simp] theorem State.modIsland_pkg (i : Nat) (f : Island → Island) : (s.modIsland i f).pkg = s.pkg := rfl
@[simp] theorem State.modIsland_clk (i : Nat) (f : Island → Island) : (s.modIsland i f).clk = s.clk := rfl
@[simp] theorem State.modIsland_banks (i : Nat) (f : Island → Island) : (s.modIsland i f).banks = s.banks := rfl
@[simp] theorem State.modIsland_net (i : Nat) (f : Island → Island) : (s.modIsland i f).net = s.net := rfl
@[simp] theorem State.modIsland_swb (i : Nat) (f : Island → Island) : (s.modIsland i f).swb = s.swb := rfl
@[simp] theorem State.modIsland_hbm (i : Nat) (f : Island → Island) : (s.modIsland i f).hbm = s.hbm := rfl
@[simp] theorem State.modIsland_cry (i : Nat) (f : Island → Island) : (s.modIsland i f).cry = s.cry := rfl
@[simp] theorem State.modIsland_pins (i : Nat) (f : Island → Island) : (s.modIsland i f).pins = s.pins := rfl
@[simp] theorem State.modIsland_pwr (i : Nat) (f : Island → Island) : (s.modIsland i f).pwr = s.pwr := rfl
@[simp] theorem State.modIsland_host (i : Nat) (f : Island → Island) : (s.modIsland i f).host = s.host := rfl
@[simp] theorem State.modIsland_fuses (i : Nat) (f : Island → Island) : (s.modIsland i f).fuses = s.fuses := rfl
@[simp] theorem State.modIsland_cfg (i : Nat) (f : Island → Island) : (s.modIsland i f).cfg = s.cfg := rfl
@[simp] theorem State.modIsland_lko (i : Nat) (f : Island → Island) : (s.modIsland i f).lko = s.lko := rfl
@[simp] theorem State.modIsland_cairn (i : Nat) (f : Island → Island) : (s.modIsland i f).cairn = s.cairn := rfl
@[simp] theorem State.modIsland_twin (i : Nat) (f : Island → Island) : (s.modIsland i f).twin = s.twin := rfl
@[simp] theorem State.modIsland_bst (i : Nat) (f : Island → Island) : (s.modIsland i f).bst = s.bst := rfl
@[simp] theorem State.modIsland_dbg (i : Nat) (f : Island → Island) : (s.modIsland i f).dbg = s.dbg := rfl
@[simp] theorem State.modIsland_trace (i : Nat) (f : Island → Island) : (s.modIsland i f).trace = s.trace := rfl
@[simp] theorem State.modIsland_inbox (i : Nat) (f : Island → Island) : (s.modIsland i f).inbox = s.inbox := rfl
@[simp] theorem State.modIsland_free (i : Nat) (f : Island → Island) : (s.modIsland i f).free = s.free := rfl

/-! ### setBank -/

@[simp] theorem State.setBank_pending (b : Nat) (x : Bank) : (s.setBank b x).pending = s.pending := rfl
@[simp] theorem State.setBank_regs (b : Nat) (x : Bank) : (s.setBank b x).regs = s.regs := rfl
@[simp] theorem State.setBank_mem (b : Nat) (x : Bank) : (s.setBank b x).mem = s.mem := rfl
@[simp] theorem State.setBank_engines (b : Nat) (x : Bank) : (s.setBank b x).engines = s.engines := rfl
@[simp] theorem State.setBank_pkg (b : Nat) (x : Bank) : (s.setBank b x).pkg = s.pkg := rfl
@[simp] theorem State.setBank_isl (b : Nat) (x : Bank) : (s.setBank b x).isl = s.isl := rfl
@[simp] theorem State.setBank_clk (b : Nat) (x : Bank) : (s.setBank b x).clk = s.clk := rfl
@[simp] theorem State.setBank_banks (b : Nat) (x : Bank) : (s.setBank b x).banks = s.banks.poke (fun _ => {}) b x := rfl
@[simp] theorem State.setBank_net (b : Nat) (x : Bank) : (s.setBank b x).net = s.net := rfl
@[simp] theorem State.setBank_swb (b : Nat) (x : Bank) : (s.setBank b x).swb = s.swb := rfl
@[simp] theorem State.setBank_hbm (b : Nat) (x : Bank) : (s.setBank b x).hbm = s.hbm := rfl
@[simp] theorem State.setBank_cry (b : Nat) (x : Bank) : (s.setBank b x).cry = s.cry := rfl
@[simp] theorem State.setBank_pins (b : Nat) (x : Bank) : (s.setBank b x).pins = s.pins := rfl
@[simp] theorem State.setBank_pwr (b : Nat) (x : Bank) : (s.setBank b x).pwr = s.pwr := rfl
@[simp] theorem State.setBank_host (b : Nat) (x : Bank) : (s.setBank b x).host = s.host := rfl
@[simp] theorem State.setBank_fuses (b : Nat) (x : Bank) : (s.setBank b x).fuses = s.fuses := rfl
@[simp] theorem State.setBank_cfg (b : Nat) (x : Bank) : (s.setBank b x).cfg = s.cfg := rfl
@[simp] theorem State.setBank_lko (b : Nat) (x : Bank) : (s.setBank b x).lko = s.lko := rfl
@[simp] theorem State.setBank_cairn (b : Nat) (x : Bank) : (s.setBank b x).cairn = s.cairn := rfl
@[simp] theorem State.setBank_twin (b : Nat) (x : Bank) : (s.setBank b x).twin = s.twin := rfl
@[simp] theorem State.setBank_bst (b : Nat) (x : Bank) : (s.setBank b x).bst = s.bst := rfl
@[simp] theorem State.setBank_dbg (b : Nat) (x : Bank) : (s.setBank b x).dbg = s.dbg := rfl
@[simp] theorem State.setBank_trace (b : Nat) (x : Bank) : (s.setBank b x).trace = s.trace := rfl
@[simp] theorem State.setBank_inbox (b : Nat) (x : Bank) : (s.setBank b x).inbox = s.inbox := rfl
@[simp] theorem State.setBank_free (b : Nat) (x : Bank) : (s.setBank b x).free = s.free := rfl

/-! ### modBank -/

@[simp] theorem State.modBank_pending (b : Nat) (f : Bank → Bank) : (s.modBank b f).pending = s.pending := rfl
@[simp] theorem State.modBank_regs (b : Nat) (f : Bank → Bank) : (s.modBank b f).regs = s.regs := rfl
@[simp] theorem State.modBank_mem (b : Nat) (f : Bank → Bank) : (s.modBank b f).mem = s.mem := rfl
@[simp] theorem State.modBank_engines (b : Nat) (f : Bank → Bank) : (s.modBank b f).engines = s.engines := rfl
@[simp] theorem State.modBank_pkg (b : Nat) (f : Bank → Bank) : (s.modBank b f).pkg = s.pkg := rfl
@[simp] theorem State.modBank_isl (b : Nat) (f : Bank → Bank) : (s.modBank b f).isl = s.isl := rfl
@[simp] theorem State.modBank_clk (b : Nat) (f : Bank → Bank) : (s.modBank b f).clk = s.clk := rfl
@[simp] theorem State.modBank_net (b : Nat) (f : Bank → Bank) : (s.modBank b f).net = s.net := rfl
@[simp] theorem State.modBank_swb (b : Nat) (f : Bank → Bank) : (s.modBank b f).swb = s.swb := rfl
@[simp] theorem State.modBank_hbm (b : Nat) (f : Bank → Bank) : (s.modBank b f).hbm = s.hbm := rfl
@[simp] theorem State.modBank_cry (b : Nat) (f : Bank → Bank) : (s.modBank b f).cry = s.cry := rfl
@[simp] theorem State.modBank_pins (b : Nat) (f : Bank → Bank) : (s.modBank b f).pins = s.pins := rfl
@[simp] theorem State.modBank_pwr (b : Nat) (f : Bank → Bank) : (s.modBank b f).pwr = s.pwr := rfl
@[simp] theorem State.modBank_host (b : Nat) (f : Bank → Bank) : (s.modBank b f).host = s.host := rfl
@[simp] theorem State.modBank_fuses (b : Nat) (f : Bank → Bank) : (s.modBank b f).fuses = s.fuses := rfl
@[simp] theorem State.modBank_cfg (b : Nat) (f : Bank → Bank) : (s.modBank b f).cfg = s.cfg := rfl
@[simp] theorem State.modBank_lko (b : Nat) (f : Bank → Bank) : (s.modBank b f).lko = s.lko := rfl
@[simp] theorem State.modBank_cairn (b : Nat) (f : Bank → Bank) : (s.modBank b f).cairn = s.cairn := rfl
@[simp] theorem State.modBank_twin (b : Nat) (f : Bank → Bank) : (s.modBank b f).twin = s.twin := rfl
@[simp] theorem State.modBank_bst (b : Nat) (f : Bank → Bank) : (s.modBank b f).bst = s.bst := rfl
@[simp] theorem State.modBank_dbg (b : Nat) (f : Bank → Bank) : (s.modBank b f).dbg = s.dbg := rfl
@[simp] theorem State.modBank_trace (b : Nat) (f : Bank → Bank) : (s.modBank b f).trace = s.trace := rfl
@[simp] theorem State.modBank_inbox (b : Nat) (f : Bank → Bank) : (s.modBank b f).inbox = s.inbox := rfl
@[simp] theorem State.modBank_free (b : Nat) (f : Bank → Bank) : (s.modBank b f).free = s.free := rfl

/-! ### setTrail -/

@[simp] theorem State.setTrail_pending (t : Nat) (x : Trail) : (s.setTrail t x).pending = s.pending := rfl
@[simp] theorem State.setTrail_regs (t : Nat) (x : Trail) : (s.setTrail t x).regs = s.regs := rfl
@[simp] theorem State.setTrail_mem (t : Nat) (x : Trail) : (s.setTrail t x).mem = s.mem := rfl
@[simp] theorem State.setTrail_engines (t : Nat) (x : Trail) : (s.setTrail t x).engines = s.engines := rfl
@[simp] theorem State.setTrail_pkg (t : Nat) (x : Trail) : (s.setTrail t x).pkg = s.pkg := rfl
@[simp] theorem State.setTrail_isl (t : Nat) (x : Trail) : (s.setTrail t x).isl = s.isl := rfl
@[simp] theorem State.setTrail_clk (t : Nat) (x : Trail) : (s.setTrail t x).clk = s.clk := rfl
@[simp] theorem State.setTrail_banks (t : Nat) (x : Trail) : (s.setTrail t x).banks = s.banks := rfl
@[simp] theorem State.setTrail_swb (t : Nat) (x : Trail) : (s.setTrail t x).swb = s.swb := rfl
@[simp] theorem State.setTrail_hbm (t : Nat) (x : Trail) : (s.setTrail t x).hbm = s.hbm := rfl
@[simp] theorem State.setTrail_cry (t : Nat) (x : Trail) : (s.setTrail t x).cry = s.cry := rfl
@[simp] theorem State.setTrail_pins (t : Nat) (x : Trail) : (s.setTrail t x).pins = s.pins := rfl
@[simp] theorem State.setTrail_pwr (t : Nat) (x : Trail) : (s.setTrail t x).pwr = s.pwr := rfl
@[simp] theorem State.setTrail_host (t : Nat) (x : Trail) : (s.setTrail t x).host = s.host := rfl
@[simp] theorem State.setTrail_fuses (t : Nat) (x : Trail) : (s.setTrail t x).fuses = s.fuses := rfl
@[simp] theorem State.setTrail_cfg (t : Nat) (x : Trail) : (s.setTrail t x).cfg = s.cfg := rfl
@[simp] theorem State.setTrail_lko (t : Nat) (x : Trail) : (s.setTrail t x).lko = s.lko := rfl
@[simp] theorem State.setTrail_cairn (t : Nat) (x : Trail) : (s.setTrail t x).cairn = s.cairn := rfl
@[simp] theorem State.setTrail_twin (t : Nat) (x : Trail) : (s.setTrail t x).twin = s.twin := rfl
@[simp] theorem State.setTrail_bst (t : Nat) (x : Trail) : (s.setTrail t x).bst = s.bst := rfl
@[simp] theorem State.setTrail_dbg (t : Nat) (x : Trail) : (s.setTrail t x).dbg = s.dbg := rfl
@[simp] theorem State.setTrail_trace (t : Nat) (x : Trail) : (s.setTrail t x).trace = s.trace := rfl
@[simp] theorem State.setTrail_inbox (t : Nat) (x : Trail) : (s.setTrail t x).inbox = s.inbox := rfl
@[simp] theorem State.setTrail_free (t : Nat) (x : Trail) : (s.setTrail t x).free = s.free := rfl

/-! ### modTrail -/

@[simp] theorem State.modTrail_pending (t : Nat) (f : Trail → Trail) : (s.modTrail t f).pending = s.pending := rfl
@[simp] theorem State.modTrail_regs (t : Nat) (f : Trail → Trail) : (s.modTrail t f).regs = s.regs := rfl
@[simp] theorem State.modTrail_mem (t : Nat) (f : Trail → Trail) : (s.modTrail t f).mem = s.mem := rfl
@[simp] theorem State.modTrail_engines (t : Nat) (f : Trail → Trail) : (s.modTrail t f).engines = s.engines := rfl
@[simp] theorem State.modTrail_pkg (t : Nat) (f : Trail → Trail) : (s.modTrail t f).pkg = s.pkg := rfl
@[simp] theorem State.modTrail_isl (t : Nat) (f : Trail → Trail) : (s.modTrail t f).isl = s.isl := rfl
@[simp] theorem State.modTrail_clk (t : Nat) (f : Trail → Trail) : (s.modTrail t f).clk = s.clk := rfl
@[simp] theorem State.modTrail_banks (t : Nat) (f : Trail → Trail) : (s.modTrail t f).banks = s.banks := rfl
@[simp] theorem State.modTrail_swb (t : Nat) (f : Trail → Trail) : (s.modTrail t f).swb = s.swb := rfl
@[simp] theorem State.modTrail_hbm (t : Nat) (f : Trail → Trail) : (s.modTrail t f).hbm = s.hbm := rfl
@[simp] theorem State.modTrail_cry (t : Nat) (f : Trail → Trail) : (s.modTrail t f).cry = s.cry := rfl
@[simp] theorem State.modTrail_pins (t : Nat) (f : Trail → Trail) : (s.modTrail t f).pins = s.pins := rfl
@[simp] theorem State.modTrail_pwr (t : Nat) (f : Trail → Trail) : (s.modTrail t f).pwr = s.pwr := rfl
@[simp] theorem State.modTrail_host (t : Nat) (f : Trail → Trail) : (s.modTrail t f).host = s.host := rfl
@[simp] theorem State.modTrail_fuses (t : Nat) (f : Trail → Trail) : (s.modTrail t f).fuses = s.fuses := rfl
@[simp] theorem State.modTrail_cfg (t : Nat) (f : Trail → Trail) : (s.modTrail t f).cfg = s.cfg := rfl
@[simp] theorem State.modTrail_lko (t : Nat) (f : Trail → Trail) : (s.modTrail t f).lko = s.lko := rfl
@[simp] theorem State.modTrail_cairn (t : Nat) (f : Trail → Trail) : (s.modTrail t f).cairn = s.cairn := rfl
@[simp] theorem State.modTrail_twin (t : Nat) (f : Trail → Trail) : (s.modTrail t f).twin = s.twin := rfl
@[simp] theorem State.modTrail_bst (t : Nat) (f : Trail → Trail) : (s.modTrail t f).bst = s.bst := rfl
@[simp] theorem State.modTrail_dbg (t : Nat) (f : Trail → Trail) : (s.modTrail t f).dbg = s.dbg := rfl
@[simp] theorem State.modTrail_trace (t : Nat) (f : Trail → Trail) : (s.modTrail t f).trace = s.trace := rfl
@[simp] theorem State.modTrail_inbox (t : Nat) (f : Trail → Trail) : (s.modTrail t f).inbox = s.inbox := rfl
@[simp] theorem State.modTrail_free (t : Nat) (f : Trail → Trail) : (s.modTrail t f).free = s.free := rfl

/-! ### setTxn -/

@[simp] theorem State.setTxn_pending (tag : Nat) (x : Option Txn) : (s.setTxn tag x).pending = s.pending := rfl
@[simp] theorem State.setTxn_regs (tag : Nat) (x : Option Txn) : (s.setTxn tag x).regs = s.regs := rfl
@[simp] theorem State.setTxn_mem (tag : Nat) (x : Option Txn) : (s.setTxn tag x).mem = s.mem := rfl
@[simp] theorem State.setTxn_engines (tag : Nat) (x : Option Txn) : (s.setTxn tag x).engines = s.engines := rfl
@[simp] theorem State.setTxn_pkg (tag : Nat) (x : Option Txn) : (s.setTxn tag x).pkg = s.pkg := rfl
@[simp] theorem State.setTxn_isl (tag : Nat) (x : Option Txn) : (s.setTxn tag x).isl = s.isl := rfl
@[simp] theorem State.setTxn_clk (tag : Nat) (x : Option Txn) : (s.setTxn tag x).clk = s.clk := rfl
@[simp] theorem State.setTxn_banks (tag : Nat) (x : Option Txn) : (s.setTxn tag x).banks = s.banks := rfl
@[simp] theorem State.setTxn_swb (tag : Nat) (x : Option Txn) : (s.setTxn tag x).swb = s.swb := rfl
@[simp] theorem State.setTxn_hbm (tag : Nat) (x : Option Txn) : (s.setTxn tag x).hbm = s.hbm := rfl
@[simp] theorem State.setTxn_cry (tag : Nat) (x : Option Txn) : (s.setTxn tag x).cry = s.cry := rfl
@[simp] theorem State.setTxn_pins (tag : Nat) (x : Option Txn) : (s.setTxn tag x).pins = s.pins := rfl
@[simp] theorem State.setTxn_pwr (tag : Nat) (x : Option Txn) : (s.setTxn tag x).pwr = s.pwr := rfl
@[simp] theorem State.setTxn_host (tag : Nat) (x : Option Txn) : (s.setTxn tag x).host = s.host := rfl
@[simp] theorem State.setTxn_fuses (tag : Nat) (x : Option Txn) : (s.setTxn tag x).fuses = s.fuses := rfl
@[simp] theorem State.setTxn_cfg (tag : Nat) (x : Option Txn) : (s.setTxn tag x).cfg = s.cfg := rfl
@[simp] theorem State.setTxn_lko (tag : Nat) (x : Option Txn) : (s.setTxn tag x).lko = s.lko := rfl
@[simp] theorem State.setTxn_cairn (tag : Nat) (x : Option Txn) : (s.setTxn tag x).cairn = s.cairn := rfl
@[simp] theorem State.setTxn_twin (tag : Nat) (x : Option Txn) : (s.setTxn tag x).twin = s.twin := rfl
@[simp] theorem State.setTxn_bst (tag : Nat) (x : Option Txn) : (s.setTxn tag x).bst = s.bst := rfl
@[simp] theorem State.setTxn_dbg (tag : Nat) (x : Option Txn) : (s.setTxn tag x).dbg = s.dbg := rfl
@[simp] theorem State.setTxn_trace (tag : Nat) (x : Option Txn) : (s.setTxn tag x).trace = s.trace := rfl
@[simp] theorem State.setTxn_inbox (tag : Nat) (x : Option Txn) : (s.setTxn tag x).inbox = s.inbox := rfl
@[simp] theorem State.setTxn_free (tag : Nat) (x : Option Txn) : (s.setTxn tag x).free = s.free := rfl

/-! ### setCtx -/

@[simp] theorem State.setCtx_pending (c : Nat) (x : Context) : (s.setCtx c x).pending = s.pending := rfl
@[simp] theorem State.setCtx_regs (c : Nat) (x : Context) : (s.setCtx c x).regs = s.regs := rfl
@[simp] theorem State.setCtx_mem (c : Nat) (x : Context) : (s.setCtx c x).mem = s.mem := rfl
@[simp] theorem State.setCtx_engines (c : Nat) (x : Context) : (s.setCtx c x).engines = s.engines := rfl
@[simp] theorem State.setCtx_pkg (c : Nat) (x : Context) : (s.setCtx c x).pkg = s.pkg := rfl
@[simp] theorem State.setCtx_isl (c : Nat) (x : Context) : (s.setCtx c x).isl = s.isl := rfl
@[simp] theorem State.setCtx_clk (c : Nat) (x : Context) : (s.setCtx c x).clk = s.clk := rfl
@[simp] theorem State.setCtx_banks (c : Nat) (x : Context) : (s.setCtx c x).banks = s.banks := rfl
@[simp] theorem State.setCtx_net (c : Nat) (x : Context) : (s.setCtx c x).net = s.net := rfl
@[simp] theorem State.setCtx_hbm (c : Nat) (x : Context) : (s.setCtx c x).hbm = s.hbm := rfl
@[simp] theorem State.setCtx_cry (c : Nat) (x : Context) : (s.setCtx c x).cry = s.cry := rfl
@[simp] theorem State.setCtx_pins (c : Nat) (x : Context) : (s.setCtx c x).pins = s.pins := rfl
@[simp] theorem State.setCtx_pwr (c : Nat) (x : Context) : (s.setCtx c x).pwr = s.pwr := rfl
@[simp] theorem State.setCtx_host (c : Nat) (x : Context) : (s.setCtx c x).host = s.host := rfl
@[simp] theorem State.setCtx_fuses (c : Nat) (x : Context) : (s.setCtx c x).fuses = s.fuses := rfl
@[simp] theorem State.setCtx_cfg (c : Nat) (x : Context) : (s.setCtx c x).cfg = s.cfg := rfl
@[simp] theorem State.setCtx_lko (c : Nat) (x : Context) : (s.setCtx c x).lko = s.lko := rfl
@[simp] theorem State.setCtx_cairn (c : Nat) (x : Context) : (s.setCtx c x).cairn = s.cairn := rfl
@[simp] theorem State.setCtx_twin (c : Nat) (x : Context) : (s.setCtx c x).twin = s.twin := rfl
@[simp] theorem State.setCtx_bst (c : Nat) (x : Context) : (s.setCtx c x).bst = s.bst := rfl
@[simp] theorem State.setCtx_dbg (c : Nat) (x : Context) : (s.setCtx c x).dbg = s.dbg := rfl
@[simp] theorem State.setCtx_trace (c : Nat) (x : Context) : (s.setCtx c x).trace = s.trace := rfl
@[simp] theorem State.setCtx_inbox (c : Nat) (x : Context) : (s.setCtx c x).inbox = s.inbox := rfl
@[simp] theorem State.setCtx_free (c : Nat) (x : Context) : (s.setCtx c x).free = s.free := rfl

/-! ### modCtx -/

@[simp] theorem State.modCtx_pending (c : Nat) (f : Context → Context) : (s.modCtx c f).pending = s.pending := rfl
@[simp] theorem State.modCtx_regs (c : Nat) (f : Context → Context) : (s.modCtx c f).regs = s.regs := rfl
@[simp] theorem State.modCtx_mem (c : Nat) (f : Context → Context) : (s.modCtx c f).mem = s.mem := rfl
@[simp] theorem State.modCtx_engines (c : Nat) (f : Context → Context) : (s.modCtx c f).engines = s.engines := rfl
@[simp] theorem State.modCtx_pkg (c : Nat) (f : Context → Context) : (s.modCtx c f).pkg = s.pkg := rfl
@[simp] theorem State.modCtx_isl (c : Nat) (f : Context → Context) : (s.modCtx c f).isl = s.isl := rfl
@[simp] theorem State.modCtx_clk (c : Nat) (f : Context → Context) : (s.modCtx c f).clk = s.clk := rfl
@[simp] theorem State.modCtx_banks (c : Nat) (f : Context → Context) : (s.modCtx c f).banks = s.banks := rfl
@[simp] theorem State.modCtx_net (c : Nat) (f : Context → Context) : (s.modCtx c f).net = s.net := rfl
@[simp] theorem State.modCtx_hbm (c : Nat) (f : Context → Context) : (s.modCtx c f).hbm = s.hbm := rfl
@[simp] theorem State.modCtx_cry (c : Nat) (f : Context → Context) : (s.modCtx c f).cry = s.cry := rfl
@[simp] theorem State.modCtx_pins (c : Nat) (f : Context → Context) : (s.modCtx c f).pins = s.pins := rfl
@[simp] theorem State.modCtx_pwr (c : Nat) (f : Context → Context) : (s.modCtx c f).pwr = s.pwr := rfl
@[simp] theorem State.modCtx_host (c : Nat) (f : Context → Context) : (s.modCtx c f).host = s.host := rfl
@[simp] theorem State.modCtx_fuses (c : Nat) (f : Context → Context) : (s.modCtx c f).fuses = s.fuses := rfl
@[simp] theorem State.modCtx_cfg (c : Nat) (f : Context → Context) : (s.modCtx c f).cfg = s.cfg := rfl
@[simp] theorem State.modCtx_lko (c : Nat) (f : Context → Context) : (s.modCtx c f).lko = s.lko := rfl
@[simp] theorem State.modCtx_cairn (c : Nat) (f : Context → Context) : (s.modCtx c f).cairn = s.cairn := rfl
@[simp] theorem State.modCtx_twin (c : Nat) (f : Context → Context) : (s.modCtx c f).twin = s.twin := rfl
@[simp] theorem State.modCtx_bst (c : Nat) (f : Context → Context) : (s.modCtx c f).bst = s.bst := rfl
@[simp] theorem State.modCtx_dbg (c : Nat) (f : Context → Context) : (s.modCtx c f).dbg = s.dbg := rfl
@[simp] theorem State.modCtx_trace (c : Nat) (f : Context → Context) : (s.modCtx c f).trace = s.trace := rfl
@[simp] theorem State.modCtx_inbox (c : Nat) (f : Context → Context) : (s.modCtx c f).inbox = s.inbox := rfl
@[simp] theorem State.modCtx_free (c : Nat) (f : Context → Context) : (s.modCtx c f).free = s.free := rfl

/-! ### onNet -/

@[simp] theorem State.onNet_pending (f : Network → Network) : (s.onNet f).pending = s.pending := rfl
@[simp] theorem State.onNet_regs (f : Network → Network) : (s.onNet f).regs = s.regs := rfl
@[simp] theorem State.onNet_mem (f : Network → Network) : (s.onNet f).mem = s.mem := rfl
@[simp] theorem State.onNet_engines (f : Network → Network) : (s.onNet f).engines = s.engines := rfl
@[simp] theorem State.onNet_pkg (f : Network → Network) : (s.onNet f).pkg = s.pkg := rfl
@[simp] theorem State.onNet_isl (f : Network → Network) : (s.onNet f).isl = s.isl := rfl
@[simp] theorem State.onNet_clk (f : Network → Network) : (s.onNet f).clk = s.clk := rfl
@[simp] theorem State.onNet_banks (f : Network → Network) : (s.onNet f).banks = s.banks := rfl
@[simp] theorem State.onNet_net (f : Network → Network) : (s.onNet f).net = f s.net := rfl
@[simp] theorem State.onNet_swb (f : Network → Network) : (s.onNet f).swb = s.swb := rfl
@[simp] theorem State.onNet_hbm (f : Network → Network) : (s.onNet f).hbm = s.hbm := rfl
@[simp] theorem State.onNet_cry (f : Network → Network) : (s.onNet f).cry = s.cry := rfl
@[simp] theorem State.onNet_pins (f : Network → Network) : (s.onNet f).pins = s.pins := rfl
@[simp] theorem State.onNet_pwr (f : Network → Network) : (s.onNet f).pwr = s.pwr := rfl
@[simp] theorem State.onNet_host (f : Network → Network) : (s.onNet f).host = s.host := rfl
@[simp] theorem State.onNet_fuses (f : Network → Network) : (s.onNet f).fuses = s.fuses := rfl
@[simp] theorem State.onNet_cfg (f : Network → Network) : (s.onNet f).cfg = s.cfg := rfl
@[simp] theorem State.onNet_lko (f : Network → Network) : (s.onNet f).lko = s.lko := rfl
@[simp] theorem State.onNet_cairn (f : Network → Network) : (s.onNet f).cairn = s.cairn := rfl
@[simp] theorem State.onNet_twin (f : Network → Network) : (s.onNet f).twin = s.twin := rfl
@[simp] theorem State.onNet_bst (f : Network → Network) : (s.onNet f).bst = s.bst := rfl
@[simp] theorem State.onNet_dbg (f : Network → Network) : (s.onNet f).dbg = s.dbg := rfl
@[simp] theorem State.onNet_trace (f : Network → Network) : (s.onNet f).trace = s.trace := rfl
@[simp] theorem State.onNet_inbox (f : Network → Network) : (s.onNet f).inbox = s.inbox := rfl
@[simp] theorem State.onNet_free (f : Network → Network) : (s.onNet f).free = s.free := rfl

/-! ### onSwb -/

@[simp] theorem State.onSwb_pending (f : Switchback → Switchback) : (s.onSwb f).pending = s.pending := rfl
@[simp] theorem State.onSwb_regs (f : Switchback → Switchback) : (s.onSwb f).regs = s.regs := rfl
@[simp] theorem State.onSwb_mem (f : Switchback → Switchback) : (s.onSwb f).mem = s.mem := rfl
@[simp] theorem State.onSwb_engines (f : Switchback → Switchback) : (s.onSwb f).engines = s.engines := rfl
@[simp] theorem State.onSwb_pkg (f : Switchback → Switchback) : (s.onSwb f).pkg = s.pkg := rfl
@[simp] theorem State.onSwb_isl (f : Switchback → Switchback) : (s.onSwb f).isl = s.isl := rfl
@[simp] theorem State.onSwb_clk (f : Switchback → Switchback) : (s.onSwb f).clk = s.clk := rfl
@[simp] theorem State.onSwb_banks (f : Switchback → Switchback) : (s.onSwb f).banks = s.banks := rfl
@[simp] theorem State.onSwb_net (f : Switchback → Switchback) : (s.onSwb f).net = s.net := rfl
@[simp] theorem State.onSwb_swb (f : Switchback → Switchback) : (s.onSwb f).swb = f s.swb := rfl
@[simp] theorem State.onSwb_hbm (f : Switchback → Switchback) : (s.onSwb f).hbm = s.hbm := rfl
@[simp] theorem State.onSwb_cry (f : Switchback → Switchback) : (s.onSwb f).cry = s.cry := rfl
@[simp] theorem State.onSwb_pins (f : Switchback → Switchback) : (s.onSwb f).pins = s.pins := rfl
@[simp] theorem State.onSwb_pwr (f : Switchback → Switchback) : (s.onSwb f).pwr = s.pwr := rfl
@[simp] theorem State.onSwb_host (f : Switchback → Switchback) : (s.onSwb f).host = s.host := rfl
@[simp] theorem State.onSwb_fuses (f : Switchback → Switchback) : (s.onSwb f).fuses = s.fuses := rfl
@[simp] theorem State.onSwb_cfg (f : Switchback → Switchback) : (s.onSwb f).cfg = s.cfg := rfl
@[simp] theorem State.onSwb_lko (f : Switchback → Switchback) : (s.onSwb f).lko = s.lko := rfl
@[simp] theorem State.onSwb_cairn (f : Switchback → Switchback) : (s.onSwb f).cairn = s.cairn := rfl
@[simp] theorem State.onSwb_twin (f : Switchback → Switchback) : (s.onSwb f).twin = s.twin := rfl
@[simp] theorem State.onSwb_bst (f : Switchback → Switchback) : (s.onSwb f).bst = s.bst := rfl
@[simp] theorem State.onSwb_dbg (f : Switchback → Switchback) : (s.onSwb f).dbg = s.dbg := rfl
@[simp] theorem State.onSwb_trace (f : Switchback → Switchback) : (s.onSwb f).trace = s.trace := rfl
@[simp] theorem State.onSwb_inbox (f : Switchback → Switchback) : (s.onSwb f).inbox = s.inbox := rfl
@[simp] theorem State.onSwb_free (f : Switchback → Switchback) : (s.onSwb f).free = s.free := rfl

/-! ### onHost -/

@[simp] theorem State.onHost_pending (f : HostIf → HostIf) : (s.onHost f).pending = s.pending := rfl
@[simp] theorem State.onHost_regs (f : HostIf → HostIf) : (s.onHost f).regs = s.regs := rfl
@[simp] theorem State.onHost_mem (f : HostIf → HostIf) : (s.onHost f).mem = s.mem := rfl
@[simp] theorem State.onHost_engines (f : HostIf → HostIf) : (s.onHost f).engines = s.engines := rfl
@[simp] theorem State.onHost_pkg (f : HostIf → HostIf) : (s.onHost f).pkg = s.pkg := rfl
@[simp] theorem State.onHost_isl (f : HostIf → HostIf) : (s.onHost f).isl = s.isl := rfl
@[simp] theorem State.onHost_clk (f : HostIf → HostIf) : (s.onHost f).clk = s.clk := rfl
@[simp] theorem State.onHost_banks (f : HostIf → HostIf) : (s.onHost f).banks = s.banks := rfl
@[simp] theorem State.onHost_net (f : HostIf → HostIf) : (s.onHost f).net = s.net := rfl
@[simp] theorem State.onHost_swb (f : HostIf → HostIf) : (s.onHost f).swb = s.swb := rfl
@[simp] theorem State.onHost_hbm (f : HostIf → HostIf) : (s.onHost f).hbm = s.hbm := rfl
@[simp] theorem State.onHost_cry (f : HostIf → HostIf) : (s.onHost f).cry = s.cry := rfl
@[simp] theorem State.onHost_pins (f : HostIf → HostIf) : (s.onHost f).pins = s.pins := rfl
@[simp] theorem State.onHost_pwr (f : HostIf → HostIf) : (s.onHost f).pwr = s.pwr := rfl
@[simp] theorem State.onHost_host (f : HostIf → HostIf) : (s.onHost f).host = f s.host := rfl
@[simp] theorem State.onHost_fuses (f : HostIf → HostIf) : (s.onHost f).fuses = s.fuses := rfl
@[simp] theorem State.onHost_cfg (f : HostIf → HostIf) : (s.onHost f).cfg = s.cfg := rfl
@[simp] theorem State.onHost_lko (f : HostIf → HostIf) : (s.onHost f).lko = s.lko := rfl
@[simp] theorem State.onHost_cairn (f : HostIf → HostIf) : (s.onHost f).cairn = s.cairn := rfl
@[simp] theorem State.onHost_twin (f : HostIf → HostIf) : (s.onHost f).twin = s.twin := rfl
@[simp] theorem State.onHost_bst (f : HostIf → HostIf) : (s.onHost f).bst = s.bst := rfl
@[simp] theorem State.onHost_dbg (f : HostIf → HostIf) : (s.onHost f).dbg = s.dbg := rfl
@[simp] theorem State.onHost_trace (f : HostIf → HostIf) : (s.onHost f).trace = s.trace := rfl
@[simp] theorem State.onHost_inbox (f : HostIf → HostIf) : (s.onHost f).inbox = s.inbox := rfl
@[simp] theorem State.onHost_free (f : HostIf → HostIf) : (s.onHost f).free = s.free := rfl

/-! ### onPkg -/

@[simp] theorem State.onPkg_pending (f : Package → Package) : (s.onPkg f).pending = s.pending := rfl
@[simp] theorem State.onPkg_regs (f : Package → Package) : (s.onPkg f).regs = s.regs := rfl
@[simp] theorem State.onPkg_mem (f : Package → Package) : (s.onPkg f).mem = s.mem := rfl
@[simp] theorem State.onPkg_engines (f : Package → Package) : (s.onPkg f).engines = s.engines := rfl
@[simp] theorem State.onPkg_pkg (f : Package → Package) : (s.onPkg f).pkg = f s.pkg := rfl
@[simp] theorem State.onPkg_isl (f : Package → Package) : (s.onPkg f).isl = s.isl := rfl
@[simp] theorem State.onPkg_clk (f : Package → Package) : (s.onPkg f).clk = s.clk := rfl
@[simp] theorem State.onPkg_banks (f : Package → Package) : (s.onPkg f).banks = s.banks := rfl
@[simp] theorem State.onPkg_net (f : Package → Package) : (s.onPkg f).net = s.net := rfl
@[simp] theorem State.onPkg_swb (f : Package → Package) : (s.onPkg f).swb = s.swb := rfl
@[simp] theorem State.onPkg_hbm (f : Package → Package) : (s.onPkg f).hbm = s.hbm := rfl
@[simp] theorem State.onPkg_cry (f : Package → Package) : (s.onPkg f).cry = s.cry := rfl
@[simp] theorem State.onPkg_pins (f : Package → Package) : (s.onPkg f).pins = s.pins := rfl
@[simp] theorem State.onPkg_pwr (f : Package → Package) : (s.onPkg f).pwr = s.pwr := rfl
@[simp] theorem State.onPkg_host (f : Package → Package) : (s.onPkg f).host = s.host := rfl
@[simp] theorem State.onPkg_fuses (f : Package → Package) : (s.onPkg f).fuses = s.fuses := rfl
@[simp] theorem State.onPkg_cfg (f : Package → Package) : (s.onPkg f).cfg = s.cfg := rfl
@[simp] theorem State.onPkg_lko (f : Package → Package) : (s.onPkg f).lko = s.lko := rfl
@[simp] theorem State.onPkg_cairn (f : Package → Package) : (s.onPkg f).cairn = s.cairn := rfl
@[simp] theorem State.onPkg_twin (f : Package → Package) : (s.onPkg f).twin = s.twin := rfl
@[simp] theorem State.onPkg_bst (f : Package → Package) : (s.onPkg f).bst = s.bst := rfl
@[simp] theorem State.onPkg_dbg (f : Package → Package) : (s.onPkg f).dbg = s.dbg := rfl
@[simp] theorem State.onPkg_trace (f : Package → Package) : (s.onPkg f).trace = s.trace := rfl
@[simp] theorem State.onPkg_inbox (f : Package → Package) : (s.onPkg f).inbox = s.inbox := rfl
@[simp] theorem State.onPkg_free (f : Package → Package) : (s.onPkg f).free = s.free := rfl

/-! ### onMem -/

@[simp] theorem State.onMem_pending (f : Memory → Memory) : (s.onMem f).pending = s.pending := rfl
@[simp] theorem State.onMem_regs (f : Memory → Memory) : (s.onMem f).regs = s.regs := rfl
@[simp] theorem State.onMem_mem (f : Memory → Memory) : (s.onMem f).mem = f s.mem := rfl
@[simp] theorem State.onMem_engines (f : Memory → Memory) : (s.onMem f).engines = s.engines := rfl
@[simp] theorem State.onMem_pkg (f : Memory → Memory) : (s.onMem f).pkg = s.pkg := rfl
@[simp] theorem State.onMem_isl (f : Memory → Memory) : (s.onMem f).isl = s.isl := rfl
@[simp] theorem State.onMem_clk (f : Memory → Memory) : (s.onMem f).clk = s.clk := rfl
@[simp] theorem State.onMem_banks (f : Memory → Memory) : (s.onMem f).banks = s.banks := rfl
@[simp] theorem State.onMem_net (f : Memory → Memory) : (s.onMem f).net = s.net := rfl
@[simp] theorem State.onMem_swb (f : Memory → Memory) : (s.onMem f).swb = s.swb := rfl
@[simp] theorem State.onMem_hbm (f : Memory → Memory) : (s.onMem f).hbm = s.hbm := rfl
@[simp] theorem State.onMem_cry (f : Memory → Memory) : (s.onMem f).cry = s.cry := rfl
@[simp] theorem State.onMem_pins (f : Memory → Memory) : (s.onMem f).pins = s.pins := rfl
@[simp] theorem State.onMem_pwr (f : Memory → Memory) : (s.onMem f).pwr = s.pwr := rfl
@[simp] theorem State.onMem_host (f : Memory → Memory) : (s.onMem f).host = s.host := rfl
@[simp] theorem State.onMem_fuses (f : Memory → Memory) : (s.onMem f).fuses = s.fuses := rfl
@[simp] theorem State.onMem_cfg (f : Memory → Memory) : (s.onMem f).cfg = s.cfg := rfl
@[simp] theorem State.onMem_lko (f : Memory → Memory) : (s.onMem f).lko = s.lko := rfl
@[simp] theorem State.onMem_cairn (f : Memory → Memory) : (s.onMem f).cairn = s.cairn := rfl
@[simp] theorem State.onMem_twin (f : Memory → Memory) : (s.onMem f).twin = s.twin := rfl
@[simp] theorem State.onMem_bst (f : Memory → Memory) : (s.onMem f).bst = s.bst := rfl
@[simp] theorem State.onMem_dbg (f : Memory → Memory) : (s.onMem f).dbg = s.dbg := rfl
@[simp] theorem State.onMem_trace (f : Memory → Memory) : (s.onMem f).trace = s.trace := rfl
@[simp] theorem State.onMem_inbox (f : Memory → Memory) : (s.onMem f).inbox = s.inbox := rfl
@[simp] theorem State.onMem_free (f : Memory → Memory) : (s.onMem f).free = s.free := rfl

/-! ### onClk -/

@[simp] theorem State.onClk_pending (f : ClockUnit → ClockUnit) : (s.onClk f).pending = s.pending := rfl
@[simp] theorem State.onClk_regs (f : ClockUnit → ClockUnit) : (s.onClk f).regs = s.regs := rfl
@[simp] theorem State.onClk_mem (f : ClockUnit → ClockUnit) : (s.onClk f).mem = s.mem := rfl
@[simp] theorem State.onClk_engines (f : ClockUnit → ClockUnit) : (s.onClk f).engines = s.engines := rfl
@[simp] theorem State.onClk_pkg (f : ClockUnit → ClockUnit) : (s.onClk f).pkg = s.pkg := rfl
@[simp] theorem State.onClk_isl (f : ClockUnit → ClockUnit) : (s.onClk f).isl = s.isl := rfl
@[simp] theorem State.onClk_clk (f : ClockUnit → ClockUnit) : (s.onClk f).clk = f s.clk := rfl
@[simp] theorem State.onClk_banks (f : ClockUnit → ClockUnit) : (s.onClk f).banks = s.banks := rfl
@[simp] theorem State.onClk_net (f : ClockUnit → ClockUnit) : (s.onClk f).net = s.net := rfl
@[simp] theorem State.onClk_swb (f : ClockUnit → ClockUnit) : (s.onClk f).swb = s.swb := rfl
@[simp] theorem State.onClk_hbm (f : ClockUnit → ClockUnit) : (s.onClk f).hbm = s.hbm := rfl
@[simp] theorem State.onClk_cry (f : ClockUnit → ClockUnit) : (s.onClk f).cry = s.cry := rfl
@[simp] theorem State.onClk_pins (f : ClockUnit → ClockUnit) : (s.onClk f).pins = s.pins := rfl
@[simp] theorem State.onClk_pwr (f : ClockUnit → ClockUnit) : (s.onClk f).pwr = s.pwr := rfl
@[simp] theorem State.onClk_host (f : ClockUnit → ClockUnit) : (s.onClk f).host = s.host := rfl
@[simp] theorem State.onClk_fuses (f : ClockUnit → ClockUnit) : (s.onClk f).fuses = s.fuses := rfl
@[simp] theorem State.onClk_cfg (f : ClockUnit → ClockUnit) : (s.onClk f).cfg = s.cfg := rfl
@[simp] theorem State.onClk_lko (f : ClockUnit → ClockUnit) : (s.onClk f).lko = s.lko := rfl
@[simp] theorem State.onClk_cairn (f : ClockUnit → ClockUnit) : (s.onClk f).cairn = s.cairn := rfl
@[simp] theorem State.onClk_twin (f : ClockUnit → ClockUnit) : (s.onClk f).twin = s.twin := rfl
@[simp] theorem State.onClk_bst (f : ClockUnit → ClockUnit) : (s.onClk f).bst = s.bst := rfl
@[simp] theorem State.onClk_dbg (f : ClockUnit → ClockUnit) : (s.onClk f).dbg = s.dbg := rfl
@[simp] theorem State.onClk_trace (f : ClockUnit → ClockUnit) : (s.onClk f).trace = s.trace := rfl
@[simp] theorem State.onClk_inbox (f : ClockUnit → ClockUnit) : (s.onClk f).inbox = s.inbox := rfl
@[simp] theorem State.onClk_free (f : ClockUnit → ClockUnit) : (s.onClk f).free = s.free := rfl

/-! ### onLko -/

@[simp] theorem State.onLko_pending (f : Lookout → Lookout) : (s.onLko f).pending = s.pending := rfl
@[simp] theorem State.onLko_regs (f : Lookout → Lookout) : (s.onLko f).regs = s.regs := rfl
@[simp] theorem State.onLko_mem (f : Lookout → Lookout) : (s.onLko f).mem = s.mem := rfl
@[simp] theorem State.onLko_engines (f : Lookout → Lookout) : (s.onLko f).engines = s.engines := rfl
@[simp] theorem State.onLko_pkg (f : Lookout → Lookout) : (s.onLko f).pkg = s.pkg := rfl
@[simp] theorem State.onLko_isl (f : Lookout → Lookout) : (s.onLko f).isl = s.isl := rfl
@[simp] theorem State.onLko_clk (f : Lookout → Lookout) : (s.onLko f).clk = s.clk := rfl
@[simp] theorem State.onLko_banks (f : Lookout → Lookout) : (s.onLko f).banks = s.banks := rfl
@[simp] theorem State.onLko_net (f : Lookout → Lookout) : (s.onLko f).net = s.net := rfl
@[simp] theorem State.onLko_swb (f : Lookout → Lookout) : (s.onLko f).swb = s.swb := rfl
@[simp] theorem State.onLko_hbm (f : Lookout → Lookout) : (s.onLko f).hbm = s.hbm := rfl
@[simp] theorem State.onLko_cry (f : Lookout → Lookout) : (s.onLko f).cry = s.cry := rfl
@[simp] theorem State.onLko_pins (f : Lookout → Lookout) : (s.onLko f).pins = s.pins := rfl
@[simp] theorem State.onLko_pwr (f : Lookout → Lookout) : (s.onLko f).pwr = s.pwr := rfl
@[simp] theorem State.onLko_host (f : Lookout → Lookout) : (s.onLko f).host = s.host := rfl
@[simp] theorem State.onLko_fuses (f : Lookout → Lookout) : (s.onLko f).fuses = s.fuses := rfl
@[simp] theorem State.onLko_cfg (f : Lookout → Lookout) : (s.onLko f).cfg = s.cfg := rfl
@[simp] theorem State.onLko_lko (f : Lookout → Lookout) : (s.onLko f).lko = f s.lko := rfl
@[simp] theorem State.onLko_cairn (f : Lookout → Lookout) : (s.onLko f).cairn = s.cairn := rfl
@[simp] theorem State.onLko_twin (f : Lookout → Lookout) : (s.onLko f).twin = s.twin := rfl
@[simp] theorem State.onLko_bst (f : Lookout → Lookout) : (s.onLko f).bst = s.bst := rfl
@[simp] theorem State.onLko_dbg (f : Lookout → Lookout) : (s.onLko f).dbg = s.dbg := rfl
@[simp] theorem State.onLko_trace (f : Lookout → Lookout) : (s.onLko f).trace = s.trace := rfl
@[simp] theorem State.onLko_inbox (f : Lookout → Lookout) : (s.onLko f).inbox = s.inbox := rfl
@[simp] theorem State.onLko_free (f : Lookout → Lookout) : (s.onLko f).free = s.free := rfl

/-! ### onCairn -/

@[simp] theorem State.onCairn_pending (f : Cairn → Cairn) : (s.onCairn f).pending = s.pending := rfl
@[simp] theorem State.onCairn_regs (f : Cairn → Cairn) : (s.onCairn f).regs = s.regs := rfl
@[simp] theorem State.onCairn_mem (f : Cairn → Cairn) : (s.onCairn f).mem = s.mem := rfl
@[simp] theorem State.onCairn_engines (f : Cairn → Cairn) : (s.onCairn f).engines = s.engines := rfl
@[simp] theorem State.onCairn_pkg (f : Cairn → Cairn) : (s.onCairn f).pkg = s.pkg := rfl
@[simp] theorem State.onCairn_isl (f : Cairn → Cairn) : (s.onCairn f).isl = s.isl := rfl
@[simp] theorem State.onCairn_clk (f : Cairn → Cairn) : (s.onCairn f).clk = s.clk := rfl
@[simp] theorem State.onCairn_banks (f : Cairn → Cairn) : (s.onCairn f).banks = s.banks := rfl
@[simp] theorem State.onCairn_net (f : Cairn → Cairn) : (s.onCairn f).net = s.net := rfl
@[simp] theorem State.onCairn_swb (f : Cairn → Cairn) : (s.onCairn f).swb = s.swb := rfl
@[simp] theorem State.onCairn_hbm (f : Cairn → Cairn) : (s.onCairn f).hbm = s.hbm := rfl
@[simp] theorem State.onCairn_cry (f : Cairn → Cairn) : (s.onCairn f).cry = s.cry := rfl
@[simp] theorem State.onCairn_pins (f : Cairn → Cairn) : (s.onCairn f).pins = s.pins := rfl
@[simp] theorem State.onCairn_pwr (f : Cairn → Cairn) : (s.onCairn f).pwr = s.pwr := rfl
@[simp] theorem State.onCairn_host (f : Cairn → Cairn) : (s.onCairn f).host = s.host := rfl
@[simp] theorem State.onCairn_fuses (f : Cairn → Cairn) : (s.onCairn f).fuses = s.fuses := rfl
@[simp] theorem State.onCairn_cfg (f : Cairn → Cairn) : (s.onCairn f).cfg = s.cfg := rfl
@[simp] theorem State.onCairn_lko (f : Cairn → Cairn) : (s.onCairn f).lko = s.lko := rfl
@[simp] theorem State.onCairn_cairn (f : Cairn → Cairn) : (s.onCairn f).cairn = f s.cairn := rfl
@[simp] theorem State.onCairn_twin (f : Cairn → Cairn) : (s.onCairn f).twin = s.twin := rfl
@[simp] theorem State.onCairn_bst (f : Cairn → Cairn) : (s.onCairn f).bst = s.bst := rfl
@[simp] theorem State.onCairn_dbg (f : Cairn → Cairn) : (s.onCairn f).dbg = s.dbg := rfl
@[simp] theorem State.onCairn_trace (f : Cairn → Cairn) : (s.onCairn f).trace = s.trace := rfl
@[simp] theorem State.onCairn_inbox (f : Cairn → Cairn) : (s.onCairn f).inbox = s.inbox := rfl
@[simp] theorem State.onCairn_free (f : Cairn → Cairn) : (s.onCairn f).free = s.free := rfl

/-! ### onTwin -/

@[simp] theorem State.onTwin_pending (f : Twin → Twin) : (s.onTwin f).pending = s.pending := rfl
@[simp] theorem State.onTwin_regs (f : Twin → Twin) : (s.onTwin f).regs = s.regs := rfl
@[simp] theorem State.onTwin_mem (f : Twin → Twin) : (s.onTwin f).mem = s.mem := rfl
@[simp] theorem State.onTwin_engines (f : Twin → Twin) : (s.onTwin f).engines = s.engines := rfl
@[simp] theorem State.onTwin_pkg (f : Twin → Twin) : (s.onTwin f).pkg = s.pkg := rfl
@[simp] theorem State.onTwin_isl (f : Twin → Twin) : (s.onTwin f).isl = s.isl := rfl
@[simp] theorem State.onTwin_clk (f : Twin → Twin) : (s.onTwin f).clk = s.clk := rfl
@[simp] theorem State.onTwin_banks (f : Twin → Twin) : (s.onTwin f).banks = s.banks := rfl
@[simp] theorem State.onTwin_net (f : Twin → Twin) : (s.onTwin f).net = s.net := rfl
@[simp] theorem State.onTwin_swb (f : Twin → Twin) : (s.onTwin f).swb = s.swb := rfl
@[simp] theorem State.onTwin_hbm (f : Twin → Twin) : (s.onTwin f).hbm = s.hbm := rfl
@[simp] theorem State.onTwin_cry (f : Twin → Twin) : (s.onTwin f).cry = s.cry := rfl
@[simp] theorem State.onTwin_pins (f : Twin → Twin) : (s.onTwin f).pins = s.pins := rfl
@[simp] theorem State.onTwin_pwr (f : Twin → Twin) : (s.onTwin f).pwr = s.pwr := rfl
@[simp] theorem State.onTwin_host (f : Twin → Twin) : (s.onTwin f).host = s.host := rfl
@[simp] theorem State.onTwin_fuses (f : Twin → Twin) : (s.onTwin f).fuses = s.fuses := rfl
@[simp] theorem State.onTwin_cfg (f : Twin → Twin) : (s.onTwin f).cfg = s.cfg := rfl
@[simp] theorem State.onTwin_lko (f : Twin → Twin) : (s.onTwin f).lko = s.lko := rfl
@[simp] theorem State.onTwin_cairn (f : Twin → Twin) : (s.onTwin f).cairn = s.cairn := rfl
@[simp] theorem State.onTwin_twin (f : Twin → Twin) : (s.onTwin f).twin = f s.twin := rfl
@[simp] theorem State.onTwin_bst (f : Twin → Twin) : (s.onTwin f).bst = s.bst := rfl
@[simp] theorem State.onTwin_dbg (f : Twin → Twin) : (s.onTwin f).dbg = s.dbg := rfl
@[simp] theorem State.onTwin_trace (f : Twin → Twin) : (s.onTwin f).trace = s.trace := rfl
@[simp] theorem State.onTwin_inbox (f : Twin → Twin) : (s.onTwin f).inbox = s.inbox := rfl
@[simp] theorem State.onTwin_free (f : Twin → Twin) : (s.onTwin f).free = s.free := rfl

/-! ### onCfg -/

@[simp] theorem State.onCfg_pending (f : Cfg → Cfg) : (s.onCfg f).pending = s.pending := rfl
@[simp] theorem State.onCfg_regs (f : Cfg → Cfg) : (s.onCfg f).regs = s.regs := rfl
@[simp] theorem State.onCfg_mem (f : Cfg → Cfg) : (s.onCfg f).mem = s.mem := rfl
@[simp] theorem State.onCfg_engines (f : Cfg → Cfg) : (s.onCfg f).engines = s.engines := rfl
@[simp] theorem State.onCfg_pkg (f : Cfg → Cfg) : (s.onCfg f).pkg = s.pkg := rfl
@[simp] theorem State.onCfg_isl (f : Cfg → Cfg) : (s.onCfg f).isl = s.isl := rfl
@[simp] theorem State.onCfg_clk (f : Cfg → Cfg) : (s.onCfg f).clk = s.clk := rfl
@[simp] theorem State.onCfg_banks (f : Cfg → Cfg) : (s.onCfg f).banks = s.banks := rfl
@[simp] theorem State.onCfg_net (f : Cfg → Cfg) : (s.onCfg f).net = s.net := rfl
@[simp] theorem State.onCfg_swb (f : Cfg → Cfg) : (s.onCfg f).swb = s.swb := rfl
@[simp] theorem State.onCfg_hbm (f : Cfg → Cfg) : (s.onCfg f).hbm = s.hbm := rfl
@[simp] theorem State.onCfg_cry (f : Cfg → Cfg) : (s.onCfg f).cry = s.cry := rfl
@[simp] theorem State.onCfg_pins (f : Cfg → Cfg) : (s.onCfg f).pins = s.pins := rfl
@[simp] theorem State.onCfg_pwr (f : Cfg → Cfg) : (s.onCfg f).pwr = s.pwr := rfl
@[simp] theorem State.onCfg_host (f : Cfg → Cfg) : (s.onCfg f).host = s.host := rfl
@[simp] theorem State.onCfg_fuses (f : Cfg → Cfg) : (s.onCfg f).fuses = s.fuses := rfl
@[simp] theorem State.onCfg_cfg (f : Cfg → Cfg) : (s.onCfg f).cfg = f s.cfg := rfl
@[simp] theorem State.onCfg_lko (f : Cfg → Cfg) : (s.onCfg f).lko = s.lko := rfl
@[simp] theorem State.onCfg_cairn (f : Cfg → Cfg) : (s.onCfg f).cairn = s.cairn := rfl
@[simp] theorem State.onCfg_twin (f : Cfg → Cfg) : (s.onCfg f).twin = s.twin := rfl
@[simp] theorem State.onCfg_bst (f : Cfg → Cfg) : (s.onCfg f).bst = s.bst := rfl
@[simp] theorem State.onCfg_dbg (f : Cfg → Cfg) : (s.onCfg f).dbg = s.dbg := rfl
@[simp] theorem State.onCfg_trace (f : Cfg → Cfg) : (s.onCfg f).trace = s.trace := rfl
@[simp] theorem State.onCfg_inbox (f : Cfg → Cfg) : (s.onCfg f).inbox = s.inbox := rfl
@[simp] theorem State.onCfg_free (f : Cfg → Cfg) : (s.onCfg f).free = s.free := rfl

/-! ### onHbm -/

@[simp] theorem State.onHbm_pending (f : Hbm → Hbm) : (s.onHbm f).pending = s.pending := rfl
@[simp] theorem State.onHbm_regs (f : Hbm → Hbm) : (s.onHbm f).regs = s.regs := rfl
@[simp] theorem State.onHbm_mem (f : Hbm → Hbm) : (s.onHbm f).mem = s.mem := rfl
@[simp] theorem State.onHbm_engines (f : Hbm → Hbm) : (s.onHbm f).engines = s.engines := rfl
@[simp] theorem State.onHbm_pkg (f : Hbm → Hbm) : (s.onHbm f).pkg = s.pkg := rfl
@[simp] theorem State.onHbm_isl (f : Hbm → Hbm) : (s.onHbm f).isl = s.isl := rfl
@[simp] theorem State.onHbm_clk (f : Hbm → Hbm) : (s.onHbm f).clk = s.clk := rfl
@[simp] theorem State.onHbm_banks (f : Hbm → Hbm) : (s.onHbm f).banks = s.banks := rfl
@[simp] theorem State.onHbm_net (f : Hbm → Hbm) : (s.onHbm f).net = s.net := rfl
@[simp] theorem State.onHbm_swb (f : Hbm → Hbm) : (s.onHbm f).swb = s.swb := rfl
@[simp] theorem State.onHbm_hbm (f : Hbm → Hbm) : (s.onHbm f).hbm = f s.hbm := rfl
@[simp] theorem State.onHbm_cry (f : Hbm → Hbm) : (s.onHbm f).cry = s.cry := rfl
@[simp] theorem State.onHbm_pins (f : Hbm → Hbm) : (s.onHbm f).pins = s.pins := rfl
@[simp] theorem State.onHbm_pwr (f : Hbm → Hbm) : (s.onHbm f).pwr = s.pwr := rfl
@[simp] theorem State.onHbm_host (f : Hbm → Hbm) : (s.onHbm f).host = s.host := rfl
@[simp] theorem State.onHbm_fuses (f : Hbm → Hbm) : (s.onHbm f).fuses = s.fuses := rfl
@[simp] theorem State.onHbm_cfg (f : Hbm → Hbm) : (s.onHbm f).cfg = s.cfg := rfl
@[simp] theorem State.onHbm_lko (f : Hbm → Hbm) : (s.onHbm f).lko = s.lko := rfl
@[simp] theorem State.onHbm_cairn (f : Hbm → Hbm) : (s.onHbm f).cairn = s.cairn := rfl
@[simp] theorem State.onHbm_twin (f : Hbm → Hbm) : (s.onHbm f).twin = s.twin := rfl
@[simp] theorem State.onHbm_bst (f : Hbm → Hbm) : (s.onHbm f).bst = s.bst := rfl
@[simp] theorem State.onHbm_dbg (f : Hbm → Hbm) : (s.onHbm f).dbg = s.dbg := rfl
@[simp] theorem State.onHbm_trace (f : Hbm → Hbm) : (s.onHbm f).trace = s.trace := rfl
@[simp] theorem State.onHbm_inbox (f : Hbm → Hbm) : (s.onHbm f).inbox = s.inbox := rfl
@[simp] theorem State.onHbm_free (f : Hbm → Hbm) : (s.onHbm f).free = s.free := rfl

/-! ### onCry -/

@[simp] theorem State.onCry_pending (f : Crypto → Crypto) : (s.onCry f).pending = s.pending := rfl
@[simp] theorem State.onCry_regs (f : Crypto → Crypto) : (s.onCry f).regs = s.regs := rfl
@[simp] theorem State.onCry_mem (f : Crypto → Crypto) : (s.onCry f).mem = s.mem := rfl
@[simp] theorem State.onCry_engines (f : Crypto → Crypto) : (s.onCry f).engines = s.engines := rfl
@[simp] theorem State.onCry_pkg (f : Crypto → Crypto) : (s.onCry f).pkg = s.pkg := rfl
@[simp] theorem State.onCry_isl (f : Crypto → Crypto) : (s.onCry f).isl = s.isl := rfl
@[simp] theorem State.onCry_clk (f : Crypto → Crypto) : (s.onCry f).clk = s.clk := rfl
@[simp] theorem State.onCry_banks (f : Crypto → Crypto) : (s.onCry f).banks = s.banks := rfl
@[simp] theorem State.onCry_net (f : Crypto → Crypto) : (s.onCry f).net = s.net := rfl
@[simp] theorem State.onCry_swb (f : Crypto → Crypto) : (s.onCry f).swb = s.swb := rfl
@[simp] theorem State.onCry_hbm (f : Crypto → Crypto) : (s.onCry f).hbm = s.hbm := rfl
@[simp] theorem State.onCry_cry (f : Crypto → Crypto) : (s.onCry f).cry = f s.cry := rfl
@[simp] theorem State.onCry_pins (f : Crypto → Crypto) : (s.onCry f).pins = s.pins := rfl
@[simp] theorem State.onCry_pwr (f : Crypto → Crypto) : (s.onCry f).pwr = s.pwr := rfl
@[simp] theorem State.onCry_host (f : Crypto → Crypto) : (s.onCry f).host = s.host := rfl
@[simp] theorem State.onCry_fuses (f : Crypto → Crypto) : (s.onCry f).fuses = s.fuses := rfl
@[simp] theorem State.onCry_cfg (f : Crypto → Crypto) : (s.onCry f).cfg = s.cfg := rfl
@[simp] theorem State.onCry_lko (f : Crypto → Crypto) : (s.onCry f).lko = s.lko := rfl
@[simp] theorem State.onCry_cairn (f : Crypto → Crypto) : (s.onCry f).cairn = s.cairn := rfl
@[simp] theorem State.onCry_twin (f : Crypto → Crypto) : (s.onCry f).twin = s.twin := rfl
@[simp] theorem State.onCry_bst (f : Crypto → Crypto) : (s.onCry f).bst = s.bst := rfl
@[simp] theorem State.onCry_dbg (f : Crypto → Crypto) : (s.onCry f).dbg = s.dbg := rfl
@[simp] theorem State.onCry_trace (f : Crypto → Crypto) : (s.onCry f).trace = s.trace := rfl
@[simp] theorem State.onCry_inbox (f : Crypto → Crypto) : (s.onCry f).inbox = s.inbox := rfl
@[simp] theorem State.onCry_free (f : Crypto → Crypto) : (s.onCry f).free = s.free := rfl

/-! ### onPins -/

@[simp] theorem State.onPins_pending (f : Pins → Pins) : (s.onPins f).pending = s.pending := rfl
@[simp] theorem State.onPins_regs (f : Pins → Pins) : (s.onPins f).regs = s.regs := rfl
@[simp] theorem State.onPins_mem (f : Pins → Pins) : (s.onPins f).mem = s.mem := rfl
@[simp] theorem State.onPins_engines (f : Pins → Pins) : (s.onPins f).engines = s.engines := rfl
@[simp] theorem State.onPins_pkg (f : Pins → Pins) : (s.onPins f).pkg = s.pkg := rfl
@[simp] theorem State.onPins_isl (f : Pins → Pins) : (s.onPins f).isl = s.isl := rfl
@[simp] theorem State.onPins_clk (f : Pins → Pins) : (s.onPins f).clk = s.clk := rfl
@[simp] theorem State.onPins_banks (f : Pins → Pins) : (s.onPins f).banks = s.banks := rfl
@[simp] theorem State.onPins_net (f : Pins → Pins) : (s.onPins f).net = s.net := rfl
@[simp] theorem State.onPins_swb (f : Pins → Pins) : (s.onPins f).swb = s.swb := rfl
@[simp] theorem State.onPins_hbm (f : Pins → Pins) : (s.onPins f).hbm = s.hbm := rfl
@[simp] theorem State.onPins_cry (f : Pins → Pins) : (s.onPins f).cry = s.cry := rfl
@[simp] theorem State.onPins_pins (f : Pins → Pins) : (s.onPins f).pins = f s.pins := rfl
@[simp] theorem State.onPins_pwr (f : Pins → Pins) : (s.onPins f).pwr = s.pwr := rfl
@[simp] theorem State.onPins_host (f : Pins → Pins) : (s.onPins f).host = s.host := rfl
@[simp] theorem State.onPins_fuses (f : Pins → Pins) : (s.onPins f).fuses = s.fuses := rfl
@[simp] theorem State.onPins_cfg (f : Pins → Pins) : (s.onPins f).cfg = s.cfg := rfl
@[simp] theorem State.onPins_lko (f : Pins → Pins) : (s.onPins f).lko = s.lko := rfl
@[simp] theorem State.onPins_cairn (f : Pins → Pins) : (s.onPins f).cairn = s.cairn := rfl
@[simp] theorem State.onPins_twin (f : Pins → Pins) : (s.onPins f).twin = s.twin := rfl
@[simp] theorem State.onPins_bst (f : Pins → Pins) : (s.onPins f).bst = s.bst := rfl
@[simp] theorem State.onPins_dbg (f : Pins → Pins) : (s.onPins f).dbg = s.dbg := rfl
@[simp] theorem State.onPins_trace (f : Pins → Pins) : (s.onPins f).trace = s.trace := rfl
@[simp] theorem State.onPins_inbox (f : Pins → Pins) : (s.onPins f).inbox = s.inbox := rfl
@[simp] theorem State.onPins_free (f : Pins → Pins) : (s.onPins f).free = s.free := rfl

/-! ### onPwr -/

@[simp] theorem State.onPwr_pending (f : Power → Power) : (s.onPwr f).pending = s.pending := rfl
@[simp] theorem State.onPwr_regs (f : Power → Power) : (s.onPwr f).regs = s.regs := rfl
@[simp] theorem State.onPwr_mem (f : Power → Power) : (s.onPwr f).mem = s.mem := rfl
@[simp] theorem State.onPwr_engines (f : Power → Power) : (s.onPwr f).engines = s.engines := rfl
@[simp] theorem State.onPwr_pkg (f : Power → Power) : (s.onPwr f).pkg = s.pkg := rfl
@[simp] theorem State.onPwr_isl (f : Power → Power) : (s.onPwr f).isl = s.isl := rfl
@[simp] theorem State.onPwr_clk (f : Power → Power) : (s.onPwr f).clk = s.clk := rfl
@[simp] theorem State.onPwr_banks (f : Power → Power) : (s.onPwr f).banks = s.banks := rfl
@[simp] theorem State.onPwr_net (f : Power → Power) : (s.onPwr f).net = s.net := rfl
@[simp] theorem State.onPwr_swb (f : Power → Power) : (s.onPwr f).swb = s.swb := rfl
@[simp] theorem State.onPwr_hbm (f : Power → Power) : (s.onPwr f).hbm = s.hbm := rfl
@[simp] theorem State.onPwr_cry (f : Power → Power) : (s.onPwr f).cry = s.cry := rfl
@[simp] theorem State.onPwr_pins (f : Power → Power) : (s.onPwr f).pins = s.pins := rfl
@[simp] theorem State.onPwr_pwr (f : Power → Power) : (s.onPwr f).pwr = f s.pwr := rfl
@[simp] theorem State.onPwr_host (f : Power → Power) : (s.onPwr f).host = s.host := rfl
@[simp] theorem State.onPwr_fuses (f : Power → Power) : (s.onPwr f).fuses = s.fuses := rfl
@[simp] theorem State.onPwr_cfg (f : Power → Power) : (s.onPwr f).cfg = s.cfg := rfl
@[simp] theorem State.onPwr_lko (f : Power → Power) : (s.onPwr f).lko = s.lko := rfl
@[simp] theorem State.onPwr_cairn (f : Power → Power) : (s.onPwr f).cairn = s.cairn := rfl
@[simp] theorem State.onPwr_twin (f : Power → Power) : (s.onPwr f).twin = s.twin := rfl
@[simp] theorem State.onPwr_bst (f : Power → Power) : (s.onPwr f).bst = s.bst := rfl
@[simp] theorem State.onPwr_dbg (f : Power → Power) : (s.onPwr f).dbg = s.dbg := rfl
@[simp] theorem State.onPwr_trace (f : Power → Power) : (s.onPwr f).trace = s.trace := rfl
@[simp] theorem State.onPwr_inbox (f : Power → Power) : (s.onPwr f).inbox = s.inbox := rfl
@[simp] theorem State.onPwr_free (f : Power → Power) : (s.onPwr f).free = s.free := rfl

/-! ### onBst -/

@[simp] theorem State.onBst_pending (f : Bst → Bst) : (s.onBst f).pending = s.pending := rfl
@[simp] theorem State.onBst_regs (f : Bst → Bst) : (s.onBst f).regs = s.regs := rfl
@[simp] theorem State.onBst_mem (f : Bst → Bst) : (s.onBst f).mem = s.mem := rfl
@[simp] theorem State.onBst_engines (f : Bst → Bst) : (s.onBst f).engines = s.engines := rfl
@[simp] theorem State.onBst_pkg (f : Bst → Bst) : (s.onBst f).pkg = s.pkg := rfl
@[simp] theorem State.onBst_isl (f : Bst → Bst) : (s.onBst f).isl = s.isl := rfl
@[simp] theorem State.onBst_clk (f : Bst → Bst) : (s.onBst f).clk = s.clk := rfl
@[simp] theorem State.onBst_banks (f : Bst → Bst) : (s.onBst f).banks = s.banks := rfl
@[simp] theorem State.onBst_net (f : Bst → Bst) : (s.onBst f).net = s.net := rfl
@[simp] theorem State.onBst_swb (f : Bst → Bst) : (s.onBst f).swb = s.swb := rfl
@[simp] theorem State.onBst_hbm (f : Bst → Bst) : (s.onBst f).hbm = s.hbm := rfl
@[simp] theorem State.onBst_cry (f : Bst → Bst) : (s.onBst f).cry = s.cry := rfl
@[simp] theorem State.onBst_pins (f : Bst → Bst) : (s.onBst f).pins = s.pins := rfl
@[simp] theorem State.onBst_pwr (f : Bst → Bst) : (s.onBst f).pwr = s.pwr := rfl
@[simp] theorem State.onBst_host (f : Bst → Bst) : (s.onBst f).host = s.host := rfl
@[simp] theorem State.onBst_fuses (f : Bst → Bst) : (s.onBst f).fuses = s.fuses := rfl
@[simp] theorem State.onBst_cfg (f : Bst → Bst) : (s.onBst f).cfg = s.cfg := rfl
@[simp] theorem State.onBst_lko (f : Bst → Bst) : (s.onBst f).lko = s.lko := rfl
@[simp] theorem State.onBst_cairn (f : Bst → Bst) : (s.onBst f).cairn = s.cairn := rfl
@[simp] theorem State.onBst_twin (f : Bst → Bst) : (s.onBst f).twin = s.twin := rfl
@[simp] theorem State.onBst_bst (f : Bst → Bst) : (s.onBst f).bst = f s.bst := rfl
@[simp] theorem State.onBst_dbg (f : Bst → Bst) : (s.onBst f).dbg = s.dbg := rfl
@[simp] theorem State.onBst_trace (f : Bst → Bst) : (s.onBst f).trace = s.trace := rfl
@[simp] theorem State.onBst_inbox (f : Bst → Bst) : (s.onBst f).inbox = s.inbox := rfl
@[simp] theorem State.onBst_free (f : Bst → Bst) : (s.onBst f).free = s.free := rfl

/-! ### onDbg -/

@[simp] theorem State.onDbg_pending (f : Debug → Debug) : (s.onDbg f).pending = s.pending := rfl
@[simp] theorem State.onDbg_regs (f : Debug → Debug) : (s.onDbg f).regs = s.regs := rfl
@[simp] theorem State.onDbg_mem (f : Debug → Debug) : (s.onDbg f).mem = s.mem := rfl
@[simp] theorem State.onDbg_engines (f : Debug → Debug) : (s.onDbg f).engines = s.engines := rfl
@[simp] theorem State.onDbg_pkg (f : Debug → Debug) : (s.onDbg f).pkg = s.pkg := rfl
@[simp] theorem State.onDbg_isl (f : Debug → Debug) : (s.onDbg f).isl = s.isl := rfl
@[simp] theorem State.onDbg_clk (f : Debug → Debug) : (s.onDbg f).clk = s.clk := rfl
@[simp] theorem State.onDbg_banks (f : Debug → Debug) : (s.onDbg f).banks = s.banks := rfl
@[simp] theorem State.onDbg_net (f : Debug → Debug) : (s.onDbg f).net = s.net := rfl
@[simp] theorem State.onDbg_swb (f : Debug → Debug) : (s.onDbg f).swb = s.swb := rfl
@[simp] theorem State.onDbg_hbm (f : Debug → Debug) : (s.onDbg f).hbm = s.hbm := rfl
@[simp] theorem State.onDbg_cry (f : Debug → Debug) : (s.onDbg f).cry = s.cry := rfl
@[simp] theorem State.onDbg_pins (f : Debug → Debug) : (s.onDbg f).pins = s.pins := rfl
@[simp] theorem State.onDbg_pwr (f : Debug → Debug) : (s.onDbg f).pwr = s.pwr := rfl
@[simp] theorem State.onDbg_host (f : Debug → Debug) : (s.onDbg f).host = s.host := rfl
@[simp] theorem State.onDbg_fuses (f : Debug → Debug) : (s.onDbg f).fuses = s.fuses := rfl
@[simp] theorem State.onDbg_cfg (f : Debug → Debug) : (s.onDbg f).cfg = s.cfg := rfl
@[simp] theorem State.onDbg_lko (f : Debug → Debug) : (s.onDbg f).lko = s.lko := rfl
@[simp] theorem State.onDbg_cairn (f : Debug → Debug) : (s.onDbg f).cairn = s.cairn := rfl
@[simp] theorem State.onDbg_twin (f : Debug → Debug) : (s.onDbg f).twin = s.twin := rfl
@[simp] theorem State.onDbg_bst (f : Debug → Debug) : (s.onDbg f).bst = s.bst := rfl
@[simp] theorem State.onDbg_dbg (f : Debug → Debug) : (s.onDbg f).dbg = f s.dbg := rfl
@[simp] theorem State.onDbg_trace (f : Debug → Debug) : (s.onDbg f).trace = s.trace := rfl
@[simp] theorem State.onDbg_inbox (f : Debug → Debug) : (s.onDbg f).inbox = s.inbox := rfl
@[simp] theorem State.onDbg_free (f : Debug → Debug) : (s.onDbg f).free = s.free := rfl

/-! ### took -/

@[simp] theorem State.took_pending : s.took.pending = s.pending := rfl
@[simp] theorem State.took_regs : s.took.regs = s.regs := rfl
@[simp] theorem State.took_mem : s.took.mem = s.mem := rfl
@[simp] theorem State.took_engines : s.took.engines = s.engines := rfl
@[simp] theorem State.took_pkg : s.took.pkg = s.pkg := rfl
@[simp] theorem State.took_isl : s.took.isl = s.isl := rfl
@[simp] theorem State.took_clk : s.took.clk = s.clk := rfl
@[simp] theorem State.took_banks : s.took.banks = s.banks := rfl
@[simp] theorem State.took_net : s.took.net = s.net := rfl
@[simp] theorem State.took_swb : s.took.swb = s.swb := rfl
@[simp] theorem State.took_hbm : s.took.hbm = s.hbm := rfl
@[simp] theorem State.took_cry : s.took.cry = s.cry := rfl
@[simp] theorem State.took_pins : s.took.pins = s.pins := rfl
@[simp] theorem State.took_pwr : s.took.pwr = s.pwr := rfl
@[simp] theorem State.took_host : s.took.host = s.host := rfl
@[simp] theorem State.took_fuses : s.took.fuses = s.fuses := rfl
@[simp] theorem State.took_cfg : s.took.cfg = s.cfg := rfl
@[simp] theorem State.took_lko : s.took.lko = s.lko := rfl
@[simp] theorem State.took_cairn : s.took.cairn = s.cairn := rfl
@[simp] theorem State.took_twin : s.took.twin = s.twin := rfl
@[simp] theorem State.took_bst : s.took.bst = s.bst := rfl
@[simp] theorem State.took_dbg : s.took.dbg = s.dbg := rfl
@[simp] theorem State.took_trace : s.took.trace = s.trace := rfl
@[simp] theorem State.took_inbox : s.took.inbox = s.inbox := rfl
@[simp] theorem State.took_free : s.took.free = s.free + 1 := rfl

/-! ### toCairn -/

@[simp] theorem State.toCairn_pending (k n v a : Nat) : (s.toCairn k n v a).pending = s.pending := rfl
@[simp] theorem State.toCairn_regs (k n v a : Nat) : (s.toCairn k n v a).regs = s.regs := rfl
@[simp] theorem State.toCairn_mem (k n v a : Nat) : (s.toCairn k n v a).mem = s.mem := rfl
@[simp] theorem State.toCairn_engines (k n v a : Nat) : (s.toCairn k n v a).engines = s.engines := rfl
@[simp] theorem State.toCairn_pkg (k n v a : Nat) : (s.toCairn k n v a).pkg = s.pkg := rfl
@[simp] theorem State.toCairn_isl (k n v a : Nat) : (s.toCairn k n v a).isl = s.isl := rfl
@[simp] theorem State.toCairn_clk (k n v a : Nat) : (s.toCairn k n v a).clk = s.clk := rfl
@[simp] theorem State.toCairn_banks (k n v a : Nat) : (s.toCairn k n v a).banks = s.banks := rfl
@[simp] theorem State.toCairn_net (k n v a : Nat) : (s.toCairn k n v a).net = s.net := rfl
@[simp] theorem State.toCairn_swb (k n v a : Nat) : (s.toCairn k n v a).swb = s.swb := rfl
@[simp] theorem State.toCairn_hbm (k n v a : Nat) : (s.toCairn k n v a).hbm = s.hbm := rfl
@[simp] theorem State.toCairn_cry (k n v a : Nat) : (s.toCairn k n v a).cry = s.cry := rfl
@[simp] theorem State.toCairn_pins (k n v a : Nat) : (s.toCairn k n v a).pins = s.pins := rfl
@[simp] theorem State.toCairn_pwr (k n v a : Nat) : (s.toCairn k n v a).pwr = s.pwr := rfl
@[simp] theorem State.toCairn_host (k n v a : Nat) : (s.toCairn k n v a).host = s.host := rfl
@[simp] theorem State.toCairn_fuses (k n v a : Nat) : (s.toCairn k n v a).fuses = s.fuses := rfl
@[simp] theorem State.toCairn_cfg (k n v a : Nat) : (s.toCairn k n v a).cfg = s.cfg := rfl
@[simp] theorem State.toCairn_lko (k n v a : Nat) : (s.toCairn k n v a).lko = s.lko := rfl
@[simp] theorem State.toCairn_cairn (k n v a : Nat) : (s.toCairn k n v a).cairn = s.cairn := rfl
@[simp] theorem State.toCairn_twin (k n v a : Nat) : (s.toCairn k n v a).twin = s.twin := rfl
@[simp] theorem State.toCairn_bst (k n v a : Nat) : (s.toCairn k n v a).bst = s.bst := rfl
@[simp] theorem State.toCairn_dbg (k n v a : Nat) : (s.toCairn k n v a).dbg = s.dbg := rfl
@[simp] theorem State.toCairn_trace (k n v a : Nat) : (s.toCairn k n v a).trace = s.trace := rfl
@[simp] theorem State.toCairn_inbox (k n v a : Nat) : (s.toCairn k n v a).inbox = s.inbox ++ [{ kind := k, source := n, sev := v, addr := a }] := rfl
@[simp] theorem State.toCairn_free (k n v a : Nat) : (s.toCairn k n v a).free = s.free := rfl

/-! ### useCheck -/

@[simp] theorem State.useCheck_pending (n c : Nat) : (s.useCheck n c).pending = s.pending := rfl
@[simp] theorem State.useCheck_regs (n c : Nat) : (s.useCheck n c).regs = s.regs := rfl
@[simp] theorem State.useCheck_mem (n c : Nat) : (s.useCheck n c).mem = s.mem := rfl
@[simp] theorem State.useCheck_engines (n c : Nat) : (s.useCheck n c).engines = s.engines := rfl
@[simp] theorem State.useCheck_pkg (n c : Nat) : (s.useCheck n c).pkg = s.pkg := rfl
@[simp] theorem State.useCheck_isl (n c : Nat) : (s.useCheck n c).isl = s.isl := rfl
@[simp] theorem State.useCheck_clk (n c : Nat) : (s.useCheck n c).clk = s.clk := rfl
@[simp] theorem State.useCheck_banks (n c : Nat) : (s.useCheck n c).banks = s.banks := rfl
@[simp] theorem State.useCheck_net (n c : Nat) : (s.useCheck n c).net = s.net := rfl
@[simp] theorem State.useCheck_swb (n c : Nat) : (s.useCheck n c).swb = s.swb := rfl
@[simp] theorem State.useCheck_hbm (n c : Nat) : (s.useCheck n c).hbm = s.hbm := rfl
@[simp] theorem State.useCheck_cry (n c : Nat) : (s.useCheck n c).cry = s.cry := rfl
@[simp] theorem State.useCheck_pins (n c : Nat) : (s.useCheck n c).pins = s.pins := rfl
@[simp] theorem State.useCheck_pwr (n c : Nat) : (s.useCheck n c).pwr = s.pwr := rfl
@[simp] theorem State.useCheck_host (n c : Nat) : (s.useCheck n c).host = s.host := rfl
@[simp] theorem State.useCheck_fuses (n c : Nat) : (s.useCheck n c).fuses = s.fuses := rfl
@[simp] theorem State.useCheck_cfg (n c : Nat) : (s.useCheck n c).cfg = s.cfg := rfl
@[simp] theorem State.useCheck_lko (n c : Nat) : (s.useCheck n c).lko = s.lko := rfl
@[simp] theorem State.useCheck_twin (n c : Nat) : (s.useCheck n c).twin = s.twin := rfl
@[simp] theorem State.useCheck_bst (n c : Nat) : (s.useCheck n c).bst = s.bst := rfl
@[simp] theorem State.useCheck_dbg (n c : Nat) : (s.useCheck n c).dbg = s.dbg := rfl
@[simp] theorem State.useCheck_trace (n c : Nat) : (s.useCheck n c).trace = s.trace := rfl
@[simp] theorem State.useCheck_inbox (n c : Nat) : (s.useCheck n c).inbox = s.inbox := rfl
@[simp] theorem State.useCheck_free (n c : Nat) : (s.useCheck n c).free = s.free := rfl

end Sys2Proof.Machine
end

