-- ==== Sys2Proof/Laws/Table.lean ====
section
/-!
SUPPORT. Laws of sparse tables: a read after a write, other keys unchanged, and the canonical form, which every operation
keeps and which makes equal contents equal data.
-/

namespace Sys2Proof.Machine

variable {α : Type} (dflt : Nat → α)

@[simp] theorem Table.peek_nil (k : Nat) : Table.peek dflt ([] : Table α) k = dflt k := rfl

@[simp] theorem Table.wf_nil [DecidableEq α] : Table.wf dflt ([] : Table α) = true := rfl

/-- Below every listed key a table holds the default. -/
theorem Table.peek_of_above (t : Table α) {b k : Nat} (h : Table.above b t = true) (hk : k ≤ b) :
    Table.peek dflt t k = dflt k := by
  cases t with
  | nil => rfl
  | cons p t =>
    obtain ⟨j, v⟩ := p
    simp only [Table.above, Bool.and_eq_true, decide_eq_true_eq] at h
    have hj : k < j := by omega
    simp [Table.peek, hj]

theorem Table.above_mono {t : Table α} {a b : Nat} (h : Table.above b t = true) (hab : a ≤ b) : Table.above a t = true := by
  induction t with
  | nil => rfl
  | cons p t ih =>
    obtain ⟨j, v⟩ := p
    simp only [Table.above, Bool.and_eq_true, decide_eq_true_eq] at h ⊢
    exact ⟨by omega, ih h.2⟩

theorem Table.above_filter (q : Nat × α → Bool) (t : Table α) {b : Nat} (h : Table.above b t = true) :
    Table.above b (t.filter q) = true := by
  induction t with
  | nil => rfl
  | cons p t ih =>
    obtain ⟨j, u⟩ := p
    simp only [Table.above, Bool.and_eq_true] at h
    simp only [List.filter_cons]
    split
    · simp [Table.above, h.1, ih h.2]
    · exact ih h.2

theorem Table.clearIf_eq_filter (q : Nat → Bool) (t : Table α) : Table.clearIf q t = t.filter (fun p => !q p.1) := by
  induction t with
  | nil => rfl
  | cons p t ih =>
    obtain ⟨j, u⟩ := p
    simp only [Table.clearIf, List.filter_cons]
    cases q j <;> simp [ih]

variable [DecidableEq α]

/-- A key that was written holds what was written, in a table in canonical form. -/
theorem Table.peek_poke_same (t : Table α) (k : Nat) (v : α) (h : Table.wf dflt t = true) :
    Table.peek dflt (Table.poke dflt t k v) k = v := by
  induction t with
  | nil =>
    by_cases hv : v = dflt k <;> simp [Table.poke, Table.peek, hv]
  | cons p t ih =>
    obtain ⟨j, u⟩ := p
    simp only [Table.wf, Bool.and_eq_true, decide_eq_true_eq] at h
    obtain ⟨⟨ha, -⟩, hw⟩ := h
    unfold Table.poke
    split
    · split
      · simp_all [Table.peek]
      · simp [Table.peek]
    · split
      · subst_vars
        split
        · rw [Table.peek_of_above dflt t ha (Nat.le_refl _)]; simp_all
        · simp [Table.peek]
      · simp only [Table.peek]
        rw [if_neg (by assumption), if_neg (by assumption)]
        exact ih hw

/-- Every other key holds what it held. -/
theorem Table.peek_poke_other (t : Table α) {k l : Nat} (v : α) (hkl : l ≠ k) (h : Table.wf dflt t = true) :
    Table.peek dflt (Table.poke dflt t k v) l = Table.peek dflt t l := by
  induction t with
  | nil =>
    by_cases hv : v = dflt k <;> simp [Table.poke, Table.peek, hv, hkl]
  | cons p t ih =>
    obtain ⟨j, u⟩ := p
    simp only [Table.wf, Bool.and_eq_true, decide_eq_true_eq] at h
    obtain ⟨⟨ha, -⟩, hw⟩ := h
    unfold Table.poke
    split
    · split
      · rfl
      · by_cases hl : l < k
        · simp [Table.peek, hl, (by omega : l < j)]
        · simp [Table.peek, hl, hkl]
    · split
      · subst_vars
        split
        · by_cases hl : l < j
          · simp [Table.peek, hl, Table.peek_of_above dflt t ha (Nat.le_of_lt hl)]
          · simp [Table.peek, hl, hkl]
        · simp [Table.peek, hkl]
      · simp [Table.peek, ih hw]

theorem Table.above_poke (t : Table α) {b k : Nat} (v : α) (h : Table.above b t = true) (hk : b < k) :
    Table.above b (Table.poke dflt t k v) = true := by
  induction t with
  | nil => unfold Table.poke; split <;> simp [Table.above, hk]
  | cons p t ih =>
    obtain ⟨j, u⟩ := p
    have h0 := h
    simp only [Table.above, Bool.and_eq_true, decide_eq_true_eq] at h
    unfold Table.poke
    split
    · split
      · exact h0
      · simp [Table.above, hk, h]
    · split
      · split
        · exact h.2
        · simp [Table.above, hk, h.2]
      · simp [Table.above, h.1, ih h.2]

/-- A write keeps the canonical form. -/
theorem Table.wf_poke (t : Table α) (k : Nat) (v : α) (h : Table.wf dflt t = true) :
    Table.wf dflt (Table.poke dflt t k v) = true := by
  induction t with
  | nil => unfold Table.poke; split <;> simp_all [Table.wf, Table.above]
  | cons p t ih =>
    obtain ⟨j, u⟩ := p
    have h0 := h
    simp only [Table.wf, Bool.and_eq_true, decide_eq_true_eq] at h
    obtain ⟨⟨ha, hu⟩, hw⟩ := h
    unfold Table.poke
    split
    · rename_i hkj
      split
      · exact h0
      · rename_i hv
        simp [Table.wf, Table.above, hkj, hv, hu, hw, ha, Table.above_mono ha (Nat.le_of_lt hkj)]
    · split
      · subst_vars
        split
        · exact hw
        · rename_i hv
          simp [Table.wf, ha, hv, hw]
      · have hjk : j < k := by omega
        simp [Table.wf, hu, ih hw, Table.above_poke dflt t v ha hjk]

/-- So do writes of a list of pairs. -/
theorem Table.wf_pokes (kvs : List (Nat × α)) (t : Table α) (h : Table.wf dflt t = true) :
    Table.wf dflt (Table.pokes dflt t kvs) = true := by
  induction kvs generalizing t with
  | nil => exact h
  | cons p kvs ih => exact ih _ (Table.wf_poke dflt t p.1 p.2 h)

/-- Dropping entries keeps the canonical form. -/
theorem Table.wf_filter (q : Nat × α → Bool) (t : Table α) (h : Table.wf dflt t = true) :
    Table.wf dflt (t.filter q) = true := by
  induction t with
  | nil => rfl
  | cons p t ih =>
    obtain ⟨j, u⟩ := p
    simp only [Table.wf, Bool.and_eq_true] at h
    simp only [List.filter_cons]
    split
    · simp [Table.wf, h.1.2, ih h.2, Table.above_filter q t h.1.1]
    · exact ih h.2

theorem Table.wf_clearIf (q : Nat → Bool) (t : Table α) (h : Table.wf dflt t = true) :
    Table.wf dflt (Table.clearIf q t) = true := by
  rw [Table.clearIf_eq_filter]; exact Table.wf_filter dflt _ t h

/-- Two tables in canonical form with the same contents are the same data. -/
theorem Table.ext_of_peek (t u : Table α) (ht : Table.wf dflt t = true) (hu : Table.wf dflt u = true)
    (h : ∀ k, Table.peek dflt t k = Table.peek dflt u k) : t = u := by
  induction t generalizing u with
  | nil =>
    cases u with
    | nil => rfl
    | cons p u =>
      obtain ⟨j, v⟩ := p
      simp only [Table.wf, Bool.and_eq_true, decide_eq_true_eq] at hu
      exact absurd (by simpa [Table.peek] using (h j).symm) hu.1.2
  | cons p t ih =>
    obtain ⟨j, v⟩ := p
    simp only [Table.wf, Bool.and_eq_true, decide_eq_true_eq] at ht
    cases u with
    | nil => exact absurd (by simpa [Table.peek] using h j) ht.1.2
    | cons q u =>
      obtain ⟨i, w⟩ := q
      simp only [Table.wf, Bool.and_eq_true, decide_eq_true_eq] at hu
      have hij : i = j := by
        rcases Nat.lt_trichotomy i j with hlt | heq | hgt
        · have := h i; simp [Table.peek, hlt] at this; exact absurd this.symm hu.1.2
        · exact heq
        · have := h j; simp [Table.peek, hgt] at this; exact absurd this ht.1.2
      subst hij
      have hvw : v = w := by simpa [Table.peek] using h i
      subst hvw
      have := ih u ht.2 hu.2 (fun k => by
        rcases Nat.lt_trichotomy k i with hlt | heq | hgt
        · rw [Table.peek_of_above dflt t ht.1.1 (by omega), Table.peek_of_above dflt u hu.1.1 (by omega)]
        · rw [Table.peek_of_above dflt t ht.1.1 (by omega), Table.peek_of_above dflt u hu.1.1 (by omega)]
        · have := h k
          have hki : ¬ k = i := by omega
          simpa [Table.peek, Nat.not_lt.mpr (Nat.le_of_lt hgt), hki] using this)
      rw [this]

end Sys2Proof.Machine
end

