-- ==== Sys2Proof/Laws/Regs.lean ====
section
/-!
SUPPORT. Laws of bit fields and of set-up registers: a field reads as it was written, and a write leaves every other field as it
is. The registers stand in canonical form, which every write keeps.
-/

namespace Sys2Proof.Machine

/-! ### Bit fields -/

theorem testBit_setField {w : Nat} (x : BitVec w) {hi lo : Nat} (v j : Nat) (hl : lo ≤ hi) (hw : hi < w) :
    (setField x hi lo v).toNat.testBit j =
      (if j < lo then x.toNat.testBit j else if j ≤ hi then v.testBit (j - lo) else x.toNat.testBit j) := by
  have hv : v % 2 ^ (hi + 1 - lo) < 2 ^ (hi + 1 - lo) := Nat.mod_lt _ (Nat.two_pow_pos _)
  have hx : x.toNat % 2 ^ lo < 2 ^ lo := Nat.mod_lt _ (Nat.two_pow_pos _)
  have hin : v % 2 ^ (hi + 1 - lo) * 2 ^ lo + x.toNat % 2 ^ lo < 2 ^ (hi + 1) := by
    have e : 2 ^ (hi + 1) = 2 ^ (hi + 1 - lo) * 2 ^ lo := by rw [← Nat.pow_add]; congr 1; omega
    have : (v % 2 ^ (hi + 1 - lo) + 1) * 2 ^ lo ≤ 2 ^ (hi + 1 - lo) * 2 ^ lo := Nat.mul_le_mul_right _ hv
    rw [e]; rw [Nat.add_mul] at this; omega
  have hlt : x.toNat / 2 ^ (hi + 1) * 2 ^ (hi + 1) + (v % 2 ^ (hi + 1 - lo) * 2 ^ lo + x.toNat % 2 ^ lo) < 2 ^ w := by
    have hxw := x.isLt
    have e : 2 ^ w = 2 ^ (w - (hi + 1)) * 2 ^ (hi + 1) := by rw [← Nat.pow_add]; congr 1; omega
    have hq : x.toNat / 2 ^ (hi + 1) < 2 ^ (w - (hi + 1)) := by
      rw [Nat.div_lt_iff_lt_mul (Nat.two_pow_pos _), ← e]; exact hxw
    have : (x.toNat / 2 ^ (hi + 1) + 1) * 2 ^ (hi + 1) ≤ 2 ^ (w - (hi + 1)) * 2 ^ (hi + 1) := Nat.mul_le_mul_right _ hq
    rw [e]; rw [Nat.add_mul] at this; omega
  have h1 : (setField x hi lo v).toNat
      = 2 ^ (hi + 1) * (x.toNat / 2 ^ (hi + 1)) + (2 ^ lo * (v % 2 ^ (hi + 1 - lo)) + x.toNat % 2 ^ lo) := by
    simp only [setField, BitVec.toNat_ofNat]
    rw [Nat.mod_eq_of_lt (by omega)]
    rw [Nat.mul_comm (2 ^ (hi + 1)), Nat.mul_comm (2 ^ lo)]; omega
  rw [h1, Nat.testBit_two_pow_mul_add _ (by rw [Nat.mul_comm]; exact hin), Nat.testBit_two_pow_mul_add _ hx]
  by_cases h : j < lo
  · have : j < hi + 1 := by omega
    simp [h, this, Nat.testBit_mod_two_pow]
  · by_cases h2 : j ≤ hi
    · have a : j < hi + 1 := by omega
      have b : j - lo < hi + 1 - lo := by omega
      simp [h, h2, a, b, Nat.testBit_mod_two_pow]
    · have a : ¬ j < hi + 1 := by omega
      have b : hi + 1 + (j - (hi + 1)) = j := by omega
      simp [h, h2, a, Nat.testBit_div_two_pow, Nat.add_comm, b]

theorem testBit_fieldOf {w : Nat} (x : BitVec w) (hi lo j : Nat) :
    (fieldOf x hi lo).testBit j = (decide (j < hi + 1 - lo) && x.toNat.testBit (lo + j)) := by
  simp [fieldOf, Nat.testBit_mod_two_pow, Nat.testBit_div_two_pow, Nat.add_comm]

/-- A field reads as it was written, modulo its range. -/
theorem fieldOf_setField_same {w : Nat} (x : BitVec w) {hi lo : Nat} (v : Nat) (hl : lo ≤ hi) (hw : hi < w) :
    fieldOf (setField x hi lo v) hi lo = v % 2 ^ (hi + 1 - lo) := by
  apply Nat.eq_of_testBit_eq
  intro j
  rw [testBit_fieldOf, testBit_setField x v _ hl hw, Nat.testBit_mod_two_pow]
  by_cases h : j < hi + 1 - lo
  · simp [h, (by omega : lo + j ≤ hi)]
  · simp [h]

/-- A field beside the one that was written reads as before. -/
theorem fieldOf_setField_other {w : Nat} (x : BitVec w) {hi lo hi' lo' : Nat} (v : Nat) (hl : lo ≤ hi) (hw : hi < w)
    (hd : hi' < lo ∨ hi < lo') : fieldOf (setField x hi lo v) hi' lo' = fieldOf x hi' lo' := by
  apply Nat.eq_of_testBit_eq
  intro j
  rw [testBit_fieldOf, testBit_fieldOf, testBit_setField x v _ hl hw]
  by_cases h : j < hi' + 1 - lo'
  · rcases hd with hd | hd
    · simp [h, (by omega : lo' + j < lo)]
    · have a : ¬ lo' + j < lo := by omega
      have b : ¬ lo' + j ≤ hi := by omega
      simp only [h, a, b, if_false]
  · simp [h]

theorem fieldOf_lt {w : Nat} (x : BitVec w) (hi lo : Nat) : fieldOf x hi lo < 2 ^ (hi + 1 - lo) :=
  Nat.mod_lt _ (Nat.two_pow_pos _)

/-! ### Set-up registers -/

/-- The field of a table row lies in its register. -/
def Fld.ok (f : Fld) : Prop := f.lo ≤ f.hi ∧ f.hi < 64

/-- Two fields share no bit. -/
def Fld.apart (f g : Fld) : Prop := f.addr ≠ g.addr ∨ f.hi < g.lo ∨ g.hi < f.lo

variable {s : State}

theorem State.regsWf_setReg (off : Nat) (v : W64) (h : s.regsWf) : (s.setReg off v).regsWf :=
  Table.wf_poke regReset s.regs off v h

theorem State.regsWf_put (f : Fld) (v : Nat) (h : s.regsWf) : (s.put f v).regsWf := State.regsWf_setReg _ _ h

theorem State.regsWf_putB (f : Fld) (b : Bool) (h : s.regsWf) : (s.putB f b).regsWf := State.regsWf_put _ _ h

theorem State.regsWf_bump (f : Fld) (n : Nat) (h : s.regsWf) : (s.bump f n).regsWf := State.regsWf_put _ _ h

theorem State.reg_setReg_same (off : Nat) (v : W64) (h : s.regsWf) : (s.setReg off v).reg off = v :=
  Table.peek_poke_same regReset s.regs off v h

theorem State.reg_setReg_other {off o : Nat} (v : W64) (ho : o ≠ off) (h : s.regsWf) : (s.setReg off v).reg o = s.reg o :=
  Table.peek_poke_other regReset s.regs v ho h

/-- A field holds what was put there, modulo its range. -/
theorem State.get_put_same (f : Fld) (v : Nat) (hf : f.ok) (h : s.regsWf) :
    (s.put f v).get f = v % 2 ^ (f.hi + 1 - f.lo) := by
  unfold State.get State.put
  rw [State.reg_setReg_same _ _ h, fieldOf_setField_same _ _ hf.1 hf.2]

/-- Every other field holds what it held. -/
theorem State.get_put_other (f g : Fld) (v : Nat) (hf : f.ok) (hfg : f.apart g) (h : s.regsWf) :
    (s.put f v).get g = s.get g := by
  unfold State.get State.put
  by_cases ha : g.addr = f.addr
  · rw [ha, State.reg_setReg_same _ _ h, fieldOf_setField_other _ _ hf.1 hf.2]
    rcases hfg with h1 | h1 | h1
    · exact absurd ha.symm h1
    · exact Or.inr h1
    · exact Or.inl h1
  · rw [State.reg_setReg_other _ ha h]

theorem State.get_putB_same (f : Fld) (b : Bool) (hf : f.ok) (h : s.regsWf) : (s.putB f b).get f = bit b := by
  unfold State.putB
  rw [State.get_put_same f _ hf h]
  have : 1 ≤ f.hi + 1 - f.lo := by have := hf.1; omega
  have h2 : 2 ^ 1 ≤ 2 ^ (f.hi + 1 - f.lo) := Nat.pow_le_pow_right (by omega) this
  apply Nat.mod_eq_of_lt
  cases b
  · exact Nat.two_pow_pos _
  · show 1 < _
    omega

theorem State.flag_putB_same (f : Fld) (b : Bool) (hf : f.ok) (h : s.regsWf) : (s.putB f b).flag f = b := by
  unfold State.flag
  rw [State.get_putB_same f b hf h]
  cases b <;> rfl

theorem State.get_putB_other (f g : Fld) (b : Bool) (hf : f.ok) (hfg : f.apart g) (h : s.regsWf) :
    (s.putB f b).get g = s.get g := State.get_put_other f g _ hf hfg h

/-- A counter field advances and stops at its greatest value. -/
theorem State.get_bump_same (f : Fld) (n : Nat) (hf : f.ok) (h : s.regsWf) :
    (s.bump f n).get f = min (s.get f + n) (2 ^ (f.hi + 1 - f.lo) - 1) := by
  unfold State.bump
  rw [State.get_put_same f _ hf h]
  have := Nat.two_pow_pos (f.hi + 1 - f.lo)
  exact Nat.mod_eq_of_lt (by unfold satAdd; omega)

theorem State.get_bump_other (f g : Fld) (n : Nat) (hf : f.ok) (hfg : f.apart g) (h : s.regsWf) :
    (s.bump f n).get g = s.get g := State.get_put_other f g _ hf hfg h

end Sys2Proof.Machine
end

