-- ==== Sys2Proof/Laws/Memory.lean ====
section
/-!
SUPPORT. Every shared operation over registers, events and memories keeps the canonical form and touches no fuse; the
invariants of a step go through these.
-/

namespace Sys2Proof.Machine

variable {s t u : State}

/-- From `s` to `t` the canonical form is kept and no fuse is written. -/
def State.Keeps (s t : State) : Prop := (s.canonical → t.canonical) ∧ t.fuses = s.fuses

theorem State.Keeps.refl (s : State) : s.Keeps s := ⟨id, rfl⟩

theorem State.Keeps.trans (h : s.Keeps t) (g : t.Keeps u) : s.Keeps u := ⟨g.1 ∘ h.1, g.2.trans h.2⟩

/-- Where neither the register file nor the coded memories nor the fuses change. -/
theorem State.Keeps.of_eq (hr : t.regs = s.regs) (hm : t.mem = s.mem) (hf : t.fuses = s.fuses) : s.Keeps t :=
  ⟨fun h => by unfold State.canonical State.regsWf at *; rw [hr, hm]; exact h, hf⟩

theorem State.reset_canonical : State.reset.canonical := ⟨rfl, rfl⟩

/-! ### Registers -/

theorem State.keeps_setReg (s : State) (off : Nat) (v : W64) : s.Keeps (s.setReg off v) :=
  ⟨fun h => ⟨State.regsWf_setReg off v h.1, h.2⟩, rfl⟩

theorem State.keeps_put (s : State) (f : Fld) (v : Nat) : s.Keeps (s.put f v) := s.keeps_setReg _ _

theorem State.keeps_putB (s : State) (f : Fld) (b : Bool) : s.Keeps (s.putB f b) := s.keeps_setReg _ _

theorem State.keeps_bump (s : State) (f : Fld) (n : Nat) : s.Keeps (s.bump f n) := s.keeps_setReg _ _

/-- Registers put back to their reset values. -/
theorem State.keeps_regs_filter (s : State) (q : Nat × W64 → Bool) : s.Keeps { s with regs := s.regs.filter q } :=
  ⟨fun h => ⟨Table.wf_filter regReset q s.regs h.1, h.2⟩, rfl⟩

/-! ### Folds -/

theorem State.keeps_forN (s : State) (n : Nat) (f : Nat → State → State) (h : ∀ k x, State.Keeps x (f k x)) :
    s.Keeps (s.forN n f) := by
  induction n with
  | zero => exact .refl s
  | succ n ih => exact ih.trans (h n _)

theorem State.keeps_forAll {α : Type} (l : List α) (f : α → State → State) (h : ∀ a x, State.Keeps x (f a x)) (s : State) :
    s.Keeps (s.forAll l f) := by
  induction l generalizing s with
  | nil => exact .refl s
  | cons a l ih => exact (h a s).trans (ih _)

/-! ### Events and messages -/

theorem State.keeps_onHost (s : State) (f : HostIf → HostIf) : s.Keeps (s.onHost f) := .of_eq rfl rfl rfl

theorem State.keeps_onHbm (s : State) (f : Hbm → Hbm) : s.Keeps (s.onHbm f) := .of_eq rfl rfl rfl

theorem State.keeps_toCairn (s : State) (k n v a : Nat) : s.Keeps (s.toCairn k n v a) := .of_eq rfl rfl rfl

theorem State.keeps_useCheck (s : State) (n c : Nat) : s.Keeps (s.useCheck n c) := .of_eq rfl rfl rfl

theorem State.keeps_took (s : State) : s.Keeps s.took := .of_eq rfl rfl rfl

theorem State.keeps_queueEvent (s : State) (q code : Nat) (a0 a1 : W64) : s.Keeps (s.queueEvent q code a0 a1) := by
  unfold State.queueEvent
  repeat' split
  · exact s.keeps_bump _ _
  · exact s.keeps_onHost _
  · exact s.keeps_onHost _
  · exact (s.keeps_bump _ _).trans (State.keeps_onHost _ _)

theorem State.keeps_post (s : State) (code a0 a1 : Nat) : s.Keeps (s.post code a0 a1) := by
  unfold State.post
  dsimp only
  split
  · exact s.keeps_queueEvent _ _ _ _
  · exact s.keeps_bump _ _

theorem State.keeps_postResult (s : State) (code a0 a1 result : Nat) : s.Keeps (s.postResult code a0 a1 result) := by
  unfold State.postResult
  dsimp only
  split
  · split
    · exact s.keeps_queueEvent _ _ _ _
    · exact (s.keeps_queueEvent _ _ _ _).trans (State.keeps_onHost _ _)
  · exact s.keeps_bump _ _

theorem State.keeps_postCompletion (s : State) (d : Desc) (st r a : Nat) : s.Keeps (s.postCompletion d st r a) := by
  unfold State.postCompletion
  dsimp only
  split
  · exact .refl s
  · split
    · exact s.keeps_bump _ _
    · exact s.keeps_onHost _

/-! ### The HBM log -/

theorem State.keeps_hbmLog (s : State) (kind p dpa : Nat) : s.Keeps (s.hbmLog kind p dpa) := by
  have h : ∀ (a b : Nat) (v w : W64) (f : Hbm → Hbm), s.Keeps (((s.setReg a v).setReg b w).onHbm f) := fun a b v w f =>
    ((s.keeps_setReg a v).trans (State.keeps_setReg _ b w)).trans (State.keeps_onHbm _ f)
  unfold State.hbmLog
  dsimp only
  split
  · split
    · exact ((h _ _ _ _ _).trans (State.keeps_bump _ _ _)).trans (State.keeps_post _ _ _ _)
    · exact (h _ _ _ _ _).trans (State.keeps_bump _ _ _)
  · exact (h _ _ _ _ _).trans (State.keeps_put _ _ _)

theorem State.keeps_retirePc (s : State) (p : Nat) : s.Keeps (s.retirePc p) := by
  unfold State.retirePc
  split
  · exact .refl s
  · exact (s.keeps_put _ _).trans (State.keeps_onHbm _ _)

theorem State.keeps_hbmUe (s : State) (kind dpa : Nat) : s.Keeps (s.hbmUe kind dpa) := by
  unfold State.hbmUe
  dsimp only
  split
  · exact ((s.keeps_hbmLog _ _ _).trans (State.keeps_onHbm _ _)).trans (State.keeps_retirePc _ _)
  · exact (s.keeps_hbmLog _ _ _).trans (State.keeps_onHbm _ _)

theorem State.keeps_hbmCaError (s : State) (p dpa : Nat) : s.Keeps (s.hbmCaError p dpa) := by
  have h := ((s.keeps_hbmLog 2 p dpa).trans (State.keeps_toCairn _ 0x0F (srcSaddle (2 + p / 32)) sevMajor dpa))
  unfold State.hbmCaError
  dsimp only
  split
  · exact (h.trans (State.keeps_onHbm _ _)).trans (State.keeps_retirePc _ _)
  · exact h.trans (State.keeps_onHbm _ _)

/-! ### Stored bytes, check bits and guard words -/

theorem Memory.wf_iff (m : Memory) : m.wf = true ↔
    Table.wf (fun _ => (0 : Byte)) m.data = true ∧ Table.wf (fun _ => (0 : Byte)) m.check = true ∧
    Table.wf (fun _ => (0 : W64)) m.guardP = true ∧ Table.wf (fun _ => (0 : W64)) m.guardQ = true ∧
    Table.wf (fun _ => (0 : Byte)) m.guardPC = true ∧ Table.wf (fun _ => (0 : Byte)) m.guardQC = true := by
  simp [Memory.wf, and_assoc]

/-- An update of the memories that keeps their form. -/
theorem State.keeps_onMem (s : State) (f : Memory → Memory) (h : s.mem.wf = true → (f s.mem).wf = true) : s.Keeps (s.onMem f) :=
  ⟨fun c => ⟨c.1, h c.2⟩, rfl⟩

theorem State.keeps_setByte (s : State) (a : Nat) (b : Byte) : s.Keeps (s.setByte a b) :=
  s.keeps_onMem (fun m => { m with data := Table.poke (fun _ => 0) m.data a b }) fun h => by
    rw [Memory.wf_iff] at *
    exact ⟨Table.wf_poke _ _ _ _ h.1, h.2⟩

theorem State.keeps_setBytes (bs : List Byte) (s : State) (a : Nat) : s.Keeps (s.setBytes a bs) := by
  induction bs generalizing s a with
  | nil => exact .refl s
  | cons b bs ih => exact (s.keeps_setByte a b).trans (ih _ _)

theorem State.keeps_setRawWord (s : State) (w : Nat) (v : W64) : s.Keeps (s.setRawWord w v) := State.keeps_setBytes _ s _

theorem State.keeps_setCheck (s : State) (w : Nat) (c : Byte) : s.Keeps (s.setCheck w c) :=
  s.keeps_onMem _ fun h => by
    rw [Memory.wf_iff] at *
    exact ⟨h.1, Table.wf_poke _ _ _ _ h.2.1, h.2.2⟩

theorem State.keeps_storeWord (s : State) (w : Nat) (v : W64) : s.Keeps (s.storeWord w v) :=
  (s.keeps_setRawWord w v).trans (State.keeps_setCheck _ w _)

theorem State.keeps_setGuard (s : State) (k : Nat) (p q : W64) : s.Keeps (s.setGuard k p q) :=
  s.keeps_onMem _ fun h => by
    rw [Memory.wf_iff] at *
    exact ⟨h.1, h.2.1, Table.wf_poke _ _ _ _ h.2.2.1, Table.wf_poke _ _ _ _ h.2.2.2.1, Table.wf_poke _ _ _ _ h.2.2.2.2.1,
      Table.wf_poke _ _ _ _ h.2.2.2.2.2⟩

theorem State.keeps_setMergeList (s : State) (k : Nat) (l : List MergeEntry) : s.Keeps (s.setMergeList k l) :=
  s.keeps_onMem (fun m => { m with merge := m.merge.poke (fun _ => []) k l }) id

theorem State.keeps_reguard (s : State) (r : Region) : s.Keeps (s.reguard r) :=
  (s.keeps_setGuard _ _ _).trans
    (State.keeps_onMem _ (fun m => { m with dead := m.dead ++ (s.erased r r.n).map r.member }) id)

/-! ### What a stored byte reads as -/

theorem State.byteAt_setByte (h : s.mem.wf = true) (a k : Nat) (b : Byte) :
    (s.setByte a b).byteAt k = if k = a then b else s.byteAt k := by
  have hd := ((Memory.wf_iff _).1 h).1
  unfold State.byteAt State.setByte
  split
  · subst_vars; exact Table.peek_poke_same _ _ _ _ hd
  · rename_i hk; exact Table.peek_poke_other _ _ _ hk hd

theorem State.mem_wf_setByte (h : s.mem.wf = true) (a : Nat) (b : Byte) : (s.setByte a b).mem.wf = true := by
  rw [Memory.wf_iff] at *
  exact ⟨Table.wf_poke _ _ _ _ h.1, h.2⟩

/-- Bytes stored from an address on read back there, and every other byte is as before. -/
theorem State.byteAt_setBytes (bs : List Byte) (h : s.mem.wf = true) (a k : Nat) :
    (s.setBytes a bs).byteAt k = if a ≤ k ∧ k < a + bs.length then bs.getD (k - a) 0 else s.byteAt k := by
  induction bs generalizing s a with
  | nil =>
    have hk : ¬ (a ≤ k ∧ k < a + ([] : List Byte).length) := by simp only [List.length_nil]; omega
    rw [if_neg hk]
    rfl
  | cons b bs ih =>
    rw [State.setBytes, ih (State.mem_wf_setByte h a b), State.byteAt_setByte h]
    by_cases hk : k = a
    · subst hk
      have : ¬ (k + 1 ≤ k) := by omega
      simp [this]
    · by_cases hi : a + 1 ≤ k ∧ k < a + 1 + bs.length
      · have h2 : a ≤ k ∧ k < a + (b :: bs).length := by simp only [List.length_cons]; omega
        obtain ⟨j, rfl⟩ : ∃ j, k = a + 1 + j := ⟨k - (a + 1), by omega⟩
        rw [if_pos hi, if_pos h2, (by omega : a + 1 + j - a = j + 1), (by omega : a + 1 + j - (a + 1) = j)]
        simp
      · have h2 : ¬ (a ≤ k ∧ k < a + (b :: bs).length) := by simp only [List.length_cons]; omega
        rw [if_neg hi, if_neg h2, if_neg hk]

theorem State.checkAt_setCheck (h : s.mem.wf = true) (w k : Nat) (c : Byte) :
    (s.setCheck w c).checkAt k = if k = w then c else s.checkAt k := by
  have hd := ((Memory.wf_iff _).1 h).2.1
  unfold State.checkAt State.setCheck State.onMem
  split
  · subst_vars; exact Table.peek_poke_same _ _ _ _ hd
  · rename_i hk; exact Table.peek_poke_other _ _ _ hk hd

/-- Check bits are stored apart from data. -/
theorem State.byteAt_setCheck (w k : Nat) (c : Byte) : (s.setCheck w c).byteAt k = s.byteAt k := rfl

/-! ### Counters and logs -/

theorem State.keeps_ceCross (s0 s : State) (c : Nat) : s.Keeps (State.ceCross s0 s c) := by
  unfold State.ceCross
  dsimp only
  split
  · exact s.keeps_post _ _ _
  · exact .refl s

theorem State.keeps_logLost (s : State) (k : Nat) : s.Keeps (s.logLost k) := by
  unfold State.logLost
  dsimp only
  split
  · exact (s.keeps_bump _ _).trans (State.keeps_post _ _ _ _)
  · exact s.keeps_bump _ _

theorem State.keeps_logEvent (s : State) (r : Region) (w kind syn : Nat) (scrub : Bool) :
    s.Keeps (s.logEvent r w kind syn scrub) := by
  unfold State.logEvent
  dsimp only
  split
  · exact s.keeps_logLost _
  · refine (s.keeps_onMem (fun m => { m with logAt := m.logAt.poke (fun _ => 0) r.table (s.now + 1) }) id).trans ?_
    split
    · exact (State.keeps_setReg _ _ _).trans (State.keeps_setReg _ _ _)
    · exact (State.keeps_setReg _ _ _).trans (State.keeps_setReg _ _ _)
    · exact ((State.keeps_setReg _ _ _).trans (State.keeps_setReg _ _ _)).trans (State.keeps_logLost _ _)

theorem State.keeps_corrected (s : State) (r : Region) (w kind syn : Nat) (scrub : Bool) :
    s.Keeps (s.corrected r w kind syn scrub) :=
  ((s.keeps_bump _ _).trans (State.keeps_ceCross _ _ _)).trans (State.keeps_logEvent _ _ _ _ _ _)

theorem State.keeps_guarded (s : State) (r : Region) (w kind : Nat) (scrub : Bool) : s.Keeps (s.guarded r w kind scrub) :=
  ((s.keeps_bump _ _).trans (State.keeps_ceCross _ _ _)).trans (State.keeps_logEvent _ _ _ _ _ _)

theorem State.keeps_uncorrectable (s : State) (r : Region) (w : Nat) : s.Keeps (s.uncorrectable r w) := by
  have h := (s.keeps_bump (MEM_UE_CNT.COUNT r.cls) 1).trans (State.keeps_toCairn _ 0x0D r.source sevMajor (8 * w))
  unfold State.uncorrectable
  dsimp only
  split
  · exact h.trans (State.keeps_hbmUe _ _ _)
  · exact h

/-! ### Coded accesses -/

theorem State.keeps_countWord (s : State) (r : Region) (w : Nat) (k : Decoded) (scrub : Bool) :
    s.Keeps (s.countWord r w k scrub) := by
  unfold State.countWord
  split
  · exact s.keeps_corrected _ _ _ _ _
  · exact s.keeps_corrected _ _ _ _ _
  · exact .refl s

theorem State.keeps_countGuard (s : State) (r : Region) (scrub : Bool) : s.Keeps (s.countGuard r scrub) :=
  (s.keeps_countWord _ _ _ _).trans (State.keeps_countWord _ _ _ _ _)

/-- A fold whose every step keeps the form. -/
theorem State.keeps_foldl {α : Type} (l : List α) (f : State → α → State) (h : ∀ x a, State.Keeps x (f x a)) (s : State) :
    s.Keeps (l.foldl f s) := by
  induction l generalizing s with
  | nil => exact .refl s
  | cons a l ih => exact (h s a).trans (ih _)

theorem State.keeps_countSet (s : State) (r : Region) (skip : Nat) (scrub : Bool) : s.Keeps (s.countSet r skip scrub) :=
  State.keeps_foldl _ _ (fun x i => by
    split
    · exact .refl x
    · exact x.keeps_countWord _ _ _ _) s

theorem State.keeps_rebuildSet (s : State) (r : Region) (scrub : Bool) : s.Keeps (s.rebuildSet r scrub).1 := by
  unfold State.rebuildSet
  split
  · exact .refl s
  · rename_i l _
    have h0 := (s.keeps_countSet r (r.member r.n) scrub).trans (State.keeps_countGuard _ r scrub)
    generalize (s.countSet r (r.member r.n) scrub).countGuard r scrub = s0 at h0 ⊢
    have h := h0.trans (State.keeps_forAll l (fun p s => (s.storeWord (r.member p.1) p.2).guarded r (r.member p.1) 2 scrub)
      (fun p x => (x.keeps_storeWord _ _).trans (State.keeps_guarded _ _ _ _ _)) s0)
    dsimp only
    generalize s0.forAll l (fun p s => (s.storeWord (r.member p.1) p.2).guarded r (r.member p.1) 2 scrub) = t at h ⊢
    split
    · exact h.trans (State.keeps_reguard _ _)
    · exact h

theorem State.keeps_readStored (s : State) (r : Region) (w : Nat) (scrub : Bool) : s.Keeps (s.readStored r w scrub).2.2 := by
  unfold State.readStored
  split
  · exact .refl s
  · exact s.keeps_corrected _ _ _ _ _
  · exact s.keeps_corrected _ _ _ _ _
  · dsimp only
    split
    · exact s.keeps_rebuildSet _ _
    · exact .refl s

theorem State.keeps_readCode (s : State) (r : Region) (w : Nat) (scrub : Bool) : s.Keeps (s.readCode r w scrub).2.2 := by
  unfold State.readCode
  dsimp only
  split
  · exact s.keeps_useCheck _ _
  · split
    · have h := (s.keeps_useCheck r.source 0).trans (State.keeps_took _)
      split
      · exact h.trans (State.keeps_corrected _ _ _ _ _ _)
      · exact h.trans (State.keeps_readStored _ _ _ _)
    · exact s.keeps_readStored _ _ _

theorem State.keeps_writeCode (s : State) (r : Region) (w : Nat) (v : W64) (told : Bool) : s.Keeps (s.writeCode r w v told) := by
  have h0 : s.Keeps ((if told then s else s.countWord r w (s.wordState w) false).countGuard r false) := by
    split
    · exact s.keeps_countGuard _ _
    · exact (s.keeps_countWord _ _ _ _).trans (State.keeps_countGuard _ _ _)
  unfold State.writeCode
  dsimp only
  generalize (if told then s else s.countWord r w (s.wordState w) false).countGuard r false = s0 at h0 ⊢
  have h : ∀ x : State, s.Keeps x → s.Keeps ((x.storeWord w v).onMem (fun m => { m with dead := m.dead.filter (fun k => k != w) })) :=
    fun x hx => (hx.trans (x.keeps_storeWord w v)).trans (State.keeps_onMem _ _ id)
  generalize (s.wordState w == Decoded.bad || s.pState r.key == Decoded.bad || s.qState r.key == Decoded.bad) = b
  cases b
  · exact (h s0 h0).trans (State.keeps_setGuard _ _ _ _)
  · exact (h _ (h0.trans (State.keeps_countSet _ _ _ _))).trans (State.keeps_reguard _ _)

theorem State.keeps_flushEntry (s : State) (r : Region) (e : MergeEntry) : s.Keeps (s.flushEntry r e) := by
  have h := s.keeps_readCode r e.word false
  unfold State.flushEntry
  generalize s.readCode r e.word = t at h ⊢
  dsimp only
  split
  · exact s.keeps_writeCode _ _ _ _
  · split
    · have g := (h.trans (State.keeps_bump _ (MEM_UE_CNT.COUNT r.cls) 1)).trans
        (State.keeps_toCairn _ 0x0E r.source sevMajor (8 * e.word))
      split
      · exact g.trans (State.keeps_hbmUe _ _ _)
      · exact g
    · exact h.trans (State.keeps_writeCode _ _ _ _ _)

theorem State.keeps_flushWord (s : State) (r : Region) (w : Nat) : s.Keeps (s.flushWord r w) := by
  unfold State.flushWord
  split
  · exact .refl s
  · exact (s.keeps_setMergeList _ _).trans (State.keeps_flushEntry _ _ _)

theorem State.keeps_flushUnit (s : State) (k : Nat) : s.Keeps (s.flushUnit k) := by
  unfold State.flushUnit
  refine (s.keeps_setMergeList _ _).trans (State.keeps_forAll _ _ (fun e x => ?_) _)
  split
  · exact x.keeps_flushEntry _ _
  · exact .refl x

theorem State.keeps_narrowWrite (s : State) (r : Region) (w : Nat) (v : W64) (mask : Byte) :
    s.Keeps (s.narrowWrite r w v mask) := by
  unfold State.narrowWrite
  dsimp only
  split
  · split
    · exact (s.keeps_setMergeList _ _).trans (State.keeps_flushWord _ _ _)
    · exact s.keeps_setMergeList _ _
  · split
    · split
      · exact (s.keeps_flushWord _ _).trans (State.keeps_setMergeList _ _ _)
      · exact s.keeps_setMergeList _ _
    · exact s.keeps_setMergeList _ _

theorem State.keeps_fullWrite (s : State) (r : Region) (w : Nat) (v : W64) : s.Keeps (s.fullWrite r w v) :=
  (s.keeps_setMergeList _ _).trans (State.keeps_writeCode _ _ _ _ _)

theorem State.keeps_readWord (s : State) (r : Region) (w : Nat) (scrub : Bool) : s.Keeps (s.readWord r w scrub).2.2 := by
  have h := (s.keeps_flushWord r w).trans (State.keeps_readCode _ r w scrub)
  unfold State.readWord
  dsimp only
  split
  · exact h.trans (State.keeps_uncorrectable _ _ _)
  · exact h

theorem State.keeps_loadWord (s : State) (w : Nat) : s.Keeps (s.loadWord w).2.2 := by
  unfold State.loadWord
  repeat' split
  · exact s.keeps_readWord _ _ _
  · exact .refl s
  · exact .refl s

theorem State.keeps_maskWrite (s : State) (w : Nat) (v : W64) (mask : Byte) : s.Keeps (s.maskWrite w v mask) := by
  unfold State.maskWrite
  repeat' split
  · exact s.keeps_fullWrite _ _ _
  · exact s.keeps_narrowWrite _ _ _ _
  · exact s.keeps_setRawWord _ _
  · exact s.keeps_setRawWord _ _

theorem State.keeps_loadWords (n : Nat) (s : State) (w : Nat) : s.Keeps (s.loadWords w n).2.2 := by
  induction n generalizing s w with
  | zero => exact .refl s
  | succ n ih => exact (s.keeps_loadWord w).trans (ih _ _)

theorem State.keeps_load (s : State) (a len : Nat) : s.Keeps (s.load a len).2.2 := by
  unfold State.load
  split
  · exact .refl s
  · exact State.keeps_loadWords _ _ _

theorem State.keeps_storeN (n : Nat) (s : State) (a : Nat) (bs : List Byte) : s.Keeps (s.storeN a bs n) := by
  induction n generalizing s a bs with
  | zero => exact .refl s
  | succ n ih =>
    unfold State.storeN
    split
    · exact .refl s
    · exact (s.keeps_maskWrite _ _ _).trans (ih _ _ _)

/-- A store through the codes. -/
theorem State.keeps_store (s : State) (a : Nat) (bs : List Byte) : s.Keeps (s.store a bs) := State.keeps_storeN _ _ _ _

theorem Memory.wf_wipe (m : Memory) (p : Nat → Bool) (h : m.wf = true) : (m.wipe p).wf = true := by
  rw [Memory.wf_iff] at *
  exact ⟨Table.wf_clearIf _ _ _ h.1, Table.wf_clearIf _ _ _ h.2.1, Table.wf_clearIf _ _ _ h.2.2.1, Table.wf_clearIf _ _ _ h.2.2.2.1,
    Table.wf_clearIf _ _ _ h.2.2.2.2.1, Table.wf_clearIf _ _ _ h.2.2.2.2.2⟩

theorem State.keeps_zeroRange (s : State) (a len : Nat) : s.Keeps (s.zeroRange a len) :=
  s.keeps_onMem _ (Memory.wf_wipe _ _)

end Sys2Proof.Machine
end

