-- ==== Sys2Proof/Tests/Slice0.lean ====
section
/-!
SUPPORT. Tests: the ill-formed commands are refused, the hypotheses of every statement are met by some state, single steps of
small states.
-/

namespace Sys2Proof.Tests

open Sys2Proof Sys2Proof.Machine

-- One test at a time: elaborated side by side, their evaluations together exceed the memory of a small machine.
set_option Elab.async false

/-! ### Chapter 1 -/

/-- A die that is coming back, its clearing at work. -/
def dieBack : State := (State.reset.setPresence 1 .rejoining).onSwb (fun w => { w with portRun := [clearJob 1] })

theorem wit_TestChainSelect : dieBack.presence 1 = .rejoining ∧ dieBack.jobRuns (clearJob 1) = true ∧
    Table.wf (fun _ => Presence.present) dieBack.pkg.presence = true ∧ nbit (15 : BitVec 4).toNat 1 = true := by decide

theorem wit_LaneRepair :
    let g := groupNo 0 3 1
    let x := State.reset.laneGroup g
    let busy := State.reset.modGroup g (fun y => { y with repair := some (7, 0) })
    let more := State.reset.modGroup g (fun y => { y with repair := some (7, 0), queue := [9] })
    let mon := State.reset.put (HIF_DIE_CAP.SPARE_MON 0) 1
    (State.reset.judged 0 = true ∧ State.reset.pairWorks 0 3 = true ∧ x.inUse 31 = true ∧ x.repair = none ∧ x.queue = [] ∧
      x.idle 0 = true ∧ nfield (199 : W32).toNat 15 0 < 200) ∧
    (busy.judged 0 = true ∧ busy.pairWorks 0 3 = true ∧ (busy.laneGroup g).inUse 31 = true ∧
      (busy.laneGroup g).repair = some (7, 0) ∧ (busy.laneGroup g).queue = []) ∧
    ((more.laneGroup g).repair = some (7, 0) ∧ (more.laneGroup g).queue = [9] ∧ (more.laneGroup g).spares[(1 : Fin 2)] = 0) ∧
    (mon.flag (HIF_DIE_CAP.SPARE_MON 0) = true ∧ mon.presence 0 = .present ∧ (mon.laneGroup g).idle 1 = true ∧
      mon.pkg.down.contains 0 = false ∧ mon.cfg.phase < 4) := by
  decide

theorem wit_PairRetirement : State.reset.judged 7 = true ∧ State.reset.pairWorks 7 15 = true ∧
    Table.wf (fun _ => ({} : LaneGroup)) State.reset.pkg.groups = true ∧ State.reset.armed (512 * 3 + 0x61) 4 = false ∧
    (State.reset.onCairn (fun c => { c with checks := [(512 * 3 + 0x61, 4, 1)] })).armed (512 * 3 + 0x61) 4 = true ∧
    Table.wf (fun _ => 0) State.reset.pkg.flitErr = true ∧ Table.wf (fun _ => 0) State.reset.pkg.laneErr = true := by decide

theorem wit_DieLossAndRejoin :
    let silent := State.reset.setPresence 3 .silent
    let lost := State.reset.setPresence 3 .lost
    let down := (State.reset.onPkg (fun p => { p with down := [6] })).onNet (fun n => { n with reroute := [6] })
    State.reset.presence 3 = .present ∧ (silent.presence 3 = .silent ∧ silent.dieAsleep 3 = false) ∧
    (lost.presence 3 = .lost ∧ lost.pkg.dieReset.contains 3 = false ∧ (5 : W64) ≠ lost.reg (HIF_DIE_ID.RECORD 3).addr) ∧
    (down.pkg.down.contains 6 = true ∧ down.net.reroute.contains 6 = true) := by decide

/-! ### Chapters 2 and 3 -/

/-- One adder cell, C0 of T(3,0), with 1 on A and B. -/
def oneAdder : Island :=
  { cfg := { cells := [(48, { table := 0x66666666AAAAAAAA, tmode := 2, xsum := true, a := .const true, b := .const true })] } }

theorem wit_CarryChainAdds : oneAdder.cfg.cell (16 * (3 + 48 * (0 / 16)) + 0 % 16) =
    { table := 0x66666666AAAAAAAA, tmode := 2, xsum := true, a := .const true, b := .const true } ∧
    nbit 1 0 = true := by decide

theorem wit_FlipFlopRules :
    let f : FfCfg := { sruse := true, srval := true, ceuse := true }
    let cs : CtlSet := { clk := some 1 }
    (f.latch = false ∧ f.sruse = true ∧ ({ cs with async := true } : CtlSet).async = true) ∧
    (cs.clk = some 1 ∧ true ≠ cs.inv ∧ ¬ (f.sruse ∧ true = true ∧ cs.async)) ∧
    (({ f with latch := true } : FfCfg).latch = true) := by decide

/-- Islands 0 and 1 of die 0 with released contexts, a handshake group 2 from 0 to 1 on K0, a word on its way, WR_VALID and
RD_READY at 1. -/
def handshake : State :=
  let out : GroupCfg := { mode := 2, valid := .const true }
  let inn : GroupCfg := { mode := 3, valid := .const true }
  let a : Island := { cfg := { groups := [(groupKey 1 2, out)] }, gsr := false }
  let b : Island := { cfg := { groups := [(groupKey 3 2, inn)] }, gsr := false, border := [(groupKey 3 2, { fifo := [7, 8], visible := 1 })] }
  (((((State.reset.setIsland 0 a).setIsland 1 b).put (SWB_ISL_STAT.STATE 0) 3).put (SWB_ISL_STAT.STATE 1) 3).put (CLK_ISL_STAT.RUNNING 0) 1).put
    (CLK_ISL_STAT.RUNNING 1) 1

theorem wit_ClockEdgeAndHandshake :
    let x := (handshake.facing 0).settled
    let y := (handshake.facing 1).settled
    (neighbour 0 1 = some 1 ∧ (x.cfg.group (groupKey 1 2)).mode = 2 ∧ (x.chan (groupKey 1 2)).ready = true ∧
      x.value (x.cfg.group (groupKey 1 2)).valid = true ∧ handshake.groupClocked 0 (groupKey 1 2) = true) ∧
    (handshake.groupClocked 1 (groupKey 3 2) = true ∧ ((handshake.island 1).chan (groupKey 3 2)).fifo = [7, 8] ∧
      ((handshake.island 1).chan (groupKey 3 2)).visible = 1 ∧ (y.cfg.group (groupKey 3 2)).mode = 3 ∧
      y.value (y.cfg.group (groupKey 3 2)).valid = true) ∧
    Table.wf (fun _ => ({} : Island)) handshake.isl = true ∧
    Table.wf (fun _ => ({} : BorderChan)) (handshake.island 1).border = true ∧
    ((handshake.island 1).gsr = false ∧ nbit (handshake.get (CLK_ISL_STAT.RUNNING 1)) 0 = true) ∧
    ((State.reset.put (CLK_ISL_STAT.RUNNING 9) 1).island 9).gsr = true ∧
    nbit ((State.reset.put (CLK_ISL_STAT.RUNNING 9) 1).get (CLK_ISL_STAT.RUNNING 9)) 0 = true := by decide +kernel

/-- Island 5 with K2 running on B0 and in use. -/
def clockRuns : State :=
  ((State.reset.put (CLK_ISL_CFG.SETTING 5) (4 * 2 ^ 27 + 7 * 2 ^ 24)).put (CLK_ISL_STAT.RUNNING 5) 4).put (CLK_ISL_STAT.RAMPING 5) 4

theorem wit_BaseClockWrites : State.reset.regsWf ∧ clockRuns.regsWf ∧ clockRuns.baseInUse 0 = true ∧
    State.reset.baseInUse 1 = false := by
  unfold State.regsWf; decide +kernel

theorem wit_RampSteps :
    let s := clockRuns.modIsland 5 (fun x => { x with ratio := x.ratio.set 2 32, target := x.target.set 2 64 })
    s.regsWf ∧ Table.wf (fun _ => ({} : Island)) s.isl = true ∧ s.running 5 2 = true ∧
    nbit (s.get (CLK_ISL_STAT.RAMPING 5)) 2 = true ∧ (s.island 5).stretch = 0 ∧
    (s.island 5).src[(2 : Fin 5)] = clkSrc (s.setting 5) 2 := by
  unfold State.regsWf; decide +kernel

theorem wit_ClockEvents : State.reset.pkg.southCopy.contains 0 = false ∧
    (State.reset.onPkg (fun p => { p with southCopy := [3] })).pkg.southCopy.contains 3 = true ∧
    (State.reset.onClk (fun c => { c with holdover := 1 })).clk.holdover = 1 ∧
    State.reset.joined 5 = [5] ∧
    ((State.reset.modIsland 5 (fun x => { x with stretch := 1 })).island 5).stretch = 1 ∧
    ((State.reset.modIsland 5 (fun x => { x with stretch := 2 })).island 5).stretch = 2 ∧
    (let idle := State.reset.modIsland 5 (fun x => { x with stopping := 4 })
     let inn : GroupCfg := { mode := 3, clk := 2 }
     let full := idle.modIsland 5 (fun x => { x with cfg := { groups := [(0, inn)] }, border := [(0, { fifo := [7] })] })
     nbit (idle.island 5).stopping.toNat 2 = true ∧ idle.clockIdle 5 2 = true ∧
     nbit (full.island 5).stopping.toNat 2 = true ∧ full.clockIdle 5 2 = false) := by
  decide +kernel

theorem wit_ClockMeters :
    let busy := State.reset.put (CLK_MTR_CTL.BUSY 4) 1
    let long := busy.put (CLK_MTR_CTL.WIN_LOG2 4) 20
    let held := State.reset.put (CLK_MTR_CTL.OWNER 4) 1
    (held.get (CLK_MTR_CTL.BUSY 4) = 0 ∧ held.get (CLK_MTR_CTL.OWNER 4) = 1) ∧ State.reset.get (CLK_MTR_CTL.BUSY 4) = 0 ∧
    long.meterRuns 4 = true ∧ long.meterWindow 4 > 16 ∧ busy.meterWindow 4 ≤ 16 ∧ busy.get (CLK_MTR_SEL.SEL_B 4) = 0 ∧
    (State.reset.put MGT_STAT.STATE 1).lkoServes = true ∧ State.reset.meterRuns 4 = false ∧
    State.reset.clk.waiting.contains 4 = false ∧
    (busy.meterRuns 4 = true ∧ busy.countFits 4 (2 ^ busy.meterWindow 4) = true) ∧
    ((busy.onClk (fun c => { c with waiting := [4] })).clk.waiting.contains 4 = true ∧
      meterHas 4 (busy.get (CLK_MTR_SEL.SEL_A 4)) = true ∧ meterHas 4 (busy.get (CLK_MTR_SEL.SEL_B 4)) = true) := by
  decide +kernel

/-! ### Chapter 4 -/

theorem wit_InnerCodeCorrects : (5 : Nat) < 64 ∧ State.reset.armed 64 0 = false ∧ State.reset.armed 64 1 = false ∧
    (State.reset.setByte (8 * 9) 1).wordState 9 = .dataBit 3 0 := by decide +kernel

/-- The example of R123: data 1 is stored with check bits 0x83. -/
theorem test_check_bits_of_one : checkBits 1 = 0x83 := by decide +kernel

/-- Deep memory word 2 of a set, with both of its lowest data bits lost. -/
def twoLost : State := (State.reset.setByte (deepBase + 16) 3)

theorem wit_PageGuardRebuilds :
    let r : Region := { cls := 1, unit := 0, page := deepBase / 8, key := deepBase / 8, idx := 2, n := 4, stride := 1, die := 0, source := 64 }
    r.n ≤ 128 ∧ twoLost.guardP r.key = (List.range r.n).foldl (fun a i => a ^^^ (fun _ => (0 : W64)) i) 0 ∧
    twoLost.pState r.key = .clean ∧ twoLost.qState r.key = .clean ∧ twoLost.erased r r.n = [2] ∧
    twoLost.wordValue (r.member 1) = 0 := by decide +kernel

theorem wit_MemoryAccesses :
    let s := State.reset.onSwb (fun w => { w with owners := [(0, 6)] })
    let w := (0x100000000008 : BitVec 48).toNat / 8
    let o := 8 * w - deepBase
    s.canonical ∧ inDeep (0x100000000008 : BitVec 48).toNat = true ∧ (regionOf (8 * w)).isSome = true ∧
    s.mem.rebuilding = [] ∧ s.cairn.checks = [] ∧ s.deepCode {} (o / 0x4000000) (o / 0x200000 % 32) (8 * w) 8 = 0 ∧
    s.mergeList 7 = [] ∧ Table.wf (fun _ => ([] : List MergeEntry)) s.mem.merge = true ∧ s.wordState w = .clean ∧ (1 : Byte) ≠ 0xFF := by
  unfold State.canonical State.regsWf; decide +kernel

theorem wit_RebuildAndScrub :
    let s := State.reset.onMem (fun m => { m with rebuilding := [(deepBase / 8, [])] })
    let go := State.reset.put HIF_STAT.READY 1
    ((regionOf (8 * (BitVec.ofNat 45 (deepBase / 8)).toNat)).isSome = true ∧
      s.mem.rebuilding = [((BitVec.ofNat 45 (deepBase / 8)).toNat, [])]) ∧
    State.reset.scrubPaused 4 1 = true ∧
    (go.scrubPaused 1 2 = false ∧ go.mem.scrub.peek (fun _ => 0) (8 + 2) = 0 ∧
      go.wordState ((deepBase + 2 * 0x4000000) / 8 + 0) = .clean) := by decide +kernel

theorem wit_MemoryCountersCleared : State.reset.regsWf ∧ nbit (1 : BitVec 6).toNat 0 = true ∧ nbit (1 : BitVec 6).toNat 1 = false := by
  unfold State.regsWf; decide

/-! ### Signal engines -/

/-- Island 5 released with its clocks running, and the 128 bits `n` at PC of engine `e`, which is RUNNING. -/
def running (n : Nat) (e : Engine := {}) : State :=
  let s := ((State.reset.put (SWB_ISL_STAT.STATE 5) 3).put (CLK_ISL_STAT.RUNNING 5) 31).setEng 5 { e with state := 2 }
  let w := progWord 5 e.pc.toNat
  let word (s : State) (w : Nat) (v : W64) : State := s.onMem (fun m => { m with
    data := Table.pokes (fun _ => (0 : Byte)) m.data ((List.range 8).map (fun k => (8 * w + k, BitVec.ofNat 8 (v.toNat / 2 ^ (8 * k)))))
    check := Table.poke (fun _ => (0 : Byte)) m.check w (checkBits v) })
  word (word s w (BitVec.ofNat 64 n)) (w + 1) (BitVec.ofNat 64 (n / 2 ^ 64))

/-- The control slot alone, of these 32 bits. -/
def ctlBits (n : Nat) : Nat := n * 2 ^ 96

theorem wit_ScalarSlots : ((running 0).eng 5).straight ∧
    (running (ctlBits 0)).ready 5 { c := .nop } ∧
    (running (ctlBits 0x07FFC000)).ready 5 { c := .alu .add 15 15 15 } ∧
    (running (ctlBits 0x47FFFFFF)).ready 5 { c := .alui .andi 15 15 0x3FFFF } ∧
    (running (ctlBits 0x4FC0001F)).ready 5 { c := .alui .shli 15 0 31 } ∧
    (running (ctlBits 0x5BFFFFFF)).ready 5 { c := .li 15 0x3FFFFF } ∧
    (running (ctlBits 0x5FC0FFFF)).ready 5 { c := .lui 15 0xFFFF } ∧
    (running (ctlBits 0x63CE0000)).ready 5 { c := .movtc 15 56 } ∧
    (running (ctlBits 0x6FFC0007)).ready 5 { c := .vins 15 15 7 } ∧
    (running (ctlBits 0x83F007FF)).ready 5 { c := .br 6 15 0x7FF } ∧
    (running (ctlBits 0x840007FF)).ready 5 { c := .call 0x7FF } ∧
    (running (ctlBits 0xC7C30000)).ready 5 { c := .dmstat 15 3 } ∧
    (running (ctlBits 0xE0000007)).ready 5 { c := .bfopen 7 } := by
  unfold State.ready State.quiet Engine.straight; and_intros <;> decide +kernel

/-- An engine in the body of one loop that ends at its bundle. -/
def looping (n : BitVec 16) : Engine := { ldepth := 1, lc := #v[n, 0, 0, 0], trapEn := true }

/-- An engine inside a locked sequence that has buffered one store. -/
def lockedEngine : Engine :=
  { esr := 0x00400000, sema := 0x80000000000000, lockBundles := 1, trapEn := true, lockBuf := [⟨false, 0, 7⟩, ⟨false, 1, 9⟩] }

theorem wit_LoopSlots :
    (running (ctlBits 0xA3FFFFFF)).ready 5 { c := .loopi 0xFFFF 0x3FF } ∧ ((running 0).eng 5).depth = 0 ∧
    (running (ctlBits 0xA8000000) (looping 1)).ready 5 { c := .lexit } ∧ ((running 0 (looping 1)).eng 5).depth = 1 ∧
    (running 0 (looping 0)).ready 5 {} ∧ (looping 0).le[(looping 0).depth - 1]! = (looping 0).pc ∧ (looping 0).lc[0]! ≠ 1 ∧
    (running (ctlBits 0xA3FFFFFF) { ldepth := 4, trapEn := true }).ready 5 { c := .loopi 0xFFFF 0x3FF } ∧
    ((running 0 { ldepth := 4, trapEn := true }).eng 5).depth = 4 ∧
    (running (ctlBits 0xA3FFFFFF) { ldepth := 4 }).ready 5 { c := .loopi 0xFFFF 0x3FF } ∧
    (running (ctlBits 0xA3FFFFFF) lockedEngine).ready 5 { c := .loopi 0xFFFF 0x3FF } ∧ lockedEngine.locked = true ∧
    (running 0 { ldepth := 2, lc := #v[7, 1, 0, 0] }).ready 5 {} := by
  unfold State.ready State.quiet; and_intros <;> decide +kernel

theorem wit_TrapsAndLocks :
    (running (ctlBits 0x04000001) { trapEn := true }).quiet (progWord 5 0) ∧
    decodeBundle 0 0x0400000100000000 = none ∧
    (running (ctlBits 0x90000000) { trapEn := true }).ready 5 { c := .brk } ∧
    (running (ctlBits 0xB0000000)).ready 5 { c := .lock } ∧
    (running (ctlBits 0xB4000000) lockedEngine).ready 5 { c := .unlk } ∧ lockedEngine.locked = true ∧
    ((running 0 lockedEngine).eng 5).haltPend = 0 ∧ nbit lockedEngine.term.toNat 63 = false := by
  unfold State.ready State.quiet; and_intros <;> decide +kernel

theorem wit_StreamAndMoverSlots :
    (running (ctlBits 0xCBA00000) { si := #v[[], [1, 2]] }).ready 5 { c := .sin 7 1 } ∧
    (running (ctlBits 0xCF800000)).ready 5 { c := .sout 7 0 } ∧
    (running (ctlBits 0xD3C00000) { si := #v[[1, 2, 3, 4, 5], []] }).ready 5 { c := .vsin 15 0 } ∧
    (running (ctlBits 0xD7C00000)).ready 5 { c := .vsout 15 0 } ∧
    (running (ctlBits 0xC3BB8000)).ready 5 { c := .dmpush 7 7 3 true } ∧
    (State.reset.busSlow 5 = false ∧ State.reset.busFast 5 = false) ∧ (running 0).winReaches 5 = true ∧
    (let s := running 0 { dm := #v[{ state := 1, queue := [(0, 0)] }, { state := 2, queue := [(0, 0)] }, { queue := [(0, 0)] }, {}] }
     s.keRuns 5 = true ∧ Table.wf (fun _ => ({} : Engine)) s.engines = true ∧ s.islActive 5 = true ∧
     s.tagFree (64 * portNo 5 1 + 48 + 8) = true ∧ s.dmTrailOpen 5 0 = false ∧
     (s.setTrail 0 { state := 1, owner := s.occupant 5 }).dmTrailOpen 5 0 = true) := by
  unfold State.ready State.quiet; and_intros <;> decide +kernel

theorem wit_MoveSlots :
    (running 0).ready 5 {} ∧ nbit ((running 0).eng 5).term.toNat 63 = false ∧
    (running (0x1FFFFF * 2 ^ 72)).ready 5 { x := .op .ldv 15 7 (.imm 0xFFF) } ∧
    (running (0x2F0003 * 2 ^ 48)).ready 5 { y := .op .stv 15 0 (.reg 3) } ∧
    (running (0x63E000 * 2 ^ 72)).ready 5 { x := .op .staq 3 7 (.reg 0) } ∧
    (∀ k < 8, (running 0).quiet (xyWord 5 true (((running 0).eng 5).lane true 7 k))) ∧
    ((running 0).eng 5).mode true 7 ≠ 1 ∧ ({ amode := 1, xl := #v[3, 0, 0, 0] } : Engine).mode false 0 = 1 ∧
    (let e : Engine := { amode := 2, xl := #v[8, 0, 0, 0] }
     e.mode false 0 = 2 ∧ e.len false 0 = 2 ^ 3 ∧ wrap14 ((e.addr false 0 : Int) - e.base false 0) < 2 ^ 3) := by
  unfold State.ready State.quiet; and_intros <;> decide +kernel

theorem wit_VectorSlots :
    (running 0).ready 5 {} ∧
    (running 0x0BFFC3FC0000).ready 5 { v := { op := .vaddq, d := 15, a := 15, b := 15, wm := 0xFF } } ∧
    (running 0x8FFFFFFC0000).ready 5 { v := { op := .vfmaf, d := 15, a := 15, b := 15, c := 15, wm := 0xFF } } ∧
    (running 0x17FC03FC003F).ready 5 { v := { op := .vshq, d := 15, a := 15, imm := 63, wm := 0xFF } } ∧
    (running 0x43C003FCFFFF).ready 5 { v := { op := .vidx, d := 15, imm := 0xFFFF, wm := 0xFF } } ∧
    (running 0x60FFC3FC0000).ready 5 { v := { op := .mpyq, d := 3, a := 15, b := 15, wm := 0xFF } } ∧
    (running 0x70CC03FC0000).ready 5 { v := { op := .aadd, d := 3, a := 3, wm := 0xFF } } ∧
    (running 0xA7FC02000000).ready 5 { v := { op := .vredf, d := 15, a := 15, wm := 0x80 } } := by
  unfold State.ready State.quiet; and_intros <;> decide +kernel

theorem wit_SearchSlots :
    (running 0xC38003FC0003).ready 5 { v := { op := .srinit, d := 14, imm := 3, wm := 0xFF } } ∧
    (running 0xC7BFC3FC0003).ready 5 { v := { op := .vsrch, d := 14, a := 15, b := 15, imm := 3, wm := 0xFF } } ∧
    (running 0xCB8003FC0003).ready 5 { v := { op := .vsred, d := 14, imm := 3, wm := 0xFF } } ∧
    (∀ l : Fin 8, isNaN ((((running 0).eng 5).v[(14 : Fin 16)])[l]) = false) ∧ (0 : Nat) ≠ 65535 ∧
    (running 0xCB8003FC0001 { v := Vector.replicate 16 (Vector.replicate 8 0x7FC00000) }).ready 5
      { v := { op := .vsred, d := 14, imm := 1, wm := 0xFF } } ∧ isNaN 0x7FC00000 = true := by
  unfold State.ready State.quiet; and_intros <;> decide +kernel

theorem wit_Binary32Nearest : fExp 0x3F800000 ≠ 255 ∧ fExp 1 ≠ 255 ∧ fExp (fAdd 0x3F800000 1).1 ≠ 255 ∧
    fExp (fMul 0x3F800000 1).1 ≠ 255 ∧ fExp (fFma 0x3F800000 1 0xBF800000).1 ≠ 255 ∧
    isNaN (fAdd 0x7F800000 0xFF800000).1 = true ∧ isSNaN 0x7F800001 = true := by decide +kernel

/-- Sums of R160: one and a half ulp of one rounds to even, the largest number doubled overflows. -/
theorem test_binary32_sums : (fAdd 0x3F800001 0x33800000).1 = 0x3F800002 ∧ (fAdd 0x3F800000 0x33800000).1 = 0x3F800000 ∧
    (fAdd 0x7F7FFFFF 0x7F7FFFFF).1 = 0x7F800000 := by decide +kernel

theorem wit_EngineControl :
    let s := running 0
    let stopped := s.modEng 5 (fun e => { e with state := 1 })
    let dog := running 0 { wdogEn := true, trapEn := true }
    s.winReaches 5 = true ∧ (s.eng 5).state = 2 ∧ ((stopped.eng 5).state = 1 ∧ (stopped.eng 5).fault = false ∧ stopped.busFast 5 = false) ∧
    (stopped.modEng 5 (fun e => { e with fault := true })).winReaches 5 = true ∧
    (0x400 + 4 * (15 : Fin 16).val < 0x4C0) ∧
    (let slow := s.modIsland 5 (fun x => { x with ratio := x.ratio.set 4 64 })
     slow.islActive 5 = true ∧ slow.engOut 5 = false ∧ slow.busSlow 5 = true) ∧
    s.keRuns 5 = true ∧
    ((dog.eng 5).wdogEn = true ∧ dog.issues 5 = true ∧ (dog.eng 5).locked = false ∧ (dog.eng 5).haltPend = 0 ∧
      (dog.eng 5).expired = false ∧ Table.wf (fun _ => ({} : Engine)) dog.engines = true) := by
  decide +kernel

/-! ### Trails and the package network -/

/-- A trail descriptor's first word, unreserved or reserved. -/
def trailW0 (id dst src : Nat) (reserved : Bool) : W64 :=
  BitVec.ofNat 64 (id * 2 ^ 52 + dst * 2 ^ 32 + src * 2 ^ 16 + bit reserved * 2 ^ 5)

/-- A machine with a running MGMT ring 1 whose only descriptor `d` waits. -/
def ringOf (d : Desc) (s : State := .reset) : State :=
  ((s.put (HIF_RING_CFG.TYPE 1) 2).put (HIF_RING_STAT.STATE 1) 1).setSlots 1 [{ desc := d }]

def openDesc : Desc := { ring := 1, index := 0, w0 := 0x20, w1 := 0, w2 := trailW0 0xFDF 0x0400 0x0100 true, w3 := 0x040C514000000000 }

theorem wit_AdmissionKeepsCaps :
    State.reset.regsWf ∧ Table.wf (fun _ => ({} : Trail)) State.reset.net.trails = true ∧
    ((∀ l, State.reset.linkUnits l ≤ State.reset.cap l) ∧ (∀ l, State.reset.linkBurst l ≤ State.reset.bcap l)) ∧
    (∀ v, State.reset.credUsed v ≤ buffersOf v) ∧
    (State.reset.openTrail openDesc.w2 0x040C514000000000 0 0).1 = 0 ∧
    (State.reset.openTrail (trailW0 0xFE0 0x0400 0x0100 true) 0x040C514000000000 0 0).1 = 1 := by
  have south (d : Nat) : State.reset.sysSouth d = false := rfl
  have none (l : Nat) : State.reset.linkUnits l = 0 := by
    show State.reset.sysUnits l = 0
    simp [State.sysUnits, south]
  refine ⟨by unfold State.regsWf; decide, by decide, ⟨fun l => by rw [none]; exact Nat.zero_le _, fun l => Nat.zero_le _⟩, fun v => Nat.zero_le _, ?_, ?_⟩ <;>
    decide +kernel

theorem wit_TrailDescriptors :
    let s := ringOf openDesc
    let opened (st : Nat) := State.reset.setTrail 0xFDF { state := st, src := 0x0100, dst := 0x0D00 }
    let shut : Desc := { ring := 1, index := 0, w0 := 0x21, w1 := 0, w2 := 0xFDF }
    let waits := (opened 1).setTxn 7 (some { trail := 0xFDF, who := .port 5 1, op := 1, addr := 0, len := 8 })
    (s.mayStart openDesc = true ∧ openDesc.opcode = 0x20 ∧ openDesc.zeroFrom 6 = true ∧ (s.started openDesc).namesMoving openDesc.w2 = false) ∧
    (let m := ringOf { openDesc with w2 := trailW0 0xFDF 0x0400 0x8020 false } (State.reset.setCtx 1 { pmap := 1 })
     m.namesMoving (trailW0 0xFDF 0x0400 0x8020 false) = true) ∧
    (let m := (s.onNet (fun n => { n with aside := [openDesc] }))
     m.net.aside = [openDesc] ∧ m.namesMoving openDesc.w2 = false) ∧
    (let t := ringOf shut (opened 1)
     t.mayStart shut = true ∧ shut.opcode = 0x21 ∧ shut.only 2 0xFFF = true ∧ shut.zeroFrom 3 = true ∧
      ((t.started shut).trail 0xFDF).state = 1) ∧
    (((opened 5).trail (0xFDF : BitVec 12).toNat).state = 5 ∧ ((opened 5).trail 0xFDF).closers = [] ∧ (opened 5).net.held = [] ∧
      (opened 5).trailBusy 0xFDF = false) ∧
    (waits.txn (7 : BitVec 16).toNat = some { trail := 0xFDF, who := .port 5 1, op := 1, addr := 0, len := 8 } ∧
      (waits.trail 0xFDF).state = 1 ∧ vpCtx 0x0D00 = false ∧ vpClass 0x0D00 = 0x0D) ∧
    (waits.onNet (fun n => { n with quarantine := [7] })).net.quarantine = [(7 : BitVec 16).toNat] := by decide +kernel

/-- A machine whose island 5 runs context 3, with the open trail 9 from its port 1 to deep memory bank 0 of die 0. -/
def talking : State :=
  (((State.reset.put (SWB_ISL_STAT.STATE 5) 3).put (SWB_ISL_STAT.CTX 5) 3).setCtx 3 { pmap := 0, placed := true, shape := 0, die := 0, ax := 5, ay := 0 }).setTrail 9
    { state := 1, src := 0x8061, dst := 0x0400, cred := 8, owner := 3 }

def readWord : Msg := { op := 0x01, trail := 9, tag := 64 * 11, addr := 0x100000000008, len1 := 7 }

theorem wit_MessageFlow :
    (Table.wf (fun _ => ({} : Trail)) talking.net.trails = true ∧ Table.wf (fun _ => (none : Option Txn)) talking.net.txns = true ∧
      Table.wf (fun _ => ([] : List Msg)) talking.net.rx = true) ∧
    (talking.islActive 5 = true ∧ talking.txn (64 * 11) = none ∧ talking.ingressCode (.port 5 1) readWord = 0 ∧
      talking.ingressCode (.port 5 0) readWord = 9 ∧ (talking.trail 9).crcEn = false) ∧
    talking.mayRelease (talking.trail 9) readWord = true ∧
    (talking.setTrail 9 { talking.trail 9 with used := 1 }).unconsumed 9 < 1 ∧
    (let back := talking.setTrail 9 { state := 1, dst := 0x8061, src := 0x0400 }
     vpCtx (back.trail 9).dst = true ∧ back.ctxPort 0x8061 = some (5, 1) ∧ back.get PWR_DIE_RUNG.CUR = 0) ∧
    (let own := talking.onSwb (fun w => { w with owners := w.owners.poke (fun _ => 0) 0 4 })
     (own.trail 9).dst = 0x0400 + 0x100 * 0 + 0 ∧ readWord.addr.toNat % 8 = 0 ∧ own.mem.rebuilding = [] ∧ own.host.pending = [] ∧
      own.deepCode (own.callerOf { readWord with ctx := 3 }) 0 0 readWord.addr.toNat 8 = 0 ∧
      own.loadWord (readWord.addr.toNat / 8) = (own.rawWord (readWord.addr.toNat / 8), false, own)) ∧
    (flitCheck 0 0 ≠ (1 : BitVec 16).toNat ∧ (0 : Fin 9).val < readWord.flits ∧ talking.cairn.checks = []) := by decide +kernel

theorem wit_TrailQueries :
    let s := State.reset.setTrail 9 { state := 1, src := 0x8061, dst := 0x0400, cred := 8, owner := 3 }
    State.reset.regsWf ∧ ((s.trail 9).state < 8 ∧ (s.trail 9).dst < 65536 ∧ (s.trail 9).winBase < 2 ^ 36 ∧ (s.trail 8).state = 0) ∧
    s.cap 0 < 2048 ∧ s.linkUnits 0 < 2048 ∧ s.linkBurst 0 < 128 ∧ (lqLink 0 0 4 0).isSome = true ∧ lqLink 7 0 15 0 = none ∧ ({ s with cfg := { s.cfg with phase := 5 } } : State).sysState 0 = 1 ∧
    vpFixedOk 0x0400 = true ∧ s.pmapState 0x0400 = 0 ∧ s.physPort 0x0400 < 65536 ∧ nbit (1 : W32).toNat 0 = true := by
  unfold State.regsWf; decide +kernel

/-! ### Contexts and deep memory -/

/-- A stateful image of one island anywhere but in the outer rows of die 0. -/
def ctxImage : Image :=
  { dieMask := 1, xMask := 0xFF, yMask := 0xFF, prio := 3, restore := 1, flags := 1, stateBits := 110592, clocks := [0x200200200200200], deepQuota := 8 }

/-- The bytes of that image's header, which is all of it. -/
def ctxBytes : List Byte :=
  let put (off n v : Nat) (l : List Byte) : List Byte := overlay l off (toBytes n v)
  put 0 4 0x5846434D (put 4 2 1 (put 6 2 512 (put 8 4 (State.reset.get CFG_IMG_ID.DEVICE_ID) (put 0xE 3 0xFFFF01 (put 0x11 3 0x010103
    (put 0x20 4 8 (put 0x24 4 512 (put 0x48 4 110592 (put 0x90 8 0x200200200200200 (List.replicate 512 0))))))))))

/-- A machine with an image store and context 3 registered and IDLE. -/
def withCtx : State :=
  (((((State.reset.put SWB_IMG_SIZE.SIZE 4).put SWB_PT_SIZE.SIZE 1).put (SWB_ISL_STAT.PLACEABLE 13) 1).put (CLK_BASE.LOCKED 0) 1).onSwb (fun w => { w with
    images := [{ ctx := 3, variant := 0, img := ctxImage }] })).setCtx 3 { state := 0, prio := 3, quota := 8, quiesceUs := 5, restore := 1 }

/-- Context 3 in a state of R238 on island 13 of die 0. -/
def ctxOn (st pm : Nat) (f : Context → Context := id) : State :=
  (withCtx.setCtx 3 (f { withCtx.ctx 3 with state := st, pmap := pm, placed := true, ax := 5, ay := 1 })).showIsland 13 st 3 0

def register3 : Desc := { ring := 1, index := 0, w0 := 0x28, w1 := 0, w2 := 0x800000000000, w3 := 0x300000200 }
def request3 (op : Nat) (more : W64 := 0) : Desc := { ring := 1, index := 0, w0 := 0x2A, w1 := 0, w2 := more ||| BitVec.ofNat 64 (0xFFC000030000 + op) }

theorem wit_ContextDescriptors :
    let s := (ringOf register3 (State.reset.put SWB_IMG_SIZE.SIZE 4)).onHost (fun h => { h with linkUp := true })
    let u := s.started register3
    (s.mayStart register3 = true ∧ register3.opcode = 0x28 ∧ register3.only 2 (bitsHL 47 0) = true ∧ register3.f 2 47 47 = 1 ∧
      register3.only 3 (bitsHL 44 0 + bitsHL 55 48) = true ∧ register3.zeroFrom 4 = true ∧ register3.f 3 41 32 = 3 ∧
      u.registered 3 = false ∧ (u.makeRoom ctxImage.bytes 4097).isSome = true ∧ (State.reset.makeRoom ctxImage.bytes 4097).isNone = true ∧
      u.hostCode (register3.f 2 47 0) 512 = 0 ∧ ([] : List IslandCfg).all IslandCfg.legal = true) ∧
    (u.badImage (imageOf ctxBytes [] true true) 512 = false ∧ u.badImage (imageOf ctxBytes [] true true) 513 = true ∧
      (imageOf ctxBytes [] true true).trails = []) ∧
    (let w := withCtx
     w.image 3 1 = none ∧ w.swb.images.any (fun r => r.ctx == 3) = true ∧ (w.ctx 3).boot = false ∧ (w.ctx 3).group = 0) ∧
    (let d : Desc := { ring := 1, index := 0, w0 := 0x2B, w1 := 0, w2 := 0x1F0003, w3 := 7 }
     (ringOf d withCtx).mayStart d = true ∧ d.opcode = 0x2B ∧ d.only 4 (bitsHL 31 0) = true ∧ d.zeroFrom 5 = true ∧ d.f 2 9 0 = 3 ∧
       ((ringOf d withCtx).started d).registered 3 = true ∧ (withCtx.ctx 3).busy = false ∧ ((ctxOn 5 0).ctx 3).busy = true) ∧
    (let d : Desc := { ring := 1, index := 0, w0 := 0x2C, w1 := 0, w2 := 3, w3 := 0x800000000000 }
     (ringOf d (ctxOn 4 0)).mayStart d = true ∧ d.opcode = 0x2C ∧ d.f 3 47 47 = 1 ∧
       (∀ p ∈ numbered ((ctxOn 4 0).islandsOf 3), (ctxOn 4 0).clockRange ((([0x200200200200200] : List W64)[p.1]?).getD 0).toNat = false) ∧
       (ctxOn 4 0).joinClash ((ctxOn 4 0).islandsOf 3) [0x200200200200200] = false) ∧
    (let d : Desc := { ring := 1, index := 0, w0 := 0x29, w1 := 0, w2 := 3 }
     (ringOf d withCtx).mayStart d = true ∧ d.opcode = 0x29 ∧ d.only 2 (bitsHL 9 0) = true ∧ (withCtx.ctx 3).state = 0 ∧
       Table.wf (fun _ => ({} : Context)) withCtx.swb.ctxs = true) := by decide +kernel

theorem wit_ContextRequests :
    let s := ringOf (request3 1) withCtx
    let q := (s.started (request3 1)).onSwb (fun w => { w with seq := w.seq + 1 })
    let r : LoadReq := { requestOf (request3 1).w2 false (some (request3 1)) none with seq := s.swb.seq }
    (s.mayStart (request3 1) = true ∧ (request3 1).opcode = 0x2A ∧ (request3 1).only 2 requestMask = true ∧ (request3 1).zeroFrom 4 = true ∧
      (request3 1).f 2 25 16 = 3 ∧ q.registered 3 = true ∧ s.regsWf ∧ Table.wf (fun _ => ({} : Context)) s.swb.ctxs = true ∧
      Table.wf (fun _ => ({} : Island)) s.isl = true ∧ (s.ctx 3).state < 2 ∧ r.anyVar = false ∧ (s.image 3 r.variant).isSome = true ∧
      q.heldBack 3 = false ∧ r.victim = 0x3FF ∧ q.choose r = .now { variant := 0, die := 0, ax := 5, ay := 1 }) ∧
    (let full := withCtx.put (SWB_ISL_STAT.STATE 13) 3
     full.choose r = .wait ∧ s.swb.queue.length < 256) ∧
    ((ctxOn 4 0).islandsOf 3 = [13] ∧ ((ctxOn 4 0).ctx 3).pinned = false ∧ ((ctxOn 4 0 (fun x => { x with pinned := true })).ctx 3).pinned = true) ∧
    (let w := (withCtx.setCtx 3 { withCtx.ctx 3 with state := 2 }).onSwb (fun w => { w with queue := [r] })
     w.swb.queue = [r] ∧ (w.ctx r.ctx).state = 2 ∧ r.victims = [] ∧ w.choose r = .now { variant := 0, die := 0, ax := 5, ay := 1 }) := by
  unfold State.regsWf; decide +kernel

theorem wit_ContextMoves :
    let evicts (x : Context) : Context := { x with evict := some { ctx := 3, kind := 1, noSave := true } }
    let q := ctxOn 5 0 evicts
    let m := ctxOn 5 1 evicts
    let k := ctxOn 5 1
    let save := (ctxOn 6 1).onSwb (fun w => { w with portRun := [{ die := 0, rank := 2, ctx := 3 }] })
    let load := (ctxOn 3 1).onSwb (fun w => { w with portRun := [{ die := 0, rank := 2, ctx := 3 }] })
    (q.regsWf ∧ Table.wf (fun _ => ({} : Context)) q.swb.ctxs = true ∧ q.islandsOf (3 : BitVec 10).toNat = [13] ∧ (q.ctx 3).state = 5 ∧
      (q.ctx 3).acked = false ∧ (q.ctx 3).victimOf = none ∧ (q.ctx 3).quiesceUs ≠ 0 ∧ q.get SWB_QTMO.COUNT < 2 ^ 32 - 1) ∧
    ((m.ctx 3).pmap = 1 ∧ m.undrained 3 = false ∧ (m.ctx 3).saves = false) ∧
    ((k.ctx 3).saves = true ∧ (k.image 3 (k.ctx 3).variant).isSome = true ∧ nbit ctxImage.flags.toNat 0 = true) ∧
    ((save.ctx 3).state = 6 ∧ save.jobRuns (save.swapJob 3) = true ∧ (save.saveAll ctxImage (numbered (save.islandsOf 3))).2.1 = false) ∧
    (load.jobRuns (load.swapJob 3) = true ∧ (load.islandsOf 3)[(0 : Fin 16).val]? = some 13 ∧ (load.ctx 3).written = [] ∧
      (load.ctx 3).restoring = false ∧ load.imageBad 3 [] = (false, load) ∧ ((load.modImage 3 0 (fun q => { q with damaged := true })).imageBad 3 []).1 = true) ∧
    (let h := ctxOn 3 1 (fun x => { x with written := [0] })
     (h.ctx 3).written.length = (h.islandsOf 3).length ∧ 
       (∀ p ∈ numbered (h.islandsOf 3), h.clockRange (((h.ctxClocks 3)[p.1]?).getD 0).toNat = false)) ∧
    (let j := withCtx.onSwb (fun w => { w with portJobs := [{ die := 3, rank := 2, ctx := 3 }] })
     j.swb.portJobs = [{ die := 3, rank := 2, ctx := 3 }] ∧ j.dieAsleep (3 : Fin 4).val = false ∧ j.dieGone 3 = false) ∧
    (let l := withCtx.setCtx 3 { withCtx.ctx 3 with state := 7, waiting := true }
     (l.ctx 3).state = 7 ∧ (l.ctx 3).waiting = true ∧ (l.ctx 3).restore = 1) ∧
    ((3 : W32).toNat % 1024 = 3 ∧ (q.ctx 3).prio < 8 ∧ nbit (1 : W32).toNat 0 = true) := by
  unfold State.regsWf; decide +kernel

theorem wit_DeepMemoryAndPages :
    ((withCtx.allocate 3 8 2 1 none).1 = 0 ∧ (withCtx.allocate 3 9 2 1 none).1 = 1 ∧ (withCtx.allocate 4 1 2 1 none).1 = 4 ∧
      Table.wf (fun _ => 0) withCtx.swb.owners = true) ∧
    (let d : Desc := { ring := 1, index := 0, w0 := 0x2D, w1 := 0, w2 := 0x18070003 }
     (ringOf d withCtx).mayStart d = true ∧ d.opcode = 0x2D ∧ d.only 2 (bitsHL 9 0 + bitsHL 29 16) = true ∧ d.zeroFrom 3 = true) ∧
    (let d : Desc := { ring := 1, index := 0, w0 := 0x2E, w1 := 0, w2 := 0x10003, w3 := 0x100000001000 }
     (ringOf d withCtx).mayStart d = true ∧ d.opcode = 0x2E ∧ d.only 3 (bitsHL 47 0) = true ∧ d.zeroFrom 4 = true ∧
       d.f 3 47 0 % 4096 = 0 ∧ inDeep (d.f 3 47 0) = true) ∧
    (let d : Desc := { ring := 1, index := 0, w0 := 0x30, w1 := 0, w2 := 0x200002003, w3 := 0x20000, w4 := 0x800000000000 }
     (ringOf d withCtx).mayStart d = true ∧ d.only 2 (bitsHL 13 0 + bitsHL 63 32) = true ∧ d.pageRange = true ∧ d.only 4 (bitsHL 47 0) = true ∧
       hostBase ≤ d.f 4 47 0 ∧ d.f 4 47 0 + d.f 2 63 32 * pageSize false ≤ 2 ^ 48 ∧ withCtx.spaceOk 3 = true ∧
       (withCtx.onSwb (fun w => { w with pages := [{ space := 3, dva := 0x20000, big := false }] })).syncTables.isSome = true ∧
       (State.reset.onSwb (fun w => { w with pages := [{ space := 3, dva := 0x20000, big := false }] })).syncTables.isNone = true) ∧
    (let d : Desc := { ring := 1, index := 0, w0 := 0x31, w1 := 0, w2 := 0x200000003, w3 := 0x20000 }
     let p : Page := { space := 3, dva := 0x20000, big := false, loc := 2 }
     d.pageRange = true ∧ d.only 2 (bitsHL 10 0 + bitsHL 15 15 + bitsHL 63 32) = true ∧ d.covers p = true ∧ p.d = false ∧ p.loc = 2) ∧
    (let g : Migration := { space := 3, dva := 0x20000, srcLoc := 1, srcAddr := 0x100000000000, dstLoc := 1, dstAddr := 0x100000010000 }
     g.space < 1024 ∧ g.dva < 2 ^ 48 ∧ (State.reset.load g.srcAddr 64).2.1 = false) := by decide +kernel

/-! ### HBM and inline encryption -/

/-- Both stacks READY, one read and one write of a word of stack 0, pseudo-channel 0. -/
def hbmReady : State := (State.reset.put (HBM_STAT.STATE 0) 2).put (HBM_STAT.STATE 1) 2
def hbmRead : HbmReq := { msg := { op := 0x01, trail := 9, tag := 704, addr := 0x40, len1 := 7 }, pc := 0, since := 0 }
def hbmWrite : HbmReq := { msg := { op := 0x02, trail := 9, tag := 705, addr := 0x40, len1 := 7, data := List.replicate 8 5 }, pc := 0, since := 0 }
def queued (r : HbmReq) : State := hbmReady.onHbm (fun h => { h with queue := [r] })

theorem wit_EncryptedLineRoundTrip :
    let s := State.reset.onCry (fun c => { c with slots := [(5, List.replicate 96 7)] })
    (s.slotKey 5).length = 96 ∧ (List.replicate 64 (0 : Byte)).length = 64 ∧
    s.openLine 3 5 1 (s.sealLine 3 5 1 (List.replicate 64 0)).1 (s.sealLine 3 5 1 (List.replicate 64 0)).2 = (List.replicate 64 0, true) := by
  decide +kernel

theorem wit_HbmControllers :
    let r := queued hbmRead
    let w := queued hbmWrite
    (r.regsWf ∧ r.cairn.checks = [] ∧ r.hbm.queue = [hbmRead] ∧ hbmRead.pc = pcNo 0 0 ∧ r.hbmUp 0 = true ∧ r.mayIssue hbmRead = true ∧
      hbmRead.msg.len1 = 7 ∧ hbmRead.msg.addr.toNat % 8 = 0 ∧ r.hbmCheck hbmRead.msg.addr.toNat 8 = 0 ∧
      r.lineForm (hbmRead.msg.addr.toNat / 64) = .plain ∧ r.wordState (hbmRead.msg.addr.toNat / 8) = .clean ∧ r.mem.merge = []) ∧
    (w.hbm.queue = [hbmWrite] ∧ w.mayIssue hbmWrite = true ∧ hbmWrite.msg.op = 0x02 ∧ w.hbm.batch = [] ∧ hbmWrite.promoted = false) ∧
    (hbmReady.get (HBM_STAT.STATE 1) ≠ 0 ∧ hbmReady.get HBM_POL.TRAIN_MS ≠ 0 ∧ hbmReady.hbm.rotNext.peek (fun _ => 0) 1 = (0 : Fin 32).val ∧
      Table.wf (fun _ => 0) hbmReady.hbm.rotNext = true ∧ hbmReady.pcRetired 32 = false ∧ hbmReady.hbm.retiring = []) ∧
    ((State.reset.put (HBM_STAT.STATE 1) 1).get (HBM_STAT.STATE 1) = 1 ∧ State.reset.hbm.record = []) ∧
    (let q := hbmReady.retirePc 63
     q.hbm.retiring = [pcNo 1 31] ∧ q.swb.pages = [] ∧ q.swb.images = [] ∧ q.swb.tables = [] ∧ q.swb.migrations = [] ∧ q.get (HBM_STAT.RETIRED 1) < 32) := by
  unfold State.regsWf; decide +kernel

/-- A word with a loaded slot 7 and a range descriptor for it. -/
def enable0 : Desc := { ring := 1, index := 0, w0 := 0x3A, w1 := 0, w2 := 0x10740, w3 := 0x200000, w4 := 0x40000 }
def keyed : State := hbmReady.setSlot 7 (List.replicate 96 1)
def ranged (st : Nat) : State :=
  (((keyed.put (CRY_RNG_BASE.SIZE 0) 1).put (CRY_RNG_BASE.BASE 0) 1).put (CRY_RNG_CTL.STATE 0) st).put (CRY_RNG_CTL.SLOT 0) 3

theorem wit_KeysAndRanges :
    (let d : Desc := { ring := 1, index := 0, w0 := 0x38, w1 := 0, w2 := 7, w3 := 0x800000000000 }
     let k := State.reset.onCry (fun c => { c with kwk := List.replicate 32 0 })
     (ringOf d k).mayStart d = true ∧ (ringOf d k).regsWf ∧ d.only 3 (bitsHL 47 0) = true ∧ d.f 3 47 47 = 1 ∧ d.zeroFrom 4 = true ∧
       ((ringOf d k).onHost (fun h => { h with linkUp := true })).hostCode (d.f 3 47 0) 104 = 0 ∧ (ringOf d State.reset).cry.kwk = [] ∧ k.cry.kwk ≠ [] ∧ k.slotInUse 7 = false ∧ (k.put CRY_SLOT_USE.IN_USE 128).slotInUse 7 = true) ∧
    (let d : Desc := { ring := 1, index := 0, w0 := 0x39, w1 := 0, w2 := 7 }
     (ringOf d keyed).mayStart d = true ∧ d.only 2 (bitsHL 4 0) = true ∧ d.zeroFrom 3 = true) ∧
    ((ringOf enable0 keyed).mayStart enable0 = true ∧ enable0.only 2 (bitsHL 12 0 + bitsHL 30 16) = true ∧ enable0.f 2 7 6 = 1 ∧
      enable0.only 3 (bitsHL 47 21) = true ∧ enable0.only 4 (bitsHL 47 18) = true ∧ enable0.zeroFrom 5 = true ∧ keyed.rngState 0 = 0 ∧
      keyed.badRange 0 false 0x200000 0x200000 0x40000 = false ∧ keyed.badRange 0 false 0x200000 0x200000 0x200000 = true ∧
      keyed.slotLoaded 7 = true ∧ (ranged 2).rngState 0 = 2) ∧
    (let d : Desc := { ring := 1, index := 0, w0 := 0x3B, w1 := 0, w2 := 0x700 }
     (ringOf d (ranged 2)).mayStart d = true ∧ d.only 2 (bitsHL 3 0 + bitsHL 12 8) = true ∧ d.f 2 12 8 ≠ (ranged 2).get (CRY_RNG_CTL.SLOT 0) ∧
      (ranged 2).get (CRY_RNG_CTL.EPOCH 0) < 0xFFFFFFFF) ∧
    (let d : Desc := { ring := 1, index := 0, w0 := 0x3C, w1 := 0, w2 := 0x80 }
     (ringOf d (ranged 2)).mayStart d = true ∧ d.only 2 (bitsHL 3 0 + bitsHL 7 6) = true ∧ d.f 2 7 6 = 2) ∧
    (let d : Desc := { ring := 1, index := 0, w0 := 0x3D, w1 := 0, w2 := 0x20 }
     (ringOf d (ranged 2)).mayStart d = true ∧ d.only 2 (bitsHL 3 0 + bitsHL 5 5) = true ∧ d.zeroFrom 3 = true) ∧
    (let q := (ranged 1).onCry (fun c => { c with queue := [{ range := 0 }] })
     let b := ((ranged 1).putB CRY_CTL.RKY_BUSY true).put (CRY_RNG_CTL.CONV 0) 1
     (q.cry.queue = [{ range := 0 }] ∧ q.flag CRY_CTL.RKY_BUSY = false ∧ q.rngState 0 ≠ 0) ∧
     (b.treeline 0 < b.rngEnd 0 ∧ b.rangeReady 0 = true ∧ b.flag (CRY_RNG_BASE.HOST 0) = false ∧ b.pcRetired (pcOf (b.treeline 0)) = false) ∧
     (b.setTree 0 0x400000).rngEnd 0 ≤ (b.setTree 0 0x400000).treeline 0) ∧
    (let v : Verdict := { msg := hbmRead.msg, ok := false, dpa := 64, range := 0 }
     (State.reset.onCry (fun c => { c with verdicts := [v] })).cry.verdicts = [v] ∧ v.ok = false) ∧
    ((State.reset.put CRY_ARL_STAT.KEYED 1).flag CRY_ARL_STAT.KEYED = true ∧ State.reset.arlUsed < 2 ^ 40 ∧ State.reset.flag CRY_ARL_STAT.KEYED = false ∧
      (State.reset.onCry (fun c => { c with arlSent := 2 ^ 40 })).arlUsed = 2 ^ 40 ∧
      Table.wf (fun _ => ({} : IdeAssoc)) State.reset.host.ide = true ∧ Table.wf (fun _ => false) State.reset.host.ideSets = true ∧
      (State.reset.put (CRY_IDE_STAT.SECURE 1) 1).flag (CRY_IDE_STAT.SECURE (1 : Fin 2).val) = true) := by
  unfold State.regsWf; decide +kernel

/-! ### The host interface -/

/-- A READY device whose link is up, with event queue 2 enabled. -/
def hostOn : State :=
  (((State.reset.put HIF_STAT.READY 1).put (HIF_EQ_CFG.ENABLE 2) 1).put (HIF_EQ_STAT.ARMED 2) 1).onHost (fun h => { h with linkUp := true })

/-- Ring 3, of 16 DATA descriptors, in a state with a HEAD and a TAIL. -/
def ring3 (st head tail : Nat) : State :=
  (((hostOn.put (HIF_RING_CFG.EQ 3) 2).put (HIF_RING_STAT.STATE 3) st).put (HIF_RING_HEAD.INDEX 3) head).put (HIF_RING_TAIL.INDEX 3) tail

/-- A COPY of 16 bytes on trail 9, and its machine. -/
def copy16 : Desc := { ring := 3, index := 7, w0 := 1, w1 := 0, w2 := 0x1000090009, w3 := 0x80, w4 := 0x100 }
def copying (d : Desc) : State :=
  ((ring3 1 8 8).setTrail 9 { state := 1, src := 0x0100, dst := 0x0400, owner := 0x3FF, cred := 8 }).setSlots 3 [{ desc := d }]

/-- A read at the host window under tag 5 that waits for the host. -/
def hostRead5 : State :=
  let m : Msg := { op := 0x01, trail := 9, tag := 5, len1 := 3, addr := 0x800000001000 }
  ((hostOn.setTrail 9 { state := 1, src := 0x0100, dst := 0, owner := 0x3FF, cred := 8 }).onNet (fun n => { n with flight := [{ msg := m }] })).onHost
    (fun h => { h with pending := [{ tag := 5, left := [4] }] })

theorem wit_RingsAndDoorbells :
    (∀ st ∈ [0, 1, 2, 3, 4], (ring3 st 7 20).regsWf ∧ Table.wf (fun _ => ([] : List Slot)) (ring3 st 7 20).host.slots = true ∧
      Table.wf (fun _ => 0) (ring3 st 7 20).host.fetching = true ∧ (ring3 st 7 20).ringState 3 = st) ∧
    (ring3 0 0 0).flag HIF_STAT.READY = true ∧ (ring3 0 0 0).get (HIF_RING_BASE.BASE 3) * 64 % 1024 = 0 ∧
    ((ring3 0 0 0).put (HIF_RING_BASE.BASE 3) 1).get (HIF_RING_BASE.BASE 3) * 64 % min (64 * 16) 4096 ≠ 0 ∧
    (ring3 1 7 20).barUp = true ∧ (ring3 1 7 20).asleep = false ∧ (ring3 1 7 20).ringPending 3 = 13 ∧
    (ring3 1 7 20).ringCount 3 23 = 16 ∧ (ring3 1 7 20).ringCount 3 24 = 17 ∧ (ring3 1 7 20).ringCount 3 19 = 12 ∧
    (ring3 1 7 20).ringsAdmit = true ∧ (ring3 1 7 20).badCommon { ring := 3, index := 7, w0 := 1, w1 := 0 } = false ∧
    ((ring3 1 7 20).onHost (fun h => { h with fetching := [(3, 1)] })).host.fetching.peek (fun _ => 0) 3 = 1 ∧
    (ring3 2 31 32).slots 3 = [] ∧ (ring3 2 31 32).ringPending 3 = 1 ∧ (ring3 2 31 32).eqOn 2 = true ∧
    (let d : Desc := { ring := 3, index := 7, w0 := 0x100, w1 := 5 }
     ((ring3 1 7 20).setSlots 3 [{ desc := d }]).mayStart d = true ∧ d.opcode = 0) := by unfold State.regsWf; decide +kernel

theorem wit_DataDescriptors :
    (let d := copy16
     let s := copying d
     s.mayStart d = true ∧ s.jobTag d = some 0x80F8 ∧ d.only 4 (bitsHL 47 0) = true ∧ d.opcode = 1 ∧ d.zeroFrom 5 = true ∧ d.len = 16 ∧
       (s.started d).badTrail 9 roleMemory = false ∧ ((s.started d).trail 9).admits 0x80 16 = true ∧ (s.started d).rangePages 9 0x100 16 true = 0 ∧
       (s.started d).badTrail 8 roleMemory = true ∧ (s.trail 9).admits (2 ^ 48 - 15) 16 = false ∧
       (s.started d).badTrail 9 vpCtx = true) ∧
    (let d : Desc := { ring := 3, index := 7, w0 := 2, w1 := 0, w2 := 0x1000090000, w4 := 0x100, w5 := 3 }
     (copying d).mayStart d = true ∧ d.only 2 (bitsHL 63 32 + bitsHL 27 16) = true ∧ d.opcode = 2) ∧
    (let d : Desc := { ring := 3, index := 7, w0 := 3, w1 := 0, w2 := 0x1000090009, w3 := 0x80, w4 := 0x100, w5 := 2 }
     (copying d).mayStart d = true ∧ d.f 5 12 0 = 2 ∧ d.opcode = 3 ∧ d.zeroFrom 6 = true) ∧
    (let d : Desc := { ring := 3, index := 7, w0 := 4, w1 := 0, w2 := 0x1000090009, w3 := 0x80, w4 := 0x100, w5 := 8 }
     d.segOk = true ∧ d.opcode = 4 ∧ roleReceiver 0x8061 = true ∧ roleReceiver 0x0900 = true) ∧
    ((copying copy16).setSlots 3 [{ desc := copy16, started := true, job := some { tag := 0x80F8, pos := 16 } }]).jobEnded copy16 =
      some { tag := 0x80F8, pos := 16 } ∧
    (hostRead5.hostPending (5 : BitVec 16).toNat).map (fun p => (p.2.left, p.1.msg.len)) = some ([4], 4) ∧
    hostRead5.atGateway { op := 0x01, trail := 9, tag := 5, len1 := 3, addr := 0x800000001000 } = false ∧
    (∀ p ∈ spansOf 0x800000001000 4, hostRead5.lineForm p.1 = .plain) ∧
    ({ tag := 5, left := [128, 64] } : HostRead).left.length > 1 := by decide +kernel

/-- No line of a machine after reset is converted or encrypted. -/
theorem wit_plain_lines : ∀ line, State.reset.lineForm line = .plain := by
  intro line
  have none' : State.reset.rangeAt (64 * line) = none := List.find?_eq_none.mpr (fun n hn => by
    have : ∀ n ∈ List.range 16, State.reset.rngState n = 0 := by decide +kernel
    simp [this n hn])
  simp [State.lineForm, none']

theorem wit_EventQueuesAndTimebase :
    let s := ((hostOn.put (HIF_EQ_MOD.TIME_US 2) 5).put (HIF_MSIX_DATA.MASK 0) 0).put HIF_TB_CTL.SRC 1
    let r : Rec := { queue := 2, compl := false, w1 := 1, w2 := 2, code := 0x0104 }
    let w := s.onHost (fun h => { h with recs := [r], since := [(2, 2)], ptmOut := true, ptmMissed := 2 })
    (w.regsWf ∧ Table.wf (fun _ => 0) w.host.since = true ∧ Table.wf (fun _ => 0) w.host.firstAt = true ∧
      Table.wf (fun _ => 0) w.host.lostNow = true ∧ w.host.slots = []) ∧
    (w.eqOn 3 = false ∧ w.flag HIF_STAT.READY = true ∧ w.get (HIF_EQ_BASE.BASE 3) = 0 ∧
      (w.put (HIF_EQ_BASE.BASE 3) 1).get (HIF_EQ_BASE.BASE 3) * 32 % min (32 * 16) 4096 ≠ 0) ∧
    (w.eqOn 2 = true ∧ w.barUp = true ∧ w.recsHeld = false ∧ w.eqFill 2 < w.eqSize 2 ∧ w.get (HIF_EQ_TAIL.INDEX 2) < 2 * w.eqSize 2 ∧
      w.host.recs.find? (fun x => x.queue == 2) = some r ∧ Table.wf (fun _ => (0 : Byte)) w.host.mem = true) ∧
    (w.flag (HIF_EQ_STAT.ARMED 2) = true ∧ w.get (HIF_EQ_MOD.COUNT 2) ≤ (w.since 2).1 + 1 ∧ w.flag (HIF_MSIX_DATA.MASK 0) = false ∧
      (w.since 2).1 ≠ 0 ∧ w.get (HIF_EQ_MOD.TIME_US 2) ≠ 0 ∧ (s.since 2).1 = 0) ∧
    (w.get HIF_TB_CTL.SRC = 1 ∧ w.host.ptmOut = true ∧ w.host.ptmMissed ≥ 2 ∧ (0 : Int) ≤ (40 : W64).toInt) := by
  unfold State.regsWf; decide +kernel

theorem wit_LinkResetsAndWindows :
    let s := hostOn
    let down := s.onHost (fun h => { h with linkUp := false })
    let bank := (s.put HIF_CTL.BAR4_EN 1).put HIF_BAR4_BASE.BASE 0x100
    (s.regsWf ∧ s.host.linkUp = true ∧ s.host.pending = [] ∧ s.host.perst = false ∧ 16 ∉ down.clk.unlocked ∧ down.lko.owes = false ∧
      down.host.linkUp = false) ∧
    (((s.onCfg (fun c => { c with phase := 4 })).cfg.phase ≠ 0)) ∧
    (let p := (s.onHost (fun h => { h with perst := true })).onCfg (fun c => { c with phase := 6 })
     p.host.perst = true ∧ p.cfg.phase = 6 ∧ p.cfg.progLow = false) ∧
    (s.host.d3 = false ∧ s.pwr.failed = false ∧ s.rungWhy 2 = 0 ∧ (s.put PWR_CTL.D3_RUNG 0).get PWR_CTL.D3_RUNG = 0 ∧
      (s.onHost (fun h => { h with d3 := true })).host.d3 = true ∧ (s.put FLT_STAT.PARKED 1).flag FLT_STAT.PARKED = true ∧ s.rungWhy 0 = 0) ∧
    (s.clk.holdover = 0 ∧ (∀ k : Fin 3, 16 + k.val ∉ s.clk.unlocked) ∧ (s.onClk (fun c => { c with unlocked := [17] })).clk.unlocked = [17]) ∧
    (bank.barUp = true ∧ bank.bar4Ok (bank.bar4At 0x40) = true ∧ (endpointOf (bank.bar4At 0x40)).isSome = true ∧ s.bar4Ok (s.bar4At 0) = false) := by
  unfold State.regsWf; decide +kernel

/-! ### Configuration and start-up -/

/-- A machine whose configuration stands as `f` makes it. -/
def configuring (f : Cfg → Cfg) (s : State := .reset) : State := s.onCfg f

/-- A slot table with both slots of 4 KiB, and the header of a small image. -/
def slotTable : List Byte :=
  let b := toBytes 4 0x534C4F54 ++ toBytes 2 1 ++ [1, 0] ++ toBytes 4 5 ++ toBytes 4 0x20000 ++ toBytes 4 0x1000 ++ toBytes 4 0x40000 ++ toBytes 4 0x1000
    ++ List.replicate 32 0
  b ++ toBytes 4 (crc32c b)

def imageHeader (order : Nat := 0xE4) : List Byte :=
  let b := toBytes 4 0x5AA50F4D ++ toBytes 2 1 ++ toBytes 2 128 ++ toBytes 4 0x41264A60 ++ toBytes 4 0 ++ toBytes 8 0x400 ++ toBytes 8 0x100
    ++ toBytes 4 0 ++ toBytes 4 order ++ List.replicate 84 0
  b ++ toBytes 4 (crc32c b)

/-- A segment header. -/
def segHead (typ die isl len boot : Nat) : List Byte :=
  toBytes 1 typ ++ toBytes 1 die ++ toBytes 1 isl ++ [0] ++ toBytes 4 len ++ toBytes 4 len ++ toBytes 2 boot ++ List.replicate 18 0

/-- A phase 2 attempt whose next segment is `n`. -/
def loading (n pos : Nat) : State := configuring (fun c => { c with phase := 2, total := 0x400, pos := pos, next := n })

/-- Boot context 5 on island 13 of die 0 with an engine that starts by itself. -/
def booted (step : Nat) (f : Cfg → Cfg := id) : State :=
  let s := configuring (fun c => f { c with phase := 3, startup := 0xE4, step := step, boots := [(5, 0, 13, 0x200200200200200, {})] })
  ((s.placeBoot 5).setIsland 13 { gsr := true }).setEng 13 { state := 1, autoStart := true }

/-- Boot context 5 of a running device that waits for its contents. -/
def reloads (n : Nat) (run : List PortJob) : State :=
  ((booted 4 (fun c => { c with phase := 4 })).modCtx 5 (fun x => { x with reloading := n })).onSwb (fun w => { w with portRun := run })

theorem wit_ConfigurationAttempts :
    let at1 (mode : Nat) := configuring (fun c => { c with phase := 1, mode := mode })
    ((at1 0).regsWf ∧ State.reset.cfg.phase = 0 ∧ State.reset.cfg.progLow = false ∧ (at1 0).cfg.progLow = false ∧
      (configuring (fun c => { c with progLow := true })).cfg.progLow = true ∧ (configuring (fun c => { c with phase := 4 })).pwr.failed = false) ∧
    (fieldOf (0x0000A503 : W32) 15 8 = 0xA5 ∧ fieldOf (0x0000A503 : W32) 0 0 = 1) ∧
    (idFault ([0, 0, 0, 0, 0] : List W64)).isSome = true ∧
    (pickTable slotTable [] = some slotTable ∧ pickTable [] [] = none ∧ activeSlot slotTable 0 = 1 ∧
      (at1 0).headerCode imageHeader 0x41264A60 (some 0x1000) true = 0 ∧ (at1 0).headerCode (imageHeader 0x1B) 0x41264A60 (some 0x1000) true = 13 ∧
      (at1 0).headerCode [] 0x41264A60 none true = 5) ∧
    (segOk (segHead 1 7 0 0 0) [] false = true ∧ segNext 0 1 7 = some 1 ∧ segOk (segHead 2 0 0 264 0) (List.replicate 66 0) false = true ∧
      segOk (segHead 3 0 13 4 5) [0] false = true ∧ leAt (segHead 3 0 13 4 5) 0x0C 2 % 1024 = 5 ∧ segNext 0 3 0 = none ∧ segNext 2 3 0 = some 2 ∧
      segOk (segHead 4 0 0 0 0) [] false = true ∧ segOk (segHead 4 0 0 4 0) [] false = false) ∧
    ((loading 5 (0x400 - 224 - 32)).cfg.pos + 32 = (loading 5 0).cfg.total - 224 ∧ (loading 5 0).cfg.bootIds = [] ∧ (loading 2 0).dieGone 0 = false ∧
      ((loading 2 0).onPkg (fun p => { p with presence := [(0, .lost)] })).dieGone 0 = true) ∧
    bootShape [(0, 13)] = some (0, 0, 5, 1) := by unfold State.regsWf; decide +kernel

theorem wit_StartupAndReload :
    (∀ k ∈ [0, 1, 2, 3], (booted k).regsWf ∧ Table.wf (fun _ => ({} : Context)) (booted k).swb.ctxs = true ∧
      Table.wf (fun _ => ({} : Island)) (booted k).isl = true ∧ Table.wf (fun _ => ({} : Engine)) (booted k).engines = true ∧
      (booted k).cfg.dueStep = some k) ∧
    ((booted 0).clk.unlocked = [] ∧ (booted 1).cfg.bootIds = [5] ∧ ((booted 1).cfg.boots.all (fun z => decide (z.2.2.1 < 256))) = true) ∧
    (let d := ((booted 4).put (HBM_STAT.STATE 0) 2).put (HBM_STAT.STATE 1) 2
     d.cfg.phase = 3 ∧ d.cfg.step = 4 ∧ d.cfg.slot < 2 ∧ d.cfg.attempts = [] ∧ d.get (HBM_STAT.STATE 0) = 2 ∧ d.get (HBM_STAT.STATE 1) = 2) ∧
    (((reloads 1 []).ctx (5 : BitVec 10).toNat).boot = true ∧ ((reloads 1 []).ctx 5).reloading = 1 ∧
      (reloads 2 [{ die := 0, rank := 1, ctx := 5 }]).jobRuns ((reloads 2 []).reloadJob 5) = true ∧ ((reloads 2 []).ctx 5).queue = []) ∧
    (((booted 4 (fun c => { c with phase := 4 })).put CFG_SWEEP.EN 1).sweeps 13 = true) := by unfold State.regsWf; decide +kernel

/-! ### Transceivers and user pins -/

/-- A machine whose lane 4 has an owner and a locked quad PLL, and hears. -/
def laned (owner : Nat) : State :=
  (((State.reset.put CLK_REF_STAT.REF_OK 1).put (IOB_LANE_CFG.OWNER 4) owner).put (IOB_QPLL.LOCKED 1) 1).put (IOB_LANE_STAT.LOS 4) 0

/-- The receive trail 9 of an endpoint. -/
def hearing (v : Nat) (s : State) : State := s.setTrail 9 { state := 1, src := v, dst := 0x8061, cred := 8 }

/-- Ethernet engine 0 with one 400G port on quad 0, its link up. -/
def ether : State :=
  let s := ((State.reset.put (IOB_ETH_CFG.MODE 0) 1).put (IOB_QPLL.LOCKED 0) 1).put (IOB_QPLL.FB 0) 2125
  (s.forN 4 (fun k s => (s.put (IOB_LANE_CFG.OWNER k) 1).put (IOB_LANE_CFG.PAM4 k) 1)).put (IOB_ETH_STAT.LINK_UP 0) 1

theorem wit_TransceiverLanes :
    ((laned 3).regsWf ∧ (laned 3).quadLocked 1 = true ∧ (laned 3).quadLocked 2 = false ∧ (laned 3).flag CLK_REF_STAT.REF_OK = true ∧
      (∀ k < 4, (laned 3).laneOwner (8 + k) = 0) ∧ (laned 3).laneOwner 4 = 3 ∧ fieldOf (640 : W32) 11 0 = 640) ∧
    ((laned 3).twinOn = false ∧ ((laned 3).unit (unitOf 4 0 8)).state = 0 ∧ fieldOf (1 : W32) 31 31 = 0 ∧
      rateOk ((laned 3).get (IOB_QPLL.FB 2)) 0 false = true ∧ rateOk ((laned 3).get (IOB_QPLL.FB 2)) 5 false = false) ∧
    ((laned 3).laneOn 4 3 = true ∧ (laned 3).laneHears 4 = true ∧ pinTag 0xE000 = true ∧ (laned 3).tagFree 0xE000 = true ∧
      (laned 3).canReceive 0xB04 1 = none ∧ (hearing 0xB04 (laned 3)).canReceive 0xB04 1 = some 9 ∧ (laned 3).flag (IOB_LANE_STAT.LOS 4) = false) ∧
    (let j := ((laned 2).put (IOB_JESD_CFG.EN 1) 1).put (IOB_JESD_STAT.SYNC 1) 1
     j.jesdOn 1 = true ∧ (∀ l ∈ j.jesdLanes 1, j.jesdRate l = true) ∧ j.flag (IOB_JESD_CFG.DIR 1) = false ∧ (j.put (IOB_JESD_CFG.DIR 1) 1).flag (IOB_JESD_CFG.DIR 1) = true ∧
       j.flag (IOB_JESD_STAT.SYNC 1) = true ∧ (hearing 0xA01 j).canReceive 0xA01 1 = some 9 ∧ 1 ∈ (j.onPins (fun x => { x with aligned := [1] })).pins.aligned) ∧
    (laned 3).dieGone 0 = false := by unfold State.regsWf; decide +kernel

theorem wit_EthernetAndBanks :
    (ether.regsWf ∧ Table.wf (fun _ => ({} : Bank)) ether.banks = true ∧ ether.ethOn 0 0 = true ∧ (∀ l ∈ ether.ethLanes 0 0, ether.laneHears l = true ∧
        ether.ethRate 0 l = true) ∧
      nbit (ether.get (IOB_ETH_STAT.LINK_UP 0)) 0 = true ∧ pinTag 0xE000 = true ∧ ether.tagFree 0xE000 = true ∧ ether.canReceive 0x900 1 = none ∧
      (hearing 0x900 ether).canReceive 0x900 1 = some 9 ∧ ether.pins.eth = [] ∧ (ether.put HIF_TB_CTL.SRC 2).get HIF_TB_CTL.SRC = 2) ∧
    (let b := ((ether.put (IOB_BANK_STAT.VCLASS 3) 20).put (IOB_BANK_STAT.PLL_LOCK 3) 1).onCfg (fun c => { c with out := true })
     50 * b.get (IOB_BANK_STAT.VCLASS 3) = 1000 ∧ (b.bank 3).lost = 0 ∧ (b.bank 3).vccioBad = false ∧ b.flag (IOB_BANK_STAT.PLL_LOCK 3) = true) ∧
    (let b := (ether.put CLK_REF_STAT.REF_OK 1).setBank 3 { pllEn := true, pllLost := true }
     (b.bank 3).pllEn = true ∧ b.flag (IOB_BANK_STAT.PLL_LOCK 3) = false ∧ b.flag CLK_REF_STAT.REF_OK = true) := by
  unfold State.regsWf; decide +kernel

/-! ### Power -/

/-- A READY device with its link up, at a package rung with an optional transition. -/
def atRung (cur : Nat) (run : Option RungMove := none) : State :=
  (((State.reset.put HIF_STAT.READY 1).put PWR_RUNG.CUR cur).onHost (fun h => { h with linkUp := true })).onPwr (fun p => { p with run := run })

theorem wit_BudgetsAndMonitors :
    let s := ((atRung 0).modDieP 1 (fun x => { x with average := 700, tf := 9 }))
    (s.regsWf ∧ 40 + 80 + 80 + 256 ≤ 8 * s.capW ∧ 8 * s.capW < 40 + 3000 + 80 + 256 ∧ s.dieGone 1 = false ∧
      (s.onPkg (fun p => { p with presence := [(1, .lost)] })).dieGone 1 = true ∧ Table.wf (fun _ => Presence.present) s.pkg.presence = true ∧
      (s.dieP 1).average > (s.dieP 1).inForce ∧ ((atRung 0).modDieP 1 (fun x => { x with tf := 9 }) |>.dieP 1).throttled = true ∧
      s.highC = 100 ∧ s.critC = 110 ∧ (s.dieP 1).crit = false ∧ s.presence 1 = .present ∧ s.pwr.paced = []) ∧
    ((s.onPwr (fun p => { p with paced := [3, 4] })).pwr.paced = 3 :: [4] ∧ ((s.setIsland 5 { droop := true }).island 5).droop = true ∧
      Table.wf (fun _ => 0) s.pwr.railBad = true ∧ (railRange 0) = (728, 773) ∧
      (s.onPwr (fun p => { p with railBad := [(0, 2)] })).pwr.railBad.peek (fun _ => 0) 0 = 2) ∧
    (let b := (((s.put PWR_BUS_CFG.DIV 60).put PWR_BUS_CFG.SAG_DV 460).put PWR_BUS_CFG.SWELL_DV 300).onPwr (fun p => { p with busSeen := true })
     b.busOn = true ∧ b.get PWR_BUS_CFG.DIV = 60 ∧ b.busNow < b.get PWR_BUS_CFG.SAG_DV ∧ b.pwr.sag = false ∧ b.pwr.swell = false ∧
       (b.put PWR_BUS_STAT.NOW 540).busNow > b.get PWR_BUS_CFG.SWELL_DV ∧ (b.put PWR_BUS_STAT.NOW 540).busNow > b.get PWR_BUS_CFG.SAG_DV + 10) := by
  unfold State.regsWf; decide +kernel

theorem wit_PowerLadder :
    ((atRung 0).regsWf ∧ (atRung 0).pwr.failed = false ∧ (atRung 0).rungWhy 2 = 0 ∧ State.reset.rungWhy 2 = 3 ∧ (atRung 0).rungWhy 6 = 5 ∧
      ((atRung 3).put FLT_STAT.PARKED 1).rungWhy 0 = 6 ∧ (atRung 0).dieGone 1 = false ∧ nfield (8 : BitVec 8).toNat 3 2 = 2) ∧
    ((atRung 0).pwr.want = none ∧ (atRung 0).swapRuns [0, 1, 2, 3] = false) ∧
    (let m : RungMove := { scope := 7, old := 0, new := 2 }
     (atRung 0 (some m)).quietFor m = true ∧ (atRung 0 (some m)).toEvict = [] ∧ (atRung 0 (some m)).mem.merge = [] ∧
       (atRung 0 (some m)).flag PWR_RUNG.EMULATED = false ∧ ((atRung 0 (some m)).island 7).stopping = 0) ∧
    (atRung 3 (some { scope := 7, old := 3, new := 0 })).swb.reload = [] ∧
    ((atRung 3).rungWhy 0 = 0 ∧ ((atRung 3).put PWR_WAKE.MS 5).get PWR_WAKE.MS = 5 ∧ (atRung 3).asleep = true ∧ (atRung 3).barUp = true ∧
      (atRung 3).flag PWR_CTL.DB_WAKE = true ∧ (atRung 3).ringState 5 = 0 ∧ ((atRung 3).put FLT_STAT.PARKED 1).flag FLT_STAT.PARKED = true) ∧
    (let b := (((atRung 0).put PWR_BUS_CFG.DIV 60).put PWR_BUS_CFG.FAIL_EN 1).put PWR_BUS_CFG.FAIL_DV 400 |>.onPwr (fun p => { p with busSeen := true })
     b.busOn = true ∧ b.flag PWR_BUS_CFG.FAIL_EN = true ∧ b.busNow < b.get PWR_BUS_CFG.FAIL_DV ∧ (b.onCfg (fun c => { c with out := true })).cfg.out = true) := by
  unfold State.regsWf; decide +kernel

/-! ### Lookout and Cairn -/

/-- Lookout with the slot tables read, as `f` changes it, in MGT_STAT.STATE `st`. -/
def lookout (st : Nat) (f : Lookout → Lookout := id) : State :=
  (State.reset.put MGT_STAT.STATE st).onLko (fun l => f { l with tableA := slotTable })

/-- A request of command `c` over MCTP. -/
def mctpReq (c : Nat) (payload : List Byte) (session : Bool := false) : MgtReq :=
  { body := toBytes 2 c ++ [0, 0] ++ toBytes 4 77 ++ List.replicate 8 0 ++ payload, src := .mctp, session := session }

def asked (r : MgtReq) (st : Nat := 1) (f : Lookout → Lookout := id) : State := lookout st (fun l => f { l with reqs := [r], secVer := 9 })

/-- The header of a firmware image of one word, and a view of it. -/
def firmwareView : FwView :=
  let h := toBytes 4 0x5AA50F4D ++ toBytes 2 1 ++ toBytes 2 128 ++ toBytes 4 0x41264A6F ++ toBytes 4 0 ++ toBytes 8 420 ++ toBytes 8 0x100
    ++ toBytes 4 7 ++ toBytes 4 0 ++ List.replicate 84 0
  { header := h ++ toBytes 4 (crc32c h), seg := segHead 5 0 0 4 0, payload := [0x12345678], last := segHead 4 0 0 0 0
    version := 5, trailer := { crcOk := true, sigOk := true, gcmOk := true } }

def mbxDesc : Desc := { ring := 1, index := 0, w0 := 0x60, w1 := 0, w2 := 0x800000001000, w3 := 0x800000002000, w4 := 0x1000010 }

theorem wit_LookoutServices :
    (State.reset.regsWf ∧ State.reset.lko.tx = [] ∧ State.reset.cairn.fifo = [] ∧ State.reset.get MGT_STAT.STATE = 0 ∧ pickTable [] [] = none) ∧
    (pickTable slotTable [] = some slotTable ∧ (State.reset.firmwareCode (slotSize slotTable 1 (activeSlot slotTable 1)) { firmwareView with header := [] }).1 = 5) ∧
    ((lookout 3).get MGT_STAT.STATE = 3 ∧ (lookout 3).lko.loaded = false ∧ (lookout 1).lkoRuns = true ∧ (lookout 1).flag DBG_LKO_CTL.HALTED = false) ∧
    (lookout 3 (fun l => { l with loaded := true })).lko.loaded = true ∧
    (let e : LogEntry := { seq := 4, time := 0, typ := 3, info := 0 }
     let s := (lookout 1 (fun l => { l with log := [e], copied := 4, cur := some 2 })).onCfg (fun c => { c with phase := 4 })
     s.lkoServes = true ∧ s.cfgHasFlash = false ∧ s.flag MGT_STAT.RAM_ONLY = false ∧ s.lko.log.find? (fun x => x.seq ≥ s.lko.copied) = some e ∧
       s.lko.cur = some (2 : Fin 8).val ∧ s.lko.sectors[(2 : Fin 8)].entries.length < 2046) ∧
    ((lookout 0).lko.tx.length < 1024 ∧ (lookout 0).lkoServes = false ∧ 1024 ≤ (lookout 0 (fun l => { l with tx := List.replicate 1024 0 })).lko.tx.length) ∧
    (let s := lookout 1 (fun l => { l with asm := some (16, [2, 0, 0]) })
     s.lkoServes = true ∧ s.lkoSlow = false ∧ s.lko.asm = some (16, [2, 0, 0]) ∧ 4 * (([2, 0, 0] : List W32).length + 1) = 16 ∧
       mgtCmds.contains (leAt (bytesOf ([2, 0, 0] ++ [0])) 0 2) = true) ∧
    (let s := (lookout 1 (fun l => { l with rx := [5, 6] })).showMbx
     s.lko.rx = 5 :: [6] ∧ s.get MGT_MBX_RX.DATA = (5 : W32).toNat ∧ s.flag MGT_MBX_RX.VALID = true ∧ s.lko.tx = []) ∧
    (let s := ringOf mbxDesc ((lookout 1).onHost (fun h => { h with linkUp := true }))
     s.lkoServes = true ∧ s.mayStart mbxDesc = true ∧ mbxDesc.opcode = 0x60 ∧ mbxDesc.zeroFrom 5 = true ∧ mbxDesc.only 2 (bitsHL 47 0) = true ∧
       mbxDesc.only 3 (bitsHL 47 0) = true ∧ mbxDesc.only 4 (bitsHL 12 0 + bitsHL 28 16) = true ∧ hostBase ≤ mbxDesc.f 2 47 0 ∧
       hostBase ≤ mbxDesc.f 3 47 0 ∧ mbxDesc.f 4 12 0 = 16 ∧ mbxDesc.f 4 28 16 = 256 ∧
       (s.started mbxDesc).hostCode (mbxDesc.f 2 47 0) 16 = 0 ∧ ((ringOf mbxDesc (lookout 1)).started mbxDesc).hostCode (mbxDesc.f 2 47 0) 16 ≠ 0) := by unfold State.regsWf; decide +kernel

/-- A slot table whose firmware slots have 4 KiB: its copy A loads the view above. -/
def fwTable : List Byte := let b := slotTable.take 0x28 ++ toBytes 4 0x1000 ++ List.replicate 16 0; b ++ toBytes 4 (crc32c b)

theorem wit_firmware_checks : pickTable fwTable [] = some fwTable ∧ activeSlot fwTable 1 = 0 ∧
    (State.reset.firmwareCode (slotSize fwTable 1 (activeSlot fwTable 1)) firmwareView).1 = 0 ∧
    (State.reset.firmwareCode (slotSize fwTable 1 (activeSlot fwTable 1)) { firmwareView with header := [] }).1 ≠ 0 ∧
    (State.reset.firmwareCode (slotSize fwTable 1 (1 - activeSlot fwTable 1)) firmwareView).1 = 0 := by decide +kernel

theorem wit_ManagementCommands :
    (let s := asked (mctpReq 1 [])
     s.regsWf ∧ s.lkoServes = true ∧ s.lko.tx = [] ∧ s.get MGT_STAT.STATE = 1 ∧ (mctpReq 1 []).cmd = 1 ∧ (asked (mctpReq 2 []) 4).lkoServes = true ∧
       (asked (mctpReq 2 []) 4).get MGT_STAT.STATE = 4) ∧
    (let r : MgtReq := { body := (mctpReq 3 [0, 0, 0, 0]).body, src := .regs }
     (asked r).lko.reqs = [r] ∧ r.src = .regs ∧ (asked r).lko.rx = [] ∧ 4 ≤ (r.body.drop 16).length) ∧
    ((mctpReq 3 [1, 0, 0, 0]).cmd = 3 ∧ (mctpReq 4 [1, 0, 3]).body.drop 16 = [1, 0, 3]) ∧
    (let s := (asked (mctpReq 0x10 [0, 0, 0, 0, 0, 4, 0, 0])).onCfg (fun c => { c with phase := 4 })
     pickTable s.lko.tableA s.lko.tableB = some slotTable ∧ s.cfgHasFlash = false ∧ s.lko.update = none ∧ slotSize slotTable 0 0 = 0x1000) ∧
    (let u : Update := { target := 0, len := 8, got := 4 }
     let s := (asked (mctpReq 0x11 [4, 0, 0, 0, 0, 0, 0, 0, 1, 2, 3, 4]) 1 (fun l => { l with update := some u })).onCfg (fun c => { c with phase := 4 })
     s.lko.update = some u ∧ Table.wf (fun _ => (0xFF : Byte)) s.lko.flash = true ∧ 8 ≤ ((mctpReq 0x11 [4, 0, 0, 0, 0, 0, 0, 0, 1, 2, 3, 4]).body.drop 16).length) ∧
    ((lookout 1 (fun l => { l with slots := l.slots.set 0 { state := 1 } })).lko.slots.toList.getD 0 {}).state = 1 ∧
    ((lookout 1).vauxOk = true ∧ (asked (mctpReq 0x14 [5])).lko.secVer = 9 ∧ (asked (mctpReq 0x14 [5])).get MGT_ARB.COUNT < 64) ∧
    ((mctpReq 0x52 (List.replicate 32 1) true).session = true ∧ (mctpReq 0x51 ([1, 0, 0, 0] ++ List.replicate 48 7) true).body.length = 16 + 52 ∧
      (lookout 1).fuses.keyHash = [] ∧ (lookout 1).flag MGT_STAT.RAM_ONLY = false ∧ ((lookout 1).putB MGT_STAT.SPDM true).flag MGT_STAT.SPDM = true) := by
  unfold State.regsWf; decide +kernel

/-- A machine whose Cairn has the message `m` waiting, its kind set to the reactions `react`. -/
def told (m : FaultMsg) (react : Nat) : State :=
  { State.reset.put (FLT_KIND_CFG.REACT m.kind) react with inbox := [m] }

theorem wit_CairnReactions :
    let m : FaultMsg := { kind := 0x0C, source := 0x27F, sev := 2, addr := 0 }
    ((told m 1).regsWf ∧ (told m 1).inbox = m :: [] ∧ m.kind < 64 ∧ m.source < 4096 ∧ m.sev < 4 ∧
      ((told m 1).putB (FLT_KIND_CFG.MASK 0x0C) true).flag (FLT_KIND_CFG.MASK 0x0C) = true ∧ (told m 1).flag (FLT_KIND_CFG.MASK 0x0C) = false ∧
      (told m 9).reacts 0x0C 3 = true ∧ (told m 9).reacts 0x0C 4 = false ∧ (told m 0x21).reacts 0x0C 5 = true ∧ (told m 0x10).reacts 0x0C 4 = true ∧ m.source / 512 < 4 ∧
      (told m 0x21).presence (m.source / 512) = .present ∧ (told m 0x21).pkg.dieReset = []) ∧
    ((State.reset.onPkg (fun p => { p with dieReset := [1], presence := [(1, .silent)] })).dieGone 1 = true ∨
      (State.reset.onPkg (fun p => { p with dieReset := [1], presence := [(1, .lost)] })).dieGone 1 = true) ∧
    (State.reset.segmentOff 4 = false ∧ State.reset.cairn.missing.contains 4 = false ∧ State.reset.flag FLT_STAT.SAFE_REQ = false ∧
      (State.reset.putB FLT_STAT.SAFE_REQ true).flag FLT_STAT.SAFE_REQ = true ∧ State.reset.flag FLT_CTL.REQ_AUTO = false) ∧
    ((State.reset.onHost (fun h => { h with linkUp := true })).causes.filter
      (fun c => !State.reset.flag (FLT_KIND_CFG.MASK c.2.1)) = [] ∧
      State.reset.causes.filter (fun c => !State.reset.flag (FLT_KIND_CFG.MASK c.2.1)) ≠ []) ∧
    (fieldOf (2 ^ 59 + 2 ^ 60 + 12 * 2 ^ 40 : W64) 59 59 = 1 ∧ fieldOf (2 ^ 59 + 2 ^ 60 + 12 * 2 ^ 40 : W64) 61 60 = 1 ∧ kindListed 12 = true ∧
      nbit ((State.reset.put FLT_INJ.ALLOW 1).get FLT_INJ.ALLOW) 0 = true ∧ nbit ((State.reset.put FLT_INJ.ALLOW 2).get FLT_INJ.ALLOW) 1 = true ∧ kindListed 0x1E = false) := by unfold State.regsWf; decide +kernel

/-! ### Twin mode -/

/-- A device with TWN_STAT.ROLE `role`, its Arête quads locked, as `f` changes its unit. -/
def twinned (role up : Nat) (f : Twin → Twin := id) : State :=
  ((((State.reset.put TWN_STAT.ROLE role).put TWN_STAT.PARTNER_UP up).put (IOB_QPLL.LOCKED 14) 1).put (IOB_QPLL.LOCKED 15) 1).onTwin f

def mirrorOp (op : BitVec 64) (w2 : W64 := 0) (w3 : W64 := 0) (w4 : W64 := 0) : Desc := { ring := 1, index := 0, w0 := op, w1 := 0, w2 := w2, w3 := w3, w4 := w4 }

/-- A device with region 3, of 2 MiB at 8 MiB, in a STATE. -/
def mirrored (role up st : Nat) (f : Twin → Twin := id) : State :=
  (((twinned role up f).put (TWN_REG.BASE 3) 4).put (TWN_REG.SIZE 3) 1).put (TWN_REG.STATE 3) st

def pairOp : Desc := mirrorOp 0x48 1 0x800000001000
def addOp : Desc := mirrorOp 0x4A 0x13 0x1000000 2

theorem wit_PairingAndMirroring :
    (let s := ringOf pairOp
     s.regsWf ∧ s.mayStart pairOp = true ∧ pairOp.opcode = 0x48 ∧ pairOp.only 2 1 = true ∧ pairOp.only 3 (bitsHL 47 0) = true ∧ pairOp.f 3 47 47 = 1 ∧
       pairOp.zeroFrom 4 = true ∧ s.role = 0 ∧ (∀ k < 8, s.get (IOB_LANE_CFG.OWNER (56 + k)) = 0) ∧
       (s.put (IOB_LANE_CFG.OWNER 60) 4).get (IOB_LANE_CFG.OWNER 60) ≠ 0 ∧ (s.started pairOp).hostCode (pairOp.f 3 47 0) 48 ≠ 0 ∧
       ((s.onHost (fun h => { h with linkUp := true })).started pairOp).hostCode (pairOp.f 3 47 0) 48 = 0) ∧
    ((ringOf (mirrorOp 0x49) (twinned 2 1)).mayStart (mirrorOp 0x49) = true ∧ (twinned 2 1).role = 2 ∧ (mirrorOp 0x49).zeroFrom 2 = true ∧
      (mirrorOp 0x4E 2).only 2 (bitsHL 7 0) = true ∧ (mirrorOp 0x4E 2).zeroFrom 3 = true) ∧
    (let s := ringOf addOp (mirrored 2 1 2)
     s.mayStart addOp = true ∧ addOp.only 2 (bitsHL 31 16 + bitsHL 4 0) = true ∧ addOp.only 3 (bitsHL 47 0) = true ∧ addOp.only 4 (bitsHL 14 0) = true ∧
       addOp.zeroFrom 5 = true ∧ addOp.f 2 4 4 = 1 ∧ addOp.f 2 3 0 = 3 ∧ s.regionSt 3 ≠ 0 ∧ (ringOf addOp (twinned 2 1)).regionSt 3 = 0 ∧
       hbmRegionOk 0x1000000 2 = true ∧ 0x1000000 % unit2M = 0 ∧ (ringOf addOp (twinned 2 1)).takenSpans = [] ∧ s.twin.out = [] ∧
       (mirrorOp 0x4B 3).only 2 (bitsHL 3 0) = true ∧ (mirrorOp 0x4B 3).zeroFrom 3 = true) ∧
    (let p := twinned 1 0 (fun t => { t with stage := 1, asked := 3, desc := some pairOp })
     p.role = 1 ∧ p.twin.stage = 1 ∧ p.areteUp = true ∧ p.twin.asked = 2 + (1 : Fin 2).val ∧ p.twin.asked ≠ 2 + (0 : Fin 2).val) ∧
    (let p := ((twinned 1 0 (fun t => { t with stage := 2, asked := 3 })).put TWN_VER.PEER_MIN 1).put TWN_VER.PEER_MAX 1
     p.twin.stage = 2 ∧ p.negotiate = some 1 ∧ (p.put TWN_VER.PEER_MIN 5).negotiate = none ∧ p.twin.asked < 8) ∧
    ((mirrored 2 1 1).regionSt 3 = 1 ∧ (mirrored 2 1 1).partnerUp = true) := by unfold State.regsWf; decide +kernel

theorem wit_LinkFrames :
    (let b := mirrored 3 1 2 (fun t => { t with gotSeq := 5 })
     b.role = 3 ∧ b.areteUp = true ∧ b.regionSt 3 ≠ 0 ∧ (List.replicate 8 (7 : Byte)).length ≤ 512 ∧ b.twin.gotSeq = 5 ∧
       (0x800008 : BitVec 48).toNat % 64 + 8 ≤ 64 ∧ b.hbmCheck 0x800008 8 = 0 ∧ b.lineForm (0x800008 / 64) = .plain ∧ b.takingOver = false ∧ b.partnerUp = true ∧
       b.arlGood { seq := 5 } = true ∧ b.twin.gotOther ≤ 5 ∧ b.arlGood { ok := false } = false ∧ b.arlGood { key := true } = false ∧
       (mirrored 3 1 2 (fun t => { t with gotOther := 7 })).twin.gotOther = 7 ∧ b.hbmCheck 0xFFFF00000000 8 ≠ 0) ∧
    (let a := mirrored 2 1 2 (fun t => { t with out := [{ kind := 3, seq := 4 }, { kind := 3, seq := 5 }] })
     a.takingOver = false ∧ a.twin.ckpt = [] ∧ (∀ x ∈ a.twin.out, x.wrack = none) ∧
       (a.putB CRY_ARL_STAT.KEYED true).flag CRY_ARL_STAT.KEYED = true ∧
       (mirrored 2 1 2 (fun t => { t with out := [{ kind := 3, seq := 4, region := 3 }] })).twin.out.find? (fun g => g.seq == 4 && g.kind == 3) =
         some { kind := 3, seq := 4, region := 3 }) ∧
    ((mirrored 2 0 3).role = 2 ∧ ((mirrored 2 0 3).put TWN_VER.PEER_MIN 1 |>.put TWN_VER.PEER_MAX 2).negotiate = some 2 ∧
      (mirrored 2 0 3).flag TWN_STAT.DUAL = false ∧ (mirrored 2 1 2).twin.out = []) := by decide +kernel

/-- A primary whose context 3 is RESIDENT on island 5, registered with a STATEFUL image and checkpointed as `k`. -/
def checkpointing (k : CkptSet) (up : Nat := 0) : State :=
  let s := ((twinned 2 up (fun t => { t with ckpt := [(3, k)] })).setCtx 3 { pmap := 0, state := 4, placed := true, shape := 0, die := 0, ax := 5, ay := 0 }).onSwb
    (fun w => { w with images := [{ ctx := 3, variant := 0, img := { flags := 1 } }], portRun := [{ die := 0, rank := 3, ctx := 3 }] })
  (s.put SWB_IMG_BASE.BASE 0).put SWB_IMG_SIZE.SIZE 8

theorem wit_CheckpointsAndPromotion :
    (let d := mirrorOp 0x4C (0x10000 * 10 + 3)
     let s := ringOf d (checkpointing { interval := 5 })
     s.regsWf ∧ Table.wf (fun _ => ({} : CkptSet)) s.twin.ckpt = true ∧ s.mayStart d = true ∧ d.opcode = 0x4C ∧ d.only 2 (bitsHL 32 16 + bitsHL 9 0) = true ∧
       d.zeroFrom 3 = true ∧ d.f 2 9 0 = 3 ∧ s.role = 2 ∧ s.stateful 3 = true ∧ s.stateful 4 = false ∧ d.f 2 31 16 = 10 ∧
       (s.modCkpt 3 (fun k => { k with interval := 10, quiesce := false })).ckptFits = true ∧
       ((s.put SWB_IMG_SIZE.SIZE 0).modCkpt 3 (fun k => { k with interval := 10, quiesce := false })).ckptFits = false) ∧
    (let s := ringOf (mirrorOp 0x4D) (mirrored 2 1 2)
     s.mayStart (mirrorOp 0x4D) = true ∧ (mirrorOp 0x4D).zeroFrom 2 = true ∧ s.twin.desc = none ∧ s.partnerUp = true ∧
       (∀ n < 16, s.regionSt n = 0 ∨ s.regionSt n = 2) ∧ s.twin.ckpt = [] ∧ s.twin.out = [] ∧ (mirrored 2 1 1).regionSt 3 = 1 ∧
       (let q := checkpointing { interval := 5, run := 2, lastFrame := some 4 } 1
        ((q.twin.ckpt.filter (fun p => p.2.interval != 0)).map (fun p => p.1)).filter (fun c => (q.ctx c).state == 4 || (q.ctx c).state == 5) = [3] ∧
          (q.modCtx 3 (fun x => { x with state := 3 })).ctx 3 = { q.ctx 3 with state := 3 })) ∧
    ((ringOf (mirrorOp 0x4F) (twinned 3 0)).mayStart (mirrorOp 0x4F) = true ∧ (twinned 3 0).role = 3 ∧ (twinned 3 0).partnerUp = false) ∧
    (let s := checkpointing { interval := 5 }
     (s.ckptOf 3).interval ≠ 0 ∧ (s.ckptOf 3).run = 0 ∧ (s.ctx 3).state = 4 ∧ s.takingOver = false ∧ (s.ckptOf 3).quiesce = false ∧
       ((checkpointing { interval := 5, quiesce := true }).ckptOf 3).quiesce = true ∧ s.islandsOf 3 = 5 :: [] ∧
       Table.wf (fun _ => ({} : Island)) s.isl = true) ∧
    (let s := checkpointing { interval := 5, run := 2 }
     (s.ckptOf 3).run = 2 ∧ s.jobRuns (s.ckptJob 3) = true ∧ (s.image 3 (s.ctx 3).variant).isSome = true) ∧
    (let b := (twinned 3 1 (fun t => { t with gotSeq := 5 })).onSwb (fun w => { w with images := [{ ctx := 3, variant := 0, img := {} }] })
     b.twin.gotSeq = 5 ∧ b.registered 3 = true ∧ b.registered 4 = false ∧ b.twin.rx = none) ∧
    ((twinned 4 0).role = 4 ∧ (twinned 4 0).twin.held = [] ∧ ((checkpointing { interval := 5 }).ckptOf (fieldOf (3 : W32) 9 0)).interval < 65536) := by
  unfold State.regsWf; decide +kernel

/-! ### Self-test -/

/-- A self-test operation on unit `u`, with further bits of W2. -/
def bstOp (op : BitVec 64) (u : Nat) (more : Nat := 0) : Desc := { ring := 1, index := 0, w0 := op, w1 := 0, w2 := BitVec.ofNat 64 (u + more) }

/-- A machine with one test and a unit in a state. -/
def testing (x : BstTest) (st : Nat) : State := State.reset.onBst (fun b => { b with tests := [x], units := [(x.unit, { state := st })] })

theorem wit_UnitTests :
    (let s := ringOf (bstOp 0x40 5)
     let d := bstOp 0x40 5
     s.regsWf ∧ Table.wf (fun _ => ({} : BstUnit)) s.bst.units = true ∧ s.mayStart d = true ∧ d.opcode = 0x40 ∧ d.only 2 (bitsHL 18 0 + bitsHL 47 32) = true ∧
       d.zeroFrom 3 = true ∧ d.f 2 15 0 = 5 ∧ s.badUnit 5 = false ∧ s.unitBusy 5 false = 0 ∧ s.badUnit 0xC000 = true ∧ s.unitBusy 0xA000 false = 6 ∧
       unitCls 5 = 0) ∧
    (let x : BstTest := { unit := 5, desc := bstOp 0x40 5 }
     let s := ringOf (bstOp 0x41 5) (testing x 1)
     s.mayStart (bstOp 0x41 5) = true ∧ (bstOp 0x41 5).only 2 (bitsHL 15 0) = true ∧ s.bst.tests.find? (fun t => t.unit == 5) = some x ∧ (s.unit 5).state = 1 ∧
       s.bst.tests.find? (fun t => t.unit == 6) = none ∧
       (testing { x with bypass := true } 1).bst.tests.find? (fun t => t.unit == 5) = some { x with bypass := true }) ∧
    ((ringOf (bstOp 0x43 0x8003)).mayStart (bstOp 0x43 0x8003) = true ∧ canBypass 0x8003 = true ∧ State.reset.badUnit 0x8003 = false ∧
      (State.reset.unit 0x8003).state = 0 ∧ State.reset.unitBusy 0x8003 true = 0 ∧ canBypass 0x6000 = false ∧ State.reset.swb.queue = []) ∧
    (let x : BstTest := { unit := 0x8003, desc := bstOp 0x40 0x8003 }
     let s := testing x 1
     s.bst.tests.find? (fun t => t.unit == (0x8003 : BitVec 16).toNat && t.state != 2) = some x ∧ s.testTurn x = true ∧ s.isolated x = true ∧ s.bst.saddle = 0 ∧
       unitCls (0x8003 : BitVec 16).toNat = 4 ∧ s.get PWR_RUNG.CUR = 0 ∧ s.get PWR_DIE_RUNG.CUR = 0 ∧ s.testTurn { x with bypass := true } = true) ∧
    (let x : BstTest := { unit := 5, desc := bstOp 0x40 5 }
     (testing x 1).isolated x = true ∧ (testing x 1).islState (unitIsland 5) = 0 ∧ unitIsland 5 < 256) ∧
    (let x : BstTest := { unit := 0x8003, desc := bstOp 0x40 0x8003, state := 2 }
     (testing x 2).bst.tests.find? (fun t => t.unit == (0x8003 : BitVec 16).toNat && t.state == 2) = some x ∧ x.keepOff = false) ∧
    (let x : BstTest := { unit := 5, desc := bstOp 0x40 5, state := 2 }
     let s := (testing x 2).put (SWB_ISL_STAT.STATE 5) 7
     s.islState (unitIsland 5) = 7 ∧ (s.unit (unitOf 1 (unitDie 5) (unitIdx 5))).state = 0 ∧ unitValid 5 = true ∧ (0 : W32).toNat = s.bst.gold.peek (fun _ => 0) 5) := by
  unfold State.regsWf; decide +kernel

theorem wit_MaintenanceStop :
    let d := bstOp 0x42 0x5A
    let s := ringOf d
    s.regsWf ∧ s.mayStart d = true ∧ d.opcode = 0x42 ∧ d.only 2 (bitsHL 7 0) = true ∧ d.zeroFrom 3 = true ∧ d.f 2 7 0 = 0x5A ∧ s.twinOn = false ∧
      s.bst.tests.any (fun x => x.state == 2) = false ∧ s.level = 0 ∧ (bstOp 0x42 1).f 2 7 0 ≠ 0x5A ∧
      (testing { unit := 5, desc := d, state := 2 } 2).bst.tests.any (fun x => x.state == 2) = true ∧
      (State.reset.onBst (fun b => { b with saddle := 2 })).bst.saddle = 2 ∧ State.reset.swb.queue = [] ∧ unitCls 0x8003 = 4 := by unfold State.regsWf; decide +kernel

/-! ### Debug -/

/-- A device at a debug level, as `f` changes its debug unit. -/
def debugging (level : Nat) (f : Debug → Debug := id) : State :=
  ({ (State.reset.put DBG_STAT.LEVEL level).put DBG_STAT.SCOPE 0x3FF with dbg := f State.reset.dbg }).onCfg (fun c => { c with phase := 4 })

/-- A RESPOND for level 2 stands in the buffer, and the debug key is fused. -/
def answering (level : Nat) (nonce : Bool) : State :=
  { ((debugging 0 (fun d => { d with nonce := nonce })).put DBG_STAT.OPEN 0).put (DBG_BUF.BYTES 12) (level * 256) with
    fuses := { debugHash := List.replicate 48 5, pwHash := List.replicate 48 6, pwLevel := 1 } }

/-- An access port request. -/
def port (level space size addr : Nat) : State :=
  (((debugging level).put DBG_AP_CTL.SPACE space).put DBG_AP_CTL.SIZE size).put DBG_AP_ADDR.ADDR addr

theorem wit_DebugAuthorisation :
    (State.reset.regsWf ∧ (answering 2 true).dbgByte 97 = 2 ∧ (answering 2 true).flag DBG_STAT.OPEN = false ∧ (answering 2 true).authBar = 0 ∧
      (answering 2 true).dbg.nonce = true ∧ (answering 2 false).dbg.nonce = false ∧ (answering 2 true).fuses.debugHash = List.replicate 48 5 ∧
      ((answering 2 true).put DBG_STAT.LOCKOUT 1).authBar = 6 ∧ ((answering 2 true).put DBG_STAT.FAILS 7).get DBG_STAT.FAILS = 7 ∧
      (answering 7 true).dbgByte 97 = 7 ∧ ((answering 2 true).putB DBG_STAT.OPEN true).flag DBG_STAT.OPEN = true) ∧
    (((answering 2 true).put (DBG_BUF.BYTES 8) 20).dbgByte 64 = 20 ∧ (answering 2 true).fuses.pwLevel < 4) ∧
    ((debugging 2).level = 2 ∧ (debugging 2).flag PWR_RUNG.EMULATED = false ∧ (debugging 2).dbg.trails = [] ∧ (debugging 2).lko.tx = [] ∧
      (debugging 2).cairn.fifo = [] ∧ Table.wf (fun _ => ({} : Engine)) ((debugging 2).setEng 5 { state := 3 }).engines = true ∧
      (((debugging 2).setEng 5 { state := 3 }).eng 5).state = 3 ∧ ((debugging 2).putB DBG_STAT.ATTACHED true).flag DBG_STAT.ATTACHED = true) ∧
    ((debugging 2).cfg.phase ≠ 0 ∧ nfield (BitVec.ofNat 96 (2 ^ 95 + 0x208 * 2 ^ 64 + 9)).toNat 79 64 = 0x208) ∧
    ((port 0 0 0 0).apAllowed 0 1 = false ∧ (port 0 1 0 0).get DBG_AP_CTL.SPACE = 1 ∧ (port 3 0 2 2).get DBG_AP_ADDR.ADDR % 2 ^ (port 3 0 2 2).get DBG_AP_CTL.SIZE ≠ 0 ∧
      nfield ((port 3 2 2 0xC00000000008).get DBG_AP_ADDR.ADDR) 47 46 = 3 ∧ (port 3 2 2 0).dieGone (dieOf (nfield 0xC00000000008 45 38)) = false ∧
      (port 3 2 2 0).flag DBG_AP_CTL.BUSY = false ∧ (port 3 2 2 0).readbackWaits = false ∧ ((port 3 2 2 0).putB DBG_AP_CTL.BUSY true).flag DBG_AP_CTL.BUSY = true) := by
  unfold State.regsWf; decide +kernel

/-- Island 5's engine in a state, at a NOP. -/
def engineAt (e : Engine) (st : Nat) : State := (running 0 e).setEng 5 { e with state := st }

theorem wit_RunControl :
    ((engineAt {} 2).regsWf ∧ Table.wf (fun _ => ({} : Engine)) (engineAt {} 2).engines = true ∧ (engineAt {} 2).winReaches 5 = true ∧
      ((engineAt {} 2).eng 5).locked = false ∧ ((engineAt { esr := 0x400000 } 2).eng 5).locked = true ∧ ((engineAt {} 2).eng 5).haltPend = 0 ∧
      ((engineAt {} 3).eng 5).state = 3 ∧ ((engineAt {} 3).eng 5).stopAfter = false ∧ (engineAt {} 3).busFast 5 = false) ∧
    (let e : Engine := { term := 0x8000000000000000 }
     let s := engineAt e 3
     nbit e.term.toNat 63 = true ∧ fieldOf e.term 47 34 = 0 ∧ s.rawWord (xyWord 5 false 0) = 0 ∧ s.loadWord (xyWord 5 false 0) = (0, false, s) ∧
       s.wordState (xyWord 5 false 0) = .clean ∧ s.mem.merge = [] ∧ s.cairn.checks = []) ∧
    ((engineAt { esr := 0x400000, haltPend := 1 } 2).keRuns 5 = true) ∧
    ((debugging 2).level = 2 ∧ (∀ m < 5, (debugging 2).flag (CLK_MTR_CTL.OWNER m) = false) ∧ ((debugging 2).put MGT_STAT.STATE 1).lkoServes = true ∧
      (((debugging 2).put MGT_STAT.STATE 1).put (DBG_LKO_BRK.EN 1) 1).flag (DBG_LKO_BRK.EN 1) = true ∧
      ((debugging 2).putB DBG_LKO_CTL.HALTED true).flag DBG_LKO_CTL.HALTED = true ∧ (debugging 2).cairn.fifo = [] ∧ (debugging 2).lko.tx = []) ∧
    (((debugging 2).put DBG_TRC_CTL.SIZE (fieldOf (0x80000001 : W32) 23 0)).traceRegionOk = true ∧
      ((debugging 2).put DBG_TRC_CTL.SIZE (fieldOf (0x80000000 : W32) 23 0)).traceRegionOk = false) ∧
    (let s := { (((debugging 2).put DBG_TRC_CTL.SIZE 1).put DBG_TRC_CTL.EN 1).put (HBM_STAT.STATE 0) 2 with trace := [{ island := 5, kind := 4 }] }
     s.trace = { island := 5, kind := 4 } :: [] ∧ s.flag DBG_TRC_CTL.EN = true ∧ s.hbmUp (hbmStack 0) = true ∧ s.hbmCheck 0 16 = 0 ∧ s.lineForm 0 = .plain ∧
       16 * (s.get DBG_TRC_PTR.PTR + 1) < s.get DBG_TRC_CTL.SIZE * 4096 ∧ (s.put DBG_TRC_PTR.PTR 255).get DBG_TRC_PTR.PTR = 255) := by
  unfold State.regsWf; decide +kernel

theorem wit_step_ready : ((engineAt {} 3).setEng 5 { (engineAt {} 3).eng 5 with state := 2, skipHit := true }).ready 5 { c := .nop } ∧
    ((engineAt {} 3).eng 5).straight ∧ (engineAt { term := 0x8000000000000000 } 3).quiet (xyWord 5 false 0) := by
  unfold State.ready State.quiet Engine.straight; and_intros <;> decide +kernel

/-! ### The block as a whole -/

theorem wit_StepTakesTheFront : ({ State.reset with pending := [.identityCheck { records := Vector.replicate 5 0 } 0 0 false] } : State).pending =
      .identityCheck { records := Vector.replicate 5 0 } 0 0 false :: [] ∧ State.reset.pending = [] ∧ State.reset.regsWf ∧
    State.reset.now = 0 ∧ (State.reset.host.tbAcc + State.reset.tbAdjust = 0) ∧
    ((State.reset.put HIF_TB_ADJ.PPB 500000).onHost (fun h => { h with tbAcc := 999999999 })).tbAdjust = 500000 ∧ (State.reset.setReg HIF_TB.NS.addr (BitVec.allOnes 64)).now = 2 ^ 64 - 1 := by
  unfold State.regsWf; decide +kernel

theorem wit_EveryCommandCompletes : (Instr.chainsel 0).wf = true ∧ (Instr.rawReceive 0 0 []).wf = false := by decide

theorem wit_CanonicalKept : (State.reset.setByte 3 7).canonical ∧ step (State.reset.setByte 3 7) = .next (State.reset.setByte 3 7).tick := by
  refine ⟨?_, rfl⟩; unfold State.canonical State.regsWf; decide +kernel

theorem wit_FusesWrittenOnce : let s : State := { State.reset with fuses := { keyHash := [1], bitKey := [2], debugHash := [3], pwHash := [4], pwLevel := 2 } }
    step s = .next s.tick ∧ s.fuses.keyHash ≠ [] ∧ s.fuses.bitKey ≠ [] ∧ s.fuses.debugHash ≠ [] ∧ s.fuses.pwHash ≠ [] :=
  ⟨rfl, by decide, by decide, by decide, by decide⟩

/-! ### Ill-formed commands are refused -/

theorem test_wf_message : (Instr.islandPortTxMessage 0 0 { op := 1, trail := 0, tag := 0, data := List.replicate 257 0 }).wf = false := by decide +kernel

theorem test_wf_raw : (Instr.rawReceive 3 0 (List.replicate 255 0)).wf = false := by decide +kernel

theorem test_wf_jesd : (Instr.jesdReceive 3 0 (List.replicate 257 0)).wf = false := by decide +kernel

theorem test_wf_bar4 : (Instr.bar4Write 0 []).wf = false ∧ (Instr.bar4Write 0 (List.replicate 4097 0)).wf = false := by decide +kernel

theorem test_wf_mirror : (Instr.mirrorWr 0 0 1 [true] [1, 2] {}).wf = false ∧ (Instr.mirrorWr 0 0 1 [] [] {}).wf = false := by decide

theorem test_wf_line : (Instr.lineConversion [1] []).wf = false ∧ (Instr.lineConversion [] [1]).wf = false := by decide

theorem test_illFormed_faults : exec (.rawReceive 0 0 []) State.reset = .fault .illFormed := rfl

/-! ### Single steps -/

/-- R320: the timebase starts at 0. -/
theorem test_timebase : State.reset.now = 0 ∧ State.reset.tick.now = 1 := by decide +kernel

/-- R122, by hand from its table: bit 0 stands at position 3, so c1 and c0 are 1, and the word's parity is odd with them. -/
theorem test_check_bits : checkBits 1 = 0x83 ∧ checkBits 0 = 0 := by decide +kernel

/-- R23, R25: no record of a die holds the Saddle's magic, so identity fails and nothing starts. -/
theorem test_identity_fails :
    (match exec (.identityCheck { records := Vector.replicate 5 0 } 0 0 false) State.reset with
      | .next t => t.cfg.phase == 7
      | _ => false) = true := by decide +kernel


/-! ### Published test vectors of the ciphers that R275 and R276 name -/

/-- FIPS 197, appendix C.3. -/
theorem test_aes256 : aesEnc (List.range 32)
    [0x00, 0x11, 0x22, 0x33, 0x44, 0x55, 0x66, 0x77, 0x88, 0x99, 0xaa, 0xbb, 0xcc, 0xdd, 0xee, 0xff] =
    [0x8e, 0xa2, 0xb7, 0xca, 0x51, 0x67, 0x45, 0xbf, 0xea, 0xfc, 0x49, 0x90, 0x4b, 0x49, 0x60, 0x89] := by decide +kernel

/-- NIST SP 800-38B, appendix D.3, one block. -/
theorem test_cmac : cmac
    [0x60, 0x3d, 0xeb, 0x10, 0x15, 0xca, 0x71, 0xbe, 0x2b, 0x73, 0xae, 0xf0, 0x85, 0x7d, 0x77, 0x81, 0x1f, 0x35,
    0x2c, 0x07, 0x3b, 0x61, 0x08, 0xd7, 0x2d, 0x98, 0x10, 0xa3, 0x09, 0x14, 0xdf, 0xf4] 0
    [0x6b, 0xc1, 0xbe, 0xe2, 0x2e, 0x40, 0x9f, 0x96, 0xe9, 0x3d, 0x7e, 0x11, 0x73, 0x93, 0x17, 0x2a] =
    [0x28, 0xa7, 0x02, 0x3f, 0x45, 0x2e, 0x8f, 0x82, 0xbd, 0x4b, 0xf2, 0x8d, 0x8c, 0x37, 0xc3, 0x5c] := by decide +kernel

/-- RFC 3394, section 4.6: a 256-bit key under a 256-bit key. -/
theorem test_keyUnwrap : kwUnwrap (List.range 32) 4
    [0x28, 0xC9, 0xF4, 0x04, 0xC4, 0xB8, 0x10, 0xF4, 0xCB, 0xCC, 0xB3, 0x5C, 0xFB, 0x87, 0xF8, 0x26, 0x3F, 0x57,
    0x86, 0xE2, 0xD8, 0x0E, 0xD3, 0x26, 0xCB, 0xC7, 0xF0, 0xE7, 0x1A, 0x99, 0xF4, 0x3B, 0xFB, 0x98, 0x8B, 0x9B,
    0x7A, 0x02, 0xDD, 0x21] =
    some [0x00, 0x11, 0x22, 0x33, 0x44, 0x55, 0x66, 0x77, 0x88, 0x99, 0xAA, 0xBB, 0xCC, 0xDD, 0xEE, 0xFF, 0x00, 0x01,
    0x02, 0x03, 0x04, 0x05, 0x06, 0x07, 0x08, 0x09, 0x0A, 0x0B, 0x0C, 0x0D, 0x0E, 0x0F] := by decide +kernel

end Sys2Proof.Tests
end

section
/-!
What reset leaves (O57): every register reads as its heading gives it, and every table of the state is empty.
-/

namespace Sys2Proof.Machine

/-- No register is listed after reset, so each reads its heading's value. -/
theorem State.reset_reg (off : Nat) : State.reset.reg off = regReset off := rfl

/-- The host interface's die status registers show their dies alike. -/
theorem regReset_dieStat : ∀ d < 4, regReset (0x40 + 4 * d) = 0x00101000 := by decide +kernel

/-- The bank status registers of the pins are alike. -/
theorem regReset_bankStat : ∀ b < 32, regReset (0xD0800 + 4 * b) = 0x0FFC0000 := by decide +kernel

/-- The clock status registers of the islands are alike. -/
theorem regReset_clkIslStat : ∀ i < 256, regReset (0x72000 + 4 * i) = 0x00020000 := by decide +kernel

/-- The context status registers of the islands are alike. -/
theorem regReset_swbIslStat : ∀ i < 256, regReset (0x21000 + 4 * i) = 0x0FFC0000 := by decide +kernel

/-- Settles O57: each part is a value of the state after reset, the register families one lemma each. -/
theorem resetState : Obligations.ResetState := by
  unfold Obligations.ResetState
  simp only [State.reset_reg]
  exact ⟨State.reset_canonical, rfl, rfl, rfl, fun _ => rfl, fun _ => ⟨rfl, rfl⟩, rfl, rfl, rfl, rfl, rfl, rfl,
    regReset_dieStat, rfl, regReset_bankStat, rfl, rfl, rfl, rfl, regReset_clkIslStat, regReset_swbIslStat⟩

end Sys2Proof.Machine
end

section
/-!
SUPPORT. What every command keeps, as one relation between a state and a later one: the canonical form of the register file
and of the memories, and every fuse that is written. There is one rule for each operation of the model, under the operation's
own name and in dotted form, so that a proof reads as the operation's definition does: `h.put.bump.post`.
-/

namespace Sys2Proof.Machine

variable {s t u : State}

/-- Every fuse that is written in `f` holds the same in `g` (R399). -/
structure Fuses.KeptIn (f g : Fuses) : Prop where
  keyHash : f.keyHash ≠ [] → g.keyHash = f.keyHash
  bitKey : f.bitKey ≠ [] → g.bitKey = f.bitKey
  debugHash : f.debugHash ≠ [] → g.debugHash = f.debugHash
  pwHash : f.pwHash ≠ [] → g.pwHash = f.pwHash ∧ g.pwLevel = f.pwLevel

theorem Fuses.KeptIn.refl (f : Fuses) : f.KeptIn f := ⟨fun _ => rfl, fun _ => rfl, fun _ => rfl, fun _ => ⟨rfl, rfl⟩⟩

theorem Fuses.KeptIn.trans {f g k : Fuses} (h : f.KeptIn g) (h' : g.KeptIn k) : f.KeptIn k where
  keyHash n := by rw [h'.keyHash (by rwa [h.keyHash n]), h.keyHash n]
  bitKey n := by rw [h'.bitKey (by rwa [h.bitKey n]), h.bitKey n]
  debugHash n := by rw [h'.debugHash (by rwa [h.debugHash n]), h.debugHash n]
  pwHash n := by
    obtain ⟨p, l⟩ := h.pwHash n
    obtain ⟨p', l'⟩ := h'.pwHash (by rwa [p])
    exact ⟨p'.trans p, l'.trans l⟩

/-- What holds from a state to every later one: the canonical form is kept, and so is every fuse that is written. -/
structure State.Evolves (s t : State) : Prop where
  form : s.canonical → t.canonical
  burnt : s.fuses.KeptIn t.fuses

/-- Every next state that an answer gives evolves from `s`. -/
def State.Allows (s : State) (r : Res) : Prop := ∀ u, r = .next u → s.Evolves u

theorem State.Evolves.refl (s : State) : s.Evolves s := ⟨id, .refl _⟩

theorem State.Evolves.trans (h : s.Evolves t) (g : t.Evolves u) : s.Evolves u := ⟨g.form ∘ h.form, h.burnt.trans g.burnt⟩

/-- An operation that keeps the form and touches no fuse. -/
theorem State.Evolves.keeps (h : s.Evolves t) (k : t.Keeps u) : s.Evolves u :=
  ⟨k.1 ∘ h.form, by rw [k.2]; exact h.burnt⟩

/-- Everything but the set-up registers, the memories and the fuses may change. -/
theorem State.Evolves.elsewhere (h : s.Evolves t) {pending engines pkg isl clk banks net swb hbm cry pins pwr host cfg lko cairn twin
    bst dbg trace inbox free} :
    s.Evolves {
      regs := t.regs, mem := t.mem, fuses := t.fuses, pending, engines, pkg, isl, clk, banks, net, swb, hbm, cry, pins, pwr, host, cfg
      lko, cairn, twin, bst, dbg, trace, inbox, free } :=
  ⟨h.form, h.burnt⟩

/-- An update of the memories that keeps their form, as one does that leaves data, check bits and guard words alone. -/
theorem State.Evolves.onMem (h : s.Evolves t) {f : Memory → Memory}
    (hf : ∀ m : Memory, m.wf = true → (f m).wf = true := by exact fun _ w => w) : s.Evolves (t.onMem f) := h.keeps (t.keeps_onMem f (hf _))

/-! ### Folds -/

theorem State.Evolves.forN (h : s.Evolves t) {n : Nat} {f : Nat → State → State} (hf : ∀ k x, s.Evolves x → s.Evolves (f k x)) :
    s.Evolves (t.forN n f) := by
  induction n with
  | zero => exact h
  | succ n ih => exact hf n _ ih

theorem State.Evolves.forAll {α : Type} {l : List α} {f : α → State → State} (h : s.Evolves t)
    (hf : ∀ a x, s.Evolves x → s.Evolves (f a x)) : s.Evolves (t.forAll l f) := by
  induction l generalizing t with
  | nil => exact h
  | cons a l ih => exact ih (hf a t h)

theorem State.Evolves.foldl {α : Type} {l : List α} {f : State → α → State} (h : s.Evolves t)
    (hf : ∀ x a, s.Evolves x → s.Evolves (f x a)) : s.Evolves (l.foldl f t) := by
  induction l generalizing t with
  | nil => exact h
  | cons a l ih => exact ih (hf t a h)

theorem State.Evolves.foldlSnd {α β : Type} {l : List α} {f : β × State → α → β × State} {b : β} (h : s.Evolves t)
    (hf : ∀ x a, s.Evolves x.2 → s.Evolves (f x a).2) : s.Evolves (l.foldl f (b, t)).2 := by
  suffices ∀ p : β × State, s.Evolves p.2 → s.Evolves (l.foldl f p).2 from this (b, t) h
  induction l with
  | nil => exact fun _ g => g
  | cons a l ih => exact fun p g => ih _ (hf p a g)

/-! ### Branches and answers -/

theorem State.Evolves.ite {c : Prop} [Decidable c] (h : s.Evolves t) (g : s.Evolves u) : s.Evolves (if c then t else u) := by
  split
  · exact h
  · exact g

theorem State.Allows.ite {c : Prop} [Decidable c] {q r : Res} (h : s.Allows q) (g : s.Allows r) :
    s.Allows (if c then q else r) := by
  split
  · exact h
  · exact g

theorem State.Evolves.iteSnd {α : Type} {c : Prop} [Decidable c] {p q : α × State} (h : s.Evolves p.2) (g : s.Evolves q.2) :
    s.Evolves (if c then p else q).2 := by
  split
  · exact h
  · exact g

/-- A state put together from another: registers kept or back at their reset values, and memories that hold their form. -/
theorem State.Evolves.rebuilt (h : s.Evolves t) (q : Nat × W64 → Bool) (hr : u.regs = t.regs.filter q)
    (hm : t.mem.wf = true → u.mem.wf = true) (hf : u.fuses = t.fuses) : s.Evolves u :=
  h.keeps ⟨fun c => ⟨by unfold State.regsWf; rw [hr]; exact Table.wf_filter regReset q t.regs c.1, hm c.2⟩, hf⟩

theorem State.Evolves.getD {o : Option State} (ho : ∀ u, o = some u → s.Evolves u) (h : s.Evolves t) : s.Evolves (o.getD t) := by
  cases o with
  | none => exact h
  | some u => exact ho u rfl

theorem State.Evolves.snd {α : Type} {p : α × State} {a : α} (e : p = (a, u)) (h : s.Evolves u) : s.Evolves p.2 := by
  rw [e]; exact h

theorem State.Evolves.snd₂ {α β : Type} {p : α × β × State} {a : α} {b : β} (e : p = (a, b, u)) (h : s.Evolves u) :
    s.Evolves p.2.2 := by
  rw [e]; exact h

theorem State.Evolves.snd₃ {α β γ : Type} {p : α × β × γ × State} {a : α} {b : β} {c : γ} (e : p = (a, b, c, u))
    (h : s.Evolves u) : s.Evolves p.2.2.2 := by
  rw [e]; exact h

theorem State.Evolves.next (h : s.Evolves t) : s.Allows (.next t) := fun _ e => by cases e; exact h

theorem State.Evolves.notDue (h : s.Evolves t) : s.Allows (notDue t) := h.next

theorem State.Evolves.whenDue {c : Bool} (h : s.Evolves t) (g : s.Evolves u) : s.Allows (whenDue c t u) := .ite g.next h.notDue

theorem State.allows_fault {f : Fault} : s.Allows (.fault f) := fun _ e => by cases e

theorem State.allows_illFormed : s.Allows illFormed := State.allows_fault

/-! ### `Ops`: the named operations every command is written over -/

theorem State.Evolves.setReg (h : s.Evolves t) {off v} : s.Evolves (t.setReg off v) := h.keeps (State.keeps_setReg _ _ _)
theorem State.Evolves.put (h : s.Evolves t) {f v} : s.Evolves (t.put f v) := h.keeps (State.keeps_put _ _ _)
theorem State.Evolves.putB (h : s.Evolves t) {f b} : s.Evolves (t.putB f b) := h.keeps (State.keeps_putB _ _ _)
theorem State.Evolves.bump (h : s.Evolves t) {f n} : s.Evolves (t.bump f n) := h.keeps (State.keeps_bump _ _ _)
theorem State.Evolves.setEng (h : s.Evolves t) {i e'} : s.Evolves (t.setEng i e') := h.elsewhere
theorem State.Evolves.modEng (h : s.Evolves t) {i f} : s.Evolves (t.modEng i f) := h.setEng
theorem State.Evolves.setIsland (h : s.Evolves t) {i x} : s.Evolves (t.setIsland i x) := h.elsewhere
theorem State.Evolves.modIsland (h : s.Evolves t) {i f} : s.Evolves (t.modIsland i f) := h.setIsland
theorem State.Evolves.setTrail (h : s.Evolves t) {t' x} : s.Evolves (t.setTrail t' x) := h.elsewhere
theorem State.Evolves.modTrail (h : s.Evolves t) {t' f} : s.Evolves (t.modTrail t' f) := h.setTrail
theorem State.Evolves.setTxn (h : s.Evolves t) {tag x} : s.Evolves (t.setTxn tag x) := h.elsewhere
theorem State.Evolves.setCtx (h : s.Evolves t) {c x} : s.Evolves (t.setCtx c x) := h.elsewhere
theorem State.Evolves.modCtx (h : s.Evolves t) {c f} : s.Evolves (t.modCtx c f) := h.setCtx
theorem State.Evolves.onNet (h : s.Evolves t) {f} : s.Evolves (t.onNet f) := h.elsewhere
theorem State.Evolves.onSwb (h : s.Evolves t) {f} : s.Evolves (t.onSwb f) := h.elsewhere
theorem State.Evolves.onHost (h : s.Evolves t) {f} : s.Evolves (t.onHost f) := h.keeps (State.keeps_onHost _ _)
theorem State.Evolves.onPkg (h : s.Evolves t) {f} : s.Evolves (t.onPkg f) := h.elsewhere
theorem State.Evolves.onClk (h : s.Evolves t) {f} : s.Evolves (t.onClk f) := h.elsewhere
theorem State.Evolves.took (h : s.Evolves t) : s.Evolves t.took := h.keeps (State.keeps_took _)

theorem State.Evolves.toCairn (h : s.Evolves t) {kind source sev addr} : s.Evolves (t.toCairn kind source sev addr) :=
  h.keeps (State.keeps_toCairn _ _ _ _ _)

theorem State.Evolves.useCheck (h : s.Evolves t) {source chk} : s.Evolves (t.useCheck source chk) :=
  h.keeps (State.keeps_useCheck _ _ _)

theorem State.Evolves.queueEvent (h : s.Evolves t) {q code a0 a1} : s.Evolves (t.queueEvent q code a0 a1) :=
  h.keeps (State.keeps_queueEvent _ _ _ _ _)

theorem State.Evolves.postResult (h : s.Evolves t) {code a0 a1 result} : s.Evolves (t.postResult code a0 a1 result) :=
  h.keeps (State.keeps_postResult _ _ _ _ _)

theorem State.Evolves.post (h : s.Evolves t) {code a0 a1} : s.Evolves (t.post code a0 a1) :=
  h.keeps (State.keeps_post _ _ _ _)

theorem State.Evolves.postCompletion (h : s.Evolves t) {d status result arg} :
    s.Evolves (t.postCompletion d status result arg) :=
  h.keeps (State.keeps_postCompletion _ _ _ _ _)

/-! ### `Routes`: the package network's geometry -/

theorem State.Evolves.placeTrail (h : s.Evolves t) {t' a b r} : s.Evolves (t.placeTrail t' a b r) :=
  .ite h.modTrail.setTrail h.modTrail.setTrail

theorem State.Evolves.nextSeq (h : s.Evolves t) {t'} : s.Evolves (t.nextSeq t') := h.modTrail.onNet
theorem State.Evolves.refreshTrails (h : s.Evolves t) : s.Evolves t.refreshTrails := h.put.put.put
theorem State.Evolves.demote (h : s.Evolves t) {t' cause} : s.Evolves (t.demote t' cause) := h.modTrail.post

theorem State.Evolves.readmit (h : s.Evolves t) {t' a b cause} : s.Evolves (t.readmit t' a b cause) := by
  unfold State.readmit
  dsimp only
  split
  · exact h.modTrail.nextSeq.placeTrail.refreshTrails
  · exact h.modTrail.nextSeq.demote.placeTrail.refreshTrails
  · exact h.modTrail.nextSeq.modTrail.refreshTrails

/-! ### `Fabric`: the fabric of an island -/

theorem State.Evolves.leaveBorders (h : s.Evolves t) {i} : s.Evolves (t.leaveBorders i) := by
  unfold State.leaveBorders
  exact (h.forN (fun _ _ g => (by split; exacts [g, g.modIsland]))).modIsland

theorem State.Evolves.joinBorders (h : s.Evolves t) {i} : s.Evolves (t.joinBorders i) :=
  h.forN (fun _ _ g => (by split; exacts [g, .ite g.modIsland g]))

theorem State.Evolves.execHandshakeWordWrite (h : s.Evolves t) {i side g' w} :
    s.Allows (execHandshakeWordWrite i side g' w t) := by
  unfold Machine.execHandshakeWordWrite
  split
  · exact h.notDue
  · exact h.whenDue h.modIsland

theorem State.Evolves.execHandshakeWordArrive (h : s.Evolves t) {i side g'} :
    s.Allows (execHandshakeWordArrive i side g' t) :=
  h.whenDue h.modIsland

theorem State.Evolves.execHandshakeWordRead (h : s.Evolves t) {i side g'} : s.Allows (execHandshakeWordRead i side g' t) :=
  h.whenDue h.modIsland

/-! ### `LkoLog`: Lookout's log in RAM, the queue of Cairn's messages for it, and whether Lookout serves -/

theorem State.Evolves.onLko (h : s.Evolves t) {f} : s.Evolves (t.onLko f) := h.elsewhere
theorem State.Evolves.onCairn (h : s.Evolves t) {f} : s.Evolves (t.onCairn f) := h.elsewhere
theorem State.Evolves.onTwin (h : s.Evolves t) {f} : s.Evolves (t.onTwin f) := h.elsewhere
theorem State.Evolves.onCfg (h : s.Evolves t) {f} : s.Evolves (t.onCfg f) := h.elsewhere
theorem State.Evolves.lkoFree (h : s.Evolves t) : s.Evolves t.lkoFree := h.putB.put.forN fun _ _ g => g.put
theorem State.Evolves.logAdd (h : s.Evolves t) {typ info} : s.Evolves (t.logAdd typ info) := h.onLko

theorem State.Evolves.drainFifo (h : s.Evolves t) : s.Evolves t.drainFifo :=
  .ite (h.onCairn.forAll (fun _ _ g => .ite g.logAdd g)) h

theorem State.Evolves.tellLookout (h : s.Evolves t) {m react} : s.Evolves (t.tellLookout m react) :=
  .ite h (((h.bump.ite h.onCairn).put.ite (h.bump.ite h.onCairn)).drainFifo)

theorem State.Evolves.lkoSleep (h : s.Evolves t) {on} : s.Evolves (t.lkoSleep on) :=
  .ite (.ite h.put h) (.ite h.put.drainFifo h)

/-! ### `Clocks`: base clocks, island clock units, droop stretching and clock meters -/

theorem State.Evolves.setRunning (h : s.Evolves t) {i k' b} : s.Evolves (t.setRunning i k' b) := h.put

theorem State.Evolves.rampStep (h : s.Evolves t) {i k'} : s.Evolves (t.rampStep i k') :=
  .ite h.setIsland (.ite h.setIsland h.setIsland)

theorem State.Evolves.showRamp (h : s.Evolves t) {i k'} : s.Evolves (t.showRamp i k') := h.put

theorem State.Evolves.retarget (h : s.Evolves t) {i k'} : s.Evolves (t.retarget i k') :=
  ((h.modIsland.rampStep.ite h.modIsland).ite h.modIsland.modIsland).showRamp

theorem State.Evolves.startClock (h : s.Evolves t) {i k'} : s.Evolves (t.startClock i k') :=
  .ite h.modIsland ((h.modIsland.ite h).setRunning.showRamp)

theorem State.Evolves.stopClock (h : s.Evolves t) {i k'} : s.Evolves (t.stopClock i k') := h.setRunning.modIsland

theorem State.Evolves.haltClocks (h : s.Evolves t) {i} : s.Evolves (t.haltClocks i) :=
  (h.forN (fun _ _ g => g.stopClock)).put.modIsland

theorem State.Evolves.stopClocks (h : s.Evolves t) {i} : s.Evolves (t.stopClocks i) := .ite h.haltClocks.put h.haltClocks

theorem State.Evolves.applySetting (h : s.Evolves t) {i w} : s.Evolves (t.applySetting i w) :=
  h.put.put.forN fun _ _ g => g.retarget

theorem State.Evolves.gateClocks (h : s.Evolves t) {i rung} : s.Evolves (t.gateClocks i rung) :=
  h.forN (fun _ _ g => .ite g.startClock (.ite g.modIsland g))

theorem State.Evolves.setTf (h : s.Evolves t) {i tf} : s.Evolves (t.setTf i tf) := h.put.forN fun _ _ g => g.retarget
theorem State.Evolves.execHoldoverSlew (h : s.Evolves t) : s.Allows (execHoldoverSlew t) := h.whenDue h.onClk
theorem State.Evolves.execRefReturn (h : s.Evolves t) {ppm} : s.Allows (execRefReturn ppm t) := h.put.put.put.onClk.next

theorem State.Evolves.execClkBaseWrite (h : s.Evolves t) {n fmul} : s.Allows (execClkBaseWrite n fmul t) :=
  .ite h.next (.ite h.put.next (.ite h.put.next h.put.put.put.next))

theorem State.Evolves.execBaseClockLocked (h : s.Evolves t) {n} : s.Allows (execBaseClockLocked n t) := h.put.next

theorem State.Evolves.execClockRampStep (h : s.Evolves t) {i k'} : s.Allows (execClockRampStep i k' t) :=
  h.whenDue h.rampStep.showRamp

theorem State.Evolves.execDroopFire (h : s.Evolves t) {i} : s.Allows (execDroopFire i t) :=
  (h.bump.modIsland.forAll (fun _ _ g => g.modIsland.put)).next

theorem State.Evolves.execDroopStretchRelease (h : s.Evolves t) {i} : s.Allows (execDroopStretchRelease i t) :=
  h.whenDue (h.forAll (fun _ _ g => g.modIsland))

theorem State.Evolves.execDroopStretchEnd (h : s.Evolves t) {i} : s.Allows (execDroopStretchEnd i t) :=
  h.whenDue (h.forAll (fun _ _ g => g.modIsland.put))

theorem State.Evolves.execClockStopIdle (h : s.Evolves t) {i k'} : s.Allows (execClockStopIdle i k' t) :=
  h.whenDue h.stopClock

theorem State.Evolves.execClockStopForced (h : s.Evolves t) {i k'} : s.Allows (execClockStopForced i k' t) :=
  h.whenDue h.stopClock.put

theorem State.Evolves.meterDone (h : s.Evolves t) {m count} : s.Evolves (t.meterDone m count) := h.put.put.put.put
theorem State.Evolves.meterBegin (h : s.Evolves t) {m} : s.Evolves (t.meterBegin m) := .ite h.onClk h.onClk.meterDone

theorem State.Evolves.execClkMtrStart (h : s.Evolves t) {m} : s.Allows (execClkMtrStart m t) :=
  .ite h.next (.ite h.put.put.onClk.next h.put.put.meterBegin.next)

theorem State.Evolves.execClkMtrDone (h : s.Evolves t) {m count} : s.Allows (execClkMtrDone m count t) :=
  h.whenDue h.meterDone

theorem State.Evolves.execClkMtrAbort (h : s.Evolves t) {m} : s.Allows (execClkMtrAbort m t) :=
  h.whenDue h.put.put.put.put.put

theorem State.Evolves.execLookoutClockSupervision (h : s.Evolves t) {m hold} :
    s.Allows (execLookoutClockSupervision m hold t) :=
  .ite (h.whenDue h.put) ((h.put.meterBegin.ite h.put).next)

/-! ### `Banks`: GPIO banks -/

theorem State.Evolves.setBank (h : s.Evolves t) {b x} : s.Evolves (t.setBank b x) := h.elsewhere
theorem State.Evolves.modBank (h : s.Evolves t) {b f} : s.Evolves (t.modBank b f) := h.setBank
theorem State.Evolves.showBank (h : s.Evolves t) {b} : s.Evolves (t.showBank b) := h.putB.putB
theorem State.Evolves.showBanks (h : s.Evolves t) : s.Evolves t.showBanks := h.forN fun _ _ g => g.showBank

theorem State.Evolves.drivePads (h : s.Evolves t) {i k' x} : s.Evolves (t.drivePads i k' x) := by
  unfold State.drivePads
  split
  · exact h
  · exact .ite h h.modBank

theorem State.Evolves.bankRelease (h : s.Evolves t) {i ctx g'} : s.Evolves (t.bankRelease i ctx g') := by
  unfold State.bankRelease
  split
  · exact h
  · exact .ite h (.ite h.modBank.put.showBank.post h.modBank.put.showBank)

theorem State.Evolves.bankFence (h : s.Evolves t) {i} : s.Evolves (t.bankFence i) := by
  unfold State.bankFence
  split
  · exact h
  · exact h.modBank.put.showBank

theorem State.Evolves.banksDefault (h : s.Evolves t) {d} : s.Evolves (t.banksDefault d) :=
  h.forN fun _ _ g => g.modBank.put.showBank

theorem State.Evolves.endSettle (h : s.Evolves t) {i} : s.Evolves (t.endSettle i) := .ite h h.elsewhere

theorem State.Evolves.execIslandClockEdge (h : s.Evolves t) {is k' rising ins} :
    s.Allows (execIslandClockEdge is k' rising ins t) := by
  unfold Machine.execIslandClockEdge
  extract_lets s0 s1
  have h0 : s.Evolves s0 := by
    unfold s0
    split
    · exact h.modIsland
    · exact h
  have h1 : s.Evolves s1 := h0.forAll fun _ _ g => g.setIsland
  refine (h1.forAll fun _ _ g => ?_).next
  extract_lets v0 v1
  have hv : s.Evolves v1 := g.setIsland.drivePads.ite g.setIsland
  exact hv.endSettle.ite hv

/-! ### `HbmLog`: the HBM error log and the start of a pseudo-channel's retirement -/

theorem State.Evolves.onHbm (h : s.Evolves t) {f} : s.Evolves (t.onHbm f) := h.keeps (State.keeps_onHbm _ _)
theorem State.Evolves.onCry (h : s.Evolves t) {f} : s.Evolves (t.onCry f) := h.elsewhere

theorem State.Evolves.hbmLog (h : s.Evolves t) {kind p dpa} : s.Evolves (t.hbmLog kind p dpa) :=
  h.keeps (State.keeps_hbmLog _ _ _ _)

theorem State.Evolves.retirePc (h : s.Evolves t) {p} : s.Evolves (t.retirePc p) := h.keeps (State.keeps_retirePc _ _)
theorem State.Evolves.hbmUe (h : s.Evolves t) {kind dpa} : s.Evolves (t.hbmUe kind dpa) := h.keeps (State.keeps_hbmUe _ _ _)
theorem State.Evolves.odeccError (h : s.Evolves t) {line} : s.Evolves (t.odeccError line) := h.hbmUe.bump.toCairn

theorem State.Evolves.hbmCaError (h : s.Evolves t) {p dpa} : s.Evolves (t.hbmCaError p dpa) :=
  h.keeps (State.keeps_hbmCaError _ _ _)

/-! ### `Codes`: the two nested codes and the accesses of every coded memory -/

theorem State.Evolves.setByte (h : s.Evolves t) {a b} : s.Evolves (t.setByte a b) := h.keeps (State.keeps_setByte _ _ _)
theorem State.Evolves.setBytes (h : s.Evolves t) {a a'} : s.Evolves (t.setBytes a a') := h.keeps (State.keeps_setBytes _ _ _)

theorem State.Evolves.setRawWord (h : s.Evolves t) {w v} : s.Evolves (t.setRawWord w v) :=
  h.keeps (State.keeps_setRawWord _ _ _)

theorem State.Evolves.setCheck (h : s.Evolves t) {w c} : s.Evolves (t.setCheck w c) := h.keeps (State.keeps_setCheck _ _ _)

theorem State.Evolves.storeWord (h : s.Evolves t) {w v} : s.Evolves (t.storeWord w v) :=
  h.keeps (State.keeps_storeWord _ _ _)

theorem State.Evolves.setGuard (h : s.Evolves t) {k' p q} : s.Evolves (t.setGuard k' p q) :=
  h.keeps (State.keeps_setGuard _ _ _ _)

theorem State.Evolves.reguard (h : s.Evolves t) {r} : s.Evolves (t.reguard r) := h.keeps (State.keeps_reguard _ _)

theorem State.Evolves.ceCross (h : s.Evolves t) {s0 c} : s.Evolves (State.ceCross s0 t c) :=
  h.keeps (State.keeps_ceCross _ _ _)

theorem State.Evolves.logLost (h : s.Evolves t) {t'} : s.Evolves (t.logLost t') := h.keeps (State.keeps_logLost _ _)

theorem State.Evolves.logEvent (h : s.Evolves t) {r w kind syn scrub} : s.Evolves (t.logEvent r w kind syn scrub) :=
  h.keeps (State.keeps_logEvent _ _ _ _ _ _)

theorem State.Evolves.corrected (h : s.Evolves t) {r w kind syn scrub} : s.Evolves (t.corrected r w kind syn scrub) :=
  h.keeps (State.keeps_corrected _ _ _ _ _ _)

theorem State.Evolves.guarded (h : s.Evolves t) {r w kind scrub} : s.Evolves (t.guarded r w kind scrub) :=
  h.keeps (State.keeps_guarded _ _ _ _ _)

theorem State.Evolves.uncorrectable (h : s.Evolves t) {r w} : s.Evolves (t.uncorrectable r w) :=
  h.keeps (State.keeps_uncorrectable _ _ _)

theorem State.Evolves.countWord (h : s.Evolves t) {r w k' scrub} : s.Evolves (t.countWord r w k' scrub) :=
  h.keeps (State.keeps_countWord _ _ _ _ _)

theorem State.Evolves.countGuard (h : s.Evolves t) {r scrub} : s.Evolves (t.countGuard r scrub) :=
  h.keeps (State.keeps_countGuard _ _ _)

theorem State.Evolves.countSet (h : s.Evolves t) {r skip scrub} : s.Evolves (t.countSet r skip scrub) :=
  h.keeps (State.keeps_countSet _ _ _ _)

theorem State.Evolves.rebuildSet (h : s.Evolves t) {r scrub} : s.Evolves (t.rebuildSet r scrub).1 :=
  h.keeps (State.keeps_rebuildSet _ _ _)

theorem State.Evolves.readStored (h : s.Evolves t) {r w scrub} : s.Evolves (t.readStored r w scrub).2.2 :=
  h.keeps (State.keeps_readStored _ _ _ _)

theorem State.Evolves.readCode (h : s.Evolves t) {r w scrub} : s.Evolves (t.readCode r w scrub).2.2 :=
  h.keeps (State.keeps_readCode _ _ _ _)

theorem State.Evolves.writeCode (h : s.Evolves t) {r w v told} : s.Evolves (t.writeCode r w v told) :=
  h.keeps (State.keeps_writeCode _ _ _ _ _)

theorem State.Evolves.setMergeList (h : s.Evolves t) {unit l} : s.Evolves (t.setMergeList unit l) :=
  h.keeps (State.keeps_setMergeList _ _ _)

theorem State.Evolves.flushEntry (h : s.Evolves t) {r e'} : s.Evolves (t.flushEntry r e') :=
  h.keeps (State.keeps_flushEntry _ _ _)

theorem State.Evolves.flushWord (h : s.Evolves t) {r w} : s.Evolves (t.flushWord r w) :=
  h.keeps (State.keeps_flushWord _ _ _)

theorem State.Evolves.flushUnit (h : s.Evolves t) {unit} : s.Evolves (t.flushUnit unit) :=
  h.keeps (State.keeps_flushUnit _ _)

theorem State.Evolves.narrowWrite (h : s.Evolves t) {r w v mask} : s.Evolves (t.narrowWrite r w v mask) :=
  h.keeps (State.keeps_narrowWrite _ _ _ _ _)

theorem State.Evolves.fullWrite (h : s.Evolves t) {r w v} : s.Evolves (t.fullWrite r w v) :=
  h.keeps (State.keeps_fullWrite _ _ _ _)

theorem State.Evolves.readWord (h : s.Evolves t) {r w scrub} : s.Evolves (t.readWord r w scrub).2.2 :=
  h.keeps (State.keeps_readWord _ _ _ _)

theorem State.Evolves.loadWord (h : s.Evolves t) {w} : s.Evolves (t.loadWord w).2.2 := h.keeps (State.keeps_loadWord _ _)

theorem State.Evolves.maskWrite (h : s.Evolves t) {w v mask} : s.Evolves (t.maskWrite w v mask) :=
  h.keeps (State.keeps_maskWrite _ _ _ _)

theorem State.Evolves.loadWords (h : s.Evolves t) {w a} : s.Evolves (t.loadWords w a).2.2 :=
  h.keeps (State.keeps_loadWords _ _ _)

theorem State.Evolves.load (h : s.Evolves t) {a len} : s.Evolves (t.load a len).2.2 := h.keeps (State.keeps_load _ _ _)

theorem State.Evolves.storeN (h : s.Evolves t) {a bs a'} : s.Evolves (t.storeN a bs a') :=
  h.keeps (State.keeps_storeN _ _ _ _)

theorem State.Evolves.store (h : s.Evolves t) {a bs} : s.Evolves (t.store a bs) := h.keeps (State.keeps_store _ _ _)

theorem State.Evolves.zeroRange (h : s.Evolves t) {a len} : s.Evolves (t.zeroRange a len) :=
  h.keeps (State.keeps_zeroRange _ _ _)

/-! ### `Engine`: the signal engine's machine -/

theorem State.Evolves.readIdx (h : s.Evolves t) {i y cache l} : s.Evolves (t.readIdx i y cache l).2.2 := by
  induction l generalizing t cache with
  | nil => exact h
  | cons k l ih =>
    have hr : s.Evolves (t.loadWord (xyWord i y k)).2.2 := h.loadWord
    have hv : ∀ {cache}, s.Evolves (t.readIdx i y cache l).2.2 := ih h
    rw [State.readIdx]
    generalize t.loadWord (xyWord i y k) = r at hr ⊢
    have hr : s.Evolves (r.2.2.readIdx i y ((xyWord i y k, r.1) :: cache) l).2.2 := ih hr
    generalize cache.find? _ = o
    cases o with
    | some p => exact .snd₂ rfl hv
    | none => exact .snd₂ rfl hr

theorem State.Evolves.tracePkt (h : s.Evolves t) {p} : s.Evolves (t.tracePkt p) := .ite h (.ite h.bump h.elsewhere)

theorem State.Evolves.termPush (h : s.Evolves t) {i v} : s.Evolves (t.termPush i v) :=
  .ite h.tracePkt (.ite h.setEng h.setEng)

theorem State.Evolves.writeNow (h : s.Evolves t) {i y l} : s.Evolves (t.writeNow i y l) :=
  .ite ((h.forAll (fun _ _ g => g.maskWrite)).forAll (fun _ _ g => g.termPush)) (h.forAll (fun _ _ g => g.maskWrite))

theorem State.Evolves.writeIdx (h : s.Evolves t) {i y l} : s.Evolves (t.writeIdx i y l) := .ite h.writeNow h.writeNow.modEng
theorem State.Evolves.commit (h : s.Evolves t) {i} : s.Evolves (t.commit i) := h.writeNow.writeNow
theorem State.Evolves.haltNow (h : s.Evolves t) {i why hit pc} : s.Evolves (t.haltNow i why hit pc) := h.modEng.post.tracePkt
theorem State.Evolves.halt (h : s.Evolves t) {i why hit pc} : s.Evolves (t.halt i why hit pc) := .ite h.modEng h.haltNow

theorem State.Evolves.serveAll (h : s.Evolves t) {i pkt l} : s.Evolves (t.serveAll i pkt l).1 := by
  induction l generalizing t with
  | nil => exact h
  | cons k ks ih => exact ih (.ite h.setEng.tracePkt h.setEng)

theorem State.Evolves.watches (h : s.Evolves t) {i svc l} : s.Evolves (t.watches i svc l).1 := h.serveAll

theorem State.Evolves.trapAt (h : s.Evolves t) {i cause tpc} : s.Evolves (t.trapAt i cause tpc) :=
  .ite (.ite h.setEng.haltNow h.setEng.modEng) h.setEng.toCairn

theorem State.Evolves.trap (h : s.Evolves t) {i cause} : s.Evolves (t.trap i cause) := h.trapAt

theorem State.Evolves.trapLow (h : s.Evolves t) {i cause} : s.Evolves (t.trapLow i cause) :=
  .ite h.trap (.ite h.modEng.trap h.modEng.trap)

theorem State.Evolves.fetch (h : s.Evolves t) {i} : s.Evolves (t.fetch i).2.2.2 := .snd₃ rfl h.loadWord.loadWord

theorem State.Evolves.finish (h : s.Evolves t) {i o watch merr} : s.Evolves (t.finish i o watch merr) := by
  unfold State.finish
  extract_lets e r x e1 e2 e3 s1 s2 s3 e4 s4 e5
  have h1 : s.Evolves s1 := h.setEng
  clear_value s1
  have h2 : s.Evolves s2 := .ite h1.commit.modEng h1
  clear_value s2
  have h3 : s.Evolves s3 := .ite h2.trapLow h2
  clear_value s3
  have h4 : s.Evolves s4 := by
    unfold s4
    split
    · exact .ite h3.halt h3
    · exact h3
  clear_value s4
  exact .ite (.ite h4 (.ite h4.haltNow (.ite h4.setEng h4))) h4

theorem State.Evolves.perform (h : s.Evolves t) {i b} : s.Evolves (t.perform i b) :=
  (h.took.ite h).readIdx.readIdx.setEng.writeIdx.writeIdx.watches.finish

theorem State.Evolves.breakpoint (h : s.Evolves t) {i} : s.Evolves (t.breakpoint i) :=
  .ite h.setEng.modEng.halt h.setEng.trapAt

theorem State.Evolves.issueBundle (h : s.Evolves t) {i b} : s.Evolves (t.issueBundle i b) := by
  unfold State.issueBundle
  dsimp only
  split
  · exact h
  · split
    · exact .ite h.serveAll.halt (.ite h.serveAll.halt.trap (.ite h.serveAll.halt.breakpoint h.serveAll.halt.perform))
    · exact .ite h.serveAll.trap (.ite h.serveAll.breakpoint h.serveAll.perform)

theorem State.Evolves.issue (h : s.Evolves t) {i want} : s.Evolves (t.issue i want) := by
  unfold State.issue
  dsimp only
  split
  · exact h
  · split
    · exact h.setEng
    · split
      · exact h
      · split
        · exact h.fetch.trapLow
        · split
          · exact h.fetch.trapLow
          · exact .ite h (.ite h.fetch.trapLow h.fetch.issueBundle)

/-! ### `EngineRegs`: engine registers and commands other than bundles -/

theorem State.Evolves.answer (h : s.Evolves t) {data status} : s.Evolves (t.answer data status) := h.onMem

theorem State.Evolves.stateArea (h : s.Evolves t) {i off a} : s.Evolves (t.stateArea i off a).2.2 := by
  unfold State.stateArea
  dsimp only
  split
  · exact h
  · split
    · exact h
    · exact h.setEng

theorem State.Evolves.winData (h : s.Evolves t) (g : s.Evolves u) {i n d} : s.Evolves (t.winData i n d u).2 := by
  unfold State.winData
  extract_lets old k
  split
  · split
    · exact h
    · exact .snd rfl h.elsewhere
  · split
    · exact g
    · exact .snd rfl g.modEng

theorem State.Evolves.winWrite (h : s.Evolves t) {i f} (hf : ∀ x, s.Evolves x → s.Evolves (f x)) :
    s.Evolves (t.winWrite i f) :=
  .ite (hf _ h) h

theorem State.Evolves.engResume (h : s.Evolves t) {i} : s.Evolves (t.engResume i) := .ite h.modEng.tracePkt h

theorem State.Evolves.runLock (h : s.Evolves t) {i n} : s.Evolves (t.runLock i n) := by
  induction n generalizing t with
  | zero => exact h
  | succ n ih => exact .ite (ih h.issue) h

theorem State.Evolves.engStep (h : s.Evolves t) {i} : s.Evolves (t.engStep i) := by
  unfold State.engStep
  refine .ite h ?_
  extract_lets v w
  have hw : s.Evolves w := .ite h.setEng.issue.runLock.haltNow h.setEng.issue.runLock
  exact hw.modEng.ite hw

theorem State.Evolves.termWrite (h : s.Evolves t) {i w} : s.Evolves (t.termWrite i w) :=
  .ite h (.ite h.loadWord h.loadWord.maskWrite)

theorem State.Evolves.execEngCtlStart (h : s.Evolves t) {i} : s.Allows (execEngCtlStart i t) :=
  (h.winWrite (fun _ g => g.modEng)).next

theorem State.Evolves.execEngCtlStop (h : s.Evolves t) {i} : s.Allows (execEngCtlStop i t) :=
  (h.winWrite (fun _ g => g.modEng)).next

theorem State.Evolves.execClrFault (h : s.Evolves t) {i} : s.Allows (execClrFault i t) :=
  (h.winWrite (fun _ g => g.modEng)).next

theorem State.Evolves.execEngStartWrite (h : s.Evolves t) {i pc} : s.Allows (execEngStartWrite i pc t) :=
  (h.winWrite (fun _ g => g.modEng)).next

theorem State.Evolves.execEngSemaWrite (h : s.Evolves t) {i v} : s.Allows (execEngSemaWrite i v t) :=
  (h.winWrite (fun _ g => g.modEng)).next

theorem State.Evolves.execEngStateAreaAccess (h : s.Evolves t) {i off a} : s.Allows (execEngStateAreaAccess i off a t) := by
  unfold Machine.execEngStateAreaAccess
  split
  · exact h.answer.next
  · split
    · exact (State.Evolves.answer (by split; exacts [h.winData h.stateArea, h.stateArea])).next
    · exact (h.winWrite (fun _ g => h.stateArea)).answer.next

theorem State.Evolves.execServicePortForce (h : s.Evolves t) {i} : s.Allows (execServicePortForce i t) := h.whenDue h.modEng

theorem State.Evolves.execStreamInWord (h : s.Evolves t) {i port w} : s.Allows (execStreamInWord i port w t) :=
  h.whenDue (.ite h h.setEng)

theorem State.Evolves.execStreamOutWord (h : s.Evolves t) {i port} : s.Allows (execStreamOutWord i port t) := by
  unfold Machine.execStreamOutWord
  dsimp only
  split
  · exact h.notDue
  · exact h.setEng.next

theorem State.Evolves.execEngDmCmdWrite (h : s.Evolves t) {i ch w1} : s.Allows (execEngDmCmdWrite i ch w1 t) :=
  (h.winWrite (fun _ g => g.modEng)).next

theorem State.Evolves.execDmResume (h : s.Evolves t) {i ch} : s.Allows (execDmResume i ch t) :=
  (h.winWrite (fun _ g => g.modEng)).next

theorem State.Evolves.execDmAbort (h : s.Evolves t) {i ch} : s.Allows (execDmAbort i ch t) :=
  (h.winWrite (fun _ g => g.modEng)).next

theorem State.Evolves.execWatchdogFirstExpiry (h : s.Evolves t) {i} : s.Allows (execWatchdogFirstExpiry i t) :=
  h.whenDue h.modEng.trapLow

theorem State.Evolves.execWatchdogHardStop (h : s.Evolves t) {i} : s.Allows (execWatchdogHardStop i t) :=
  h.whenDue h.setEng.toCairn

theorem State.Evolves.execEngWdogKick (h : s.Evolves t) {i} : s.Allows (execEngWdogKick i t) :=
  (h.winWrite (fun _ g => g.modEng)).next

theorem State.Evolves.execLockBreak (h : s.Evolves t) {i} : s.Allows (execLockBreak i t) := h.whenDue h.trapLow

theorem State.Evolves.execEngDbgHalt (h : s.Evolves t) {i} : s.Allows (execEngDbgHalt i t) :=
  h.whenDue (h.winWrite (fun _ g => g.halt))

theorem State.Evolves.execEngDbgStep (h : s.Evolves t) {i} : s.Allows (execEngDbgStep i t) :=
  (h.winWrite (fun _ g => g.engStep)).next

theorem State.Evolves.execEngDbgResume (h : s.Evolves t) {i} : s.Allows (execEngDbgResume i t) :=
  (h.winWrite (fun _ g => g.engResume)).next

theorem State.Evolves.execHaltDeferExpiry (h : s.Evolves t) {i} : s.Allows (execHaltDeferExpiry i t) :=
  h.whenDue h.setEng.haltNow

theorem State.Evolves.execEngDbgRxPop (h : s.Evolves t) {i obs} : s.Allows (execEngDbgRxPop i obs t) :=
  (h.answer.ite ((h.winData (.ite h h.modEng)).answer)).next

theorem State.Evolves.execEngDbgRxack (h : s.Evolves t) {i} : s.Allows (execEngDbgRxack i t) :=
  (h.winWrite (fun _ g => g.modEng)).next

theorem State.Evolves.execEngDbgWr (h : s.Evolves t) {i w} : s.Allows (execEngDbgWr i w t) :=
  h.whenDue (h.winWrite (fun _ g => g.termWrite))

/-! ### `Rings`: descriptors of the rings -/

theorem State.Evolves.setSlots (h : s.Evolves t) {r l} : s.Evolves (t.setSlots r l) := h.onHost.put
theorem State.Evolves.setRingState (h : s.Evolves t) {r st} : s.Evolves (t.setRingState r st) := h.put.put
theorem State.Evolves.ringError (h : s.Evolves t) {r why} : s.Evolves (t.ringError r why) := h.setRingState.put.post
theorem State.Evolves.started (h : s.Evolves t) {d} : s.Evolves (t.started d) := h.setSlots

theorem State.Evolves.retire (h : s.Evolves t) {r n} : s.Evolves (t.retire r n) := by
  induction n generalizing t with
  | zero => exact h
  | succ n ih =>
    unfold State.retire
    split
    · split
      · exact .ite (ih h.setSlots.postCompletion) h
      · exact h
    · exact h

theorem State.Evolves.complDesc (h : s.Evolves t) {d status result arg} : s.Evolves (t.complDesc d status result arg) :=
  .ite h (.ite h.setSlots.postCompletion ((h.setSlots.setRingState.ite h.setSlots).retire))

theorem State.Evolves.dropBad (h : s.Evolves t) {r n} : s.Evolves (t.dropBad r n) := by
  induction n generalizing t with
  | zero => exact h
  | succ n ih =>
    unfold State.dropBad
    split
    · exact .ite (ih h.complDesc) h
    · exact h

theorem State.Evolves.endDesc (h : s.Evolves t) {d status result arg} : s.Evolves (t.endDesc d status result arg) :=
  h.complDesc.dropBad

theorem State.Evolves.opDone (h : s.Evolves t) {d code arg} : s.Evolves (t.opDone d code arg) := .ite h.endDesc h.endDesc

theorem State.Evolves.runDesc (h : s.Evolves t) {d op ok f} (hf : ∀ x, s.Evolves x → s.Evolves (f x)) :
    s.Allows (t.runDesc d op ok f) :=
  .ite h.notDue (.ite h.started.endDesc.next ((hf _ h.started).next))

/-! ### `Net`: messages on the package network -/

theorem State.Evolves.errCount (h : s.Evolves t) {code} : s.Evolves (t.errCount code) := .ite h.bump h
theorem State.Evolves.record (h : s.Evolves t) {who m} : s.Evolves (t.record who m) := h.setTxn.onNet

theorem State.Evolves.accept (h : s.Evolves t) {who m} : s.Evolves (t.accept who m) := by
  unfold State.accept
  exact h.record.onNet

theorem State.Evolves.setJob (h : s.Evolves t) {d j} : s.Evolves (t.setJob d j) := h.setSlots

theorem State.Evolves.jobGo (h : s.Evolves t) {d j} : s.Evolves (t.jobGo d j) := by
  unfold State.jobGo
  split
  · exact h.setJob
  · split
    · exact h.setJob
    · exact .ite h.errCount.setJob h.setJob.accept

theorem State.Evolves.blur (h : s.Evolves t) {wild a bs} : s.Evolves (t.blur wild a bs).2 := by
  induction bs generalizing t a with
  | nil => exact h
  | cons b bs ih => exact ih (.ite h.took h)

theorem State.Evolves.jobReply (h : s.Evolves t) {r} : s.Evolves (t.jobReply r) := by
  unfold State.jobReply
  split
  · exact .ite (.ite h.blur.jobGo h.setJob) (.ite (.ite h.setJob h.blur.jobGo) (.ite h.setJob h.jobGo))
  · exact h

theorem State.Evolves.unitReply (h : s.Evolves t) {v r} : s.Evolves (t.unitReply v r) := .ite h.jobReply (.ite h.elsewhere h)
theorem State.Evolves.late (h : s.Evolves t) : s.Evolves t.late := h.bump
theorem State.Evolves.toPort (h : s.Evolves t) {i p m} : s.Evolves (t.toPort i p m) := h.onNet

theorem State.Evolves.svcTouch (h : s.Evolves t) {i l} : s.Evolves (t.svcTouch i l) := by
  unfold State.svcTouch
  dsimp only
  split
  · exact .ite h.watches.halt h.watches
  · exact h.watches

theorem State.Evolves.modChan (h : s.Evolves t) {i c f} : s.Evolves (t.modChan i c f) := h.modEng

theorem State.Evolves.dmHalt (h : s.Evolves t) {i c err code} : s.Evolves (t.dmHalt i c err code) :=
  .ite h.modChan.modEng h.modChan

theorem State.Evolves.dmStore (h : s.Evolves t) {i c l} : s.Evolves (t.dmStore i c l) := by
  unfold State.dmStore
  exact (h.forAll (fun _ _ g => g.maskWrite)).svcTouch.modChan

theorem State.Evolves.dmFailed (h : s.Evolves t) {i c err code} : s.Evolves (t.dmFailed i c err code) :=
  .ite h.dmHalt h.modChan

theorem State.Evolves.dmAnswer (h : s.Evolves t) {i c status data} : s.Evolves (t.dmAnswer i c status data) :=
  .ite h.dmFailed (.ite h.modChan h.dmStore)

theorem State.Evolves.freeTag (h : s.Evolves t) {tag} : s.Evolves (t.freeTag tag) := h.setTxn

theorem State.Evolves.complete (h : s.Evolves t) {r} : s.Evolves (t.complete r) := by
  unfold State.complete
  dsimp only
  split
  · exact h.onNet.late
  · split
    · split
      · exact h.freeTag.onNet
      · exact .ite h.freeTag.dmStore h.freeTag.dmFailed
      · exact h.freeTag.unitReply
    · split
      · split
        · exact h.setTxn.toPort
        · exact h.setTxn.modChan
        · exact h.setTxn.unitReply
      · split
        · exact h.freeTag.toPort
        · exact h.freeTag.dmAnswer
        · exact h.freeTag.unitReply

theorem State.Evolves.failTag (h : s.Evolves t) {m status} : s.Evolves (t.failTag m status) := h.errCount.complete
theorem State.Evolves.ingress (h : s.Evolves t) {who m} : s.Evolves (t.ingress who m) := .ite h.record.failTag h.accept

theorem State.Evolves.dmNext (h : s.Evolves t) {i c} : s.Evolves (t.dmNext i c) :=
  .ite h (.ite (.ite h.readIdx.dmHalt h.readIdx.svcTouch.modChan.ingress) h.modChan.ingress)

theorem State.Evolves.dmStart (h : s.Evolves t) {i c} : s.Evolves (t.dmStart i c) := .ite h (.ite h.modChan.dmNext h.dmNext)

theorem State.Evolves.release (h : s.Evolves t) {t'} : s.Evolves (t.release t') := by
  unfold State.release
  split
  · exact h
  · exact .ite h h.setTrail.onNet

theorem State.Evolves.respond (h : s.Evolves t) {q op status data operand addr prov} :
    s.Evolves (t.respond q op status data operand addr prov) := by
  unfold State.respond
  exact (h.errCount.ite h).onNet

theorem State.Evolves.egress (h : s.Evolves t) {m at_} : s.Evolves (t.egress m at_).2 := by
  unfold State.egress
  split
  · exact h.toCairn
  · split
    · exact h.useCheck.toCairn
    · split
      · exact h.toCairn
      · exact h

theorem State.Evolves.dropFlight (h : s.Evolves t) {f} : s.Evolves (t.dropFlight f) := h.onNet
theorem State.Evolves.dropResp (h : s.Evolves t) {f} : s.Evolves (t.dropResp f) := h.onNet

theorem State.Evolves.serve (h : s.Evolves t) {tag op f} (hf : ∀ a x, s.Evolves x → s.Evolves (f a x)) :
    s.Allows (t.serve tag op f) := by
  unfold State.serve
  split
  · exact h.notDue
  · exact .ite h.dropFlight.late.next (.ite h.dropFlight.egress.respond.next ((hf _ _ h.dropFlight.egress).next))

theorem State.Evolves.deliver (h : s.Evolves t) {tag op} : s.Evolves (t.deliver tag op) := by
  unfold State.deliver
  split
  · exact h
  · rename_i f _
    extract_lets s1 wait e s2
    have h1 : s.Evolves s1 := h.dropResp
    have he : s.Evolves e.2 := h1.egress
    have h2 : s.Evolves s2 := he.complete
    clear_value wait e s2
    refine .ite h (.ite h1.late (.ite he.errCount.complete ?_))
    split
    · exact h2.dmNext
    · exact h2

theorem State.Evolves.openTrail (h : s.Evolves t) {w0 w1 w2 w3} : s.Evolves (t.openTrail w0 w1 w2 w3).2.2 := by
  unfold State.openTrail
  extract_lets x assign a b st route
  clear_value route
  split
  · exact h
  · split
    · exact h
    · split
      · exact h
      · split
        · exact h
        · extract_lets s1 s2
          have h1 : s.Evolves s1 := h.setTrail.nextSeq
          have h2 : s.Evolves s2 := by
            unfold s2
            split
            · exact h1.placeTrail
            · exact h1
          clear_value s2
          split
          · exact h
          · split
            · exact h
            · exact .snd₂ rfl h2.refreshTrails

theorem State.Evolves.failHeld (h : s.Evolves t) {p code} : s.Evolves (t.failHeld p code) :=
  h.onNet.forAll fun _ _ g => g.failTag

theorem State.Evolves.closeTrail (h : s.Evolves t) {t'} : s.Evolves (t.closeTrail t') :=
  (h.setTrail.failHeld.ite h.setTrail).refreshTrails

theorem State.Evolves.closed (h : s.Evolves t) {t'} : s.Evolves (t.closed t') := h.failHeld.setTrail.refreshTrails

/-! ### `Crypt`: encrypted ranges -/

theorem State.Evolves.authAlarm (h : s.Evolves t) {line trail} : s.Evolves (t.authAlarm line trail) := h.bump.post.toCairn

theorem State.Evolves.sealedRead (h : s.Evolves t) {l} : s.Evolves (t.sealedRead l).2 := by
  induction l generalizing t with
  | nil => exact h
  | cons x l ih =>
    obtain ⟨line, a, k⟩ := x
    refine ih ?_
    split
    · exact h.load.load
    · exact h.load

theorem State.Evolves.sealedWrite (h : s.Evolves t) {trail bs l} : s.Evolves (t.sealedWrite trail bs l).2 := by
  induction l generalizing t bs with
  | nil => exact h
  | cons x l ih =>
    obtain ⟨line, a, k⟩ := x
    unfold State.sealedWrite
    extract_lets part put r x one more
    have hp : ∀ {x slot epoch data}, s.Evolves x → s.Evolves (put x slot epoch data) := fun g => g.store.store
    have hx : s.Evolves x.2.2 := h.load.load
    have h1 : s.Evolves one.2 := by
      unfold one
      clear_value put x r
      split
      · exact .iteSnd (hp h) (.iteSnd hx (.iteSnd (hp hx) hx.authAlarm))
      · exact h.store
    exact ih h1

theorem State.Evolves.showSlots (h : s.Evolves t) : s.Evolves t.showSlots := h.put
theorem State.Evolves.setSlot (h : s.Evolves t) {k' l} : s.Evolves (t.setSlot k' l) := h.put.onCry

theorem State.Evolves.execKeyZero (h : s.Evolves t) {d} : s.Allows (execKeyZero d t) :=
  h.runDesc fun _ g => .ite g.opDone g.setSlot.opDone

theorem State.Evolves.setTree (h : s.Evolves t) {n a} : s.Evolves (t.setTree n a) := h.put
theorem State.Evolves.showQueue (h : s.Evolves t) : s.Evolves t.showQueue := h.put
theorem State.Evolves.queueConv (h : s.Evolves t) {j} : s.Evolves (t.queueConv j) := h.onCry.showQueue

theorem State.Evolves.execRangeEnable (h : s.Evolves t) {d} : s.Allows (execRangeEnable d t) := by
  unfold Machine.execRangeEnable
  refine h.runDesc fun _ g => .ite g.opDone (.ite g.opDone (.ite g.opDone (.ite g.opDone ?_)))
  exact g.putB.put.put.put.setTree.put.put.put.put.put.showSlots.queueConv.opDone

theorem State.Evolves.execRekey (h : s.Evolves t) {d} : s.Allows (execRekey d t) := by
  unfold Machine.execRekey
  refine h.runDesc fun _ g => .ite g.opDone (.ite g.opDone (.ite g.opDone (.ite g.opDone ?_)))
  exact g.put.put.put.put.setTree.showSlots.queueConv.opDone

theorem State.Evolves.execRangeDisable (h : s.Evolves t) {d} : s.Allows (execRangeDisable d t) := by
  unfold Machine.execRangeDisable
  exact h.runDesc (fun _ g => .ite g.opDone (.ite g.opDone ((g.put.put.setTree.ite g).queueConv.opDone)))

theorem State.Evolves.execRangeMode (h : s.Evolves t) {d} : s.Allows (execRangeMode d t) :=
  h.runDesc fun _ g => .ite g.opDone g.put.opDone

theorem State.Evolves.execConversionStart (h : s.Evolves t) : s.Allows (execConversionStart t) := by
  unfold Machine.execConversionStart
  split
  · exact h.notDue
  · exact h.whenDue (.ite h.onCry.showQueue ((h.onCry.showQueue.put.put.setTree.ite h.onCry.showQueue).showSlots.putB.put))

theorem State.Evolves.hostPut (h : s.Evolves t) {a l} : s.Evolves (t.hostPut a l) := h.onHost

theorem State.Evolves.hostWrite (h : s.Evolves t) {trail feed bs l} : s.Evolves (t.hostWrite trail feed bs l).2 := by
  induction l generalizing t feed bs with
  | nil => exact h
  | cons x l ih =>
    obtain ⟨line, a, k⟩ := x
    unfold State.hostWrite
    extract_lets part put one more
    have h1 : s.Evolves one.2.2 := by
      unfold one
      split
      · split
        · exact h.hostPut.hostPut
        · extract_lets o
          split
          · exact h.hostPut.hostPut
          · exact h.authAlarm
      · exact h.hostPut
    exact ih h1

theorem State.Evolves.askHost (h : s.Evolves t) {m verify reads} : s.Evolves (t.askHost m verify reads) := h.elsewhere

theorem State.Evolves.runRead (h : s.Evolves t) {d op ok a n rd f} (hf : ∀ x, s.Evolves x → s.Evolves (f x)) :
    s.Allows (t.runRead d op ok a n rd f) :=
  h.runDesc (fun _ g => .ite (hf _ g) g.endDesc)

theorem State.Evolves.execKeyLoad (h : s.Evolves t) {d blob rd} : s.Allows (execKeyLoad d blob rd t) :=
  h.runRead (fun _ g => (.ite g.opDone (.ite g.opDone (by split; exacts [g.toCairn.opDone, g.setSlot.opDone]))))

theorem State.Evolves.putConverted (h : s.Evolves t) {n line data bad} : s.Evolves (t.putConverted n line data bad) := by
  unfold State.putConverted
  split
  · exact .ite h.hostPut h.store
  · exact .ite ((h.hostPut.ite h.store).hostPut) ((h.hostPut.ite h.store).store)

theorem State.Evolves.execLineConversion (h : s.Evolves t) {raw tag} : s.Allows (execLineConversion raw tag t) := by
  unfold Machine.execLineConversion
  extract_lets n x line host zero due next src r g o s1
  have hn : ∀ {v}, s.Evolves v → s.Evolves (next v) := fun g => g.setTree
  have hr : s.Evolves r.2.2 := by
    unfold r
    split
    · exact h
    · exact h.load
  clear_value r src
  have hg : s.Evolves g.2.2 := by
    unfold g
    split
    · exact hr
    · split
      · exact hr.load
      · exact hr
  have h1 : s.Evolves s1 := .ite hg (.ite hg hg.authAlarm)
  exact .ite State.allows_illFormed (.ite h.notDue (.ite (h.whenDue h.setTree)
    (h.whenDue (.ite (hn h.putConverted) (hn h1.putConverted)))))

theorem State.Evolves.execConversionComplete (h : s.Evolves t) : s.Allows (execConversionComplete t) :=
  h.whenDue h.put.putB.setTree.showSlots.post

theorem State.Evolves.rangesOff (h : s.Evolves t) {all events} : s.Evolves (t.rangesOff all events) := by
  refine h.forN fun _ _ g => .ite g ?_
  extract_lets s1 s2 s3
  have h2 : s.Evolves s2 := g.put.setTree.onCry.putB.ite g.put.setTree.onCry
  exact h2.showQueue.showSlots.post.ite h2.showQueue.showSlots

theorem State.Evolves.execTagVerdict (h : s.Evolves t) {tag} : s.Allows (execTagVerdict tag t) := by
  unfold Machine.execTagVerdict
  split
  · exact h.notDue
  · exact (h.onCry.respond.ite h.onCry.respond.errCount.authAlarm).next

theorem State.Evolves.firstKeys (h : s.Evolves t) : s.Evolves t.firstKeys := h.putB.put.onCry
theorem State.Evolves.arlSend (h : s.Evolves t) {n} : s.Evolves (t.arlSend n) := h.onCry
theorem State.Evolves.nextKey (h : s.Evolves t) : s.Evolves t.nextKey := h.put.onCry

theorem State.Evolves.execAreteKeyUpdate (h : s.Evolves t) : s.Allows (execAreteKeyUpdate t) :=
  h.whenDue (.ite h.nextKey (.ite h.took.nextKey h.took))

theorem State.Evolves.newKeys (h : s.Evolves t) : s.Evolves t.newKeys := h.onCry
theorem State.Evolves.execAreteOldKeyExpiry (h : s.Evolves t) : s.Allows (execAreteOldKeyExpiry t) := h.whenDue h.onCry
theorem State.Evolves.arlFailed (h : s.Evolves t) : s.Evolves t.arlFailed := .ite h.bump.onCry.toCairn h.bump.onCry

theorem State.Evolves.execIdeCheckFail (h : s.Evolves t) {k'} : s.Allows (execIdeCheckFail k' t) :=
  h.whenDue h.putB.bump.onHost.toCairn

theorem State.Evolves.execKeySetGo (h : s.Evolves t) {k' a} : s.Allows (execKeySetGo k' a t) := h.putB.putB.onHost.next

/-! ### `Memory`: the ports of block memories, the start of page rebuilds, the merge buffer's age and the patrol scrubber -/

theorem State.Evolves.setPortOut (h : s.Evolves t) {k' o} : s.Evolves (t.setPortOut k' o) := h.onMem

theorem State.Evolves.fabricRead (h : s.Evolves t) {portB i bm a} : s.Evolves (t.fabricRead portB i bm a) := by
  fun_cases State.fabricRead t portB i bm a with
  | case1 => exact h
  | case2 => exact h.flushWord.readWord.setPortOut
  | case3 => exact h.setPortOut

theorem State.Evolves.portStore (h : s.Evolves t) {i bm p} : s.Evolves (t.portStore i bm p) :=
  .ite h.setRawWord.setCheck (.ite h.maskWrite h.setRawWord)

theorem State.Evolves.portShow (h : s.Evolves t) {i bm p} : s.Evolves (t.portShow i bm p) := h.setPortOut

theorem State.Evolves.portWrites (h : s.Evolves t) {i bm l} : s.Evolves (t.portWrites i bm l) :=
  ((h.forAll (fun _ _ g => g.fabricRead)).forAll (fun _ _ g => g.portStore)).forAll fun _ _ g => g.portShow

theorem State.Evolves.setBusy (h : s.Evolves t) {w on} : s.Evolves (t.setBusy w on) := by
  unfold State.setBusy
  split
  · exact .ite (h.forAll (fun _ _ g => g.setPortOut)) h
  · exact h

theorem State.Evolves.beginRebuild (h : s.Evolves t) {r w acc} : s.Evolves (t.beginRebuild r w acc) :=
  h.flushWord.onMem.setBusy

theorem State.Evolves.joinRebuild (h : s.Evolves t) {page acc} : s.Evolves (t.joinRebuild page acc) := h.onMem

theorem State.Evolves.portRead (h : s.Evolves t) {portB i bm a acc} : s.Evolves (t.portRead portB i bm a acc) := by
  -- the definition is opened as a function: opened where it stands, checking would compute with the word's address
  generalize hf : @State.portRead = f
  delta State.portRead at hf
  subst hf
  beta_reduce
  extract_lets w
  clear_value w
  split
  · exact .ite h.beginRebuild h.fabricRead
  · exact h

theorem State.Evolves.portAccess (h : s.Evolves t) {i bm l} : s.Evolves (t.portAccess i bm l) :=
  .ite h ((h.forAll (fun _ _ g => (by split; exacts [.ite g.portRead g, g]))).portWrites)

theorem State.Evolves.rebuildPage (h : s.Evolves t) {r} : s.Evolves (t.rebuildPage r) :=
  h.forAll fun _ _ g => .ite g g.rebuildSet

theorem State.Evolves.execMergeFlushAge (h : s.Evolves t) {addr} : s.Allows (execMergeFlushAge addr t) := by
  unfold Machine.execMergeFlushAge
  split
  · exact h.whenDue h.flushWord
  · exact h.notDue

theorem State.Evolves.scrubGuard (h : s.Evolves t) {r clean} : s.Evolves (t.scrubGuard r clean) :=
  .ite (.ite ((h.setGuard.guarded.ite h.setGuard).guarded) (.ite h.setGuard.guarded h.setGuard)) h

theorem State.Evolves.scrubEnd (h : s.Evolves t) {cls unit} : s.Evolves (t.scrubEnd cls unit) := .ite h.onMem.bump h.onMem
theorem State.Evolves.scrubRestart (h : s.Evolves t) {d} : s.Evolves (t.scrubRestart d) := h.onMem

theorem State.Evolves.execScrubWord (h : s.Evolves t) {cls unit} : s.Allows (execScrubWord cls unit t) := by
  unfold Machine.execScrubWord
  extract_lets k setPos
  have hp : ∀ {x n}, s.Evolves x → s.Evolves (setPos x n) := fun g => g.onMem
  clear_value setPos
  refine .ite h.next ?_
  split
  · exact h.scrubEnd.next
  · extract_lets w
    split
    · exact (hp h).next
    · refine .ite h.next ?_
      extract_lets s0 was v s1 s2 s3
      have hv : s.Evolves v.2.2 := h.flushWord.readCode
      have h1 : s.Evolves s1 := .ite hv.uncorrectable (.ite hv hv.storeWord)
      have h2 : s.Evolves s2 := .ite h1 h1.onMem
      have h3 : s.Evolves s3 := .ite h2.scrubGuard.onMem h2
      exact (h3.scrubEnd.ite (hp h3)).next

theorem State.Evolves.execMemCntClr (h : s.Evolves t) {clr} : s.Allows (execMemCntClr clr t) :=
  (h.forN (fun _ _ g => .ite g.put.put.put g)).next

theorem State.Evolves.execMemLogClear (h : s.Evolves t) {clr} : s.Allows (execMemLogClear clr t) :=
  (h.forN (fun _ _ g => .ite ((g.forN (fun _ _ k => k.setReg.setReg)).put) g)).next

/-! ### `NetRows`: commands of the package network -/

theorem State.Evolves.execDmCommandStart (h : s.Evolves t) {i ch} : s.Allows (execDmCommandStart i ch t) :=
  h.whenDue h.dmStart

theorem State.Evolves.execDmCommandComplete (h : s.Evolves t) {i ch} : s.Allows (execDmCommandComplete i ch t) :=
  h.whenDue h.modChan

theorem State.Evolves.execFlitForward (h : s.Evolves t) {at_ tag rsp k' data side check} :
    s.Allows (execFlitForward at_ tag rsp k' data side check t) := by
  unfold Machine.execFlitForward
  dsimp only
  split
  · exact h.notDue
  · exact .ite h.notDue ((h.useCheck.ite h).onNet.next)

theorem State.Evolves.execIslandPortTxMessage (h : s.Evolves t) {i port m} :
    s.Allows (execIslandPortTxMessage i port m t) := by
  unfold Machine.execIslandPortTxMessage
  split
  · exact State.allows_illFormed
  · split
    · exact h.notDue
    · split
      · exact h.whenDue h.ingress
      · split
        · exact h.notDue
        · exact .ite h.onNet.respond.next h.onNet.onNet.next

theorem State.Evolves.execMessageRelease (h : s.Evolves t) {t'} : s.Allows (execMessageRelease t' t) := h.release.next
theorem State.Evolves.execCreditReturn (h : s.Evolves t) {t'} : s.Allows (execCreditReturn t' t) := h.whenDue h.setTrail
theorem State.Evolves.take (h : s.Evolves t) {tag op} : s.Allows (t.take tag op) := h.whenDue h.deliver
theorem State.Evolves.execRdrsp (h : s.Evolves t) {tag} : s.Allows (execRdrsp tag t) := h.take
theorem State.Evolves.execWrack (h : s.Evolves t) {tag} : s.Allows (execWrack tag t) := h.take
theorem State.Evolves.execMsgack (h : s.Evolves t) {tag} : s.Allows (execMsgack tag t) := h.take
theorem State.Evolves.execAllocrsp (h : s.Evolves t) {tag} : s.Allows (execAllocrsp tag t) := h.take
theorem State.Evolves.execFreersp (h : s.Evolves t) {tag} : s.Allows (execFreersp tag t) := h.take
theorem State.Evolves.execSettle (h : s.Evolves t) {tag} : s.Allows (execSettle tag t) := h.take
theorem State.Evolves.execErr (h : s.Evolves t) {tag} : s.Allows (execErr tag t) := h.take
theorem State.Evolves.openFor (h : s.Evolves t) {d} : s.Evolves (t.openFor d) := h.openTrail.opDone

theorem State.Evolves.execTrailOpen (h : s.Evolves t) {d} : s.Allows (execTrailOpen d t) :=
  h.runDesc fun _ g => .ite g.onNet g.openFor

theorem State.Evolves.execTrailOpenResume (h : s.Evolves t) {d} : s.Allows (execTrailOpenResume d t) :=
  h.whenDue h.onNet.openFor

theorem State.Evolves.execTrailClose (h : s.Evolves t) {d} : s.Allows (execTrailClose d t) :=
  h.runDesc (fun _ g => .ite g.opDone ((g.ite g.closeTrail).modTrail))

theorem State.Evolves.endClose (h : s.Evolves t) {t'} : s.Evolves (t.endClose t') := h.closed.forAll fun _ _ g => g.opDone

theorem State.Evolves.execTrailCloseComplete (h : s.Evolves t) {t'} : s.Allows (execTrailCloseComplete t' t) :=
  h.whenDue h.endClose

theorem State.Evolves.execTrailCloseTimeout (h : s.Evolves t) {t'} : s.Allows (execTrailCloseTimeout t' t) :=
  h.whenDue h.endClose

theorem State.Evolves.execRequestTimeout (h : s.Evolves t) {tag} : s.Allows (execRequestTimeout tag t) := by
  unfold Machine.execRequestTimeout
  split
  · exact h.notDue
  · exact h.whenDue h.onNet.failTag

theorem State.Evolves.execTagQuarantineEnd (h : s.Evolves t) {tag} : s.Allows (execTagQuarantineEnd tag t) :=
  h.whenDue h.onNet

theorem State.Evolves.execTrlTqSelWrite (h : s.Evolves t) {v} : s.Allows (execTrlTqSelWrite v t) :=
  h.put.put.put.put.put.next

theorem State.Evolves.execTrlLqSelWrite (h : s.Evolves t) {v} : s.Allows (execTrlLqSelWrite v t) :=
  h.put.put.put.put.put.put.put.next

theorem State.Evolves.execTrlPmapQWrite (h : s.Evolves t) {v} : s.Allows (execTrlPmapQWrite v t) := h.put.put.putB.put.next

theorem State.Evolves.execTrlCntClr (h : s.Evolves t) {v} : s.Allows (execTrlCntClr v t) :=
  ((h.forN (fun _ _ g => g.put)).put.ite h).next

/-! ### `Store`: Switchback's stores -/

theorem State.Evolves.readback (h : s.Evolves t) {i l} : s.Evolves (t.readback i l).2.2 := by
  induction l generalizing t with
  | nil => exact h
  | cons w l ih => exact ih h.loadWord

theorem State.Evolves.saveIsland (h : s.Evolves t) {g' i k'} : s.Evolves (t.saveIsland g' i k').2.2 := h.readback
theorem State.Evolves.writeWords (h : s.Evolves t) {i l} : s.Evolves (t.writeWords i l) := h.forAll fun _ _ g => g.maskWrite

theorem State.Evolves.writeMem (h : s.Evolves t) {i g' p} : s.Evolves (t.writeMem i g' p) :=
  h.writeWords.forAll fun _ _ g => .ite g.setCheck g

theorem State.Evolves.restoreIsland (h : s.Evolves t) {img i k' v e'} : s.Evolves (t.restoreIsland img i k' v e') := by
  unfold State.restoreIsland
  extract_lets s1 s2 words s3 s4 a
  have h2 : s.Evolves s2 := h.modIsland.forAll fun _ _ g => g.forAll fun _ _ k => by
    split
    · exact k.writeWords
    · exact k.writeWords.setCheck
  have h3 : s.Evolves s3 := h2.writeWords.ite h2
  have h4 : s.Evolves s4 := h3.writeWords.ite h3
  exact h4.setEng.ite h4.setEng

theorem State.Evolves.storeRead (h : s.Evolves t) {a n} : s.Evolves (t.storeRead a n).2.2 := by
  unfold State.storeRead
  split
  · exact h
  · exact h.sealedRead

theorem State.Evolves.storeWrite (h : s.Evolves t) {a bs} : s.Evolves (t.storeWrite a bs) := .ite h.hostWrite h.sealedWrite

theorem State.Evolves.readWords (h : s.Evolves t) {l} : s.Evolves (t.readWords l).2.2 := by
  induction l generalizing t with
  | nil => exact h
  | cons w l ih => exact ih h.loadWord

theorem State.Evolves.spanRead (h : s.Evolves t) {a n} : s.Evolves (t.spanRead a n).2.2 := by
  unfold State.spanRead
  split
  · exact h.storeRead
  · exact h.readWords

theorem State.Evolves.spanWrite (h : s.Evolves t) {a n t'} : s.Evolves (t.spanWrite a n t') :=
  .ite h.storeWrite (h.zeroRange.forAll (fun _ _ g => g.store))

theorem State.Evolves.modImage (h : s.Evolves t) {c v f} : s.Evolves (t.modImage c v f) := h.onSwb

theorem State.Evolves.moveImage (h : s.Evolves t) {r inStore a} : s.Evolves (t.moveImage r inStore a) :=
  h.spanRead.spanRead.spanWrite.spanWrite.modImage

theorem State.Evolves.makeRoom (h : s.Evolves t) {need n u} (e : t.makeRoom need n = some u) : s.Evolves u.2 := by
  induction n generalizing t with
  | zero => cases e
  | succ n ih =>
    unfold State.makeRoom at e
    dsimp only at e
    split at e
    · cases e; exact h
    · split at e
      · cases e
      · split at e
        · cases e
        · exact ih h.moveImage e

theorem State.Evolves.fetchImage (h : s.Evolves t) {c v} : s.Evolves (t.fetchImage c v) := by
  unfold State.fetchImage
  extract_lets s0
  have h0 : s.Evolves s0 := by
    unfold s0
    split
    · split
      · exact h
      · split
        · rename_i hr
          exact (h.makeRoom hr).moveImage
        · exact h
    · exact h
  exact h0.onSwb.modImage

theorem State.Evolves.slotRead (h : s.Evolves t) {r k'} : s.Evolves (t.slotRead r k').2.2 := h.spanRead

theorem State.Evolves.slotWrite (h : s.Evolves t) {r l} : s.Evolves (t.slotWrite r l) :=
  (h.forAll (fun _ _ g => g.spanWrite)).modImage

/-! ### `Tables`: frames of pages and the page tables that Switchback keeps in HBM -/

theorem State.Evolves.own (h : s.Evolves t) {g' n who} : s.Evolves (t.own g' n who) := h.onSwb
theorem State.Evolves.freeFrame (h : s.Evolves t) {loc a z} : s.Evolves (t.freeFrame loc a z) := .ite h.own h
theorem State.Evolves.zeroSealed (h : s.Evolves t) {a n} : s.Evolves (t.zeroSealed a n) := h.spanWrite

theorem State.Evolves.placeTables (h : s.Evolves t) {l u} (e : t.placeTables l = some u) : s.Evolves u := by
  induction l generalizing t with
  | nil => cases e; exact h
  | cons k l ih =>
    unfold State.placeTables at e
    dsimp only at e
    split at e
    · cases e
    · exact ih h.zeroSealed.onSwb e

theorem State.Evolves.writeEntries (h : s.Evolves t) {want} : s.Evolves (t.writeEntries want) := by
  unfold State.writeEntries
  exact (h.forAll (fun _ _ g => g.sealedWrite)).onSwb

theorem State.Evolves.syncTables (h : s.Evolves t) {u} (e : t.syncTables = some u) : s.Evolves u := by
  unfold State.syncTables at e
  dsimp only at e
  split at e
  · cases e; exact h
  · split at e
    · cases e
    · rename_i hp
      cases e
      exact ((h.zeroSealed.ite h).onSwb.placeTables hp).writeEntries

theorem State.Evolves.syncMaps (h : s.Evolves t) : s.Evolves t.syncMaps := .getD (fun _ e => h.syncTables e) h
theorem State.Evolves.showMaps (h : s.Evolves t) : s.Evolves t.showMaps := h.syncMaps.putB

/-! ### `Contexts`: placement, fences, saving, loading and release -/

theorem State.Evolves.countCtxs (h : s.Evolves t) : s.Evolves t.countCtxs := h.put.put.putB.put
theorem State.Evolves.ctxEvent (h : s.Evolves t) {code c} : s.Evolves (t.ctxEvent code c) := h.post

theorem State.Evolves.reqDone (h : s.Evolves t) {r code} : s.Evolves (t.reqDone r code) := by
  unfold State.reqDone
  dsimp only
  split
  · exact State.Evolves.postResult (by split; exacts [h.opDone, h])
  · split
    · exact h.opDone
    · exact h

theorem State.Evolves.retrail (h : s.Evolves t) {cause t'} : s.Evolves (t.retrail cause t') := by
  unfold State.retrail
  dsimp only
  split
  · exact .ite h h.setTrail.failHeld.refreshTrails
  · split
    · exact .ite h h.setTrail.failHeld.refreshTrails
    · split
      · exact h.setTrail.refreshTrails
      · split
        · exact h
        · split
          · exact h.readmit
          · exact h

theorem State.Evolves.setEntries (h : s.Evolves t) {c st cause} : s.Evolves (t.setEntries c st cause) :=
  h.modCtx.forAll fun _ _ g => g.retrail

theorem State.Evolves.failFlights (h : s.Evolves t) {p code} : s.Evolves (t.failFlights p code) :=
  h.onNet.forAll fun _ _ g => g.modTrail.failTag

theorem State.Evolves.forget (h : s.Evolves t) {is} : s.Evolves (t.forget is) := by
  unfold State.forget
  exact h.onNet

theorem State.Evolves.showIsland (h : s.Evolves t) {i st c k'} : s.Evolves (t.showIsland i st c k') := h.put.put.put
theorem State.Evolves.clearMemories (h : s.Evolves t) {i} : s.Evolves (t.clearMemories i) := h.zeroRange.zeroRange

theorem State.Evolves.clearIsland (h : s.Evolves t) {i} : s.Evolves (t.clearIsland i) :=
  h.setIsland.setEng.clearMemories.onSwb.put.put

theorem State.Evolves.writeIsland (h : s.Evolves t) {i g' sv} : s.Evolves (t.writeIsland i g' sv) := by
  unfold State.writeIsland
  split
  · exact h.clearMemories.setIsland.writeMem.setEng
  · exact h.clearMemories.setIsland.writeMem.restoreIsland

theorem State.Evolves.fenceIsland (h : s.Evolves t) {i} : s.Evolves (t.fenceIsland i) :=
  ((h.runLock.trapLow.ite h.runLock).modEng.forAll fun _ _ g => g.flushUnit).stopClocks.leaveBorders.bankFence.modIsland.put

theorem State.Evolves.addJob (h : s.Evolves t) {j} : s.Evolves (t.addJob j) := h.onSwb
theorem State.Evolves.endJob (h : s.Evolves t) {j} : s.Evolves (t.endJob j) := h.onSwb

theorem State.Evolves.emptyIslands (h : s.Evolves t) {c} : s.Evolves (t.emptyIslands c) := by
  unfold State.emptyIslands
  exact (h.forAll fun _ _ g => g.clearIsland.showIsland).modCtx

theorem State.Evolves.beginLoad (h : s.Evolves t) {r t'} : s.Evolves (t.beginLoad r t') :=
  (h.modCtx.forAll (fun _ _ g => (g.ite g.clearIsland).showIsland)).fetchImage.addJob.setEntries.countCtxs

theorem State.Evolves.raiseQreq (h : s.Evolves t) {c} : s.Evolves (t.raiseQreq c) := by
  unfold State.raiseQreq
  split
  · exact h.modCtx.modIsland.put.forAll fun _ _ g => g.put
  · exact h.modCtx

theorem State.Evolves.lowerQreq (h : s.Evolves t) {c} : s.Evolves (t.lowerQreq c) :=
  (h.modCtx.forAll (fun _ _ g => g.modIsland.put)).countCtxs

theorem State.Evolves.unqueue (h : s.Evolves t) {c} : s.Evolves (t.unqueue c) := h.onSwb.countCtxs
theorem State.Evolves.enqueue (h : s.Evolves t) {r} : s.Evolves (t.enqueue r) := h.unqueue.onSwb.countCtxs

theorem State.Evolves.releaseVictims (h : s.Evolves t) {r} : s.Evolves (t.releaseVictims r) :=
  h.forAll fun _ _ g => .ite g.lowerQreq g

theorem State.Evolves.placeReq (h : s.Evolves t) {r} : s.Evolves (t.placeReq r) := by
  unfold State.placeReq
  extract_lets c back queued
  have hb : s.Evolves (back t) := h.unqueue.modCtx
  split
  · exact h.unqueue.beginLoad
  · refine .ite hb.reqDone ?_
    extract_lets s1 s2
    have h2 : s.Evolves s2 := h.enqueue.modCtx.forAll fun _ _ g => g.raiseQreq.modCtx
    exact ((h2.forAll fun _ _ g => g.setEntries).ite h2).countCtxs
  · exact hb.reqDone
  · exact .ite hb.reqDone (.ite hb.reqDone h.enqueue.modCtx)

theorem State.Evolves.victimGone (h : s.Evolves t) {v} : s.Evolves (t.victimGone v) := by
  unfold State.victimGone
  split
  · exact h
  · extract_lets s1
    have h1 : s.Evolves s1 := h.modCtx
    clear_value s1
    split
    · exact h1
    · dsimp only
      split
      · exact .ite h1.unqueue.beginLoad h1.enqueue
      · exact h1.enqueue

theorem State.Evolves.freeGranules (h : s.Evolves t) {c} : s.Evolves (t.freeGranules c) := h.onSwb

theorem State.Evolves.dropSpace (h : s.Evolves t) {c} : s.Evolves (t.dropSpace c) := by
  unfold State.dropSpace
  exact ((h.forAll (fun _ _ g => g.freeFrame)).forAll (fun _ _ g => g.freeFrame.freeFrame)).onSwb.syncMaps.onNet

theorem State.Evolves.dropContext (h : s.Evolves t) {c} : s.Evolves (t.dropContext c) :=
  (h.forAll (fun _ _ g => .ite g g.closeTrail)).freeGranules.dropSpace.onSwb.setCtx.setEntries.countCtxs

theorem State.Evolves.unregister (h : s.Evolves t) {r code} : s.Evolves (t.unregister r code) :=
  h.dropContext.reqDone.forAll fun _ _ g => g.reqDone

theorem State.Evolves.startEvict (h : s.Evolves t) {r} : s.Evolves (t.startEvict r) :=
  (h.raiseQreq.modCtx.setEntries.ite h.raiseQreq.modCtx).countCtxs

theorem State.Evolves.cancelLoads (h : s.Evolves t) {c} : s.Evolves (t.cancelLoads c) :=
  (h.forAll (fun _ _ g => g.releaseVictims)).unqueue.modCtx.foldl fun _ _ g => g.reqDone

theorem State.Evolves.withdraw (h : s.Evolves t) {c} : s.Evolves (t.withdraw c) := h.modCtx.countCtxs

theorem State.Evolves.applyPolicy (h : s.Evolves t) {r} : s.Evolves (t.applyPolicy r) := by
  unfold State.applyPolicy
  split
  · exact h
  · exact h.modCtx.endDesc

theorem State.Evolves.applyClocks (h : s.Evolves t) {r} : s.Evolves (t.applyClocks r) := by
  unfold State.applyClocks
  split
  · exact h
  · exact .ite h.opDone (.ite h.opDone ((h.forAll (fun _ _ g => g.applySetting.gateClocks)).opDone))

theorem State.Evolves.evictNamed (h : s.Evolves t) {r} : s.Evolves (t.evictNamed r) := .ite h.startEvict h
theorem State.Evolves.place (h : s.Evolves t) {r} : s.Evolves (t.place r) := h.modCtx.placeReq.evictNamed

theorem State.Evolves.handle (h : s.Evolves t) {r} : s.Evolves (t.handle r) := by
  unfold State.handle
  split
  · exact .ite h.modCtx.reqDone (.ite h.reqDone (.ite h.reqDone h.place))
  · exact .ite ((h.cancelLoads.ite h).startEvict) ((h.cancelLoads.ite h).unregister)
  · exact .ite h.reqDone <| .ite h.cancelLoads.modCtx.countCtxs.reqDone <| .ite h.withdraw.reqDone <|
      .ite h.startEvict h.reqDone
  · exact .ite h.modCtx.reqDone (.ite h.reqDone h.place)
  · exact h.modCtx.reqDone
  · exact h.applyPolicy
  · exact h.applyClocks
  · exact .ite h.startEvict h.reqDone

theorem State.Evolves.takeUp (h : s.Evolves t) {c n} : s.Evolves (t.takeUp c n) := by
  induction n generalizing t with
  | zero => exact h
  | succ n ih =>
    unfold State.takeUp
    dsimp only
    split
    · exact h
    · exact .ite h (ih h.setCtx.handle)

theorem State.Evolves.request (h : s.Evolves t) {r} : s.Evolves (t.request r) := .ite h.onSwb.modCtx h.onSwb.handle

theorem State.Evolves.endEvict (h : s.Evolves t) {c failed} : s.Evolves (t.endEvict c failed) := by
  unfold State.endEvict
  extract_lets x s1 s2 s3 s4 s5
  have h2 : s.Evolves s2 := (h.ctxEvent.ite h).ctxEvent
  have h4 : s.Evolves s4 := h2.emptyIslands.endJob.modCtx.setEntries
  have h5 : s.Evolves s5 := by
    unfold s5
    split
    · extract_lets v
      have hv : s.Evolves v := h4.onSwb.ite h4
      exact hv.unregister.ite hv.reqDone
    · exact h4
  exact h5.victimGone.takeUp.countCtxs

theorem State.Evolves.fence (h : s.Evolves t) {c save} : s.Evolves (t.fence c save) := by
  unfold State.fence
  extract_lets is s1 s2 x stateful
  have h2 : s.Evolves s2 := h.failFlights.forget.forAll fun _ _ g => g.fenceIsland
  exact .ite h2.modCtx.addJob.countCtxs h2.modCtx.endEvict

theorem State.Evolves.releaseIsland (h : s.Evolves t) {c i k' engSaved} : s.Evolves (t.releaseIsland c i k' engSaved) :=
  (h.ite h.applySetting).gateClocks.modIsland.modEng.put.joinBorders.bankRelease

theorem State.Evolves.failLoad (h : s.Evolves t) {c code} : s.Evolves (t.failLoad c code) := by
  unfold State.failLoad
  extract_lets x s1 s2 s3
  have h2 : s.Evolves s2 := h.emptyIslands.endJob.modCtx.setEntries
  have h3 : s.Evolves s3 := by
    unfold s3
    split
    · exact h2.reqDone
    · exact h2
  exact h3.takeUp.countCtxs

theorem State.Evolves.releaseCtx (h : s.Evolves t) {c} : s.Evolves (t.releaseCtx c) := by
  unfold State.releaseCtx
  extract_lets x is engSaved s1 s2 s3 quiet hold s4 s5 s6
  have hh : ∀ {x b}, s.Evolves x → s.Evolves (hold x b) := fun g => g.modCtx.forAll fun _ _ g => g.modIsland
  have h3 : s.Evolves s3 := (h.forAll fun _ _ g => g.releaseIsland).modCtx.endJob.onSwb.setEntries
  have h4 : s.Evolves s4 := ((hh h3).ite h3).ctxEvent.bump
  have h5 : s.Evolves s5 := by
    unfold s5
    split
    · exact h4.reqDone
    · exact h4
  exact .ite h.failLoad ((hh h5.takeUp).ite h5.takeUp).countCtxs

theorem State.Evolves.restoreLoad (h : s.Evolves t) {c dieOnly} : s.Evolves (t.restoreLoad c dieOnly) := h.modCtx.request
theorem State.Evolves.followPolicy (h : s.Evolves t) {c} : s.Evolves (t.followPolicy c) := .ite h.modCtx.post h.modCtx

theorem State.Evolves.loseLoad (h : s.Evolves t) {d r} : s.Evolves (t.loseLoad d r) :=
  h.unqueue.modCtx.reqDone.followPolicy.takeUp.countCtxs

theorem State.Evolves.loseCtx (h : s.Evolves t) {c} : s.Evolves (t.loseCtx c) := by
  unfold State.loseCtx
  extract_lets x swap is s1 s2 s3 s4 s5 s6 s7 s8
  have h3 : s.Evolves s3 :=
    (h.forget.endJob.forAll fun _ _ g => g.haltClocks.modEng.leaveBorders.bankFence.put).modCtx.setEntries
  clear_value s3 swap x
  have h4 : s.Evolves s4 := by
    unfold s4
    split
    · exact h3.reqDone
    · exact h3
  have h5 : s.Evolves s5 := by
    unfold s5
    split
    · exact h4.reqDone
    · exact h4
  have h7 : s.Evolves s7 := by
    unfold s7
    split
    · exact .ite (h5.followPolicy.dropContext.forAll fun _ _ g => g.reqDone) h5.followPolicy
    · exact h5.followPolicy
  have h8 : s.Evolves s8 := by
    unfold s8
    split
    · exact (h7.foldl fun _ _ g => g.modCtx).loseLoad
    · exact h7.victimGone
  exact h8.takeUp.countCtxs

theorem State.Evolves.loseDieCtxs (h : s.Evolves t) {d} : s.Evolves (t.loseDieCtxs d) :=
  (h.forAll (fun _ _ g => g.loseCtx)).forN fun _ _ g => g.put.put

theorem State.Evolves.retryQueue (h : s.Evolves t) : s.Evolves t.retryQueue :=
  h.foldl (fun _ _ g => (.ite (by split; exacts [g, g.placeReq]) g))

/-! ### `CtxRows`: the rows of context management -/

theorem State.Evolves.openList (h : s.Evolves t) {c l} : s.Evolves (t.openList c l).2 := by
  induction l generalizing t with
  | nil => exact h
  | cons x l ih =>
    obtain ⟨w0, w1, w2, w3⟩ := x
    have hr : s.Evolves (t.openTrail (ownTrail c w0) w1 w2 w3).2.2 := h.openTrail
    unfold State.openList
    generalize t.openTrail (ownTrail c w0) w1 w2 w3 = r at hr ⊢
    obtain ⟨k, f, v⟩ := r
    dsimp only at hr ⊢
    have hv := ih (hr.modCtx (c := c) (f := fun x => { x with trails := x.trails ++ [f] }))
    generalize State.openList _ c l = q at hv ⊢
    exact .iteSnd h hv

theorem State.Evolves.register (h : s.Evolves t) {d c v group img bytes} : s.Evolves (t.register d c v group img bytes) := by
  unfold State.register
  extract_lets first had
  split
  · exact h.opDone
  · rename_i a s0 hm
    extract_lets s1 x fresh s2 r opened s3 s4
    have h1 : s.Evolves s1 := (h.makeRoom hm).storeWrite.onSwb
    have h2 : s.Evolves s2 := .ite h1.setCtx h1
    have hr : s.Evolves r.2 := by
      unfold r
      split
      · exact h2.openList
      · exact h2
    have h4 : s.Evolves s4 := (hr.forAll fun _ _ g => g.closed).onSwb.setCtx
    exact .ite hr.countCtxs.opDone h4.countCtxs.endDesc

theorem State.Evolves.execCtxRegister (h : s.Evolves t) {d q rd} : s.Allows (execCtxRegister d q rd t) :=
  .ite State.allows_illFormed (h.runRead (fun _ g => .ite g.opDone (.ite g.opDone (.ite g.opDone g.register))))

theorem State.Evolves.ctxRequest (h : s.Evolves t) {r} : s.Evolves (t.ctxRequest r) := .ite h.reqDone h.request

theorem State.Evolves.runRequest (h : s.Evolves t) {d op} : s.Allows (t.runRequest d op) :=
  .ite h.notDue (h.runDesc (fun _ g => g.ctxRequest))

theorem State.Evolves.execCtxLoad (h : s.Evolves t) {d} : s.Allows (execCtxLoad d t) := h.runRequest
theorem State.Evolves.execCtxEvict (h : s.Evolves t) {d} : s.Allows (execCtxEvict d t) := h.runRequest
theorem State.Evolves.execCtxPin (h : s.Evolves t) {d} : s.Allows (execCtxPin d t) := h.runRequest
theorem State.Evolves.execCtxUnpin (h : s.Evolves t) {d} : s.Allows (execCtxUnpin d t) := h.runRequest
theorem State.Evolves.hostRequest (h : s.Evolves t) {d r} : s.Evolves (t.hostRequest d r) := .ite h.opDone h.request

theorem State.Evolves.execCtxUnregister (h : s.Evolves t) {d} : s.Allows (execCtxUnregister d t) :=
  h.runDesc fun _ g => g.hostRequest

theorem State.Evolves.execCtxPolicy (h : s.Evolves t) {d} : s.Allows (execCtxPolicy d t) :=
  h.runDesc fun _ g => g.hostRequest

theorem State.Evolves.execCtxClock (h : s.Evolves t) {d table rd} : s.Allows (execCtxClock d table rd t) :=
  h.runRead fun _ g => g.hostRequest

theorem State.Evolves.execQueuedLoadStart (h : s.Evolves t) : s.Allows (execQueuedLoadStart t) := h.retryQueue.next
theorem State.Evolves.modCkpt (h : s.Evolves t) {c f} : s.Evolves (t.modCkpt c f) := h.elsewhere

theorem State.Evolves.endCkpt (h : s.Evolves t) {c} : s.Evolves (t.endCkpt c) :=
  .ite (h.modCkpt.endJob.forAll (fun _ _ g => g.modIsland)) h.modCkpt.endJob

theorem State.Evolves.execQack (h : s.Evolves t) {c} : s.Allows (execQack c t) := by
  unfold Machine.execQack
  extract_lets c s1 all
  have h1 : s.Evolves s1 := h.modCtx.forAll fun _ _ g => g.modIsland
  exact .ite (h.modCkpt.forAll fun _ _ g => g.modIsland).addJob.next
    (h.whenDue (.ite (h1.forAll fun _ _ g => g.setEntries) h1))

theorem State.Evolves.execQuiesceTimeout (h : s.Evolves t) {c} : s.Allows (execQuiesceTimeout c t) := by
  unfold Machine.execQuiesceTimeout
  extract_lets c x s0
  have h0 : s.Evolves s0 := h.bump
  refine .ite h0.endCkpt.post.next (h.whenDue ?_)
  split
  · split
    · exact h0.releaseVictims.enqueue
    · exact h0.lowerQreq
  · split
    · exact .ite h0.lowerQreq.reqDone.takeUp h0.fence
    · exact h0.lowerQreq

theorem State.Evolves.fenceAll (h : s.Evolves t) {c} : s.Evolves (t.fenceAll c) := h.forAll fun _ _ g => g.fence
theorem State.Evolves.execDrainComplete (h : s.Evolves t) {c} : s.Allows (execDrainComplete c t) := h.whenDue h.fenceAll
theorem State.Evolves.execDrainTimeout (h : s.Evolves t) {c} : s.Allows (execDrainTimeout c t) := h.whenDue h.fenceAll

theorem State.Evolves.saveAll (h : s.Evolves t) {img l} : s.Evolves (t.saveAll img l).2.2 := by
  induction l generalizing t with
  | nil => exact h
  | cons x l ih => exact ih h.saveIsland

theorem State.Evolves.execReadbackComplete (h : s.Evolves t) {c} : s.Allows (execReadbackComplete c t) :=
  h.whenDue (by split; exacts [h.endEvict, .ite h.saveAll.modCtx.endEvict h.saveAll.slotWrite.modCtx.endEvict])

theorem State.Evolves.restores (h : s.Evolves t) {c k' rep} : s.Evolves (t.restores c k' rep).2.2 := by
  unfold State.restores
  dsimp only
  split
  · exact h
  · split
    · exact h
    · split
      · exact h
      · exact h.slotRead.forAll fun _ _ g => g.odeccError

theorem State.Evolves.imageBad (h : s.Evolves t) {c rep} : s.Evolves (t.imageBad c rep).2 := by
  unfold State.imageBad
  split
  · exact h
  · exact h.spanRead.forAll fun _ _ g => g.odeccError

theorem State.Evolves.execIslandLoadComplete (h : s.Evolves t) {c k' imgBad slotBad} :
    s.Allows (execIslandLoadComplete c k' imgBad slotBad t) := by
  have hr : ∀ {c b m p q}, s.Evolves ((t.imageBad c b).2.restores m p q).2.2 := h.imageBad.restores
  refine h.whenDue (.ite h.imageBad.onSwb.failLoad (.ite ?_ ?_))
  · exact (hr.forAll fun _ _ g => g.clearIsland.showIsland).modCtx.ctxEvent
  · split
    · exact h
    · exact hr.writeIsland.put.modCtx

theorem State.Evolves.execContextRelease (h : s.Evolves t) {c} : s.Allows (execContextRelease c t) := h.whenDue h.releaseCtx

theorem State.Evolves.execConfigPortJobStart (h : s.Evolves t) {die} : s.Allows (execConfigPortJobStart die t) := by
  unfold Machine.execConfigPortJobStart
  dsimp only
  split
  · exact h.notDue
  · exact h.whenDue h.onSwb

theorem State.Evolves.execRejoinWaitExpiry (h : s.Evolves t) {c} : s.Allows (execRejoinWaitExpiry c t) :=
  h.whenDue h.restoreLoad

theorem State.Evolves.execSwbCtxSelWrite (h : s.Evolves t) {v} : s.Allows (execSwbCtxSelWrite v t) :=
  h.put.put.put.putB.put.put.put.put.put.put.next

theorem State.Evolves.execSwbCntClr (h : s.Evolves t) {v} : s.Allows (execSwbCntClr v t) :=
  (h.put.put.put.put.put.ite h).next

/-! ### `Pages`: Switchback's allocator of deep memory -/

theorem State.Evolves.allocate (h : s.Evolves t) {c n sel die home} : s.Evolves (t.allocate c n sel die home).2.2 := by
  unfold State.allocate
  split
  · exact h
  · extract_lets dies
    clear_value dies
    split
    · exact h
    · split
      · exact h
      · split
        · exact h
        · exact .snd₂ rfl h.zeroRange.own

theorem State.Evolves.freeDeep (h : s.Evolves t) {c n dpa} : s.Evolves (t.freeDeep c n dpa).2 := by
  unfold State.freeDeep
  split
  · exact h
  · extract_lets g
    clear_value g
    split
    · exact .snd rfl h.own
    · exact h

theorem State.Evolves.quotaDone (h : s.Evolves t) {d reason arg} : s.Evolves (t.quotaDone d reason arg) :=
  .ite h.endDesc h.endDesc

theorem State.Evolves.execAlloc (h : s.Evolves t) {o} : s.Allows (execAlloc o t) := by
  unfold Machine.execAlloc
  split
  · exact h.runDesc fun _ g => g.allocate.quotaDone
  · exact h.serve fun _ _ g => .ite g.respond g.allocate.respond

theorem State.Evolves.execFree (h : s.Evolves t) {o} : s.Allows (execFree o t) := by
  unfold Machine.execFree
  split
  · exact h.runDesc fun _ g => g.freeDeep.quotaDone
  · exact h.serve fun _ _ g => .ite g.respond g.freeDeep.respond

theorem State.Evolves.modPages (h : s.Evolves t) {p f} : s.Evolves (t.modPages p f) := h.onSwb

theorem State.Evolves.frameRead (h : s.Evolves t) {loc a n} : s.Evolves (t.frameRead loc a n).2.2 := by
  unfold State.frameRead
  split
  · extract_lets r
    have hr : s.Evolves r.2 := h.sealedRead
    clear_value r
    split
    · exact hr
    · split
      · exact hr.authAlarm
      · exact hr
  · extract_lets r
    have hr : s.Evolves r.2.2 := h.load
    clear_value r
    exact hr

theorem State.Evolves.frameWrite (h : s.Evolves t) {loc a bs} : s.Evolves (t.frameWrite loc a bs).2 := by
  unfold State.frameWrite
  split
  · exact h.sealedWrite
  · exact h.store

theorem State.Evolves.pageHome (h : s.Evolves t) {p u} (e : t.pageHome p = some u) : s.Evolves u := by
  unfold State.pageHome at e
  dsimp only at e
  split at e
  · cases e
  · split at e
    · cases e; exact h.modPages.freeFrame
    · split at e
      · cases e
      · split at e
        · cases e
        · cases e; exact h.frameRead.hostWrite.modPages.freeFrame

theorem State.Evolves.abandonMigration (h : s.Evolves t) {m} : s.Evolves (t.abandonMigration m) :=
  h.modPages.freeFrame.showMaps.onSwb.onNet.post

theorem State.Evolves.readEntries (h : s.Evolves t) {l} : s.Evolves (t.readEntries l).2 := by
  induction l generalizing t with
  | nil => exact h
  | cons a l ih => exact ih h.sealedRead

theorem State.Evolves.walk (h : s.Evolves t) {space dva} : s.Evolves (t.walk space dva).2 := h.readEntries

theorem State.Evolves.placePages (h : s.Evolves t) {l u} (e : t.placePages l = some u) : s.Evolves u := by
  -- the search for a frame stands for any function, so that no check runs it
  delta State.placePages State.placePages._f at e
  generalize State.poolFrame = f at e
  induction l generalizing t with
  | nil => cases e; exact h
  | cons p l ih =>
    dsimp only at e ih
    generalize f t p.size = o at e
    split at e
    · cases o with
      | none => cases e
      | some a => exact ih h.zeroRange.onSwb e
    · exact ih h.onSwb e

theorem State.Evolves.execMap (h : s.Evolves t) {d} : s.Allows (execMap d t) := by
  unfold Machine.execMap
  refine h.runDesc fun x g => ?_
  extract_lets lo fresh kept
  refine .ite g.opDone (.ite g.endDesc (.ite g.opDone ?_))
  split
  · exact g.opDone
  · rename_i hp
    split
    · exact g.opDone
    · rename_i hs
      exact ((g.onSwb.placePages hp).syncTables hs).showMaps.opDone

theorem State.Evolves.execPagePolicy (h : s.Evolves t) {d} : s.Allows (execPagePolicy d t) :=
  h.runDesc (fun _ g => .ite g.opDone (.ite g.opDone g.modPages.showMaps.opDone))

/-! ### `BstCore`: units of self-test -/

theorem State.Evolves.onBst (h : s.Evolves t) {f} : s.Evolves (t.onBst f) := h.elsewhere
theorem State.Evolves.modUnit (h : s.Evolves t) {u' f} : s.Evolves (t.modUnit u' f) := h.onBst
theorem State.Evolves.showBst (h : s.Evolves t) : s.Evolves t.showBst := h.put.put.put.put
theorem State.Evolves.zeroPc (h : s.Evolves t) {p} : s.Evolves (t.zeroPc p) := h.onMem fun _ => Memory.wf_wipe _ _

theorem State.Evolves.clearUnit (h : s.Evolves t) {u'} : s.Evolves (t.clearUnit u') := by
  unfold State.clearUnit
  split
  · exact h.clearIsland
  · exact h.setEng.zeroRange
  · exact h.zeroRange
  · exact h.zeroPc
  · exact h

theorem State.Evolves.unitBack (h : s.Evolves t) {u'} : s.Evolves (t.unitBack u') := by
  unfold State.unitBack
  split
  · exact .ite (.ite h.modUnit.modEng.put h.modUnit) (.ite h.modUnit h.modUnit.put.put)
  · exact .ite (.ite h.modUnit.modEng.put h.modUnit) (.ite h.modUnit h.modUnit.put.put)
  · exact h.modUnit.onSwb
  · exact h.modUnit

theorem State.Evolves.unitSpared (h : s.Evolves t) {u'} : s.Evolves (t.unitSpared u') := by
  unfold State.unitSpared
  dsimp only
  split
  · exact .ite ((h.modUnit.ite h).put) (.ite h.modUnit h)
  · exact .ite ((h.modUnit.ite h).put) (.ite h.modUnit h)
  · exact .ite ((h.modUnit.ite h).onSwb) (.ite h.modUnit h)
  · exact .ite h.modUnit h

theorem State.Evolves.unitOff (h : s.Evolves t) {u'} : s.Evolves (t.unitOff u') := h.modUnit.post

theorem State.Evolves.testEnded (h : s.Evolves t) {t' result sig} : s.Evolves (t.testEnded t' result sig) :=
  (h.modUnit.bump.ite h.modUnit).post

theorem State.Evolves.dropTest (h : s.Evolves t) {t'} : s.Evolves (t.dropTest t') := h.onBst.showBst

theorem State.Evolves.abortTest (h : s.Evolves t) {t'} : s.Evolves (t.abortTest t') := by
  unfold State.abortTest
  extract_lets s1 s2 s3
  have h2 : s.Evolves s2 := h.dropTest.ite h.dropTest.testEnded
  exact .ite (.ite h2.clearUnit.unitOff h2.clearUnit.unitBack) h2.unitSpared

theorem State.Evolves.abortTests (h : s.Evolves t) {p} : s.Evolves (t.abortTests p) :=
  h.forAll fun _ _ g => g.abortTest.opDone

theorem State.Evolves.parkTests (h : s.Evolves t) : s.Evolves t.parkTests := h.forAll fun _ _ g => g.abortTest.onBst
theorem State.Evolves.payOwed (h : s.Evolves t) : s.Evolves t.payOwed := h.onBst.forAll fun _ _ g => g.opDone
theorem State.Evolves.rungEndsTests (h : s.Evolves t) {scope} : s.Evolves (t.rungEndsTests scope) := h.abortTests

/-! ### `Pins`: transceiver lanes, Ethernet ports, JESD204C links, raw lanes, and the monitors of the GPIO banks -/

theorem State.Evolves.onPins (h : s.Evolves t) {f} : s.Evolves (t.onPins f) := h.elsewhere
theorem State.Evolves.setLink (h : s.Evolves t) {e' p up} : s.Evolves (t.setLink e' p up) := .ite h h.put.post

theorem State.Evolves.jesdLost (h : s.Evolves t) {q misaligned} : s.Evolves (t.jesdLost q misaligned) :=
  .ite ((h.onPins.ite h).putB.post) (.ite h.onPins h)

theorem State.Evolves.dropLinks (h : s.Evolves t) {p} : s.Evolves (t.dropLinks p) :=
  (h.forN (fun _ _ g => .ite g.setLink g)).forN fun _ _ g => .ite g.jesdLost g

theorem State.Evolves.showConflicts (h : s.Evolves t) : s.Evolves t.showConflicts := by
  unfold State.showConflicts
  extract_lets s1 s2 s3
  have h2 : s.Evolves s2 := (h.forN fun _ _ g => g.putB).forN fun _ _ g => g.putB
  have h3 : s.Evolves s3 := h2.forN fun _ _ g => .ite g g.setLink
  exact h3.forN fun _ _ g => .ite g g.jesdLost

theorem State.Evolves.showHalf (h : s.Evolves t) : s.Evolves t.showHalf := .ite h.putB h

theorem State.Evolves.quadUnlock (h : s.Evolves t) {q} : s.Evolves (t.quadUnlock q) := by
  unfold State.quadUnlock
  exact (h.putB.showHalf.forN (fun _ _ g => g.putB)).post.toCairn.dropLinks.onClk

theorem State.Evolves.execQuadPllLossOfLock (h : s.Evolves t) {q} : s.Allows (execQuadPllLossOfLock q t) :=
  h.whenDue h.quadUnlock

theorem State.Evolves.execQuadPllRelock (h : s.Evolves t) {q} : s.Allows (execQuadPllRelock q t) :=
  h.whenDue ((h.putB.showHalf.forN (fun _ _ g => g.putB)).onClk)

theorem State.Evolves.qpllWrite (h : s.Evolves t) {q fb} : s.Evolves (t.qpllWrite q fb) := .ite h ((h.quadUnlock.ite h).put)
theorem State.Evolves.execIobQpllWrite (h : s.Evolves t) {q v} : s.Allows (execIobQpllWrite q v t) := h.qpllWrite.next

theorem State.Evolves.laneWrite (h : s.Evolves t) {l v} : s.Evolves (t.laneWrite l v) :=
  .ite (.ite h.putB h) (.ite ((h.putB.ite h).putB) (.ite ((h.putB.ite h).putB) ((h.putB.ite h).setReg.putB.showConflicts)))

theorem State.Evolves.execIobLaneCfgWrite (h : s.Evolves t) {l v} : s.Allows (execIobLaneCfgWrite l v t) := h.laneWrite.next

theorem State.Evolves.execLossOfSignal (h : s.Evolves t) {l lost} : s.Allows (execLossOfSignal l lost t) :=
  h.whenDue (.ite h.putB.post.putB.dropLinks h.putB.post.putB)

theorem State.Evolves.fromPin (h : s.Evolves t) {v t' tag addr data operand} :
    s.Evolves (t.fromPin v t' tag addr data operand) :=
  h.ingress

theorem State.Evolves.idleWord (h : s.Evolves t) {l} : s.Evolves (t.idleWord l).2 := by
  unfold State.idleWord
  split
  · exact h
  · exact h
  · exact h
  · exact h.took

theorem State.Evolves.toLine (h : s.Evolves t) {v l} : s.Evolves (t.toLine v l) := h.onPins

theorem State.Evolves.execRawReceive (h : s.Evolves t) {l tag data} : s.Allows (execRawReceive l tag data t) :=
  .ite State.allows_illFormed (h.whenDue (by split; exacts [h.fromPin, h.bump]))

theorem State.Evolves.execRawUnderrun (h : s.Evolves t) {l} : s.Allows (execRawUnderrun l t) :=
  h.whenDue h.idleWord.bump.toLine

theorem State.Evolves.execJesdReceive (h : s.Evolves t) {q tag data} : s.Allows (execJesdReceive q tag data t) :=
  .ite State.allows_illFormed (h.whenDue (by split; exacts [h.fromPin, h.bump]))

theorem State.Evolves.execJesdUnderrun (h : s.Evolves t) {q} : s.Allows (execJesdUnderrun q t) := h.whenDue h.bump.toLine
theorem State.Evolves.execSysref (h : s.Evolves t) {d} : s.Allows (execSysref d t) := h.whenDue h.onPins

theorem State.Evolves.execExtendedMultiblockLockLoss (h : s.Evolves t) {q misaligned} :
    s.Allows (execExtendedMultiblockLockLoss q misaligned t) :=
  h.whenDue h.jesdLost

theorem State.Evolves.execExtendedMultiblockLockGain (h : s.Evolves t) {q} : s.Allows (execExtendedMultiblockLockGain q t) :=
  h.whenDue h.putB

theorem State.Evolves.execEthLinkStateChange (h : s.Evolves t) {e' p up} : s.Allows (execEthLinkStateChange e' p up t) :=
  h.whenDue h.setLink

theorem State.Evolves.frameOut (h : s.Evolves t) {v x tag flen off ts l n} :
    s.Evolves (t.frameOut v x tag flen off ts l n) := by
  induction n generalizing t tag off l with
  | zero => exact h
  | succ n ih => exact .ite h (ih h.fromPin)

theorem State.Evolves.execEthFrameReceive (h : s.Evolves t) {e' p tag frame fcs mine ts} :
    s.Allows (execEthFrameReceive e' p tag frame fcs mine ts t) :=
  h.whenDue (.ite h.bump (.ite h.onPins (by split; exacts [h.bump, h.frameOut])))

theorem State.Evolves.ethTx (h : s.Evolves t) {port m corr} : s.Evolves (t.ethTx port m corr).2 := by
  unfold State.ethTx
  extract_lets e a flen off x put ends badCnt s0 y bad z whole sent up
  have hp : ∀ {v x}, s.Evolves v → s.Evolves (put v x) := fun g => g.onPins
  have h0 : s.Evolves s0 := .ite (hp h).bump h
  clear_value put s0
  split
  · exact .snd rfl (.ite (hp h) h)
  · split
    · exact .snd rfl (hp h0.bump)
    · split
      · exact .snd rfl (hp h0)
      · exact .snd rfl (hp h0).onPins

theorem State.Evolves.execVccioMonitor (h : s.Evolves t) {b mv} : s.Allows (execVccioMonitor b mv t) :=
  (h.put.putB.modBank.showBank.post.toCairn.ite h.put.putB.modBank.showBank).next

theorem State.Evolves.bankUnlock (h : s.Evolves t) {b} : s.Evolves (t.bankUnlock b) := by
  unfold State.bankUnlock
  exact h.putB.modBank.showBank.post.toCairn.onClk

theorem State.Evolves.execBankPllLossOfLock (h : s.Evolves t) {b} : s.Allows (execBankPllLossOfLock b t) :=
  h.whenDue h.bankUnlock

theorem State.Evolves.execBankPllRelock (h : s.Evolves t) {b} : s.Allows (execBankPllRelock b t) :=
  h.whenDue h.putB.modBank.showBank.onClk

/-! ### `Power`: budgets and throttling, supply monitors, and the power ladder -/

theorem State.Evolves.onPwr (h : s.Evolves t) {f} : s.Evolves (t.onPwr f) := h.elsewhere
theorem State.Evolves.modDieP (h : s.Evolves t) {d f} : s.Evolves (t.modDieP d f) := h.onPwr
theorem State.Evolves.setPresence (h : s.Evolves t) {d p} : s.Evolves (t.setPresence d p) := h.onPkg

theorem State.Evolves.banksLost (h : s.Evolves t) {d how} : s.Evolves (t.banksLost d how) :=
  h.forN fun _ _ g => g.modBank.showBank

theorem State.Evolves.dieStops (h : s.Evolves t) {d clock} : s.Evolves (t.dieStops d clock) := by
  unfold State.dieStops
  dsimp only
  split
  · exact h.onPkg.setPresence.banksLost
  · exact h.onPkg.setPresence.endJob.banksLost
  · exact .ite (.ite h.onPkg.banksLost h.onPkg) h.onPkg.banksLost
  · exact .ite h.onPkg h.onPkg.banksLost

theorem State.Evolves.showBudget (h : s.Evolves t) {d} : s.Evolves (t.showBudget d) := h.put

theorem State.Evolves.budgets (h : s.Evolves t) {saddle hbm report} : s.Evolves (t.budgets saddle hbm report) := by
  unfold State.budgets
  extract_lets here demand total pool low rest give s1 s2
  have h1 : s.Evolves s1 := h.forAll fun _ _ g => g.modDieP.showBudget
  have h2 : s.Evolves s2 := .ite h1.post h1
  exact h2.onPwr

theorem State.Evolves.execBudgetUpdate (h : s.Evolves t) {saddle hbm p0 p1 p2 p3 late} :
    s.Allows (execBudgetUpdate saddle hbm p0 p1 p2 p3 late t) := by
  unfold Machine.execBudgetUpdate
  extract_lets r s1 s2 s3
  have h2 : s.Evolves s2 := h.put.put.forAll fun _ _ g => .ite g g.put
  exact (h2.budgets.forAll fun _ _ g => .ite g.modDieP (.ite g.modDieP.post g)).next

theorem State.Evolves.execCurrentSample (h : s.Evolves t) {d sample average} :
    s.Allows (execCurrentSample d sample average t) :=
  h.whenDue h.modDieP

theorem State.Evolves.applyThrottle (h : s.Evolves t) {d} : s.Evolves (t.applyThrottle d) :=
  h.forN (fun _ _ g => (g.ite g.setTf).modEng)

theorem State.Evolves.execThrottleTighten (h : s.Evolves t) {d} : s.Allows (execThrottleTighten d t) :=
  h.whenDue h.modDieP.applyThrottle

theorem State.Evolves.execThrottleRelax (h : s.Evolves t) {d} : s.Allows (execThrottleRelax d t) :=
  h.whenDue h.modDieP.applyThrottle

theorem State.Evolves.execTemperatureSample (h : s.Evolves t) {d sensor v ms} :
    s.Allows (execTemperatureSample d sensor v ms t) := by
  unfold Machine.execTemperatureSample
  extract_lets v arg hot cool crit low x s1 s2 s3 s4 s5
  have h2 : s.Evolves s2 := h.put.modDieP.showBudget
  have h3 : s.Evolves s3 := h2.post.ite h2
  have h4 : s.Evolves s4 := h3.toCairn.ite h3
  have h5 : s.Evolves s5 := h4.post.ite h4
  exact h.whenDue (h5.dieStops.ite h5)

theorem State.Evolves.execCurrentChangeAdmit (h : s.Evolves t) : s.Allows (execCurrentChangeAdmit t) := by
  unfold Machine.execCurrentChangeAdmit
  split
  · exact h.notDue
  · exact (h.onPwr.forAll (fun _ _ g => g.setTf)).next

theorem State.Evolves.execDroopPersists (h : s.Evolves t) {i} : s.Allows (execDroopPersists i t) := h.whenDue h.post.toCairn

theorem State.Evolves.execRailSample (h : s.Evolves t) {r mv} : s.Allows (execRailSample r mv t) :=
  (h.onPwr.put.ite (h.onPwr.put.putB.post.toCairn.ite h.onPwr)).next

theorem State.Evolves.execBusSample (h : s.Evolves t) {code} : s.Allows (execBusSample code t) :=
  h.whenDue (.ite ((h.put.put.put.ite h.put.put.put).onPwr.onPwr.post) ((h.put.put.put.ite h.put.put.put).onPwr))

theorem State.Evolves.execBusSagEnter (h : s.Evolves t) : s.Allows (execBusSagEnter t) := h.whenDue h.onPwr.post
theorem State.Evolves.execBusSagExit (h : s.Evolves t) : s.Allows (execBusSagExit t) := h.whenDue h.onPwr.post
theorem State.Evolves.execBusSwellTimer (h : s.Evolves t) : s.Allows (execBusSwellTimer t) := h.whenDue h.onPwr.post.toCairn
theorem State.Evolves.execPwrBusStatClr (h : s.Evolves t) : s.Allows (execPwrBusStatClr t) := h.put.put.next
theorem State.Evolves.execPwrCntClr (h : s.Evolves t) : s.Allows (execPwrCntClr t) := (h.forN (fun _ _ g => g.put)).next
theorem State.Evolves.showRungs (h : s.Evolves t) {pkg} : s.Evolves (t.showRungs pkg) := h.put.put
theorem State.Evolves.refuseRung (h : s.Evolves t) {r why} : s.Evolves (t.refuseRung r why) := h.put.post

theorem State.Evolves.requestRung (h : s.Evolves t) {r} : s.Evolves (t.requestRung r) :=
  .ite h (.ite h.refuseRung h.put.onPwr)

theorem State.Evolves.wake (h : s.Evolves t) : s.Evolves t.wake := .ite h.requestRung h
theorem State.Evolves.execPwrRungRequest (h : s.Evolves t) {r} : s.Allows (execPwrRungRequest r t) := h.requestRung.next

theorem State.Evolves.execPwrDieRungRequest (h : s.Evolves t) {v} : s.Allows (execPwrDieRungRequest v t) :=
  (h.forAll (fun _ _ g => .ite g (.ite g.refuseRung (.ite g.refuseRung (.ite g.refuseRung g.put.onPwr))))).next

theorem State.Evolves.beginEntry (h : s.Evolves t) {m} : s.Evolves (t.beginEntry m) := by
  unfold State.beginEntry
  extract_lets s1 s1'
  have h1 : s.Evolves s1 := h.forAll fun _ _ g => g.request
  have h1' : s.Evolves s1' := h.onPwr.ite h
  exact .ite (.ite h1 (h1.forAll fun _ _ g => g.gateClocks)) (.ite h1' (h1'.forAll fun _ _ g => g.gateClocks))

theorem State.Evolves.showEmulated (h : s.Evolves t) : s.Evolves t.showEmulated := .ite h.putB h
theorem State.Evolves.hbmGone (h : s.Evolves t) : s.Evolves t.hbmGone := (h.onMem fun _ => Memory.wf_wipe _ _).onSwb

theorem State.Evolves.execRungTransitionStart (h : s.Evolves t) : s.Allows (execRungTransitionStart t) := by
  unfold Machine.execRungTransitionStart
  extract_lets pick
  clear_value pick
  split
  · exact h.notDue
  · refine .ite h.notDue (.ite h.onPwr.next ?_)
    extract_lets s1
    have h1 : s.Evolves s1 := h.onPwr.onPwr.putB.showEmulated
    exact ((h1.rungEndsTests.ite h1).beginEntry.ite h1).next

theorem State.Evolves.flushDie (h : s.Evolves t) {d} : s.Evolves (t.flushDie d) := h.foldl fun _ _ g => g.flushUnit
theorem State.Evolves.hbmRung (h : s.Evolves t) {r} : s.Evolves (t.hbmRung r) := .ite h (h.forN (fun _ _ g => .ite g g.put))

theorem State.Evolves.dormantPages (h : s.Evolves t) : s.Evolves t.dormantPages :=
  ((h.forAll fun _ _ g => .getD (fun _ e => g.pageHome e) g.modPages.freeFrame).forAll fun _ _ g => g.post).modPages.showMaps

theorem State.Evolves.tablesOut (h : s.Evolves t) : s.Evolves t.tablesOut := by
  unfold State.tablesOut
  dsimp only
  split
  · exact h
  · split
    · exact h
    · exact .foldlSnd h fun _ _ g => g.spanRead.spanWrite

theorem State.Evolves.moveImages (h : s.Evolves t) {inStore l} : s.Evolves (t.moveImages inStore l) := by
  unfold State.moveImages
  refine h.forAll fun _ _ g => ?_
  split
  · exact g
  · split
    · exact .ite g.moveImage g
    · exact g

theorem State.Evolves.holdBoot (h : s.Evolves t) {c why} : s.Evolves (t.holdBoot c why) :=
  (h.failFlights.forget.forAll (fun _ _ g => g.haltClocks.modIsland.modEng.leaveBorders.put)).modCtx.setEntries.countCtxs

theorem State.Evolves.parkBanks (h : s.Evolves t) {on all} : s.Evolves (t.parkBanks on all) :=
  h.forN fun _ _ g => g.modBank.showBank

theorem State.Evolves.loseIsland (h : s.Evolves t) {i} : s.Evolves (t.loseIsland i) := h.setIsland.modEng.elsewhere

theorem State.Evolves.endEntry (h : s.Evolves t) {m} : s.Evolves (t.endEntry m) := by
  unfold State.endEntry
  extract_lets s0 pkg real s1 s2 moved s3 s4 s5 s6 s7
  have h0 : s.Evolves s0 := h.ite h.modDieP
  have h1 : s.Evolves s1 := (h0.forAll fun _ _ g => g.flushDie).ite h0
  have h2 : s.Evolves s2 := (h1.forAll fun _ _ g => .ite g.stopClocks g.stopClocks.loseIsland).ite h1
  have h3 : s.Evolves s3 := h2.dormantPages.moveImages.tablesOut.onPwr.rangesOff.ite h2
  have h4 : s.Evolves s4 := h3.hbmGone.ite h3
  have h5 : s.Evolves s5 := (h4.forAll fun _ _ g => .ite g g.holdBoot).parkBanks.ite h4
  have h6 : s.Evolves s6 := h5.hbmRung.ite h5
  exact (h6.lkoSleep.ite h6).showRungs

theorem State.Evolves.rungChanged (h : s.Evolves t) {m ns} : s.Evolves (t.rungChanged m ns) := h.putB.onPwr.showEmulated.post

theorem State.Evolves.execRungEntryComplete (h : s.Evolves t) {ns} : s.Allows (execRungEntryComplete ns t) := by
  unfold Machine.execRungEntryComplete
  split
  · exact h.notDue
  · exact .ite h.notDue (.ite ((h.onPwr.ite h).next) ((h.onPwr.ite h).endEntry.rungChanged.next))

theorem State.Evolves.startClocks (h : s.Evolves t) {ds} : s.Evolves (t.startClocks ds) :=
  .ite h ((h.forAll (fun _ _ g => (g.ite g.setTf).gateClocks)).onPwr)

theorem State.Evolves.zeroParked (h : s.Evolves t) : s.Evolves t.zeroParked :=
  .ite h ((h.forN (fun _ _ g => g.zeroRange)).forN (fun _ _ g => .ite g g.clearMemories))

theorem State.Evolves.reloadAll (h : s.Evolves t) : s.Evolves t.reloadAll := h.onSwb.forAll fun _ _ g => .ite g g.request

theorem State.Evolves.endExit (h : s.Evolves t) {m} : s.Evolves (t.endExit m) := by
  unfold State.endExit
  extract_lets s0 pkg left s1 s2 s3 s4 s5 s6 s7
  have h0 : s.Evolves s0 := h.ite h.modDieP
  have h2 : s.Evolves s2 := (h0.zeroParked.ite h0).showRungs
  have h3 : s.Evolves s3 := .ite (.ite (h2.forN fun _ _ g => g.put).onPwr h2.hbmRung) h2
  have h4 : s.Evolves s4 := h3.moveImages.syncMaps.onPwr.ite h3
  have h6 : s.Evolves s6 := (h4.onPwr.ite h4).startClocks
  have h7 : s.Evolves s7 := (h6.parkBanks.forAll fun _ _ g => .ite g.modCtx g).ite h6
  exact (h7.reloadAll.ite h7).lkoSleep

theorem State.Evolves.execPwrWakeExpiry (h : s.Evolves t) : s.Allows (execPwrWakeExpiry t) := h.whenDue h.put.wake

theorem State.Evolves.dropForPark (h : s.Evolves t) {c} : s.Evolves (t.dropForPark c) := by
  unfold State.dropForPark
  extract_lets x is s1 s2 s3 s4 s5 s6
  have h4 : s.Evolves s4 :=
    (h.failFlights.forget.forAll fun _ _ g => g.haltClocks.leaveBorders.bankFence).emptyIslands
      |>.endJob.modCtx.modCtx.setEntries
  have h5 : s.Evolves s5 := by
    unfold s5
    split
    · exact h4.reqDone
    · exact h4
  have h6 : s.Evolves s6 := by
    unfold s6
    split
    · exact .ite h5.unregister h5.reqDone
    · exact h5
  exact h6.countCtxs

theorem State.Evolves.parkNow (h : s.Evolves t) {ns} : s.Evolves (t.parkNow ns) := by
  unfold State.parkNow
  extract_lets old deep s0 s1 cs s2 s3 s4 s5 s6
  have h2 : s.Evolves s2 := h.onPwr.putB.putB.parkTests.forAll fun _ _ g => g.dropForPark
  have h3 : s.Evolves s3 := h2.forAll fun _ _ g => g.holdBoot
  have h5 : s.Evolves s5 := (h3.forN fun _ _ g => g.haltClocks).parkBanks.hbmRung.showRungs
  have h6 : s.Evolves s6 := h5.forAll fun _ _ g => g.abandonMigration
  exact h6.post.ite h6

/-! ### `Cairn`: fault messages and their reactions -/

theorem State.Evolves.showRing (h : s.Evolves t) : s.Evolves t.showRing := h.putB
theorem State.Evolves.showAlive (h : s.Evolves t) : s.Evolves t.showAlive := h.putB
theorem State.Evolves.forceSafe (h : s.Evolves t) : s.Evolves t.forceSafe := h.putB.showBanks
theorem State.Evolves.notice (h : s.Evolves t) {cause} : s.Evolves (t.notice cause) := .ite h.elsewhere h

theorem State.Evolves.cairnPark (h : s.Evolves t) {ns} : s.Evolves (t.cairnPark ns) :=
  .ite h.forceSafe.putB.showAlive h.forceSafe.putB.notice.parkNow.showAlive

theorem State.Evolves.cairnReset (h : s.Evolves t) {source} : s.Evolves (t.cairnReset source) :=
  .ite h.forceSafe (.ite h h.onPkg.dieStops)

theorem State.Evolves.latch (h : s.Evolves t) {source kind sev addr inj relatch} :
    s.Evolves (t.latch source kind sev addr inj relatch) :=
  h.put.put.put.putB.putB.put.put.putB

theorem State.Evolves.cairnTakes (h : s.Evolves t) {m ns} : s.Evolves (t.cairnTakes m ns) := by
  unfold State.cairnTakes
  extract_lets k s0 sev first s1 s2 s3 s4 s5 s6
  have h1 : s.Evolves s1 := h.bump.latch.ite h.bump.putB
  have h2 : s.Evolves s2 := (h1.putB.ite h1).showAlive
  have h3 : s.Evolves s3 := h2.forceSafe.ite h2
  have h4 : s.Evolves s4 := h3.cairnPark.ite h3
  have h5 : s.Evolves s5 := h4.cairnReset.ite h4
  have h6 : s.Evolves s6 := h5.onCairn.post.ite h5
  exact .ite h.bump h6.tellLookout

theorem State.Evolves.execCairnMessage (h : s.Evolves t) {parityOk ns} : s.Allows (execCairnMessage parityOk ns t) := by
  unfold Machine.execCairnMessage
  split
  · exact h.notDue
  · exact (h.elsewhere.cairnTakes.ite h.elsewhere.toCairn).next

theorem State.Evolves.execDieResetRelease (h : s.Evolves t) {d} : s.Allows (execDieResetRelease d t) := h.whenDue h.onPkg

theorem State.Evolves.execRingTokenTimeout (h : s.Evolves t) {g' back} : s.Allows (execRingTokenTimeout g' back t) :=
  .ite (h.whenDue h.onCairn.showRing) (h.whenDue h.onCairn.showRing.toCairn)

theorem State.Evolves.fltClear (h : s.Evolves t) {w} : s.Evolves (t.fltClear w) := by
  unfold State.fltClear
  extract_lets cs park safe crit off l o c a p drop s1 s2 s3 bits
  have hd : ∀ {x b f}, s.Evolves x → s.Evolves (drop x b f) := fun g => .ite g.putB g
  have h1 : s.Evolves s1 := hd (hd (hd (hd (hd h))))
  have h2 : s.Evolves s2 := by
    unfold s2
    split
    · exact h1.latch.post
    · exact h1
  exact .ite h2.showBanks.showAlive h2.showBanks.showAlive.post

theorem State.Evolves.execFltStatClear (h : s.Evolves t) {w} : s.Allows (execFltStatClear w t) := h.fltClear.next
theorem State.Evolves.execSafeReqNLow (h : s.Evolves t) : s.Allows (execSafeReqNLow t) := h.whenDue h.putB.toCairn

theorem State.Evolves.execSafeReqNRise (h : s.Evolves t) : s.Allows (execSafeReqNRise t) :=
  h.whenDue (.ite h.putB.fltClear h.putB)

theorem State.Evolves.execFltInjGo (h : s.Evolves t) {w} : s.Allows (execFltInjGo w t) := by
  unfold Machine.execFltInjGo
  extract_lets set s1 s2 mode allow kind chk
  have h1 : s.Evolves s1 := h.put.put.put.put.put
  have h2 : s.Evolves s2 := .ite h1.putB h1
  exact (h2.ite (h2.putB.ite (.ite h2.took.elsewhere h2.onCairn))).next

theorem State.Evolves.execFltCntClr (h : s.Evolves t) : s.Allows (execFltCntClr t) := (h.forN (fun _ _ g => g.put)).put.next

/-! ### `Lookout`: firmware, the log in flash, updates and fuses, the mailbox -/

theorem State.Evolves.modSector (h : s.Evolves t) {k' f} : s.Evolves (t.modSector k' f) := h.onLko
theorem State.Evolves.showSectors (h : s.Evolves t) : s.Evolves t.showSectors := h.put

theorem State.Evolves.turnSector (h : s.Evolves t) {first} : s.Evolves (t.turnSector first) := by
  unfold State.turnSector
  split
  · exact h
  · extract_lets x n old s1 s2 s3
    have h1 : s.Evolves s1 := h.modSector.onLko.showSectors
    have h2 : s.Evolves s2 := h1.post.ite h1
    exact .ite (h2.putB.ite h2.putB.onLko.post) h2

theorem State.Evolves.copyEntry (h : s.Evolves t) : s.Evolves t.copyEntry := by
  unfold State.copyEntry
  split
  · exact h
  · extract_lets full s1
    have h1 : s.Evolves s1 := .ite h.turnSector h
    clear_value s1
    split
    · exact .ite h1 h1.modSector.onLko
    · exact h1

theorem State.Evolves.setsChanged (h : s.Evolves t) : s.Evolves t.setsChanged := .ite (h.forAll (fun _ _ g => g.modSector)) h
theorem State.Evolves.execLogFlashCopy (h : s.Evolves t) : s.Allows (execLogFlashCopy t) := h.whenDue h.copyEntry
theorem State.Evolves.copyTail (h : s.Evolves t) : s.Evolves t.copyTail := h.forN fun _ _ g => .ite g.copyEntry g

theorem State.Evolves.showMbx (h : s.Evolves t) : s.Evolves t.showMbx := by
  unfold State.showMbx
  split <;> exact h.put.put.putB.put

theorem State.Evolves.mgtSend (h : s.Evolves t) {src m} : s.Evolves (t.mgtSend src m) := by
  unfold State.mgtSend
  split
  · exact h.onLko.showMbx
  · exact h.onLko
  · exact .ite h.endDesc (.ite h.hostWrite.endDesc h.hostWrite.endDesc)

theorem State.Evolves.mgtAccept (h : s.Evolves t) {r} : s.Evolves (t.mgtAccept r) := .ite h.mgtSend (.ite h.mgtSend h.onLko)

theorem State.Evolves.pump (h : s.Evolves t) {n} : s.Evolves (t.pump n) := by
  induction n generalizing t with
  | zero => exact h
  | succ n ih =>
    unfold State.pump
    dsimp only
    split
    · exact h
    · exact .ite h (ih (State.Evolves.ite h.onLko.onLko.mgtAccept h.onLko.onLko).showMbx)

theorem State.Evolves.execMgtMbxTxPush (h : s.Evolves t) {w} : s.Allows (execMgtMbxTxPush w t) :=
  (h.putB.ite h.onLko.showMbx.pump).next

theorem State.Evolves.execMgtMbxRxPop (h : s.Evolves t) {obs} : s.Allows (execMgtMbxRxPop obs t) :=
  (h.onMem.ite h.onMem.onLko.showMbx.pump).next

theorem State.Evolves.mgt (h : s.Evolves t) {cmd n f post} (hf : ∀ r p x, s.Evolves x → s.Evolves (f r p x).2.2)
    (hpost : ∀ x, s.Evolves x → s.Evolves (post x) := by exact fun _ g => g) : s.Allows (t.mgt cmd n f post) := by
  unfold State.mgt
  split
  · exact h.notDue
  · rename_i r rest _
    refine .ite h.notDue ?_
    extract_lets s0 p x m
    have h0 : s.Evolves s0 := h.onLko
    have hx : s.Evolves x.2.2 := by
      unfold x
      clear_value s0
      split
      · exact h0
      · split
        · exact h0
        · split
          · exact h0
          · exact hf _ _ _ h0
    exact .ite h.notDue (hpost _ hx.mgtSend.pump).next

theorem State.Evolves.dropUpdate (h : s.Evolves t) : s.Evolves t.dropUpdate := by
  unfold State.dropUpdate
  split <;> exact h.onLko

theorem State.Evolves.restartLookout (h : s.Evolves t) {cause} : s.Evolves (t.restartLookout cause) := by
  unfold State.restartLookout
  exact h.dropUpdate.put.putB.onLko.lkoFree.showMbx

theorem State.Evolves.loadFirmware (h : s.Evolves t) {ta tb a b} : s.Evolves (t.loadFirmware ta tb a b) := by
  unfold State.loadFirmware
  split
  · exact h.onLko.onLko
  · exact .ite h.onLko.onLko.store.onLko.put.put (.ite h.onLko.onLko.onLko.store.onLko.put.put h.onLko.onLko.onLko.onLko)

theorem State.Evolves.lkoBegins (h : s.Evolves t) : s.Evolves t.lkoBegins :=
  ((h.put.showSectors.post.ite h.put.showSectors.onLko).ite h.put.showSectors).drainFifo.pump

theorem State.Evolves.execLookoutFirmwareLoad (h : s.Evolves t) {ta tb a b} :
    s.Allows (execLookoutFirmwareLoad ta tb a b t) :=
  .ite h.loadFirmware.lkoBegins.next (.ite h.loadFirmware.onLko.next h.notDue)

theorem State.Evolves.execLookoutRestartComplete (h : s.Evolves t) : s.Allows (execLookoutRestartComplete t) :=
  h.whenDue h.onLko.lkoBegins.logAdd.post

theorem State.Evolves.execLkoWatchdogExpiry (h : s.Evolves t) {pc} : s.Allows (execLkoWatchdogExpiry pc t) :=
  h.whenDue h.restartLookout.toCairn

theorem State.Evolves.execLookoutTrap (h : s.Evolves t) {pc} : s.Allows (execLookoutTrap pc t) :=
  h.whenDue h.restartLookout.toCairn

theorem State.Evolves.execMgtCtlRestart (h : s.Evolves t) : s.Allows (execMgtCtlRestart t) := (h.restartLookout.ite h).next
theorem State.Evolves.execGetInfo (h : s.Evolves t) : s.Allows (execGetInfo t) := h.mgt (fun _ _ _ g => g) (fun _ g => g)

theorem State.Evolves.execGetSensors (h : s.Evolves t) {vals} : s.Allows (execGetSensors vals t) :=
  h.mgt (fun _ _ _ g => g) (fun _ g => g)

theorem State.Evolves.execReadLog (h : s.Evolves t) : s.Allows (execReadLog t) := h.mgt (fun _ _ _ g => g) (fun _ g => g)

theorem State.Evolves.execLaneHealth (h : s.Evolves t) {q} : s.Allows (execLaneHealth q t) := by
  unfold Machine.execLaneHealth
  refine h.mgt fun _ _ _ g => ?_
  extract_lets d b k lg seen
  split
  · exact g
  · exact .snd₂ rfl g.onPkg

theorem State.Evolves.execGetCfgAttempts (h : s.Evolves t) : s.Allows (execGetCfgAttempts t) :=
  h.mgt (fun _ _ _ g => g) (fun _ g => g)

theorem State.Evolves.updateBegin (h : s.Evolves t) {p} : s.Evolves (t.updateBegin p).2.2 := by
  unfold State.updateBegin
  dsimp only
  split
  · exact h
  · split
    · exact h
    · split
      · exact h
      · split
        · exact h
        · exact h.onLko.logAdd

theorem State.Evolves.execUpdateBegin (h : s.Evolves t) : s.Allows (execUpdateBegin t) :=
  h.mgt (fun _ _ _ g => g.updateBegin) (fun _ g => g)

theorem State.Evolves.updateData (h : s.Evolves t) {p} : s.Evolves (t.updateData p).2.2 := by
  unfold State.updateData
  extract_lets off data
  split
  · split
    · exact h
    · split
      · exact h
      · exact .snd₂ rfl h.onLko
  · exact h

theorem State.Evolves.execUpdateData (h : s.Evolves t) : s.Allows (execUpdateData t) :=
  h.mgt (fun _ _ _ g => g.updateData) (fun _ g => g)

theorem State.Evolves.updateEnd (h : s.Evolves t) {segCode sigOk} : s.Evolves (t.updateEnd segCode sigOk).2.2 := by
  unfold State.updateEnd
  split
  · exact h.onLko.logAdd.post
  · exact h

theorem State.Evolves.execUpdateEnd (h : s.Evolves t) {segCode sigOk} : s.Allows (execUpdateEnd segCode sigOk t) :=
  h.mgt (fun _ _ _ g => g.updateEnd) (fun _ g => g)

theorem State.Evolves.slotActivate (h : s.Evolves t) {p} : s.Evolves (t.slotActivate p).2.2 := by
  unfold State.slotActivate
  dsimp only
  split
  · exact h
  · split
    · exact h
    · split
      · exact h
      · split
        · exact h
        · exact h.onLko.logAdd

theorem State.Evolves.execSlotActivate (h : s.Evolves t) : s.Allows (execSlotActivate t) :=
  h.mgt (fun _ _ _ g => g.slotActivate) (fun _ g => g)

theorem State.Evolves.arbAdvance (h : s.Evolves t) {v} : s.Evolves (t.arbAdvance v).2.2 := by
  unfold State.arbAdvance
  extract_lets c run n
  split
  · exact .snd₂ rfl h.post
  · split
    · exact h
    · exact .snd₂ rfl h.put.putB.logAdd

theorem State.Evolves.execArbAdvance (h : s.Evolves t) : s.Allows (execArbAdvance t) :=
  h.mgt (fun _ _ _ g => g.arbAdvance) (fun _ g => g)

theorem State.Evolves.execLkoRestart (h : s.Evolves t) : s.Allows (execLkoRestart t) :=
  h.mgt (fun _ _ _ g => g) (fun _ g => g.restartLookout)

theorem State.Evolves.execFltClear (h : s.Evolves t) : s.Allows (execFltClear t) :=
  h.mgt (fun _ _ _ g => g.fltClear) (fun _ g => g)

theorem State.Evolves.execSpdm (h : s.Evolves t) {reply opens app} : s.Allows (execSpdm reply opens app t) := by
  unfold Machine.execSpdm
  extract_lets sess
  have hs : ∀ {x}, s.Evolves x → s.Evolves (sess x) := fun g => by
    unfold sess
    split
    · exact g.putB
    · exact g
  clear_value sess
  split
  · exact .ite (hs (h.onLko.mgtSend.ite h.onLko.onLko)).next (h.mgt (fun _ _ _ g => g) fun _ g => g)
  · exact h.mgt (fun _ _ _ g => hs g) fun _ g => g

theorem State.Evolves.execPtpCfg (h : s.Evolves t) : s.Allows (execPtpCfg t) := h.mgt fun _ _ _ g => .snd₂ rfl g.onLko

theorem State.Evolves.execHbmPcClear (h : s.Evolves t) : s.Allows (execHbmPcClear t) := by
  unfold Machine.execHbmPcClear
  refine h.mgt fun _ _ _ g => ?_
  extract_lets k m
  split
  · exact g
  · exact .snd₂ rfl g.onHbm.setsChanged.logAdd

theorem State.Evolves.fuseProgram (h : s.Evolves t) {p} : s.Evolves (t.fuseProgram p).2.2 := by
  unfold State.fuseProgram
  extract_lets k c f need old g s1 s2
  have hg : old = [] → f.KeptIn g := fun ho => by
    unfold old at ho
    unfold g
    clear_value k c f
    split_ifs at ho ⊢
    · exact { Fuses.KeptIn.refl f with keyHash := fun n => absurd ho n }
    · exact { Fuses.KeptIn.refl f with bitKey := fun n => absurd ho n }
    · exact { Fuses.KeptIn.refl f with debugHash := fun n => absurd ho n }
    · exact { Fuses.KeptIn.refl f with pwHash := fun n => absurd ho n }
  have hs1 : old = [] → s.Evolves s1 := fun ho => h.trans ⟨id, hg ho⟩
  have hs2 : old = [] → s.Evolves s2 := fun ho => .ite (.forN (hs1 ho) fun _ _ g => g.put) (hs1 ho)
  clear_value k c need s1 s2 g old
  split; · exact h
  split; · exact h
  split; · exact h
  split; · exact h
  split; · exact h
  rename_i ho _
  exact (hs2 (not_not.1 ho)).putB.logAdd

theorem State.Evolves.execFuseProgram (h : s.Evolves t) : s.Allows (execFuseProgram t) :=
  h.mgt (fun _ _ _ g => g.fuseProgram) (fun _ g => g)

theorem State.Evolves.execSetKwk (h : s.Evolves t) : s.Allows (execSetKwk t) :=
  h.mgt (fun _ _ _ g => g.onCry.putB) (fun _ g => g)

theorem State.Evolves.execMbx (h : s.Evolves t) {d rd body} : s.Allows (execMbx d rd body t) :=
  .ite h.notDue (h.runRead (fun _ g => g.mgtAccept))

theorem State.Evolves.execMctpMessage (h : s.Evolves t) {m} : s.Allows (execMctpMessage m t) := by
  unfold Machine.execMctpMessage
  split
  · exact h.wake.next
  · exact h.whenDue h.onLko
  · exact .ite h.onLko.next h.notDue
  · exact .ite h.onLko.next h.notDue
  · exact .ite h.onLko.next h.notDue
  · exact .ite h.notDue h.mgtAccept.next
  · exact .ite h.notDue h.mgtAccept.next

/-! ### `RegWrite`: writes of set-up registers -/

theorem State.Evolves.landed (h : s.Evolves t) {r} (hr : s.Allows r) : s.Evolves (landed t r) := by
  unfold Machine.landed
  split
  · exact hr _ rfl
  · exact h

theorem State.Evolves.setBits (h : s.Evolves t) {off m v} : s.Evolves (t.setBits off m v) := h.setReg
theorem State.Evolves.keepKinds (h : s.Evolves t) : s.Evolves t.keepKinds := (h.foldl (fun _ _ g => g.put.put)).put

theorem State.Evolves.afterWrite (h : s.Evolves t) {off} : s.Evolves (t.afterWrite off) :=
  .ite h.keepKinds (.ite h.showConflicts h)

theorem State.Evolves.writeRw (h : s.Evolves t) {off v mask} : s.Evolves (t.writeRw off v mask) := h.setBits.afterWrite
theorem State.Evolves.tbUnlock (h : s.Evolves t) {src} : s.Evolves (t.tbUnlock src) := h.putB.post
theorem State.Evolves.ptpPort (h : s.Evolves t) {v} : s.Evolves (t.ptpPort v) := .ite h.put.put.tbUnlock h.put.put

theorem State.Evolves.saddleRecord (h : s.Evolves t) {off v u} (e : t.saddleRecord off v = some u) : s.Evolves u := by
  unfold State.saddleRecord at e
  by_cases hr : (!recordTarget off) = true
  · rw [if_pos hr] at e; cases e
  · rw [if_neg hr] at e
    rw [← Option.some.inj e]
    exact .ite h.put.writeRw <|
      .ite (h.landed h.execClkBaseWrite) <|
      .ite (h.landed h.execPwrRungRequest) <|
      .ite (h.landed h.execPwrDieRungRequest) <|
      .ite h.ptpPort <|
      .ite (h.landed h.execTrlTqSelWrite) <|
      .ite (h.landed h.execTrlLqSelWrite) <|
      .ite (h.landed h.execTrlPmapQWrite) <|
      .ite h.qpllWrite <|
      .ite h.laneWrite h.writeRw

theorem State.Evolves.saddleRecords (h : s.Evolves t) {l u} (e : t.saddleRecords l = some u) : s.Evolves u := by
  fun_induction State.saddleRecords t l with
  | case1 => cases e; exact h
  | case2 => cases e
  | case3 _ _ _ _ _ _ _ hr ih => exact ih (h.saddleRecord hr) e
  | case4 => cases e

/-! ### `Boot`: the identity check, full reset, configuration and start-up, the reload of boot contexts and the frame sweep -/

theorem State.Evolves.beginConfig (h : s.Evolves t) : s.Evolves t.beginConfig := h.onCfg.forN fun _ _ g => g.put
theorem State.Evolves.strap (h : s.Evolves t) {mode pullN} : s.Evolves (t.strap mode pullN) := h.onCfg

theorem State.Evolves.execIdentityCheck (h : s.Evolves t) {fused grades mode pullN} :
    s.Allows (execIdentityCheck fused grades mode pullN t) := by
  unfold Machine.execIdentityCheck
  extract_lets l pos bad s1 s2 s3
  have h2 : s.Evolves s2 := h.onPkg.setReg.forN fun _ _ g => g.setReg.setReg
  have h3 : s.Evolves s3 := h2.onBst.put.put.strap
  clear_value s3 bad
  refine h.whenDue ?_
  split
  · exact h3.onCfg
  · exact .ite h3.onCfg h3.beginConfig

theorem State.Evolves.fullReset (h : s.Evolves t) : s.Evolves t.fullReset := by
  unfold State.fullReset
  extract_lets reset mem lko t' t1 t2
  have h' : s.Evolves t' := h.rebuilt _ rfl (Memory.wf_wipe _ _) rfl
  clear_value t'
  exact h'.put.put.put.put.put.showRing.lkoFree.put.put.put.drainFifo

theorem State.Evolves.execProgNLow (h : s.Evolves t) : s.Allows (execProgNLow t) :=
  h.whenDue ((h.ite h.notice.fullReset).onCfg)

theorem State.Evolves.execProgNRise (h : s.Evolves t) {mode pullN} : s.Allows (execProgNRise mode pullN t) :=
  h.whenDue (.ite h.onCfg.strap.beginConfig h.onCfg.strap)

theorem State.Evolves.execCfgReconf (h : s.Evolves t) {v} : s.Allows (execCfgReconf v t) :=
  h.whenDue (.ite h.notice.fullReset.onCfg.beginConfig h)

theorem State.Evolves.clearConfig (h : s.Evolves t) : s.Evolves t.clearConfig := by
  unfold State.clearConfig
  extract_lets undo s1 gone swb pwr cfg s2
  have h1 : s.Evolves s1 := h.forAll fun _ _ g => g.setBits
  clear_value s1
  have h2 : s.Evolves s2 := h1.rebuilt _ rfl (Memory.wf_wipe _ _) rfl
  exact (h2.forN fun _ _ g => g.put.put.put).showBanks

theorem State.Evolves.cfgFail (h : s.Evolves t) {code} : s.Evolves (t.cfgFail code) :=
  .ite h.clearConfig.onCfg.logAdd.onCfg h.clearConfig.onCfg.logAdd.onCfg

theorem State.Evolves.execConfigAttempt (h : s.Evolves t) {v} : s.Allows (execConfigAttempt v t) := by
  have hl : ∀ {f code k} {c : Prop} [Decidable c],
      s.Evolves (if c then (t.onCfg f).cfgFail code else (t.onCfg f).onCfg k) := h.onCfg.cfgFail.ite h.onCfg.onCfg
  refine h.whenDue (.ite h.cfgFail (.ite hl (.ite h.cfgFail ?_)))
  split
  · exact h.cfgFail
  · exact hl

theorem State.Evolves.bankRecord (h : s.Evolves t) {b r} : s.Evolves (t.bankRecord b r) := h.modBank.put

theorem State.Evolves.dieSegment (h : s.Evolves t) {d l u} (e : t.dieSegment d l = .ok u) : s.Evolves u := by
  unfold State.dieSegment at e
  dsimp only at e
  split at e
  · cases e
  · cases e; exact h.put.onCfg.forN fun _ _ g => g.bankRecord

theorem State.Evolves.islandSegment (h : s.Evolves t) {i boot clock g l u} (e : t.islandSegment i boot clock g l = .ok u) :
    s.Evolves u := by
  unfold State.islandSegment at e
  dsimp only at e
  split at e
  · cases e
  · cases e; exact h.writeIsland.onCfg

theorem State.Evolves.execConfigSegment (h : s.Evolves t) {hdr payload g} :
    s.Allows (execConfigSegment hdr payload g t) := by
  unfold Machine.execConfigSegment
  refine .ite State.allows_illFormed ?_
  extract_lets c typ die isl last size i look run
  have hrun : ∀ {u}, run = .ok u → s.Evolves u := fun e => by
    unfold run at e
    clear_value typ die isl last size i look
    split at e; · cases e
    split at e; · cases e
    split at e; · cases e
    split at e; · cases e
    split at e; · cases e
    split at e; · cases e
    split at e; · cases e
    extract_lets s1 at e
    have h1 : s.Evolves s1 := h.onCfg
    clear_value s1
    split at e
    · split at e
      · cases e; exact h1.saddleRecords ‹_›
      · cases e
    · exact h1.dieSegment e
    · exact h1.islandSegment e
    · split at e
      · cases e; exact h1
      · cases e
  clear_value run
  refine h.whenDue ?_
  split
  · exact hrun rfl
  · exact h.cfgFail

theorem State.Evolves.placeBoot (h : s.Evolves t) {b} : s.Evolves (t.placeBoot b) := by
  unfold State.placeBoot
  split
  · exact h
  · exact (h.setCtx.forAll (fun _ _ g => g.showIsland)).setEntries

theorem State.Evolves.execTrailerCheck (h : s.Evolves t) {v} : s.Allows (execTrailerCheck v t) :=
  h.whenDue (.ite h.cfgFail ((h.foldl (fun _ _ g => g.placeBoot)).onCfg))

theorem State.Evolves.execConfigIdleTimeout (h : s.Evolves t) : s.Allows (execConfigIdleTimeout t) := h.whenDue h.cfgFail
theorem State.Evolves.stepDone (h : s.Evolves t) : s.Evolves t.stepDone := h.onCfg

theorem State.Evolves.execStartupLock (h : s.Evolves t) : s.Allows (execStartupLock t) := by
  unfold Machine.execStartupLock
  extract_lets s1 s2 s3 s4
  have h1 : s.Evolves s1 := h.put.forN fun _ _ g => g.put
  have h2 : s.Evolves s2 := h1.forN fun _ _ g => .ite (g.landed g.execQuadPllRelock) g
  have h3 : s.Evolves s3 := h2.forN fun _ _ g => .ite (g.landed g.execBankPllRelock) g
  have h4 : s.Evolves s4 := h3.forAll fun _ _ g => .ite g g.applySetting.gateClocks
  exact h.whenDue h4.onCfg.stepDone

theorem State.Evolves.execStartupLockTimeout (h : s.Evolves t) : s.Allows (execStartupLockTimeout t) := h.whenDue h.cfgFail

theorem State.Evolves.execStartupGsr (h : s.Evolves t) : s.Allows (execStartupGsr t) := by
  unfold Machine.execStartupGsr
  extract_lets s1 s2
  have h1 : s.Evolves s1 := h.forAll fun _ _ g => .ite g.releaseIsland g.releaseIsland.modEng
  have h2 : s.Evolves s2 := h1.foldl fun _ _ g => g.modCtx.setEntries
  exact h.whenDue h2.onCfg.stepDone

theorem State.Evolves.execStartupWe (h : s.Evolves t) : s.Allows (execStartupWe t) :=
  h.whenDue (((h.onCfg.forAll (fun _ _ g => g.modEng)).ite h.onCfg).stepDone)

theorem State.Evolves.execStartupOut (h : s.Evolves t) : s.Allows (execStartupOut t) :=
  h.whenDue h.onCfg.showBanks.showAlive.stepDone

theorem State.Evolves.execDoneRelease (h : s.Evolves t) {us} : s.Allows (execDoneRelease us t) := by
  unfold Machine.execDoneRelease
  extract_lets c first stat s1 s2 s3 s4 s5
  have h3 : s.Evolves s3 := h.onCfg.logAdd.put.setReg.setReg.put.setReg.forN fun _ _ g => g.setReg.setReg
  have h4 : s.Evolves s4 := h3.forN fun _ _ g => .ite g g.put
  exact h.whenDue (h4.ite h4.onLko).countCtxs

theorem State.Evolves.cfgError (h : s.Evolves t) {code} : s.Evolves (t.cfgError code) := .ite h.cfgFail h

theorem State.Evolves.execBootContextReload (h : s.Evolves t) {c} : s.Allows (execBootContextReload c t) :=
  h.whenDue h.modCtx.addJob

theorem State.Evolves.execBootReloadComplete (h : s.Evolves t) {c digest} :
    s.Allows (execBootReloadComplete c digest t) := by
  unfold Machine.execBootReloadComplete
  extract_lets n x ok is s1 s2 s3
  have h1 : s.Evolves s1 := h.forAll fun _ _ g => (g.clearMemories.writeMem.ite g.clearMemories).modEng
  have h2 : s.Evolves s2 := h1.forAll fun _ _ g => g.releaseIsland
  exact h.whenDue h2.modCtx.endJob.setEntries.post.takeUp.countCtxs

theorem State.Evolves.execFrameSweepCheck (h : s.Evolves t) {i idx bad last} :
    s.Allows (execFrameSweepCheck i idx bad last t) := by
  unfold Machine.execFrameSweepCheck
  extract_lets s1 s2 s3 inOrder
  have h2 : s.Evolves s2 := h.put.onCfg.bump.post.toCairn.modIsland.ite h.put.onCfg
  exact h.whenDue (h2.bump.put.onCfg.ite h2)

/-! ### `HostLink`: the PCIe link, its resets and D-states, rings, event queues and interrupts, the timebase -/

theorem State.Evolves.failHostReads (h : s.Evolves t) : s.Evolves t.failHostReads :=
  h.onHost.forAll fun _ _ g => g.dropFlight.respond

theorem State.Evolves.signal (h : s.Evolves t) {v} : s.Evolves (t.signal v) := .ite h.put h.onHost
theorem State.Evolves.unmasked (h : s.Evolves t) : s.Evolves t.unmasked := .ite h (h.forN (fun _ _ g => .ite g.put.signal g))
theorem State.Evolves.linkDown (h : s.Evolves t) : s.Evolves t.linkDown := .ite h.onHost.failHostReads.toCairn h
theorem State.Evolves.execPcieLinkDown (h : s.Evolves t) : s.Allows (execPcieLinkDown t) := h.whenDue h.linkDown

theorem State.Evolves.execPcieLinkUp (h : s.Evolves t) : s.Allows (execPcieLinkUp t) :=
  h.whenDue ((h.took.onHost.post.onLko.ite h.took.onHost).unmasked)

theorem State.Evolves.perstLow (h : s.Evolves t) : s.Evolves t.perstLow := .ite h.onHost.onHost h.notice.fullReset.onHost
theorem State.Evolves.execPerstN (h : s.Evolves t) : s.Allows (execPerstN t) := h.whenDue h.perstLow

theorem State.Evolves.execPerstNRelease (h : s.Evolves t) : s.Allows (execPerstNRelease t) :=
  h.whenDue (.ite h.onHost.beginConfig h.onHost)

/-- The registers dropped go back to their reset values. -/
theorem State.Evolves.execHotReset (h : s.Evolves t) : s.Allows (execHotReset t) := by
  unfold Machine.execHotReset
  extract_lets s1 s2
  have h1 : s.Evolves s1 := h.failHostReads
  have h2 : s.Evolves s2 := h1.keeps ⟨fun c => ⟨Table.wf_filter regReset _ _ c.1, c.2⟩, rfl⟩
  exact h.whenDue h2.put

theorem State.Evolves.execD3hot (h : s.Evolves t) : s.Allows (execD3hot t) := h.whenDue h.onHost.requestRung
theorem State.Evolves.execD3cold (h : s.Evolves t) : s.Allows (execD3cold t) := h.whenDue h.perstLow

theorem State.Evolves.execReturnToD0 (h : s.Evolves t) : s.Allows (execReturnToD0 t) :=
  h.whenDue (.ite h.onHost.unmasked h.onHost.unmasked.requestRung)

theorem State.Evolves.execVauxRemoval (h : s.Evolves t) : s.Allows (execVauxRemoval t) := by
  unfold Machine.execVauxRemoval
  extract_lets l reset t'
  have h' : s.Evolves t' := h.rebuilt _ rfl (fun _ => rfl) rfl
  clear_value t'
  exact h'.put.next

theorem State.Evolves.pllUnlock (h : s.Evolves t) {k'} : s.Evolves (t.pllUnlock k') :=
  .ite h (.ite h.onClk.toCairn.linkDown h.onClk.toCairn)

theorem State.Evolves.execPllLossOfLock (h : s.Evolves t) {k'} : s.Allows (execPllLossOfLock k' t) := h.whenDue h.pllUnlock

theorem State.Evolves.execPrivilegedPllRelock (h : s.Evolves t) {k'} : s.Allows (execPrivilegedPllRelock k' t) :=
  h.whenDue h.onClk

theorem State.Evolves.execRefLost (h : s.Evolves t) : s.Allows (execRefLost t) := by
  unfold Machine.execRefLost
  extract_lets s1 s2 s3
  have h2 : s.Evolves s2 := h.put.put.put.onClk.toCairn.forN fun _ _ g => .ite g.quadUnlock g
  have h3 : s.Evolves s3 := h2.forN fun _ _ g => .ite g.bankUnlock g
  exact h.whenDue h3.pllUnlock.pllUnlock.pllUnlock.cfgError

theorem State.Evolves.execRingDoorbell (h : s.Evolves t) {r v whole} : s.Allows (execRingDoorbell r v whole t) := by
  unfold Machine.execRingDoorbell
  extract_lets n st p p' s1
  have h1 : s.Evolves s1 := h.wake.ite h
  exact h.whenDue (h1.bump.ite (h1.ringError.ite (h1.ringError.ite (h1.ringError.ite h1.put.onHost))))

theorem State.Evolves.ringEnable (h : s.Evolves t) {r} : s.Allows (ringEnable r t) :=
  .ite h.next (.ite h.put.put.put.put.onHost.ringError.next h.put.put.put.put.onHost.setRingState.next)

theorem State.Evolves.ringDisable (h : s.Evolves t) {r} : s.Allows (ringDisable r t) :=
  .ite h.next h.put.onHost.setSlots.setRingState.next

theorem State.Evolves.execRingStopComplete (h : s.Evolves t) {r} : s.Allows (execRingStopComplete r t) :=
  h.whenDue h.setRingState

theorem State.Evolves.ringResume (h : s.Evolves t) {r} : s.Allows (ringResume r t) := .ite h.setRingState.dropBad.next h.next

theorem State.Evolves.ringFlush (h : s.Evolves t) {r rest} : s.Allows (ringFlush r rest t) := by
  unfold Machine.ringFlush
  extract_lets k l n n2 fits s1 s2 s3
  have h1 : s.Evolves s1 := h.setSlots.foldl fun _ _ g => by split <;> exact g.postCompletion
  have h2 : s.Evolves s2 := h1.foldl fun _ _ g => g.postCompletion
  exact .ite h.next (h.whenDue h2.put.onHost.setRingState)

theorem State.Evolves.execDescriptorFetch (h : s.Evolves t) {r} : s.Allows (execDescriptorFetch r t) := h.whenDue h.onHost

theorem State.Evolves.execDescriptorReadComplete (h : s.Evolves t) {d ok} : s.Allows (execDescriptorReadComplete d ok t) :=
  h.whenDue (.ite h.onHost.ringError h.onHost.put.setSlots.dropBad)

theorem State.Evolves.execNopDescriptor (h : s.Evolves t) {d} : s.Allows (execNopDescriptor d t) :=
  h.runDesc fun _ g => g.endDesc

theorem State.Evolves.setSince (h : s.Evolves t) {q n irq} : s.Evolves (t.setSince q n irq) := h.onHost
theorem State.Evolves.sendMsi (h : s.Evolves t) {q} : s.Evolves (t.sendMsi q) := h.put.setSince.onHost.signal
theorem State.Evolves.moderate (h : s.Evolves t) {q} : s.Evolves (t.moderate q) := .ite h.sendMsi h

theorem State.Evolves.writeRec (h : s.Evolves t) {q r} : s.Evolves (t.writeRec q r) :=
  h.hostPut.onHost.put.putB.setSince.onHost.moderate

theorem State.Evolves.execEventRecordWrite (h : s.Evolves t) {q} : s.Allows (execEventRecordWrite q t) := by
  unfold Machine.execEventRecordWrite
  dsimp only
  split
  · exact h.whenDue h.onHost.writeRec
  · split
    · exact h.notDue
    · exact h.whenDue h.onHost.writeRec

theorem State.Evolves.execEqModerationTimer (h : s.Evolves t) {q} : s.Allows (execEqModerationTimer q t) :=
  h.whenDue h.sendMsi

theorem State.Evolves.retireFor (h : s.Evolves t) {q} : s.Evolves (t.retireFor q) :=
  h.forAll fun _ _ g => .ite g.retire.dropBad g

theorem State.Evolves.eqEnable (h : s.Evolves t) {q} : s.Allows (eqEnable q t) :=
  .ite h.next (.ite h.put.next h.put.put.put.put.put.put.setSince.onHost.next)

theorem State.Evolves.eqDisable (h : s.Evolves t) {q} : s.Allows (eqDisable q t) := h.whenDue h.put.bump.onHost.retireFor

theorem State.Evolves.execEqHeadDoorbell (h : s.Evolves t) {q v} : s.Allows (execEqHeadDoorbell q v t) :=
  h.whenDue (.ite h.put ((h.put.onHost.putB.put.moderate.ite h.put.onHost.putB).retireFor))

theorem State.Evolves.tick (h : s.Evolves t) : s.Evolves t.tick := by
  unfold State.tick
  exact h.setReg.onHost

theorem State.Evolves.stepTb (h : s.Evolves t) {v} : s.Evolves (t.stepTb v) := .ite h.setReg.post h

theorem State.Evolves.tbSet (h : s.Evolves t) {part v} : s.Allows (tbSet part v t) := by
  unfold Machine.tbSet
  split
  · exact h.onHost.next
  · exact h.onHost.stepTb.next
  · exact h.onHost.stepTb.next

theorem State.Evolves.execPtmRequest (h : s.Evolves t) : s.Allows (execPtmRequest t) := h.whenDue h.onHost

theorem State.Evolves.execPtmResponse (h : s.Evolves t) {offset locks} : s.Allows (execPtmResponse offset locks t) :=
  h.whenDue (.ite ((h.onHost.put.stepTb.ite h.onHost.put).putB.post) (.ite h.onHost.put.stepTb h.onHost.put))

theorem State.Evolves.execPtmResponseTimeout (h : s.Evolves t) : s.Allows (execPtmResponseTimeout t) :=
  h.whenDue (.ite h.onHost.tbUnlock h.onHost)

theorem State.Evolves.execPtpPortChange (h : s.Evolves t) {v} : s.Allows (execPtpPortChange v t) := h.ptpPort.next
theorem State.Evolves.hifCntClr (h : s.Evolves t) {v} : s.Allows (hifCntClr v t) := (h.put.put.put.ite h).next

theorem State.Evolves.viaBar0 (h : s.Evolves t) {f} (hf : ∀ x, s.Evolves x → s.Allows (f x)) : s.Allows (viaBar0 f t) :=
  .ite (hf _ h) h.notDue

theorem State.Evolves.execRingEnable (h : s.Evolves t) {r} : s.Allows (execRingEnable r t) :=
  h.viaBar0 fun _ g => g.ringEnable

theorem State.Evolves.execRingDisable (h : s.Evolves t) {r} : s.Allows (execRingDisable r t) :=
  h.viaBar0 fun _ g => g.ringDisable

theorem State.Evolves.execRingResume (h : s.Evolves t) {r} : s.Allows (execRingResume r t) :=
  h.viaBar0 fun _ g => g.ringResume

theorem State.Evolves.execRingFlush (h : s.Evolves t) {r rest} : s.Allows (execRingFlush r rest t) :=
  h.viaBar0 fun _ g => g.ringFlush

theorem State.Evolves.execEqEnable (h : s.Evolves t) {q} : s.Allows (execEqEnable q t) := h.viaBar0 fun _ g => g.eqEnable
theorem State.Evolves.execEqDisable (h : s.Evolves t) {q} : s.Allows (execEqDisable q t) := h.viaBar0 fun _ g => g.eqDisable

theorem State.Evolves.execHifTbSet (h : s.Evolves t) {part v} : s.Allows (execHifTbSet part v t) :=
  h.viaBar0 fun _ g => g.tbSet

theorem State.Evolves.execHifCntClr (h : s.Evolves t) {v} : s.Allows (execHifCntClr v t) := h.viaBar0 fun _ g => g.hifCntClr

/-! ### `Twin`: the Arête link and twin mode -/

theorem State.Evolves.twinDone (h : s.Evolves t) {d code} : s.Evolves (t.twinDone d code) := h.opDone

theorem State.Evolves.twinEnd (h : s.Evolves t) {code arg} : s.Evolves (t.twinEnd code arg) := by
  unfold State.twinEnd
  split
  · exact h.onTwin.opDone
  · exact h

theorem State.Evolves.areteLanes (h : s.Evolves t) {on} : s.Evolves (t.areteLanes on) := by
  unfold State.areteLanes
  extract_lets s1
  have h1 : s.Evolves s1 := h.forN fun _ _ g => g.setReg
  exact (h1.forN fun _ _ g => (g.ite (g.quadUnlock.ite g)).put).ite h1

theorem State.Evolves.setRegion (h : s.Evolves t) {n st} : s.Evolves (t.setRegion n st) := .ite h.put.put h.put.put.post
theorem State.Evolves.startSweep (h : s.Evolves t) {n} : s.Evolves (t.startSweep n) := h.onTwin.setRegion

theorem State.Evolves.settleFrames (h : s.Evolves t) {p} : s.Evolves (t.settleFrames p) :=
  h.onTwin.forAll (fun _ _ g => (by split; exacts [g.respond, g]))

theorem State.Evolves.twinOff (h : s.Evolves t) : s.Evolves t.twinOff := by
  unfold State.twinOff
  exact ((h.settleFrames.forN fun _ _ g => g.setRegion.setReg).put.put.put.put.put.put.putB.forAll fun _ _ g =>
    g.endCkpt).onTwin.areteLanes

theorem State.Evolves.pairFail (h : s.Evolves t) {code} : s.Evolves (t.pairFail code) := h.twinOff.twinEnd

theorem State.Evolves.execTwnPair (h : s.Evolves t) {d hash rd} : s.Allows (execTwnPair d hash rd t) :=
  h.runRead (fun _ g => .ite g.twinDone (.ite g.twinDone g.areteLanes.put.onTwin))

theorem State.Evolves.execHello (h : s.Evolves t) {role vmin vmax authOk} : s.Allows (execHello role vmin vmax authOk t) :=
  .ite (h.whenDue (.ite h.pairFail (.ite h.pairFail h.put.put.firstKeys.onTwin)))
    (h.whenDue (.ite h.put.put h.put.put.firstKeys.onTwin))

theorem State.Evolves.execHelloTimeout (h : s.Evolves t) : s.Allows (execHelloTimeout t) := h.whenDue h.pairFail

theorem State.Evolves.execPairingComplete (h : s.Evolves t) : s.Allows (execPairingComplete t) :=
  h.whenDue (by split; exacts [h.pairFail, h.put.put.put.onTwin.post.showHalf.twinEnd])

theorem State.Evolves.execVersionSet (h : s.Evolves t) {d} : s.Allows (execVersionSet d t) :=
  h.runDesc fun _ g => g.put.twinDone

theorem State.Evolves.execMirrorAdd (h : s.Evolves t) {d peerOk} : s.Allows (execMirrorAdd d peerOk t) := by
  unfold Machine.execMirrorAdd
  refine h.runDesc fun _ g => .ite g.twinDone (.ite g.twinDone ?_)
  exact (g.put.put.put.put.startSweep.ite g.put.put.put.put.setRegion).twinDone

theorem State.Evolves.execMirrorRemove (h : s.Evolves t) {d} : s.Allows (execMirrorRemove d t) :=
  h.runDesc (fun _ g => .ite g.twinDone (.ite g.twinDone g.settleFrames.setRegion.setReg.twinDone))

theorem State.Evolves.execMirrorSweepComplete (h : s.Evolves t) {n} : s.Allows (execMirrorSweepComplete n t) :=
  h.whenDue h.arlSend.onTwin.setRegion

theorem State.Evolves.sendFrame (h : s.Evolves t) {f} : s.Evolves (t.sendFrame f) := h.arlSend.onTwin
theorem State.Evolves.frameGood (h : s.Evolves t) : s.Evolves t.frameGood := h.onCry
theorem State.Evolves.replayed (h : s.Evolves t) : s.Evolves t.replayed := h.frameGood.bump
theorem State.Evolves.say (h : s.Evolves t) {kind seq} : s.Evolves (t.say kind seq) := h.arlSend.onTwin

theorem State.Evolves.inOrder (h : s.Evolves t) {h' f} (hf : ∀ x, s.Evolves x → s.Evolves (f x)) :
    s.Evolves (t.inOrder h' f) :=
  .ite h.arlFailed.say (.ite h.replayed (.ite h.frameGood.say (hf _ h.frameGood.onTwin)))

theorem State.Evolves.inTurn (h : s.Evolves t) {h' f} (hf : ∀ x, s.Evolves x → s.Evolves (f x)) :
    s.Evolves (t.inTurn h' f) :=
  .ite h.arlFailed (.ite h.replayed (hf _ h.frameGood.onTwin))

theorem State.Evolves.applyMirror (h : s.Evolves t) {seq dpa mask data} : s.Evolves (t.applyMirror seq dpa mask data) := by
  unfold State.applyMirror
  extract_lets go
  have hg : s.Evolves go.2 := .foldlSnd h fun _ _ g => by
    split
    · exact g
    · dsimp only
      split
      · exact g
      · exact g.sealedWrite
  exact .ite hg.say hg.say

theorem State.Evolves.execMirrorWr (h : s.Evolves t) {region seq dpa mask data ok} :
    s.Allows (execMirrorWr region seq dpa mask data ok t) :=
  .ite State.allows_illFormed (h.whenDue (h.inOrder (fun _ g => g.applyMirror)))

theorem State.Evolves.handOver (h : s.Evolves t) : s.Evolves t.handOver := .ite h.notice.put.twinEnd h

theorem State.Evolves.execAck (h : s.Evolves t) {seq skew h'} : s.Allows (execAck seq skew h' t) :=
  h.whenDue (h.inTurn (fun _ g => (g.settleFrames.forAll (fun _ _ k => k.modCkpt)).handOver))

theorem State.Evolves.mirrorFailed (h : s.Evolves t) {seq} : s.Evolves (t.mirrorFailed seq) := by
  unfold State.mirrorFailed
  split
  · exact h
  · exact (h.settleFrames.ite (h.settleFrames.startSweep.post.ite h.settleFrames.startSweep)).toCairn

theorem State.Evolves.execNak (h : s.Evolves t) {seq failed h'} : s.Allows (execNak seq failed h' t) :=
  h.whenDue (h.inTurn (fun _ g => .ite g.mirrorFailed g.bump.arlSend))

theorem State.Evolves.execKey (h : s.Evolves t) {h'} : s.Allows (execKey h' t) := h.whenDue (h.inTurn (fun _ g => g.newKeys))

theorem State.Evolves.execCkptSet (h : s.Evolves t) {d} : s.Allows (execCkptSet d t) := by
  unfold Machine.execCkptSet
  refine h.runDesc fun _ g => .ite g.twinDone (.ite g.twinDone ?_)
  exact .ite g.endCkpt.onTwin.twinDone (.ite g.twinDone g.modCkpt.twinDone)

theorem State.Evolves.execCheckpointInterval (h : s.Evolves t) {c} : s.Allows (execCheckpointInterval c t) :=
  h.whenDue (.ite (h.modCkpt.forAll (fun _ _ g => g.modIsland)) h.modCkpt.addJob)

theorem State.Evolves.keepCkpt (h : s.Evolves t) {c sv} : s.Evolves (t.keepCkpt c sv) :=
  .ite ((h.modCkpt.modCtx.forN (fun _ _ g => g.sendFrame)).modCkpt) h.modCkpt.modCtx

theorem State.Evolves.failCkpt (h : s.Evolves t) {c why} : s.Evolves (t.failCkpt c why) := h.endCkpt.post

theorem State.Evolves.execCheckpointReadbackComplete (h : s.Evolves t) {c} :
    s.Allows (execCheckpointReadbackComplete c t) := by
  unfold Machine.execCheckpointReadbackComplete
  extract_lets n x left began img take
  have hl : ∀ {y}, s.Evolves y → s.Evolves (left y) := fun g => g.onTwin.handOver
  have ht : s.Evolves take.2.2 := h.saveAll
  refine .ite (h.whenDue ?_) (.ite h.notDue (.ite ?_ (.ite ht.endCkpt.keepCkpt.next h.failCkpt.next)))
  · split
    · exact hl h.keepCkpt
    · exact hl h.post
  · exact h.whenDue (.ite ht.failCkpt ht.endCkpt.keepCkpt)

theorem State.Evolves.storePart (h : s.Evolves t) {p} : s.Evolves (t.storePart p) := .ite h.onTwin h.onTwin

theorem State.Evolves.execCkpt (h : s.Evolves t) {p seq ok} : s.Allows (execCkpt p seq ok t) :=
  h.whenDue (h.inOrder (fun _ g => (g.storePart.ite g.post).say))

theorem State.Evolves.startPromotion (h : s.Evolves t) : s.Evolves t.startPromotion := h.put.onTwin
theorem State.Evolves.reloadDrained (h : s.Evolves t) : s.Evolves t.reloadDrained := h.forAll fun _ _ g => .ite g g.request
theorem State.Evolves.endTakeover (h : s.Evolves t) : s.Evolves t.endTakeover := .ite h.onTwin.twinEnd.reloadDrained h

theorem State.Evolves.execTwnUnpair (h : s.Evolves t) {d} : s.Allows (execTwnUnpair d t) :=
  h.runDesc fun _ g => .ite g.twinDone g.notice.endTakeover.twinOff.twinEnd.twinDone

theorem State.Evolves.partnerLost (h : s.Evolves t) {cause} : s.Evolves (t.partnerLost cause) := by
  unfold State.partnerLost
  extract_lets s1 s2
  have h1 : s.Evolves s1 := h.put.post.toCairn
  have h2 : s.Evolves s2 := h1.settleFrames.forN fun _ _ g => .ite g g.setRegion
  exact .ite h2.endTakeover (.ite h1.startPromotion h1.onTwin)

theorem State.Evolves.execHeartbeat (h : s.Evolves t) {role missed regions head} :
    s.Allows (execHeartbeat role missed regions head t) := by
  unfold Machine.execHeartbeat
  refine h.whenDue (h.inTurn fun x g => ?_)
  extract_lets s0 s1 s2 back old
  have hb : ∀ {y}, s.Evolves y → s.Evolves (back y) := fun g => .ite g (g.put.forN fun _ _ k => .ite k.startSweep k)
  have h0 : s.Evolves s0 := g.bump.onTwin
  have h1 : s.Evolves s1 := (h0.forAll fun _ _ k => k.setReg).ite h0
  have h2 : s.Evolves s2 := h1.put.ite h1
  refine .ite (.ite h0 (h0.put.put.forN fun _ _ k => .ite k k.setRegion).settleFrames.post) ?_
  split
  · exact h2.partnerLost.ite h2
  · exact hb (h2.ite h2.put.post)

theorem State.Evolves.execPartnerHeartbeatTimeout (h : s.Evolves t) : s.Allows (execPartnerHeartbeatTimeout t) :=
  h.whenDue h.bump.partnerLost

theorem State.Evolves.execNotice (h : s.Evolves t) {cause seq ok} : s.Allows (execNotice cause seq ok t) :=
  h.whenDue (h.inOrder (fun _ g => .ite g.say.put.post.toCairn.endTakeover.twinOff (.ite g.say.partnerLost g.say)))

theorem State.Evolves.execPromote (h : s.Evolves t) {d} : s.Allows (execPromote d t) :=
  h.runDesc fun _ g => .ite g.twinDone g.startPromotion.onTwin

theorem State.Evolves.execPromotionComplete (h : s.Evolves t) : s.Allows (execPromotionComplete t) := by
  unfold Machine.execPromotionComplete
  extract_lets bad s1 s2 held s3 s4
  have h1 : s.Evolves s1 := h.put.forN fun _ _ g => .ite g g.setRegion
  have h4 : s.Evolves s4 := h1.post.toCairn.onTwin.forAll fun _ _ g => .ite g.modCtx.request g.post.request
  exact h.whenDue h4.twinEnd

theorem State.Evolves.execTakeover (h : s.Evolves t) {d} : s.Allows (execTakeover d t) :=
  h.runDesc (fun _ g => .ite g.twinDone ((g.forAll (fun _ _ k => (k.ite k.failCkpt).request)).onTwin.handOver))

theorem State.Evolves.execTwnCkptSelWrite (h : s.Evolves t) {v} : s.Allows (execTwnCkptSelWrite v t) :=
  h.put.put.putB.putB.putB.putB.put.next

theorem State.Evolves.execTwnCntClr (h : s.Evolves t) {v} : s.Allows (execTwnCntClr v t) := (h.put.put.ite h).next

/-! ### `Debug`: authorisation, relock, run control and the trace buffer -/

theorem State.Evolves.onDbg (h : s.Evolves t) {f} : s.Evolves (t.onDbg f) := h.elsewhere

theorem State.Evolves.detach (h : s.Evolves t) : s.Evolves t.detach := by
  unfold State.detach
  extract_lets s0 s1 r s2 s3 s4
  have h0 : s.Evolves s0 := h.put.putB
  have h2 : s.Evolves s2 := h0.putB.forN fun _ _ g => .ite (.ite g g.stopClocks) (.ite g.gateClocks g)
  have h3 : s.Evolves s3 := .ite (h2.forAll fun _ _ g => .ite g g.holdBoot) h2
  have h4 : s.Evolves s4 := .ite h3.hbmRung h3
  exact .ite h0 (.ite h4.hbmGone.onPwr.lkoSleep h4)

theorem State.Evolves.traceOff (h : s.Evolves t) : s.Evolves t.traceOff := h.bump.putB.elsewhere
theorem State.Evolves.lkoGoes (h : s.Evolves t) : s.Evolves t.lkoGoes := .ite h.lkoFree.drainFifo.pump h

theorem State.Evolves.relock (h : s.Evolves t) {cause} : s.Evolves (t.relock cause) := by
  unfold State.relock
  extract_lets s1 s2 s3
  have h2 : s.Evolves s2 := (h.forAll fun _ _ g => g.modEng.engResume).lkoGoes.traceOff.detach
  have h3 : s.Evolves s3 := (h2.forAll fun _ _ g => g.closeTrail).onDbg
  exact .ite h h3.put.put.post

theorem State.Evolves.dbgDone (h : s.Evolves t) : s.Evolves t.dbgDone := h.forN fun _ _ g => g.put

theorem State.Evolves.grant (h : s.Evolves t) {level scope method pcie} : s.Evolves (t.grant level scope method pcie) :=
  h.put.put.put.post

theorem State.Evolves.authFail (h : s.Evolves t) {code} : s.Evolves (t.authFail code) :=
  .ite h.put.put.onDbg.post.putB.post.toCairn h.put.put.onDbg.post

theorem State.Evolves.challenge (h : s.Evolves t) : s.Evolves t.challenge :=
  (h.forN (fun _ _ g => g.put.took)).put.onDbg.dbgDone

theorem State.Evolves.respondAuth (h : s.Evolves t) {pcie keyHash sigOk} :
    s.Evolves (t.respondAuth pcie keyHash sigOk) := by
  have h0 : ∀ {f}, s.Evolves (t.onDbg f) := h.onDbg
  exact State.Evolves.dbgDone
    (h0.grant.ite (h0.put.ite (h0.put.ite (h0.put.ite (h0.authFail.ite (h0.authFail.ite h0.grant))))))

theorem State.Evolves.password (h : s.Evolves t) {pcie hash} : s.Evolves (t.password pcie hash) :=
  (h.put.ite (h.put.ite (h.authFail.ite h.grant))).dbgDone

theorem State.Evolves.execChallenge (h : s.Evolves t) : s.Allows (execChallenge t) := h.challenge.next

theorem State.Evolves.execRespond (h : s.Evolves t) {pcie keyHash sigOk} : s.Allows (execRespond pcie keyHash sigOk t) :=
  h.respondAuth.next

theorem State.Evolves.execPassword (h : s.Evolves t) {pcie hash} : s.Allows (execPassword pcie hash t) := h.password.next
theorem State.Evolves.execNonceExpiry (h : s.Evolves t) : s.Allows (execNonceExpiry t) := h.whenDue h.onDbg
theorem State.Evolves.execDbgLock (h : s.Evolves t) : s.Allows (execDbgLock t) := h.relock.dbgDone.next

theorem State.Evolves.setAttach (h : s.Evolves t) {on} : s.Evolves (t.setAttach on) :=
  .ite h (.ite h.put.putB.showEmulated (.ite h.detach h))

theorem State.Evolves.execAttach (h : s.Evolves t) {on} : s.Allows (execAttach on t) := h.setAttach.next

theorem State.Evolves.lkoHalt (h : s.Evolves t) {why pc} : s.Evolves (t.lkoHalt why pc) :=
  ((h.forN (fun _ _ g => .ite (g.landed g.execLookoutClockSupervision) g)).putB.put.forN (fun _ _ g => g.put.took)).post

theorem State.Evolves.execLkoHalt (h : s.Evolves t) {pc} : s.Allows (execLkoHalt pc t) := (h.lkoHalt.ite h).next
theorem State.Evolves.execLkoStep (h : s.Evolves t) {pc} : s.Allows (execLkoStep pc t) := (h.lkoHalt.ite h).next
theorem State.Evolves.execLkoResume (h : s.Evolves t) : s.Allows (execLkoResume t) := (h.lkoGoes.ite h).next
theorem State.Evolves.execLkoBreakpointHit (h : s.Evolves t) {n} : s.Allows (execLkoBreakpointHit n t) := h.whenDue h.lkoHalt

theorem State.Evolves.trcWrite (h : s.Evolves t) {v} : s.Evolves (t.trcWrite v) := by
  unfold State.trcWrite
  extract_lets s1 s2 s3
  have h1 : s.Evolves s1 := .ite h.putB h
  have h2 : s.Evolves s2 := (h1.putB.ite h1).putB
  exact .ite (.ite h2 h2.traceOff) (.ite h2.put (.ite h2.put.putB.put h2.put.putB))

theorem State.Evolves.execTraceEnable (h : s.Evolves t) {v jtag} : s.Allows (execTraceEnable v jtag t) :=
  h.whenDue (.ite h h.trcWrite)

theorem State.Evolves.execTracePacketWrite (h : s.Evolves t) : s.Allows (execTracePacketWrite t) := by
  unfold Machine.execTracePacketWrite
  split
  · exact h.notDue
  · extract_lets ptr a s0 r next full f v
    have h0 : s.Evolves s0 := h.elsewhere
    have hr : s.Evolves r.2 := .iteSnd h0 h0.sealedWrite
    exact h.whenDue (hr.bump.ite (hr.put.ite (hr.put.ite hr.put.putB.traceOff.post)))

/-! ### `Hbm`: the HBM controllers -/

theorem State.Evolves.hbmRefused (h : s.Evolves t) {code a len} : s.Evolves (t.hbmRefused code a len) := .ite h.hbmLog h

theorem State.Evolves.answerSealed (h : s.Evolves t) {m first r} : s.Evolves (t.answerSealed m first r) := by
  unfold State.answerSealed
  split
  · exact h.respond
  · split
    · exact h.respond.onCry
    · split
      · exact h.authAlarm.respond
      · exact h.respond

theorem State.Evolves.hbmStore (h : s.Evolves t) {trail a bs} : s.Evolves (t.hbmStore trail a bs).2.2 := by
  unfold State.hbmStore
  dsimp only
  split
  · exact h.sealedWrite
  · split
    · exact h.sealedWrite
    · exact h.sealedWrite.sendFrame

theorem State.Evolves.hbmWrite (h : s.Evolves t) {m} : s.Evolves (t.hbmWrite m) :=
  .ite h.hbmStore.respond (.ite h.hbmStore.onTwin h.hbmStore.respond)

theorem State.Evolves.unqueueHbm (h : s.Evolves t) {r} : s.Evolves (t.unqueueHbm r) := h.onHbm

theorem State.Evolves.issuedHbm (h : s.Evolves t) {r} : s.Evolves (t.issuedHbm r) := by
  unfold State.issuedHbm
  exact h.unqueueHbm.onHbm

theorem State.Evolves.underTrail (h : s.Evolves t) {t' f} (hf : ∀ x, s.Evolves x → s.Evolves (f x)) :
    s.Evolves (t.underTrail t' f) :=
  (hf _ h.onHbm).onHbm

theorem State.Evolves.performHbm (h : s.Evolves t) {r} : s.Evolves (t.performHbm r) := by
  unfold State.performHbm
  refine h.issuedHbm.underTrail fun _ g => ?_
  exact .ite g.hbmRefused.respond (.ite g.hbmWrite (.ite g.sealedRead.answerSealed g.sealedRead.answerSealed))

theorem State.Evolves.enqueueHbm (h : s.Evolves t) {m} : s.Evolves (t.enqueueHbm m) :=
  .ite ((h.underTrail (fun _ g => g.hbmRefused)).respond) (.ite h.respond h.onHbm)

theorem State.Evolves.drainHbm (h : s.Evolves t) {a len} : s.Evolves (t.drainHbm a len) := h.forAll fun _ _ g => g.performHbm

theorem State.Evolves.badLine (h : s.Evolves t) {r kind} : s.Evolves (t.badLine r kind) :=
  (h.issuedHbm.underTrail (fun _ g => g.hbmUe)).bump.toCairn.respond

theorem State.Evolves.execHbmRequestIssue (h : s.Evolves t) {st q} : s.Allows (execHbmRequestIssue st q t) := by
  unfold Machine.execHbmRequestIssue
  split
  · exact h.notDue
  · exact h.whenDue (.ite h.badLine h.performHbm)

theorem State.Evolves.execRequestPromotion (h : s.Evolves t) {st pc} : s.Allows (execRequestPromotion st pc t) := by
  unfold Machine.execRequestPromotion
  split
  · exact h.notDue
  · exact h.onHbm.next

theorem State.Evolves.execWriteBatchStart (h : s.Evolves t) {st pc} : s.Allows (execWriteBatchStart st pc t) :=
  h.whenDue h.onHbm

theorem State.Evolves.execPerBankRefresh (h : s.Evolves t) {st pc bank} : s.Allows (execPerBankRefresh st pc bank t) :=
  h.whenDue h.onHbm

theorem State.Evolves.execHbmTempRead (h : s.Evolves t) {st t'} : s.Allows (execHbmTempRead st t' t) :=
  h.whenDue (.ite h.put.putB.onHbm h.put.putB)

theorem State.Evolves.trained (h : s.Evolves t) {p result} : s.Evolves (t.trained p result) :=
  .ite h (.ite h.hbmLog h.hbmLog.putB.retirePc)

theorem State.Evolves.execPeriodicTrainingStep (h : s.Evolves t) {st result} :
    s.Allows (execPeriodicTrainingStep st result t) :=
  h.whenDue h.onHbm.trained

theorem State.Evolves.applyRecord (h : s.Evolves t) {k'} : s.Evolves (t.applyRecord k') :=
  (h.forAll (fun _ _ g => g.put)).put

theorem State.Evolves.execHbmTrainingComplete (h : s.Evolves t) {st results} :
    s.Allows (execHbmTrainingComplete st results t) :=
  h.whenDue (h.put.applyRecord.onHbm.forN (fun _ _ g => g.trained))

theorem State.Evolves.reguardSpan (h : s.Evolves t) {a len} : s.Evolves (t.reguardSpan a len) :=
  h.forAll (fun _ _ g => (by split; exacts [g.forAll (fun _ _ k => k.reguard), g]))

theorem State.Evolves.endHbmErr (h : s.Evolves t) {r took} : s.Evolves (t.endHbmErr r took) :=
  ((h.issuedHbm.sealedWrite.ite h.issuedHbm).ite ((h.issuedHbm.sealedWrite.ite h.issuedHbm).reguardSpan)).respond

theorem State.Evolves.caWindow (h : s.Evolves t) {p l} : s.Evolves (t.caWindow p l) := by
  induction l generalizing t with
  | nil => exact h
  | cons b l ih =>
    unfold State.caWindow
    split
    · exact h
    · exact ih h.endHbmErr

theorem State.Evolves.execHbmCaParityError (h : s.Evolves t) {st pc took} :
    s.Allows (execHbmCaParityError st pc took t) := by
  unfold Machine.execHbmCaParityError
  extract_lets p src first s0 s1
  have h0 : s.Evolves s0 := h.useCheck.ite h
  have h1 : s.Evolves s1 := by
    unfold s1
    clear_value first
    split
    · exact h0.underTrail fun _ g => g.hbmCaError
    · exact h0.hbmCaError
  exact h.whenDue h1.caWindow

theorem State.Evolves.retryHbm (h : s.Evolves t) {r} : s.Evolves (t.retryHbm r) := h.onHbm

theorem State.Evolves.execHbmWriteParityError (h : s.Evolves t) {st pc took} :
    s.Allows (execHbmWriteParityError st pc took t) := by
  unfold Machine.execHbmWriteParityError
  dsimp only
  split
  · exact h.notDue
  · exact h.whenDue (.ite (h.underTrail fun _ g => g.hbmLog).retryHbm
      (h.underTrail fun _ g => g.hbmLog).endHbmErr.toCairn)

theorem State.Evolves.execHbmReadParityError (h : s.Evolves t) {st pc} : s.Allows (execHbmReadParityError st pc t) := by
  unfold Machine.execHbmReadParityError
  dsimp only
  split
  · exact h.notDue
  · exact h.whenDue (.ite ((h.underTrail (fun _ g => g.hbmLog)).retryHbm) h.badLine)

theorem State.Evolves.execHbmLogClear (h : s.Evolves t) : s.Allows (execHbmLogClear t) :=
  (h.forN (fun _ _ g => g.setReg.setReg)).put.put.onHbm.next

theorem State.Evolves.execHbmPcReq (h : s.Evolves t) {st v} : s.Allows (execHbmPcReq st v t) :=
  (h.forN (fun _ _ g => .ite g.retirePc g)).next

theorem State.Evolves.postLost (h : s.Evolves t) {s0} : s.Evolves (t.postLost s0) := h.forAll fun _ _ g => g.post
theorem State.Evolves.losePage (h : s.Evolves t) {p} : s.Evolves (t.losePage p) := h.modPages

theorem State.Evolves.movePage (h : s.Evolves t) {p} : s.Evolves (t.movePage p) := by
  unfold State.movePage
  dsimp only
  split
  · exact h
  · split
    · exact h.sealedRead.losePage
    · split
      · exact h.sealedRead.sealedWrite.modPages
      · exact .getD (fun _ e => h.sealedRead.pageHome e) h.sealedRead.losePage

theorem State.Evolves.vacateImage (h : s.Evolves t) {r} : s.Evolves (t.vacateImage r) := by
  unfold State.vacateImage
  extract_lets moved x bad
  have hm : s.Evolves moved := by
    unfold moved
    split
    · exact h.moveImage
    · split
      · exact .ite h.moveImage h
      · exact h
  exact .ite hm.modCtx.ctxEvent hm

theorem State.Evolves.vacateTables (h : s.Evolves t) {p} : s.Evolves (t.vacateTables p) := by
  unfold State.vacateTables
  dsimp only
  split
  · exact h
  · split
    · rename_i e
      exact ((h.forAll (fun _ _ g => .ite g.readEntries.losePage g.readEntries)).onSwb.syncTables e)
    · exact (h.forAll (fun _ _ g => .ite g.readEntries.losePage g.readEntries)).onSwb.modPages.syncMaps

theorem State.Evolves.moveReports (h : s.Evolves t) {p img sav tab} : s.Evolves (t.moveReports p img sav tab) :=
  (h.forAll (fun _ _ g => g.odeccError)).onSwb.forAll fun _ _ g => g.losePage

theorem State.Evolves.vacatePc (h : s.Evolves t) {p img sav tab} : s.Evolves (t.vacatePc p img sav tab) :=
  ((h.moveReports.forAll (fun _ _ g => g.vacateImage)).vacateTables.forAll (fun _ _ g => g.movePage)).postLost.showMaps

theorem State.Evolves.pcGone (h : s.Evolves t) {p} : s.Evolves (t.pcGone p) :=
  .ite h.onHbm.put.put.put.hbmLog.post.setsChanged.logAdd.toCairn h.onHbm.put.put.put.hbmLog.post.setsChanged.logAdd

theorem State.Evolves.execPcRetireComplete (h : s.Evolves t) {st pc img sav tab} :
    s.Allows (execPcRetireComplete st pc img sav tab t) :=
  h.whenDue h.vacatePc.pcGone

/-! ### `Package`: bridges and dies -/

theorem State.Evolves.setBypass (h : s.Evolves t) {m} : s.Evolves (t.setBypass m) := h.onPkg

theorem State.Evolves.capture (h : s.Evolves t) : s.Evolves t.capture := by
  unfold State.capture
  exact h.onPkg

theorem State.Evolves.execTestLogicReset (h : s.Evolves t) : s.Allows (execTestLogicReset t) :=
  h.setBypass.onPkg.capture.next

theorem State.Evolves.execChainsel (h : s.Evolves t) {sel} : s.Allows (execChainsel sel t) := h.setBypass.onPkg.capture.next
theorem State.Evolves.modGroup (h : s.Evolves t) {g' f} : s.Evolves (t.modGroup g' f) := h.onPkg
theorem State.Evolves.showDie (h : s.Evolves t) {d} : s.Evolves (t.showDie d) := h.put.put.put
theorem State.Evolves.sawEye (h : s.Evolves t) {g' lane eye} : s.Evolves (t.sawEye g' lane eye) := h.onPkg
theorem State.Evolves.judgeAfresh (h : s.Evolves t) {d} : s.Evolves (t.judgeAfresh d) := h.onPkg
theorem State.Evolves.dropRepairs (h : s.Evolves t) {br} : s.Evolves (t.dropRepairs br) := h.forN fun _ _ g => g.modGroup

theorem State.Evolves.fitBridge (h : s.Evolves t) {br cause n} : s.Evolves (t.fitBridge br cause n) := by
  induction n generalizing t with
  | zero => exact h
  | succ n ih =>
    unfold State.fitBridge
    dsimp only
    split
    · exact h
    · split
      · exact h
      · exact ih h.demote.refreshTrails

theorem State.Evolves.cutDie (h : s.Evolves t) {d kept} : s.Evolves (t.cutDie d kept) :=
  ((h.onNet.forAll (fun _ _ g => g.modTrail)).forAll (fun _ _ g => g.late)).failFlights.forAll fun _ _ g => g.failTag

theorem State.Evolves.dropMemWork (h : s.Evolves t) {d} : s.Evolves (t.dropMemWork d) := by
  unfold State.dropMemWork
  exact h.onMem

theorem State.Evolves.fenceDie (h : s.Evolves t) {d kept} : s.Evolves (t.fenceDie d kept) := by
  unfold State.fenceDie
  extract_lets trails s1 s2 onDie s3 s4 s5 s6 s7 s8
  have h2 : s.Evolves s2 := h.dropRepairs.dropRepairs.dropMemWork.cutDie.post
  have h3 : s.Evolves s3 := h2.forAll fun _ _ g => g.abandonMigration
  have h4 : s.Evolves s4 := h3.forAll fun _ _ g => .ite g g.failCkpt
  have h6 : s.Evolves s6 := h4.loseDieCtxs.forAll fun _ _ g => g.retrail
  exact h6.onSwb.abortTests.setBypass.cfgError.showDie

theorem State.Evolves.isolateDie (h : s.Evolves t) {d} : s.Evolves (t.isolateDie d) :=
  ((h.setPresence.forN (fun _ _ g => g.put)).forN (fun _ _ g => g.put)).post.showDie

theorem State.Evolves.declareLost (h : s.Evolves t) {d kept isolate} : s.Evolves (t.declareLost d kept isolate) :=
  .ite h.setPresence.onPkg.toCairn.fenceDie.isolateDie h.setPresence.onPkg.toCairn.fenceDie

theorem State.Evolves.bridgeDown (h : s.Evolves t) {br lost kept} : s.Evolves (t.bridgeDown br lost kept) := by
  unfold State.bridgeDown
  extract_lets d ts s1 s2 mine gone back s3 s4 s5 s6
  have h2 : s.Evolves s2 := h.dropRepairs.onPkg.onNet.post.forAll fun _ _ g => g.modTrail
  have h4 : s.Evolves s4 := h2.onNet.forAll fun _ _ g => g.modTrail.failTag
  have h5 : s.Evolves s5 := h4.forAll fun _ _ g => g.failTag
  have h6 : s.Evolves s6 := .ite h5.cfgError h5
  exact .ite h6 (.ite h6.banksLost.declareLost h6.isolateDie)

theorem State.Evolves.retirePair (h : s.Evolves t) {br k' lost kept} : s.Evolves (t.retirePair br k' lost kept) := by
  unfold State.retirePair
  extract_lets d gone s1 w s2 s3 s4
  have h3 : s.Evolves s3 := h.modGroup.modGroup.abortTests.post.fitBridge
  have h4 : s.Evolves s4 := .ite (h3.onPkg.forN fun _ _ g => g.put).post h3
  exact (h4.bridgeDown.ite h4).showDie

theorem State.Evolves.replaceLane (h : s.Evolves t) {br k' dir lane lost kept} :
    s.Evolves (t.replaceLane br k' dir lane lost kept) := by
  unfold State.replaceLane
  dsimp only
  split
  · exact h.modGroup
  · split
    · exact h.modGroup.abortTests
    · exact h.retirePair

theorem State.Evolves.execLaneDegrading (h : s.Evolves t) {br k' dir seen cut} :
    s.Allows (execLaneDegrading br k' dir seen cut t) :=
  h.whenDue (.ite h.sawEye.replaceLane h)

theorem State.Evolves.execLaneRepairComplete (h : s.Evolves t) {br k' dir cut} :
    s.Allows (execLaneRepairComplete br k' dir cut t) := by
  unfold Machine.execLaneRepairComplete
  dsimp only
  split
  · exact h.notDue
  · exact State.Evolves.next (by split; exacts [h.modGroup.post, h.modGroup.post.replaceLane])

theorem State.Evolves.execSpareUnusable (h : s.Evolves t) {br k' dir spare chk} :
    s.Allows (execSpareUnusable br k' dir spare chk t) :=
  h.whenDue h.sawEye.modGroup.post

theorem State.Evolves.execForwardedClockFail (h : s.Evolves t) {br k' dir cut} :
    s.Allows (execForwardedClockFail br k' dir cut t) :=
  h.whenDue (.ite h.retirePair h)

theorem State.Evolves.execReplayLimit (h : s.Evolves t) {br k' dir cut} : s.Allows (execReplayLimit br k' dir cut t) :=
  h.whenDue (.ite h.retirePair h)

theorem State.Evolves.execBridgeFlitCrcError (h : s.Evolves t) {br k' dir lanes} :
    s.Allows (execBridgeFlitCrcError br k' dir lanes t) :=
  h.whenDue ((h.useCheck.ite h).onPkg)

theorem State.Evolves.rerouteTrail (h : s.Evolves t) {t'} : s.Evolves (t.rerouteTrail t') := by
  unfold State.rerouteTrail
  dsimp only
  split
  · split
    · exact h.readmit.modTrail.refreshTrails
    · exact h
  · exact h.retrail

theorem State.Evolves.execBridgeRerouteComplete (h : s.Evolves t) {br} : s.Allows (execBridgeRerouteComplete br t) :=
  h.whenDue ((h.onNet.fitBridge.ite h.onNet).forAll (fun _ _ g => g.rerouteTrail))

theorem State.Evolves.execBaseClockCopyFail (h : s.Evolves t) {d n} : s.Allows (execBaseClockCopyFail d n t) :=
  (h.dieStops.ite h.onPkg).next

theorem State.Evolves.execDieReset (h : s.Evolves t) {d clock} : s.Allows (execDieReset d clock t) := h.dieStops.next

theorem State.Evolves.execMissedHeartbeats (h : s.Evolves t) {d kept} : s.Allows (execMissedHeartbeats d kept t) :=
  h.whenDue h.declareLost

theorem State.Evolves.execDieRejoin (h : s.Evolves t) {d record} : s.Allows (execDieRejoin d record t) :=
  h.whenDue (.ite h.isolateDie (.ite h.onPkg.judgeAfresh.setPresence.showDie h.onPkg.judgeAfresh.setPresence.showDie.addJob))

theorem State.Evolves.resolveDeep (h : s.Evolves t) {d} : s.Evolves (t.resolveDeep d) :=
  (h.zeroRange.onSwb.forAll (fun _ _ g => g.post)).modPages.postLost.showMaps

theorem State.Evolves.islandBack (h : s.Evolves t) {i} : s.Evolves (t.islandBack i) :=
  h.setEng.clearIsland.setEng.showIsland.put

theorem State.Evolves.comeBack (h : s.Evolves t) {kept c} : s.Evolves (t.comeBack kept c) :=
  .ite (.ite ((h.modCtx.forAll (fun _ _ g => g.showIsland)).holdBoot) h) (.ite h.beginLoad h.restoreLoad)

theorem State.Evolves.execDieReadmit (h : s.Evolves t) {d} : s.Allows (execDieReadmit d t) := by
  unfold Machine.execDieReadmit
  extract_lets d retained back good frames gone s1 s2 s3 s4 s5 s6 s7
  have h2 : s.Evolves s2 := h.endJob.setPresence.onPkg.resolveDeep.scrubRestart.forN fun _ _ g => g.islandBack
  have h3 : s.Evolves s3 := h2.forAll fun _ _ g => g.setIsland.put
  have h4 : s.Evolves s4 := h3.banksLost.ite h3.banksLost.banksDefault
  have h5 : s.Evolves s5 := h4.post.onPkg
  have h6 : s.Evolves s6 := (h5.forAll fun _ _ g => g.setEntries).forAll fun _ _ g => g.retrail
  have h7 : s.Evolves s7 := h6.onSwb.forAll fun _ _ g => g.comeBack
  exact h.whenDue h7.retryQueue.showRing.showDie

/-! ### `SelfTest`: self-test of units and the maintenance stop -/

theorem State.Evolves.queueTest (h : s.Evolves t) {x} : s.Evolves (t.queueTest x) := by
  unfold State.queueTest
  extract_lets v s1 s2 s3
  have h2 : s.Evolves s2 := h.onBst.modUnit.ite h.onBst
  have h3 : s.Evolves s3 := by
    unfold s3
    clear_value s2 v
    split
    · exact h2.put
    · exact h2.ite h2.put
    · exact h2.onSwb
    · exact h2
  exact h3.showBst

theorem State.Evolves.execBstRun (h : s.Evolves t) {d} : s.Allows (execBstRun d t) := by
  unfold Machine.execBstRun
  exact h.runDesc (fun _ g => .ite g.opDone (.ite g.opDone g.queueTest))

theorem State.Evolves.execBstAbort (h : s.Evolves t) {d} : s.Allows (execBstAbort d t) :=
  h.runDesc (fun _ g => (by split; exacts [g.opDone, g.abortTest.opDone.opDone]))

theorem State.Evolves.execBstOffline (h : s.Evolves t) {d} : s.Allows (execBstOffline d t) :=
  h.runDesc (fun _ g => .ite g.opDone (.ite g.opDone (.ite g.opDone g.queueTest)))

theorem State.Evolves.execBstOnline (h : s.Evolves t) {d} : s.Allows (execBstOnline d t) :=
  h.runDesc fun _ g => .ite g.opDone g.unitBack.post.opDone.retryQueue

theorem State.Evolves.emptyBank (h : s.Evolves t) {b} : s.Evolves (t.emptyBank b) := by
  unfold State.emptyBank
  refine (h.forAll fun _ _ g => ?_).postLost.showMaps
  extract_lets rd hit x free
  have hx : s.Evolves x := g.load
  have hf : ∀ {v}, s.Evolves v → s.Evolves (free v) := fun g => g.own
  clear_value x free rd
  refine .ite (hf hx.losePage) ?_
  split
  · exact hf hx.sealedWrite.modPages
  · exact .getD (fun _ e => hx.pageHome e) (hf hx.losePage)

theorem State.Evolves.takeUnit (h : s.Evolves t) {u' img sav tab} : s.Evolves (t.takeUnit u' img sav tab) := by
  unfold State.takeUnit
  split
  · exact .ite h.clearUnit.put.put h.clearUnit
  · exact .ite h.clearUnit.put.put h.clearUnit
  · exact h.emptyBank.clearUnit
  · exact h.vacatePc.clearUnit
  · exact h

theorem State.Evolves.execBstIsolationComplete (h : s.Evolves t) {u' img sav tab} :
    s.Allows (execBstIsolationComplete u' img sav tab t) := by
  unfold Machine.execBstIsolationComplete
  dsimp only
  split
  · exact h.notDue
  · exact h.whenDue (.ite h.modUnit.takeUnit.dropTest.unitOff.opDone h.modUnit.takeUnit.onBst.showBst)

theorem State.Evolves.unitFails (h : s.Evolves t) {u'} : s.Evolves (t.unitFails u') := by
  unfold State.unitFails
  split
  · exact h.modUnit.toCairn.put
  · exact h.modUnit.toCairn.retirePair
  · exact h.modUnit.toCairn.pcGone
  · exact h.modUnit.toCairn

theorem State.Evolves.startSaddle (h : s.Evolves t) : s.Evolves t.startSaddle :=
  (h.relock.onBst.rangesOff.onCry.put.putB.putB.showSlots.forN (fun _ _ g => g.putB)).showBanks

theorem State.Evolves.saddleNext (h : s.Evolves t) : s.Evolves t.saddleNext := .ite h.startSaddle h

theorem State.Evolves.execBstSaddle (h : s.Evolves t) {d} : s.Allows (execBstSaddle d t) :=
  h.runDesc fun _ g => .ite g.opDone g.opDone.onBst.saddleNext

theorem State.Evolves.execBstSaddleComplete (h : s.Evolves t) {sigs} : s.Allows (execBstSaddleComplete sigs t) :=
  h.whenDue h.put.put.took.logAdd.fullReset.onCfg.beginConfig

theorem State.Evolves.execBstTestComplete (h : s.Evolves t) {unit sig} : s.Allows (execBstTestComplete unit sig t) := by
  unfold Machine.execBstTestComplete
  extract_lets v
  split
  · exact h.notDue
  · extract_lets arg s1 s2 s3
    have h1 : s.Evolves s1 := h.dropTest.testEnded.clearUnit
    have h2 : s.Evolves s2 := h1.unitFails.ite (h1.unitOff.ite h1.unitBack)
    exact h2.complDesc.retryQueue.saddleNext.next

theorem State.Evolves.execBstUnitSelWrite (h : s.Evolves t) {v} : s.Allows (execBstUnitSelWrite v t) :=
  h.put.put.put.put.put.put.put.next

/-! ### `PowerFail`: the power-fail sequence -/

theorem State.Evolves.loseKeys (h : s.Evolves t) : s.Evolves t.loseKeys := by
  unfold State.loseKeys
  exact h.rangesOff.onCry.put.putB.showSlots.onSwb

theorem State.Evolves.endSaddle (h : s.Evolves t) : s.Evolves t.endSaddle := .ite h.put.onBst h.onBst

theorem State.Evolves.powerFail (h : s.Evolves t) {bus} : s.Evolves (t.powerFail bus) := by
  unfold State.powerFail
  extract_lets s1 s2 s3 s4 s5
  have h1 : s.Evolves s1 := h.onPwr.toCairn
  have h4 : s.Evolves s4 := (h1.post.ite h1).relock.lkoGoes.copyTail.notice.endSaddle.showBanks
  exact (h4.onCfg.ite h4).parkNow.loseKeys.showAlive.putB

theorem State.Evolves.execPwrfailNFall (h : s.Evolves t) : s.Allows (execPwrfailNFall t) := h.whenDue h.powerFail
theorem State.Evolves.execBusFail (h : s.Evolves t) : s.Allows (execBusFail t) := h.whenDue h.powerFail

/-! ### `RegMap`: writes and reads of every set-up register and every engine register -/

theorem State.Evolves.plainWrite (h : s.Evolves t) {off v mask} : s.Evolves (t.plainWrite off v mask) :=
  h.setBits.setBits.afterWrite

theorem State.Evolves.dbgCommand (h : s.Evolves t) {x pcie cmd} : s.Evolves (t.dbgCommand x pcie cmd) := by
  unfold State.dbgCommand
  split
  · exact h.challenge
  · exact h.respondAuth
  · exact h.password
  · exact h.relock.dbgDone
  · exact h

theorem State.Evolves.ringCtl (h : s.Evolves t) {x r v} : s.Evolves (t.ringCtl x r v) := by
  unfold State.ringCtl
  extract_lets k s1 s2
  have h1 : s.Evolves s1 := .ite (h.landed h.ringResume) h
  have h2 : s.Evolves s2 := .ite (h1.landed h1.ringFlush) h1
  exact .ite (h2.landed h2.ringEnable) (.ite (h2.landed h2.ringDisable) h2)

theorem State.Evolves.ownWrite (h : s.Evolves t) {go x pcie off m w} (hgo : ∀ x, s.Evolves x → s.Evolves (go x)) :
    s.Evolves (t.ownWrite go x pcie off m w) :=
  have run : ∀ {r}, s.Allows r → s.Evolves (Machine.landed t r) := h.landed
  .ite h.ringCtl <|
  .ite (.ite (.ite h (run h.eqEnable)) (run h.eqDisable)) <|
  .ite h.unmasked <|
  .ite (.ite h.putB h) <|
  .ite (run h.execClkBaseWrite) <|
  .ite (.ite (run h.execClkMtrStart) h) <|
  .ite (run h.execHbmPcReq) <|
  .ite h.qpllWrite <|
  .ite h.laneWrite <|
  .ite (run h.hifCntClr) <|
  .ite (run h.execTrlLqSelWrite) <|
  .ite (run h.execTrlPmapQWrite) <|
  .ite (run h.execTrlTqSelWrite) <|
  .ite (run h.execTrlCntClr) <|
  .ite (run h.execSwbCtxSelWrite) <|
  .ite (run h.execSwbCntClr) <|
  .ite (run h.execMemCntClr) <|
  .ite (run h.execMemLogClear) <|
  .ite (.ite (run h.execHbmLogClear) h) <|
  .ite (run h.execCfgReconf) <|
  .ite (.ite h h.put.onCfg) <|
  .ite (run h.execPwrRungRequest) <|
  .ite (run h.execPwrDieRungRequest) <|
  .ite (.ite (run h.execPwrBusStatClr) h) <|
  .ite (.ite (run h.execPwrCntClr) h) <|
  .ite (.ite (run h.execMgtCtlRestart) h) <|
  .ite (run h.execMgtMbxTxPush) <|
  .ite (run h.execFltStatClear) <|
  .ite (run h.execFltInjGo) <|
  .ite (.ite (run h.execFltCntClr) h) <|
  .ite (run h.execTwnCntClr) <|
  .ite (run h.execTwnCkptSelWrite) <|
  .ite (run h.execBstUnitSelWrite) <|
  .ite h.ptpPort <|
  .ite h.setAttach <|
  .ite h.dbgCommand <|
  .ite (.ite (hgo _ h) h) <|
  .ite (.ite (run h.execLkoHalt) (.ite (run h.execLkoStep) (.ite h.lkoGoes h))) h

theorem State.Evolves.regWrite (h : s.Evolves t) {go x pcie off v mask} (hgo : ∀ x, s.Evolves x → s.Evolves (go x)) :
    s.Evolves (t.regWrite go x pcie off v mask) :=
  .ite h (.ite h.trcWrite (h.plainWrite.ownWrite (fun _ g => hgo _ g)))

theorem State.Evolves.busWrite (h : s.Evolves t) {go x pcie off wide v} (hgo : ∀ x, s.Evolves x → s.Evolves (go x)) :
    s.Evolves (t.busWrite go x pcie off wide v) := by
  unfold State.busWrite
  extract_lets lo four
  have hf : ∀ {x o n}, s.Evolves x → s.Evolves (four x o n) := fun g =>
    .ite (g.landed g.tbSet) (.ite (g.landed g.tbSet) (.ite (g.regWrite hgo) (g.regWrite hgo)))
  exact .ite h (.ite (hf h) (.ite (h.landed h.tbSet) (.ite (h.regWrite hgo) (hf (hf h)))))

theorem State.Evolves.engRegWrite (h : s.Evolves t) {i off v mask} : s.Evolves (t.engRegWrite i off v mask) := by
  unfold State.engRegWrite
  extract_lets k w old m run
  have hrun : ∀ {x b f}, s.Evolves x → (∀ y, s.Evolves y → s.Allows (f y)) → s.Evolves (run x b f) := fun g hf =>
    .ite (g.landed (hf _ g)) g
  clear_value run
  refine .ite (hrun (hrun (hrun h.modEng fun _ g => g.execClrFault) fun _ g => g.execEngCtlStop)
    fun _ g => g.execEngCtlStart) ?_
  refine .ite (h.landed h.execEngStartWrite) (.ite h.modEng (.ite (hrun h.modEng fun _ g => g.execEngWdogKick) ?_))
  refine .ite (h.landed h.execEngSemaWrite) (.ite ?_ (.ite ?_ ?_))
  · split
    · exact h.modChan
    · exact h.landed h.execEngDmCmdWrite
    · exact hrun (hrun h.modChan fun _ g => g.execDmAbort) fun _ g => g.execDmResume
    · exact .ite h.modChan h
    · exact h
  · exact hrun (hrun (hrun h.modEng fun _ g => g.execEngDbgHalt) fun _ g => g.execEngDbgStep) fun _ g => g.execEngDbgResume
  · exact .ite (.ite h.modEng h) (.ite h.modEng (.ite h.modEng (.ite (hrun h fun _ g => g.execEngDbgRxack)
      (.ite (h.landed h.execEngDbgWr) h))))

theorem State.Evolves.engBytes (h : s.Evolves t) {i off bs} : s.Evolves (t.engBytes i off bs) :=
  .ite h (h.forAll (fun _ _ g => g.engRegWrite))

theorem State.Evolves.engRead (h : s.Evolves t) {i off n obs} : s.Evolves (t.engRead i off n obs).2 :=
  .ite ((h.took.ite h).modEng) (.ite h.took h)

/-! ### `Access`: reads and writes at the endpoints that serve them in place -/

theorem State.Evolves.freeBytes (h : s.Evolves t) {n} : s.Evolves (t.freeBytes n).2 := h.elsewhere

theorem State.Evolves.readHbm (h : s.Evolves t) {w a n} : s.Evolves (t.readHbm w a n).2.2 := by
  unfold State.readHbm
  extract_lets s0 code r t'
  have h0 : s.Evolves s0 := h.drainHbm
  have ht : s.Evolves t' := h0.onHbm.sealedRead.onHbm
  clear_value s0 code r t'
  split
  · exact .snd₂ rfl (h0.underTrail fun _ g => g.hbmRefused)
  · split
    · exact ht
    · split
      · exact ht.authAlarm
      · exact ht

theorem State.Evolves.writeHbm (h : s.Evolves t) {w a bs} : s.Evolves (t.writeHbm w a bs).2 := by
  unfold State.writeHbm
  extract_lets s0 code r
  have h0 : s.Evolves s0 := h.drainHbm
  have hr : s.Evolves r.2.2 := h0.onHbm.hbmStore
  clear_value s0 code r
  split
  · exact .snd rfl (h0.underTrail fun _ g => g.hbmRefused)
  · split
    · exact h0
    · exact .snd rfl hr.onHbm

theorem State.Evolves.winTouch (h : s.Evolves t) {i off n write} : s.Evolves (t.winTouch i off n write) := by
  unfold State.winTouch
  split
  · exact h.svcTouch
  · exact h

theorem State.Evolves.readWin (h : s.Evolves t) {w i off n} : s.Evolves (t.readWin w i off n).2.2 := by
  unfold State.readWin
  dsimp only
  split
  · exact h
  · split
    · split
      · exact h.winData h.stateArea
      · exact h.stateArea
    · split
      · exact h.winData h.engRead
      · split
        · exact h
        · split
          · exact h.load
          · split
            · exact h.load
            · exact h.winData h.load.winTouch
    · exact h

theorem State.Evolves.writeWin (h : s.Evolves t) {w i off bs} : s.Evolves (t.writeWin w i off bs).2 := by
  unfold State.writeWin
  dsimp only
  split
  · exact h
  · split
    · exact .ite h h.stateArea
    · split
      · exact h.engBytes
      · split
        · exact h.forAll fun _ _ g => g.setRawWord.setCheck
        · exact h.store.winTouch
    · exact h

theorem State.Evolves.readCtl (h : s.Evolves t) {w a n} : s.Evolves (t.readCtl w a n).2.2 := by
  unfold State.readCtl
  dsimp only
  split
  · exact h
  · exact .ite (h.landed h.execMgtMbxRxPop) h

theorem State.Evolves.writeCtl (h : s.Evolves t) {x a bs} : s.Evolves (t.writeCtl x a bs).2 := by
  unfold State.writeCtl
  extract_lets off n
  clear_value off n
  split
  · exact h
  · exact .snd rfl (h.busWrite fun _ g => g)

theorem State.Evolves.readLko (h : s.Evolves t) {w a n} : s.Evolves (t.readLko w a n).2.2 := by
  unfold State.readLko
  split
  · split
    · exact h
    · exact h.load
  · exact h.freeBytes

theorem State.Evolves.writeLko (h : s.Evolves t) {w a bs} : s.Evolves (t.writeLko w a bs).2 := by
  unfold State.writeLko
  split
  · split
    · exact h
    · exact h.store
  · exact h

theorem State.Evolves.readEnd (h : s.Evolves t) {w v a n} : s.Evolves (t.readEnd w v a n).2.2 := by
  unfold State.readEnd
  extract_lets code r
  have hr : s.Evolves r.2.2 := h.load
  clear_value code r
  split
  · split
    · exact h
    · exact h.readHbm
  · split
    · exact h
    · exact h.readHbm
  · split
    · exact h
    · exact hr
  · split
    · exact h
    · exact hr
  · split
    · exact h
    · exact hr
  · split
    · exact h
    · exact hr
  · split
    · exact h
    · exact h.readWin
  · exact h.readLko
  · exact h.readCtl
  · exact h

theorem State.Evolves.writeEnd (h : s.Evolves t) {w x v a bs} : s.Evolves (t.writeEnd w x v a bs).2 := by
  unfold State.writeEnd
  extract_lets code
  clear_value code
  split
  · split
    · exact h
    · exact h.writeHbm
  · split
    · exact h
    · exact h.writeHbm
  · split
    · exact h
    · exact .snd rfl h.store
  · split
    · exact h
    · exact .snd rfl h.store
  · split
    · exact h
    · exact .snd rfl h.store
  · split
    · exact h
    · exact .snd rfl h.store
  · split
    · exact h
    · exact h.writeWin
  · exact h.writeLko
  · exact h.writeCtl
  · exact h

theorem State.Evolves.deliverBad (h : s.Evolves t) {who addr d} : s.Evolves (t.deliverBad who addr d) := by
  have ha : ∀ {d c}, s.Evolves (t.answer d c) := h.answer
  have hm : ∀ c : Fin 4, s.Evolves ((t.answer []).dmHalt (islandOf addr) c.val 1 0) := fun _ => ha.dmHalt
  cases who with
  | fetch => exact ha.trapLow
  | operand => exact .ite ha.modEng.trapLow ha.modEng
  | mover c => unfold State.deliverBad; exact hm c
  | hostDma r =>
    unfold State.deliverBad
    dsimp only
    split
    · exact ha.setJob
    · exact ha
  | lookoutFetch => unfold State.deliverBad; exact .ite ha.restartLookout.toCairn ha
  | lookoutData => unfold State.deliverBad; exact ha.onMem
  | _ => exact ha

theorem State.Evolves.accessNow (h : s.Evolves t) {acc} : s.Evolves (t.accessNow acc) := by
  unfold State.accessNow
  extract_lets p r x d
  have hr : s.Evolves r.2.2 := h.readEnd
  have hx : s.Evolves x.2.2 := h.loadWord
  clear_value r d x p
  split
  · exact .ite (.ite hr.deliverBad hr.answer) (.ite hx.deliverBad hx.answer)
  · split
    · extract_lets l runs r
      have hr : s.Evolves r.2 := .foldlSnd h fun _ _ g => .snd rfl g.writeEnd
      exact hr.answer
    · exact h.maskWrite.answer

theorem State.Evolves.memGo (h : s.Evolves t) {acc} : s.Evolves (t.memGo acc) := by
  unfold State.memGo
  split
  · exact h.portAccess
  · extract_lets w
    clear_value w
    split
    · exact .ite h.accessNow h.answer
    · split
      · exact h.joinRebuild
      · exact .ite h.beginRebuild h.accessNow

theorem State.Evolves.memTry (h : s.Evolves t) {acc u} (e : t.memTry acc = some u) : s.Evolves u := by
  have ha : ∀ {d c}, some (t.answer d c) = some u → s.Evolves u := fun e => by cases e; exact h.answer
  have hg : some (t.memGo acc) = some u → s.Evolves u := fun e => by cases e; exact h.memGo
  unfold State.memTry at e
  dsimp only at e
  repeat' split at e
  all_goals first
    | exact ha e
    | exact hg e
    | cases e

theorem State.Evolves.memAccess (h : s.Evolves t) {acc} : s.Allows (t.memAccess acc) := by
  unfold State.memAccess
  split
  · rename_i e
    exact (h.memTry e).next
  · exact h.notDue

theorem State.Evolves.execMemoryRead (h : s.Evolves t) {who addr} : s.Allows (execMemoryRead who addr t) := h.memAccess

theorem State.Evolves.execMemoryWrite (h : s.Evolves t) {who addr data en other} :
    s.Allows (execMemoryWrite who addr data en other t) := by
  unfold Machine.execMemoryWrite
  dsimp only
  split
  · exact .ite h.portAccess.next h.memAccess
  · exact h.memAccess

theorem State.Evolves.execNarrowWrite (h : s.Evolves t) {who addr data mask} :
    s.Allows (execNarrowWrite who addr data mask t) :=
  h.memAccess

theorem State.Evolves.execPageRebuildComplete (h : s.Evolves t) {page} : s.Allows (execPageRebuildComplete page t) := by
  unfold Machine.execPageRebuildComplete
  split
  · exact (h.onMem.rebuildPage.setBusy.forAll (fun _ _ g => g.memGo)).next
  · exact h.notDue

/-! ### `Gateway`: the page gateway -/

theorem State.Evolves.readParts (h : s.Evolves t) {w feed l} : s.Evolves (t.readParts w feed l).2.2 := by
  induction l generalizing t feed with
  | nil => exact h
  | cons x l ih =>
    obtain ⟨_ | p, a, n⟩ := x
    · exact h
    · unfold State.readParts
      extract_lets sp r one more
      have h1 : s.Evolves one.1.2.2 := by
        unfold one
        split
        · dsimp only
          split
          · exact h.authAlarm
          · exact h
        · split
          · exact h.readHbm
          · exact h.frameRead
      have hm : s.Evolves more.2.2 := ih h1
      clear_value one more
      split
      · exact h1
      · exact hm

theorem State.Evolves.writeParts (h : s.Evolves t) {w feed bs l} : s.Evolves (t.writeParts w feed bs l).2 := by
  induction l generalizing t feed bs with
  | nil => exact h
  | cons x l ih =>
    obtain ⟨_ | p, a, n⟩ := x
    · exact h
    · refine ih ?_
      split
      · exact h.hostWrite
      · split
        · exact h.writeHbm
        · exact h.frameWrite

theorem State.Evolves.pageErr (h : s.Evolves t) {m code} : s.Evolves (t.pageErr m code) := (h.bump.ite h).respond

theorem State.Evolves.pageGo (h : s.Evolves t) {m feed} : s.Evolves (t.pageGo m feed) := by
  unfold State.pageGo
  extract_lets l w x code s0 r r'
  have h0 : s.Evolves s0 := h.onSwb.modPages.syncMaps
  have hr : s.Evolves r.2 := h0.writeParts
  have hr' : s.Evolves r'.2.2 := h0.readParts
  exact .ite h.onSwb.pageErr (.ite (hr.respond.ite hr.modPages.syncMaps.respond) (hr'.respond.ite hr'.respond))

theorem State.Evolves.scanPages (h : s.Evolves t) {may u} (e : t.scanPages may = some u) : s.Evolves u.2 := by
  unfold State.scanPages at e
  extract_lets l page order at e
  clear_value order
  split at e
  · cases e
  · cases e; exact .snd rfl h.modPages.onSwb

theorem State.Evolves.evictPage (h : s.Evolves t) {z u} (e : t.evictPage z = some u) : s.Evolves u := by
  unfold State.evictPage at e
  split at e
  · cases e
  · rename_i hs
    exact (h.scanPages hs).pageHome e

theorem State.Evolves.hbmFrameFor (h : s.Evolves t) {z u} (e : t.hbmFrameFor z = some u) : s.Evolves u.2 := by
  -- the definition is opened as a function: opened where it stands, checking would run the search for a frame
  generalize hf : @State.hbmFrameFor = f at e
  delta State.hbmFrameFor at hf
  subst hf
  beta_reduce at e
  generalize t.poolFrame z = o at e
  split at e
  · cases e; exact h
  · generalize hv : t.evictPage z = o at e
    split at e
    · cases e
    · obtain ⟨_, -, rfl⟩ := Option.map_eq_some_iff.1 e
      exact h.evictPage hv

theorem State.Evolves.demotePage (h : s.Evolves t) {p u} (e : t.demotePage p = some u) : s.Evolves u := by
  -- the definition is opened as a function: opened where it stands, checking would run the search for a frame
  generalize hf : @State.demotePage = f at e
  delta State.demotePage at hf
  subst hf
  beta_reduce at e
  generalize hf : t.hbmFrameFor p.size = o at e
  split at e
  · exact h.pageHome e
  · extract_lets r at e
    have hr : s.Evolves r.2.2 := (h.hbmFrameFor hf).frameRead
    clear_value r
    split at e
    · cases e
    · cases e; exact hr.frameWrite.freeFrame.modPages

theorem State.Evolves.deepFrameFor (h : s.Evolves t) {d z u} (e : t.deepFrameFor d z = some u) : s.Evolves u.2 := by
  have hs : ∀ {f p v}, t.scanPages f = some (p, v) → s.Evolves v := h.scanPages
  have hd : ∀ {w p v}, s.Evolves w → w.demotePage p = some v → s.Evolves v := fun hw => hw.demotePage
  delta State.deepFrameFor at e
  -- the searches stand for any functions with these two properties, so that no check runs them
  obtain ⟨k, hk⟩ : ∃ k, State.demotePage = k := ⟨_, rfl⟩
  obtain ⟨f, hf⟩ : ∃ f, State.scanPages = f := ⟨_, rfl⟩
  obtain ⟨a, ha⟩ : ∃ a, State.deepFrame = a := ⟨_, rfl⟩
  rw [hk] at hd e
  rw [hf] at hs e
  rw [ha] at e
  split at e
  · cases e; exact h
  · split at e
    · cases e
    · split at e
      · cases e
      · split at e
        · cases e
        · obtain ⟨_, -, rfl⟩ := Option.map_eq_some_iff.1 e
          exact hd (hs ‹_›) ‹_›

theorem State.Evolves.moveTo (h : s.Evolves t) {p die u} (e : t.moveTo p die = some u) : s.Evolves u.2.2 := by
  unfold State.moveTo at e
  extract_lets hbm at e
  have hh : hbm = some u → s.Evolves u.2.2 := fun e => by
    unfold hbm at e
    split at e
    · cases e
    · obtain ⟨_, hr, rfl⟩ := Option.map_eq_some_iff.1 e
      exact h.hbmFrameFor hr
  clear_value hbm
  split at e
  · cases e
  · split at e
    · exact hh e
    · split at e
      · cases e
      · split at e
        · exact hh e
        · split at e
          · exact hh e
          · split at e
            · rename_i hd
              cases e
              exact h.deepFrameFor hd
            · exact hh e
    · cases e

theorem State.Evolves.fault (h : s.Evolves t) {p loc a m} : s.Evolves (t.fault p loc a m) :=
  (h.own.ite h).modPages.onSwb.showMaps.bump

theorem State.Evolves.partFault (h : s.Evolves t) {die l u} (e : t.partFault die l = some u) : s.Evolves u.2.2.2 := by
  induction l with
  | nil => cases e
  | cons x l ih =>
    obtain ⟨_ | p, a, n⟩ := x
    · exact ih e
    · unfold State.partFault at e
      split at e
      · rename_i hm
        cases e
        exact h.moveTo hm
      · exact ih e

theorem State.Evolves.walks (h : s.Evolves t) {space l} : s.Evolves (t.walks space l).2 := by
  induction l generalizing t with
  | nil => exact h
  | cons x l ih => exact ih h.walk

theorem State.Evolves.faultFor (h : s.Evolves t) {m l u} (e : t.faultFor m l = some u) : s.Evolves u.2.2.2 := by
  unfold State.faultFor at e
  split at e
  · cases e
  · exact h.partFault e

theorem State.Evolves.gateway (h : s.Evolves t) {m walked} : s.Evolves (t.gateway m walked) := by
  unfold State.gateway
  extract_lets l write w x code
  have hx : s.Evolves x := by
    unfold x w
    split
    · exact h.walks
    · exact h
  clear_value x code
  refine .ite hx.pageErr ?_
  split
  · exact hx.onSwb
  · split
    · rename_i hf
      exact (hx.faultFor hf).fault
    · exact .ite hx.respond (.ite hx.pageGo hx.askHost)

theorem State.Evolves.writeBack (h : s.Evolves t) {l} : s.Evolves (t.writeBack l).2 := by
  induction l generalizing t with
  | nil => exact h
  | cons p l ih =>
    unfold State.writeBack
    dsimp only
    split
    · exact ih h
    · split
      · exact h
      · split
        · exact h.frameRead
        · exact ih h.frameRead.hostWrite.modPages

theorem State.Evolves.unmapNow (h : s.Evolves t) {d} : s.Evolves (t.unmapNow d) := by
  unfold State.unmapNow
  extract_lets l r s1 lo gone
  have hr : s.Evolves r.2 := .iteSnd h h.writeBack
  exact .ite hr.endDesc (hr.forAll fun _ _ g => g.freeFrame).onSwb.showMaps.opDone

theorem State.Evolves.execUnmap (h : s.Evolves t) {d} : s.Allows (execUnmap d t) :=
  h.runDesc (fun _ g => .ite g.opDone (.ite g.onSwb g.unmapNow))

theorem State.Evolves.retryUnmaps (h : s.Evolves t) : s.Evolves t.retryUnmaps :=
  h.forAll fun _ _ g => .ite g g.onSwb.unmapNow

theorem State.Evolves.moveRead (h : s.Evolves t) {g' z ok feed} : s.Evolves (t.moveRead g' z ok feed).2 := by
  unfold State.moveRead
  dsimp only
  split
  · split
    · exact h
    · split
      · exact h.authAlarm
      · exact h
  · exact h.frameRead

theorem State.Evolves.execPageMigrationComplete (h : s.Evolves t) {space dva ok feed} :
    s.Allows (execPageMigrationComplete space dva ok feed t) := by
  unfold Machine.execPageMigrationComplete
  dsimp only
  split
  · split
    · exact h.moveRead.abandonMigration.retryUnmaps.next
    · exact h.moveRead.frameWrite.freeFrame.modPages.onSwb.onNet.showMaps.bump.retryUnmaps.next
  · exact h.notDue

/-! ### `Serve`: requests at their destination -/

theorem State.Evolves.hostGo (h : s.Evolves t) {m first feed} : s.Evolves (t.hostGo m first feed) :=
  .ite (.ite h.hostWrite.respond h.hostWrite.onHost.respond) h.answerSealed

theorem State.Evolves.hostServe (h : s.Evolves t) {m} : s.Evolves (t.hostServe m) := .ite h.respond (.ite h.hostGo h.askHost)

theorem State.Evolves.hostAnswer (h : s.Evolves t) {tag ok feed} : s.Allows (t.hostAnswer tag ok feed) := by
  unfold State.hostAnswer
  split
  · exact h.notDue
  · exact (h.dropFlight.onHost.respond.ite (h.onHost.ite (h.dropFlight.onHost.pageGo.ite h.dropFlight.onHost.hostGo))).next

theorem State.Evolves.execPcieCompletion (h : s.Evolves t) {tag ok feed} : s.Allows (execPcieCompletion tag ok feed t) :=
  h.hostAnswer

theorem State.Evolves.execPcieCompletionTimeout (h : s.Evolves t) {tag} : s.Allows (execPcieCompletionTimeout tag t) :=
  h.hostAnswer

theorem State.Evolves.atDest (h : s.Evolves t) {tabUe x m} : s.Evolves (t.atDest tabUe x m) := by
  unfold State.atDest
  dsimp only
  split
  · split
    · exact h.toPort
    · exact h.respond
  · split
    · exact .ite h.respond h.enqueueHbm
    · exact .ite h.respond h.enqueueHbm
    · exact h.hostServe
    · exact h.gateway
    · exact .ite (.ite h.writeEnd.respond h.writeEnd.respond) (.ite h.readEnd.respond h.readEnd.respond)

theorem State.Evolves.serveAt (h : s.Evolves t) {tag op tabUe x} : s.Allows (t.serveAt tag op tabUe x) := by
  unfold State.serveAt
  split
  · exact h.notDue
  · exact .ite h.notDue (h.serve (fun _ _ g => g.atDest))

theorem State.Evolves.execRd (h : s.Evolves t) {tag tabUe} : s.Allows (execRd tag tabUe t) := h.serveAt
theorem State.Evolves.execWr (h : s.Evolves t) {tag tabUe x} : s.Allows (execWr tag tabUe x t) := h.serveAt

theorem State.Evolves.ctxMessage (h : s.Evolves t) {m} : s.Evolves (t.ctxMessage m) :=
  .ite h.respond (.ite h.respond h.respond.ctxRequest)

theorem State.Evolves.pinMessage (h : s.Evolves t) {m v ts corr} : s.Evolves (t.pinMessage m v ts corr) := by
  unfold State.pinMessage
  split
  · exact h.ethTx.respond
  · exact (h.toLine.ite h).respond
  · exact (h.toLine.ite h).respond

theorem State.Evolves.execMsg (h : s.Evolves t) {tag ts corr} : s.Allows (execMsg tag ts corr t) := by
  refine h.serve fun _ _ g => .ite ?_ ?_
  · split
    · exact g.toPort
    · exact g.respond
  · split
    · exact g.ctxMessage
    · exact g.pinMessage
    · exact g.pinMessage
    · exact g.pinMessage
    · exact g.respond

theorem State.Evolves.readBlocks (h : s.Evolves t) {l} : s.Evolves (t.readBlocks l).2.2 := by
  induction l generalizing t with
  | nil => exact h
  | cons x l ih =>
    obtain ⟨a, n⟩ := x
    unfold State.readBlocks
    extract_lets one more
    have h1 : s.Evolves one.2.2 := by
      unfold one
      split
      · exact h.readEnd
      · exact h
    have hm : s.Evolves more.2.2 := ih h1
    clear_value one more
    split
    · exact h1.errCount
    · exact hm

theorem State.Evolves.writeBlocks (h : s.Evolves t) {bs l} : s.Evolves (t.writeBlocks bs l) := by
  induction l generalizing t bs with
  | nil => exact h
  | cons x l ih =>
    obtain ⟨a, n⟩ := x
    unfold State.writeBlocks
    extract_lets one
    have h1 : s.Evolves one.2 := by
      unfold one
      split
      · exact h.writeEnd
      · exact h
    exact ih (h1.errCount.bump.post.ite h1)

theorem State.Evolves.execBar4Read (h : s.Evolves t) {off n} : s.Allows (execBar4Read off n t) :=
  .ite h.answer.next (.ite h.notDue ((h.readBlocks.answer.ite h.readBlocks.answer).next))

theorem State.Evolves.execBar4Write (h : s.Evolves t) {off data} : s.Allows (execBar4Write off data t) :=
  .ite State.allows_illFormed (.ite h.answer.next (.ite h.answer.next (.ite h.notDue h.writeBlocks.answer.next)))

/-! ### `DataRows`: DATA descriptors -/

theorem State.Evolves.startData (h : s.Evolves t) {d op ok srcT srcRole dstRole src listErr badLen} :
    s.Allows (t.startData d op ok srcT srcRole dstRole src listErr badLen) := by
  unfold State.startData
  split
  · exact h.notDue
  · exact h.runDesc (fun _ g => .ite g.endDesc (.ite g.endDesc (.ite g.endDesc (.ite g.endDesc (.ite g.endDesc g.jobGo)))))

theorem State.Evolves.execCopy (h : s.Evolves t) {d} : s.Allows (execCopy d t) := h.startData
theorem State.Evolves.execFill (h : s.Evolves t) {d} : s.Allows (execFill d t) := h.startData
theorem State.Evolves.execGather (h : s.Evolves t) {d list ok} : s.Allows (execGather d list ok t) := h.startData
theorem State.Evolves.execStreamOut (h : s.Evolves t) {d} : s.Allows (execStreamOut d t) := h.startData
theorem State.Evolves.execStreamIn (h : s.Evolves t) {d} : s.Allows (execStreamIn d t) := h.startData

theorem State.Evolves.execDataDescriptorComplete (h : s.Evolves t) {d} : s.Allows (execDataDescriptorComplete d t) := by
  unfold Machine.execDataDescriptorComplete
  split
  · exact h.notDue
  · exact h.endDesc.next

/-! ### `AccessPort`: the debug bus master, writes of registers, and JTAG's DBGREG -/

theorem State.Evolves.apEnd (h : s.Evolves t) {code} : s.Evolves (t.apEnd code) := h.put

theorem State.Evolves.apOpen (h : s.Evolves t) {v u} (e : t.apOpen v = some u) : s.Evolves u.2 := by
  unfold State.apOpen at e
  extract_lets l s1 r at e
  have h1 : s.Evolves s1 := by
    unfold s1
    split
    · split
      · exact h.closeTrail
      · exact h
    · exact h
  have hr : s.Evolves r.2.2 := h1.openTrail
  clear_value r
  split at e
  · cases e; exact .snd rfl hr.onDbg
  · cases e

theorem State.Evolves.apSend (h : s.Evolves t) {t' a n write} : s.Evolves (t.apSend t' a n write) := by
  unfold State.apSend
  split
  · exact h.apEnd
  · exact h.putB.onDbg.ingress

theorem State.Evolves.apAccess (h : s.Evolves t) {v a n write} : s.Evolves (t.apAccess v a n write) := by
  fun_cases State.apAccess t v a n write with
  | case1 => exact h.apSend
  | case2 _ _ _ hu => exact (h.apOpen hu).apSend
  | case3 => exact h.apEnd

theorem State.Evolves.captureState (h : s.Evolves t) {i} : s.Evolves (t.captureState i).2 :=
  (h.forAll (fun _ _ g => g.stopClocks)).saveIsland.forAll fun _ _ g => .ite g g.gateClocks

theorem State.Evolves.readbackBytes (h : s.Evolves t) {kind i off n} : s.Evolves (t.readbackBytes kind i off n).2 := by
  unfold State.readbackBytes
  extract_lets unset r q
  have hu : s.Evolves unset.2 := h.took
  have hr : s.Evolves r.2 := h.captureState
  generalize [(islandWindow i + off) / 8] = l at q ⊢
  have hq : s.Evolves q.2.2 := h.readback
  clear_value unset r q
  split
  · exact h
  · exact .iteSnd (.snd rfl hr.onDbg) (by split; · exact .iteSnd h hu
                                          · exact hu)
  · exact .snd rfl hq

theorem State.Evolves.apReadback (h : s.Evolves t) {a n} : s.Evolves (t.apReadback a n) :=
  .ite h.apEnd (.ite h.apEnd h.readbackBytes.putB.onDbg.addJob)

theorem State.Evolves.apGo (h : s.Evolves t) : s.Evolves t.apGo := by
  unfold State.apGo
  dsimp only
  split
  · exact h
  · split
    · exact .ite h.apEnd (.ite h.apEnd h.apAccess)
    · split
      · exact .ite h.apEnd (.ite h.apEnd (.ite h.apEnd h.apReadback))
      · split
        · exact h.apEnd
        · split
          · exact h.apEnd
          · split
            · exact h.apEnd
            · exact h.apAccess

theorem State.Evolves.execAccessPortGo (h : s.Evolves t) : s.Allows (execAccessPortGo t) := h.apGo.next

theorem State.Evolves.execAccessPortComplete (h : s.Evolves t) : s.Allows (execAccessPortComplete t) := by
  unfold Machine.execAccessPortComplete
  split
  · exact h.notDue
  · exact h.whenDue ((h.put.putB.onDbg.ite h.put.putB.onDbg.put).forAll (fun _ _ g => g.endJob))

theorem State.Evolves.execRegisterWrite (h : s.Evolves t) {r v wide x} : s.Allows (execRegisterWrite r v wide x t) := by
  unfold Machine.execRegisterWrite
  split
  · exact h.whenDue (h.busWrite (fun _ g => g.apGo))
  · exact h.whenDue h.engBytes

theorem State.Evolves.bar0Read (h : s.Evolves t) {off n} : s.Evolves (t.bar0Read off n) :=
  .ite h.answer (.ite h.answer h.readCtl.answer)

theorem State.Evolves.bar2Read (h : s.Evolves t) {off n} : s.Evolves (t.bar2Read off n) := h.answer

theorem State.Evolves.execBar0WakeRead (h : s.Evolves t) {q} : s.Allows (execBar0WakeRead q t) :=
  h.whenDue (.ite h.answer (.ite h.bar2Read (.ite h.bar0Read (.ite h.answer h.wake.onPwr))))

theorem State.Evolves.answerWakes (h : s.Evolves t) : s.Evolves t.answerWakes := h.onPwr.foldl fun _ _ g => g.bar0Read

theorem State.Evolves.execRungExitComplete (h : s.Evolves t) {ns} : s.Allows (execRungExitComplete ns t) := by
  unfold Machine.execRungExitComplete
  split
  · exact h.notDue
  · exact .ite h.notDue h.endExit.rungChanged.payOwed.retryQueue.answerWakes.next

theorem State.Evolves.execDbgregUpdateDr (h : s.Evolves t) {v x} : s.Allows (execDbgregUpdateDr v x t) :=
  .ite h.notDue (.ite (.ite h.next ((h.busWrite (fun _ g => g.apGo)).next)) h.onDbg.next)

/-! ### `Control`: the control-slot commands -/

theorem State.Evolves.issueCtl (h : s.Evolves t) {i c} : s.Allows (issueCtl i c t) := h.issue.next
theorem State.Evolves.execNop (h : s.Evolves t) {i} : s.Allows (execNop i t) := h.issueCtl
theorem State.Evolves.execAdd (h : s.Evolves t) {i d a b} : s.Allows (execAdd i d a b t) := h.issueCtl
theorem State.Evolves.execSub (h : s.Evolves t) {i d a b} : s.Allows (execSub i d a b t) := h.issueCtl
theorem State.Evolves.execAnd (h : s.Evolves t) {i d a b} : s.Allows (execAnd i d a b t) := h.issueCtl
theorem State.Evolves.execOr (h : s.Evolves t) {i d a b} : s.Allows (execOr i d a b t) := h.issueCtl
theorem State.Evolves.execXor (h : s.Evolves t) {i d a b} : s.Allows (execXor i d a b t) := h.issueCtl
theorem State.Evolves.execShl (h : s.Evolves t) {i d a b} : s.Allows (execShl i d a b t) := h.issueCtl
theorem State.Evolves.execShr (h : s.Evolves t) {i d a b} : s.Allows (execShr i d a b t) := h.issueCtl
theorem State.Evolves.execSar (h : s.Evolves t) {i d a b} : s.Allows (execSar i d a b t) := h.issueCtl
theorem State.Evolves.execMul (h : s.Evolves t) {i d a b} : s.Allows (execMul i d a b t) := h.issueCtl
theorem State.Evolves.execMulh (h : s.Evolves t) {i d a b} : s.Allows (execMulh i d a b t) := h.issueCtl
theorem State.Evolves.execSlt (h : s.Evolves t) {i d a b} : s.Allows (execSlt i d a b t) := h.issueCtl
theorem State.Evolves.execSltu (h : s.Evolves t) {i d a b} : s.Allows (execSltu i d a b t) := h.issueCtl
theorem State.Evolves.execMin (h : s.Evolves t) {i d a b} : s.Allows (execMin i d a b t) := h.issueCtl
theorem State.Evolves.execMax (h : s.Evolves t) {i d a b} : s.Allows (execMax i d a b t) := h.issueCtl
theorem State.Evolves.execAddi (h : s.Evolves t) {i d a imm} : s.Allows (execAddi i d a imm t) := h.issueCtl
theorem State.Evolves.execAndi (h : s.Evolves t) {i d a imm} : s.Allows (execAndi i d a imm t) := h.issueCtl
theorem State.Evolves.execOri (h : s.Evolves t) {i d a imm} : s.Allows (execOri i d a imm t) := h.issueCtl
theorem State.Evolves.execShli (h : s.Evolves t) {i d a imm} : s.Allows (execShli i d a imm t) := h.issueCtl
theorem State.Evolves.execShri (h : s.Evolves t) {i d a imm} : s.Allows (execShri i d a imm t) := h.issueCtl
theorem State.Evolves.execSari (h : s.Evolves t) {i d a imm} : s.Allows (execSari i d a imm t) := h.issueCtl
theorem State.Evolves.execLi (h : s.Evolves t) {i d imm} : s.Allows (execLi i d imm t) := h.issueCtl
theorem State.Evolves.execLui (h : s.Evolves t) {i d imm} : s.Allows (execLui i d imm t) := h.issueCtl
theorem State.Evolves.execMovtc (h : s.Evolves t) {i sreg creg} : s.Allows (execMovtc i sreg creg t) := h.issueCtl
theorem State.Evolves.execMovfc (h : s.Evolves t) {i sreg creg} : s.Allows (execMovfc i sreg creg t) := h.issueCtl
theorem State.Evolves.execVext (h : s.Evolves t) {i d a lane} : s.Allows (execVext i d a lane t) := h.issueCtl
theorem State.Evolves.execVins (h : s.Evolves t) {i d a lane} : s.Allows (execVins i d a lane t) := h.issueCtl
theorem State.Evolves.execBr (h : s.Evolves t) {i cond a target} : s.Allows (execBr i cond a target t) := h.issueCtl
theorem State.Evolves.execCall (h : s.Evolves t) {i target} : s.Allows (execCall i target t) := h.issueCtl
theorem State.Evolves.execRet (h : s.Evolves t) {i} : s.Allows (execRet i t) := h.issueCtl
theorem State.Evolves.execRti (h : s.Evolves t) {i} : s.Allows (execRti i t) := h.issueCtl
theorem State.Evolves.execBrk (h : s.Evolves t) {i} : s.Allows (execBrk i t) := h.issueCtl
theorem State.Evolves.execWdk (h : s.Evolves t) {i} : s.Allows (execWdk i t) := h.issueCtl
theorem State.Evolves.execLoopi (h : s.Evolves t) {i count len} : s.Allows (execLoopi i count len t) := h.issueCtl
theorem State.Evolves.execLoop (h : s.Evolves t) {i a len} : s.Allows (execLoop i a len t) := h.issueCtl
theorem State.Evolves.execLexit (h : s.Evolves t) {i} : s.Allows (execLexit i t) := h.issueCtl
theorem State.Evolves.execLock (h : s.Evolves t) {i} : s.Allows (execLock i t) := h.issueCtl
theorem State.Evolves.execUnlk (h : s.Evolves t) {i} : s.Allows (execUnlk i t) := h.issueCtl
theorem State.Evolves.execDmpush (h : s.Evolves t) {i a b ch wait} : s.Allows (execDmpush i a b ch wait t) := h.issueCtl
theorem State.Evolves.execDmstat (h : s.Evolves t) {i d ch} : s.Allows (execDmstat i d ch t) := h.issueCtl
theorem State.Evolves.execSin (h : s.Evolves t) {i d port} : s.Allows (execSin i d port t) := h.issueCtl
theorem State.Evolves.execSout (h : s.Evolves t) {i a port} : s.Allows (execSout i a port t) := h.issueCtl
theorem State.Evolves.execVsin (h : s.Evolves t) {i d port} : s.Allows (execVsin i d port t) := h.issueCtl
theorem State.Evolves.execVsout (h : s.Evolves t) {i a port} : s.Allows (execVsout i a port t) := h.issueCtl
theorem State.Evolves.execBfopen (h : s.Evolves t) {i guard} : s.Allows (execBfopen i guard t) := h.issueCtl
theorem State.Evolves.execBfclose (h : s.Evolves t) {i} : s.Allows (execBfclose i t) := h.issueCtl

/-! ### `Moves`: the move-slot commands -/

theorem State.Evolves.issueMove (h : s.Evolves t) {i y m} : s.Allows (issueMove i y m t) := h.issue.next
theorem State.Evolves.execMnop (h : s.Evolves t) {i y} : s.Allows (execMnop i y t) := h.issueMove
theorem State.Evolves.execLdv (h : s.Evolves t) {i y reg an m} : s.Allows (execLdv i y reg an m t) := h.issueMove
theorem State.Evolves.execStv (h : s.Evolves t) {i y reg an m} : s.Allows (execStv i y reg an m t) := h.issueMove
theorem State.Evolves.execLds (h : s.Evolves t) {i y reg an m} : s.Allows (execLds i y reg an m t) := h.issueMove
theorem State.Evolves.execSts (h : s.Evolves t) {i y reg an m} : s.Allows (execSts i y reg an m t) := h.issueMove
theorem State.Evolves.execLdvb (h : s.Evolves t) {i y reg an m} : s.Allows (execLdvb i y reg an m t) := h.issueMove
theorem State.Evolves.execStaq (h : s.Evolves t) {i y acc an m} : s.Allows (execStaq i y acc an m t) := h.issueMove
theorem State.Evolves.execModa (h : s.Evolves t) {i y an m} : s.Allows (execModa i y an m t) := h.issueMove

/-! ### `Vectors`: the vector-slot commands -/

theorem State.Evolves.issueVec (h : s.Evolves t) {i v} : s.Allows (issueVec i v t) := h.issue.next
theorem State.Evolves.execVnop (h : s.Evolves t) {i} : s.Allows (execVnop i t) := h.issueVec
theorem State.Evolves.execVmov (h : s.Evolves t) {i d a wm} : s.Allows (execVmov i d a wm t) := h.issueVec
theorem State.Evolves.execVabsq (h : s.Evolves t) {i d a wm} : s.Allows (execVabsq i d a wm t) := h.issueVec
theorem State.Evolves.execVabsf (h : s.Evolves t) {i d a wm} : s.Allows (execVabsf i d a wm t) := h.issueVec
theorem State.Evolves.execVnegf (h : s.Evolves t) {i d a wm} : s.Allows (execVnegf i d a wm t) := h.issueVec
theorem State.Evolves.execVredf (h : s.Evolves t) {i d a wm} : s.Allows (execVredf i d a wm t) := h.issueVec
theorem State.Evolves.execVcvtqf (h : s.Evolves t) {i d a wm} : s.Allows (execVcvtqf i d a wm t) := h.issueVec
theorem State.Evolves.execVcvtfq (h : s.Evolves t) {i d a wm} : s.Allows (execVcvtfq i d a wm t) := h.issueVec
theorem State.Evolves.execVaddq (h : s.Evolves t) {i d a b wm} : s.Allows (execVaddq i d a b wm t) := h.issueVec
theorem State.Evolves.execVsubq (h : s.Evolves t) {i d a b wm} : s.Allows (execVsubq i d a b wm t) := h.issueVec
theorem State.Evolves.execVmulq (h : s.Evolves t) {i d a b wm} : s.Allows (execVmulq i d a b wm t) := h.issueVec
theorem State.Evolves.execVminq (h : s.Evolves t) {i d a b wm} : s.Allows (execVminq i d a b wm t) := h.issueVec
theorem State.Evolves.execVmaxq (h : s.Evolves t) {i d a b wm} : s.Allows (execVmaxq i d a b wm t) := h.issueVec
theorem State.Evolves.execVand (h : s.Evolves t) {i d a b wm} : s.Allows (execVand i d a b wm t) := h.issueVec
theorem State.Evolves.execVor (h : s.Evolves t) {i d a b wm} : s.Allows (execVor i d a b wm t) := h.issueVec
theorem State.Evolves.execVxor (h : s.Evolves t) {i d a b wm} : s.Allows (execVxor i d a b wm t) := h.issueVec
theorem State.Evolves.execVaddi (h : s.Evolves t) {i d a b wm} : s.Allows (execVaddi i d a b wm t) := h.issueVec
theorem State.Evolves.execVaddf (h : s.Evolves t) {i d a b wm} : s.Allows (execVaddf i d a b wm t) := h.issueVec
theorem State.Evolves.execVsubf (h : s.Evolves t) {i d a b wm} : s.Allows (execVsubf i d a b wm t) := h.issueVec
theorem State.Evolves.execVmulf (h : s.Evolves t) {i d a b wm} : s.Allows (execVmulf i d a b wm t) := h.issueVec
theorem State.Evolves.execVminf (h : s.Evolves t) {i d a b wm} : s.Allows (execVminf i d a b wm t) := h.issueVec
theorem State.Evolves.execVmaxf (h : s.Evolves t) {i d a b wm} : s.Allows (execVmaxf i d a b wm t) := h.issueVec
theorem State.Evolves.execVshq (h : s.Evolves t) {i d a n wm} : s.Allows (execVshq i d a n wm t) := h.issueVec
theorem State.Evolves.execVaddk (h : s.Evolves t) {i d a imm wm} : s.Allows (execVaddk i d a imm wm t) := h.issueVec
theorem State.Evolves.execVbc (h : s.Evolves t) {i d a n wm} : s.Allows (execVbc i d a n wm t) := h.issueVec
theorem State.Evolves.execVrot (h : s.Evolves t) {i d a n wm} : s.Allows (execVrot i d a n wm t) := h.issueVec
theorem State.Evolves.execVidx (h : s.Evolves t) {i d imm wm} : s.Allows (execVidx i d imm wm t) := h.issueVec
theorem State.Evolves.execMpyq (h : s.Evolves t) {i d a b wm} : s.Allows (execMpyq i d a b wm t) := h.issueVec
theorem State.Evolves.execMacq (h : s.Evolves t) {i d a b wm} : s.Allows (execMacq i d a b wm t) := h.issueVec
theorem State.Evolves.execMsuq (h : s.Evolves t) {i d a b wm} : s.Allows (execMsuq i d a b wm t) := h.issueVec
theorem State.Evolves.execAldq (h : s.Evolves t) {i d a wm} : s.Allows (execAldq i d a wm t) := h.issueVec
theorem State.Evolves.execAadd (h : s.Evolves t) {i d a wm} : s.Allows (execAadd i d a wm t) := h.issueVec
theorem State.Evolves.execAredq (h : s.Evolves t) {i d a wm} : s.Allows (execAredq i d a wm t) := h.issueVec
theorem State.Evolves.execAclr (h : s.Evolves t) {i d wm} : s.Allows (execAclr i d wm t) := h.issueVec
theorem State.Evolves.execAmov (h : s.Evolves t) {i d a wm} : s.Allows (execAmov i d a wm t) := h.issueVec
theorem State.Evolves.execVfmaf (h : s.Evolves t) {i d a b c wm} : s.Allows (execVfmaf i d a b c wm t) := h.issueVec
theorem State.Evolves.execVfnmf (h : s.Evolves t) {i d a b c wm} : s.Allows (execVfnmf i d a b c wm t) := h.issueVec
theorem State.Evolves.execSrinit (h : s.Evolves t) {i d k' wm} : s.Allows (execSrinit i d k' wm t) := h.issueVec
theorem State.Evolves.execVsred (h : s.Evolves t) {i d k' wm} : s.Allows (execVsred i d k' wm t) := h.issueVec
theorem State.Evolves.execVsrch (h : s.Evolves t) {i d a b k' wm} : s.Allows (execVsrch i d a b k' wm t) := h.issueVec

/-! ### `Exec` and `Step`: every command, and the step -/

/-- Whatever command runs, the state it answers evolves: one rule per row of the instruction set. -/
theorem State.Evolves.exec (h : s.Evolves t) (c : Instr) : s.Allows (exec c t) := by
  cases c with
  | identityCheck => exact h.execIdentityCheck
  | testLogicReset => exact h.execTestLogicReset
  | chainsel => exact h.execChainsel
  | laneDegrading => exact h.execLaneDegrading
  | laneRepairComplete => exact h.execLaneRepairComplete
  | spareUnusable => exact h.execSpareUnusable
  | forwardedClockFail => exact h.execForwardedClockFail
  | replayLimit => exact h.execReplayLimit
  | bridgeFlitCrcError => exact h.execBridgeFlitCrcError
  | bridgeRerouteComplete => exact h.execBridgeRerouteComplete
  | baseClockCopyFail => exact h.execBaseClockCopyFail
  | dieReset => exact h.execDieReset
  | missedHeartbeats => exact h.execMissedHeartbeats
  | dieRejoin => exact h.execDieRejoin
  | dieReadmit => exact h.execDieReadmit
  | handshakeWordWrite => exact h.execHandshakeWordWrite
  | handshakeWordArrive => exact h.execHandshakeWordArrive
  | handshakeWordRead => exact h.execHandshakeWordRead
  | refLost => exact h.execRefLost
  | holdoverSlew => exact h.execHoldoverSlew
  | refReturn => exact h.execRefReturn
  | clkBaseWrite => exact h.execClkBaseWrite
  | baseClockLocked => exact h.execBaseClockLocked
  | pllLossOfLock => exact h.execPllLossOfLock
  | clockRampStep => exact h.execClockRampStep
  | droopFire => exact h.execDroopFire
  | droopStretchRelease => exact h.execDroopStretchRelease
  | droopStretchEnd => exact h.execDroopStretchEnd
  | clockStopIdle => exact h.execClockStopIdle
  | clockStopForced => exact h.execClockStopForced
  | clkMtrStart => exact h.execClkMtrStart
  | clkMtrDone => exact h.execClkMtrDone
  | clkMtrAbort => exact h.execClkMtrAbort
  | lookoutClockSupervision => exact h.execLookoutClockSupervision
  | memoryRead => exact h.execMemoryRead
  | memoryWrite => exact h.execMemoryWrite
  | pageRebuildComplete => exact h.execPageRebuildComplete
  | narrowWrite => exact h.execNarrowWrite
  | mergeFlushAge => exact h.execMergeFlushAge
  | scrubWord => exact h.execScrubWord
  | memCntClr => exact h.execMemCntClr
  | memLogClear => exact h.execMemLogClear
  | engCtlStart => exact h.execEngCtlStart
  | engCtlStop => exact h.execEngCtlStop
  | clrFault => exact h.execClrFault
  | engStartWrite => exact h.execEngStartWrite
  | engSemaWrite => exact h.execEngSemaWrite
  | engStateAreaAccess => exact h.execEngStateAreaAccess
  | servicePortForce => exact h.execServicePortForce
  | streamInWord => exact h.execStreamInWord
  | streamOutWord => exact h.execStreamOutWord
  | engDmCmdWrite => exact h.execEngDmCmdWrite
  | dmCommandStart => exact h.execDmCommandStart
  | dmCommandComplete => exact h.execDmCommandComplete
  | dmResume => exact h.execDmResume
  | dmAbort => exact h.execDmAbort
  | watchdogFirstExpiry => exact h.execWatchdogFirstExpiry
  | watchdogHardStop => exact h.execWatchdogHardStop
  | engWdogKick => exact h.execEngWdogKick
  | lockBreak => exact h.execLockBreak
  | nop => exact h.execNop
  | add => exact h.execAdd
  | sub => exact h.execSub
  | and => exact h.execAnd
  | or => exact h.execOr
  | xor => exact h.execXor
  | shl => exact h.execShl
  | shr => exact h.execShr
  | sar => exact h.execSar
  | mul => exact h.execMul
  | mulh => exact h.execMulh
  | slt => exact h.execSlt
  | sltu => exact h.execSltu
  | min => exact h.execMin
  | max => exact h.execMax
  | addi => exact h.execAddi
  | andi => exact h.execAndi
  | ori => exact h.execOri
  | shli => exact h.execShli
  | shri => exact h.execShri
  | sari => exact h.execSari
  | li => exact h.execLi
  | lui => exact h.execLui
  | movtc => exact h.execMovtc
  | movfc => exact h.execMovfc
  | vext => exact h.execVext
  | vins => exact h.execVins
  | br => exact h.execBr
  | call => exact h.execCall
  | ret => exact h.execRet
  | rti => exact h.execRti
  | brk => exact h.execBrk
  | wdk => exact h.execWdk
  | loopi => exact h.execLoopi
  | loop => exact h.execLoop
  | lexit => exact h.execLexit
  | lock => exact h.execLock
  | unlk => exact h.execUnlk
  | dmpush => exact h.execDmpush
  | dmstat => exact h.execDmstat
  | sin => exact h.execSin
  | sout => exact h.execSout
  | vsin => exact h.execVsin
  | vsout => exact h.execVsout
  | bfopen => exact h.execBfopen
  | bfclose => exact h.execBfclose
  | mnop => exact h.execMnop
  | ldv => exact h.execLdv
  | stv => exact h.execStv
  | lds => exact h.execLds
  | sts => exact h.execSts
  | ldvb => exact h.execLdvb
  | staq => exact h.execStaq
  | moda => exact h.execModa
  | vnop => exact h.execVnop
  | vmov => exact h.execVmov
  | vaddq => exact h.execVaddq
  | vsubq => exact h.execVsubq
  | vmulq => exact h.execVmulq
  | vshq => exact h.execVshq
  | vabsq => exact h.execVabsq
  | vminq => exact h.execVminq
  | vmaxq => exact h.execVmaxq
  | vand => exact h.execVand
  | vor => exact h.execVor
  | vxor => exact h.execVxor
  | vaddi => exact h.execVaddi
  | vaddk => exact h.execVaddk
  | vbc => exact h.execVbc
  | vrot => exact h.execVrot
  | vidx => exact h.execVidx
  | mpyq => exact h.execMpyq
  | macq => exact h.execMacq
  | msuq => exact h.execMsuq
  | aldq => exact h.execAldq
  | aadd => exact h.execAadd
  | aclr => exact h.execAclr
  | amov => exact h.execAmov
  | aredq => exact h.execAredq
  | vaddf => exact h.execVaddf
  | vsubf => exact h.execVsubf
  | vmulf => exact h.execVmulf
  | vfmaf => exact h.execVfmaf
  | vfnmf => exact h.execVfnmf
  | vminf => exact h.execVminf
  | vmaxf => exact h.execVmaxf
  | vabsf => exact h.execVabsf
  | vnegf => exact h.execVnegf
  | vredf => exact h.execVredf
  | vcvtqf => exact h.execVcvtqf
  | vcvtfq => exact h.execVcvtfq
  | srinit => exact h.execSrinit
  | vsrch => exact h.execVsrch
  | vsred => exact h.execVsred
  | flitForward => exact h.execFlitForward
  | islandPortTxMessage => exact h.execIslandPortTxMessage
  | messageRelease => exact h.execMessageRelease
  | creditReturn => exact h.execCreditReturn
  | rd => exact h.execRd
  | wr => exact h.execWr
  | msg => exact h.execMsg
  | rdrsp => exact h.execRdrsp
  | wrack => exact h.execWrack
  | msgack => exact h.execMsgack
  | allocrsp => exact h.execAllocrsp
  | freersp => exact h.execFreersp
  | settle => exact h.execSettle
  | err => exact h.execErr
  | trailOpen => exact h.execTrailOpen
  | trailOpenResume => exact h.execTrailOpenResume
  | trailClose => exact h.execTrailClose
  | trailCloseComplete => exact h.execTrailCloseComplete
  | trailCloseTimeout => exact h.execTrailCloseTimeout
  | requestTimeout => exact h.execRequestTimeout
  | tagQuarantineEnd => exact h.execTagQuarantineEnd
  | drainComplete => exact h.execDrainComplete
  | drainTimeout => exact h.execDrainTimeout
  | trlTqSelWrite => exact h.execTrlTqSelWrite
  | trlLqSelWrite => exact h.execTrlLqSelWrite
  | trlPmapQWrite => exact h.execTrlPmapQWrite
  | trlCntClr => exact h.execTrlCntClr
  | ctxRegister => exact h.execCtxRegister
  | ctxUnregister => exact h.execCtxUnregister
  | ctxLoad => exact h.execCtxLoad
  | ctxEvict => exact h.execCtxEvict
  | ctxPin => exact h.execCtxPin
  | ctxUnpin => exact h.execCtxUnpin
  | ctxPolicy => exact h.execCtxPolicy
  | ctxClock => exact h.execCtxClock
  | queuedLoadStart => exact h.execQueuedLoadStart
  | qack => exact h.execQack
  | quiesceTimeout => exact h.execQuiesceTimeout
  | readbackComplete => exact h.execReadbackComplete
  | islandLoadComplete => exact h.execIslandLoadComplete
  | contextRelease => exact h.execContextRelease
  | configPortJobStart => exact h.execConfigPortJobStart
  | rejoinWaitExpiry => exact h.execRejoinWaitExpiry
  | alloc => exact h.execAlloc
  | free => exact h.execFree
  | map => exact h.execMap
  | unmap => exact h.execUnmap
  | pagePolicy => exact h.execPagePolicy
  | pageMigrationComplete => exact h.execPageMigrationComplete
  | swbCtxSelWrite => exact h.execSwbCtxSelWrite
  | swbCntClr => exact h.execSwbCntClr
  | hbmRequestIssue => exact h.execHbmRequestIssue
  | requestPromotion => exact h.execRequestPromotion
  | writeBatchStart => exact h.execWriteBatchStart
  | perBankRefresh => exact h.execPerBankRefresh
  | hbmTempRead => exact h.execHbmTempRead
  | periodicTrainingStep => exact h.execPeriodicTrainingStep
  | hbmTrainingComplete => exact h.execHbmTrainingComplete
  | hbmCaParityError => exact h.execHbmCaParityError
  | hbmWriteParityError => exact h.execHbmWriteParityError
  | hbmReadParityError => exact h.execHbmReadParityError
  | hbmLogClear => exact h.execHbmLogClear
  | hbmPcReq => exact h.execHbmPcReq
  | pcRetireComplete => exact h.execPcRetireComplete
  | keyLoad => exact h.execKeyLoad
  | keyZero => exact h.execKeyZero
  | rangeEnable => exact h.execRangeEnable
  | rekey => exact h.execRekey
  | rangeDisable => exact h.execRangeDisable
  | rangeMode => exact h.execRangeMode
  | conversionStart => exact h.execConversionStart
  | conversionComplete => exact h.execConversionComplete
  | tagVerdict => exact h.execTagVerdict
  | areteKeyUpdate => exact h.execAreteKeyUpdate
  | areteOldKeyExpiry => exact h.execAreteOldKeyExpiry
  | ideCheckFail => exact h.execIdeCheckFail
  | keySetGo => exact h.execKeySetGo
  | perstN => exact h.execPerstN
  | hotReset => exact h.execHotReset
  | d3hot => exact h.execD3hot
  | d3cold => exact h.execD3cold
  | returnToD0 => exact h.execReturnToD0
  | pcieLinkDown => exact h.execPcieLinkDown
  | pcieLinkUp => exact h.execPcieLinkUp
  | pcieCompletion => exact h.execPcieCompletion
  | pcieCompletionTimeout => exact h.execPcieCompletionTimeout
  | bar4Read => exact h.execBar4Read
  | bar4Write => exact h.execBar4Write
  | ringDoorbell => exact h.execRingDoorbell
  | ringEnable => exact h.execRingEnable
  | ringDisable => exact h.execRingDisable
  | ringStopComplete => exact h.execRingStopComplete
  | ringResume => exact h.execRingResume
  | ringFlush => exact h.execRingFlush
  | descriptorFetch => exact h.execDescriptorFetch
  | descriptorReadComplete => exact h.execDescriptorReadComplete
  | nopDescriptor => exact h.execNopDescriptor
  | copy => exact h.execCopy
  | fill => exact h.execFill
  | gather => exact h.execGather
  | streamOut => exact h.execStreamOut
  | streamIn => exact h.execStreamIn
  | dataDescriptorComplete => exact h.execDataDescriptorComplete
  | mbx => exact h.execMbx
  | eqEnable => exact h.execEqEnable
  | eqDisable => exact h.execEqDisable
  | eqHeadDoorbell => exact h.execEqHeadDoorbell
  | eventRecordWrite => exact h.execEventRecordWrite
  | eqModerationTimer => exact h.execEqModerationTimer
  | hifTbSet => exact h.execHifTbSet
  | ptmRequest => exact h.execPtmRequest
  | ptmResponse => exact h.execPtmResponse
  | ptmResponseTimeout => exact h.execPtmResponseTimeout
  | hifCntClr => exact h.execHifCntClr
  | registerWrite => exact h.execRegisterWrite
  | progNLow => exact h.execProgNLow
  | progNRise => exact h.execProgNRise
  | cfgReconf => exact h.execCfgReconf
  | configAttempt => exact h.execConfigAttempt
  | configSegment => unfold Machine.exec; exact h.execConfigSegment
  | trailerCheck => exact h.execTrailerCheck
  | configIdleTimeout => exact h.execConfigIdleTimeout
  | startupLock => exact h.execStartupLock
  | startupLockTimeout => exact h.execStartupLockTimeout
  | startupGsr => exact h.execStartupGsr
  | startupWe => exact h.execStartupWe
  | startupOut => exact h.execStartupOut
  | doneRelease => exact h.execDoneRelease
  | bootContextReload => exact h.execBootContextReload
  | bootReloadComplete => exact h.execBootReloadComplete
  | frameSweepCheck => exact h.execFrameSweepCheck
  | quadPllLossOfLock => exact h.execQuadPllLossOfLock
  | iobQpllWrite => exact h.execIobQpllWrite
  | iobLaneCfgWrite => exact h.execIobLaneCfgWrite
  | rawUnderrun => exact h.execRawUnderrun
  | rawReceive => exact h.execRawReceive
  | ethFrameReceive => exact h.execEthFrameReceive
  | ethLinkStateChange => exact h.execEthLinkStateChange
  | jesdReceive => exact h.execJesdReceive
  | jesdUnderrun => exact h.execJesdUnderrun
  | sysref => exact h.execSysref
  | extendedMultiblockLockLoss => exact h.execExtendedMultiblockLockLoss
  | lossOfSignal => exact h.execLossOfSignal
  | vccioMonitor => exact h.execVccioMonitor
  | bankPllLossOfLock => exact h.execBankPllLossOfLock
  | bankPllRelock => exact h.execBankPllRelock
  | ptpPortChange => exact h.execPtpPortChange
  | budgetUpdate => exact h.execBudgetUpdate
  | currentSample => exact h.execCurrentSample
  | throttleTighten => exact h.execThrottleTighten
  | throttleRelax => exact h.execThrottleRelax
  | temperatureSample => exact h.execTemperatureSample
  | currentChangeAdmit => exact h.execCurrentChangeAdmit
  | droopPersists => exact h.execDroopPersists
  | railSample => exact h.execRailSample
  | busSample => exact h.execBusSample
  | busSagEnter => exact h.execBusSagEnter
  | busSagExit => exact h.execBusSagExit
  | busSwellTimer => exact h.execBusSwellTimer
  | busFail => exact h.execBusFail
  | pwrfailNFall => exact h.execPwrfailNFall
  | pwrRungRequest => exact h.execPwrRungRequest
  | pwrDieRungRequest => exact h.execPwrDieRungRequest
  | rungTransitionStart => exact h.execRungTransitionStart
  | rungEntryComplete => exact h.execRungEntryComplete
  | rungExitComplete => exact h.execRungExitComplete
  | pwrWakeExpiry => exact h.execPwrWakeExpiry
  | bar0WakeRead => exact h.execBar0WakeRead
  | pwrBusStatClr => exact h.execPwrBusStatClr
  | pwrCntClr => exact h.execPwrCntClr
  | lookoutFirmwareLoad => exact h.execLookoutFirmwareLoad
  | lkoWatchdogExpiry => exact h.execLkoWatchdogExpiry
  | lookoutTrap => exact h.execLookoutTrap
  | mgtCtlRestart => exact h.execMgtCtlRestart
  | lookoutRestartComplete => exact h.execLookoutRestartComplete
  | logFlashCopy => exact h.execLogFlashCopy
  | getInfo => exact h.execGetInfo
  | getSensors => exact h.execGetSensors
  | readLog => exact h.execReadLog
  | laneHealth => exact h.execLaneHealth
  | getCfgAttempts => exact h.execGetCfgAttempts
  | updateBegin => exact h.execUpdateBegin
  | updateData => exact h.execUpdateData
  | updateEnd => exact h.execUpdateEnd
  | slotActivate => exact h.execSlotActivate
  | arbAdvance => exact h.execArbAdvance
  | lkoRestart => exact h.execLkoRestart
  | fltClear => exact h.execFltClear
  | spdm => exact h.execSpdm
  | ptpCfg => exact h.execPtpCfg
  | hbmPcClear => exact h.execHbmPcClear
  | fuseProgram => exact h.execFuseProgram
  | setKwk => exact h.execSetKwk
  | mgtMbxTxPush => exact h.execMgtMbxTxPush
  | mgtMbxRxPop => exact h.execMgtMbxRxPop
  | ringTokenTimeout => exact h.execRingTokenTimeout
  | cairnMessage => exact h.execCairnMessage
  | dieResetRelease => exact h.execDieResetRelease
  | safeReqNLow => exact h.execSafeReqNLow
  | safeReqNRise => exact h.execSafeReqNRise
  | fltStatClear => exact h.execFltStatClear
  | fltInjGo => exact h.execFltInjGo
  | fltCntClr => exact h.execFltCntClr
  | twnPair => exact h.execTwnPair
  | hello => exact h.execHello
  | helloTimeout => exact h.execHelloTimeout
  | pairingComplete => exact h.execPairingComplete
  | twnUnpair => exact h.execTwnUnpair
  | mirrorAdd => exact h.execMirrorAdd
  | mirrorRemove => exact h.execMirrorRemove
  | ckptSet => exact h.execCkptSet
  | takeover => exact h.execTakeover
  | versionSet => exact h.execVersionSet
  | promote => exact h.execPromote
  | heartbeat => exact h.execHeartbeat
  | partnerHeartbeatTimeout => exact h.execPartnerHeartbeatTimeout
  | notice => exact h.execNotice
  | mirrorWr => exact h.execMirrorWr
  | ack => exact h.execAck
  | nak => exact h.execNak
  | ckpt => exact h.execCkpt
  | key => exact h.execKey
  | mirrorSweepComplete => exact h.execMirrorSweepComplete
  | checkpointInterval => exact h.execCheckpointInterval
  | checkpointReadbackComplete => exact h.execCheckpointReadbackComplete
  | promotionComplete => exact h.execPromotionComplete
  | bstRun => exact h.execBstRun
  | bstAbort => exact h.execBstAbort
  | bstSaddle => exact h.execBstSaddle
  | bstOffline => exact h.execBstOffline
  | bstOnline => exact h.execBstOnline
  | bstIsolationComplete => exact h.execBstIsolationComplete
  | bstTestComplete => exact h.execBstTestComplete
  | bstSaddleComplete => exact h.execBstSaddleComplete
  | bstUnitSelWrite => exact h.execBstUnitSelWrite
  | dbgregUpdateDr => exact h.execDbgregUpdateDr
  | challenge => exact h.execChallenge
  | respond => exact h.execRespond
  | password => exact h.execPassword
  | nonceExpiry => exact h.execNonceExpiry
  | dbgLock => exact h.execDbgLock
  | attach => exact h.execAttach
  | accessPortGo => exact h.execAccessPortGo
  | accessPortComplete => exact h.execAccessPortComplete
  | engDbgHalt => exact h.execEngDbgHalt
  | engDbgStep => exact h.execEngDbgStep
  | engDbgResume => exact h.execEngDbgResume
  | haltDeferExpiry => exact h.execHaltDeferExpiry
  | lkoHalt => exact h.execLkoHalt
  | lkoStep => exact h.execLkoStep
  | lkoResume => exact h.execLkoResume
  | lkoBreakpointHit => exact h.execLkoBreakpointHit
  | engDbgRxPop => exact h.execEngDbgRxPop
  | engDbgRxack => exact h.execEngDbgRxack
  | engDbgWr => exact h.execEngDbgWr
  | traceEnable => exact h.execTraceEnable
  | tracePacketWrite => exact h.execTracePacketWrite
  | lineConversion => exact h.execLineConversion
  | perstNRelease => exact h.execPerstNRelease
  | vauxRemoval => exact h.execVauxRemoval
  | quadPllRelock => exact h.execQuadPllRelock
  | privilegedPllRelock => exact h.execPrivilegedPllRelock
  | extendedMultiblockLockGain => exact h.execExtendedMultiblockLockGain
  | mctpMessage => exact h.execMctpMessage
  | islandClockEdge => exact h.execIslandClockEdge
  | twnCkptSelWrite => exact h.execTwnCkptSelWrite
  | twnCntClr => exact h.execTwnCntClr

/-- A step is a nanosecond of idling, or the command at the front of the queue run with the queue's rest. -/
theorem State.evolves_of_step (e : step s = .next t) : s.Evolves t := by
  unfold step at e
  split at e
  · cases e; exact (State.Evolves.refl s).tick
  · next c rest _ =>
    have h : s.Evolves { s with pending := rest } := (State.Evolves.refl s).elsewhere
    exact h.exec c t e

/-- Settles O59: a step evolves its state, and the canonical form is part of what that keeps. -/
theorem canonicalKept : Obligations.CanonicalKept := by
  unfold Obligations.CanonicalKept
  exact fun s t form e => (State.evolves_of_step e).form form

end Sys2Proof.Machine
end

section
/-!
SUPPORT. What a statement `Gives` says of the state that a command answers, and how it is shown.
-/

namespace Sys2Proof.Machine

variable {c : Instr} {s t : State} {P : State → Prop}

/-- A command that answers a next state with the property gives it. -/
theorem Gives.intro (e : exec c s = .next t) (p : P t) : Gives c s P := ⟨t, e, p⟩

/-- What a command gives holds of the state that it leaves. -/
theorem Gives.landed (g : Gives c s P) : P (landed s (exec c s)) := by
  obtain ⟨t, e, p⟩ := g
  rw [e]
  exact p

/-- A command whose moment is due answers what it leaves. -/
theorem Gives.due {b : Bool} (e : exec c s = whenDue b s t) (h : b = true) (p : P t) : Gives c s P :=
  ⟨t, by rw [e, whenDue, if_pos h], p⟩

/-- One whose moment is not due leaves the state as it is. -/
theorem Gives.notDue {b : Bool} (e : exec c s = whenDue b s t) (h : b = false) (p : P s) : Gives c s P :=
  ⟨s, by rw [e, whenDue, h]; rfl, p⟩

end Sys2Proof.Machine
end

section
/-!
What a reaction P leaves (O49): a context whose record names a die that the package does not have.
-/

namespace Sys2Proof.Machine

/-- A message of kind 1 waits for Cairn, whose reaction to it is P alone; context 0 is recorded as placed on die 2034, so that the
status register of its island 130177 would stand where the kind's counter does, at 0xA0204. -/
def strayContext : State :=
  { State.reset.put (FLT_KIND_CFG.REACT 1) 0x10 with
    inbox := [{ kind := 1, source := 0, sev := 0, addr := 0 }]
    swb := { ctxs := [(0, { placed := true, die := 2034, ax := 1 })] } }

/-- The park empties the context's islands, and the kind's counter does not read 1 after it. -/
theorem strayContext_count :
    (landed strayContext (exec (.cairnMessage true 0) strayContext)).get (FLT_KIND_CNT.COUNT 1) = 0xFFC0001 := by
  decide +kernel

/-- Refutes O49: a park writes the status of a parked context's islands, and nothing in the statement keeps their die below 4. -/
theorem not_cairnReactions : ¬ Obligations.CairnReactions := by
  unfold Obligations.CairnReactions
  intro h
  obtain ⟨takes, -⟩ := h strayContext (State.regsWf_put _ _ (rfl : State.reset.regsWf))
  obtain ⟨-, -, -, park, -⟩ := takes { kind := 1, source := 0, sev := 0, addr := 0 } [] 0 rfl (by decide) (by decide) (by decide)
  obtain ⟨-, -, -, count⟩ := (park (by decide +kernel) (by decide +kernel)).landed
  exact absurd (strayContext_count.symm.trans count) (by decide +kernel)

end Sys2Proof.Machine
end

section
/-!
What an ISLAND segment leaves (O41): a table of engines that does not stand in canonical form.
-/

namespace Sys2Proof.Machine

/-- The header of an ISLAND segment without payload, for island 5 of die 0 and boot context 0. -/
def islandHeader : List Byte := [3, 0, 5] ++ List.replicate 29 0

/-- The segments of die 0's islands are due. The table of engines lists engine 5 before engine 3, so that engine 3 reads as
after reset until the entry before it goes. -/
def unsortedEngines : State :=
  { State.reset with
    engines := [(5, { state := 1 }), (3, { state := 1 })]
    cfg := { phase := 2, next := 2, pos := 128, total := 1000 } }

/-- The segment puts engine 5 back to its value after reset, which takes its entry off the table: engine 3 reads as STOPPED. -/
theorem unsortedEngines_eng :
    (landed unsortedEngines (exec (.configSegment islandHeader [] {}) unsortedEngines)).eng 3 = { state := 1 } := by
  decide +kernel

/-- Refutes O41: nothing in the statement puts the table of engines in canonical form, as it does the table of islands, and a write
of one engine then changes what another reads as. -/
theorem not_configurationAttempts : ¬ Obligations.ConfigurationAttempts := by
  unfold Obligations.ConfigurationAttempts
  intro h
  obtain ⟨-, -, -, -, -, -, -, segments, -⟩ := h unsortedEngines rfl
  obtain ⟨-, -, -, -, -, placed, -⟩ := segments rfl (by decide) islandHeader [] {} (by decide +kernel)
  obtain ⟨-, unpacked⟩ := placed (by decide +kernel) (by decide +kernel) (by decide +kernel)
  obtain ⟨-, -, -, -, island⟩ := unpacked [] (by decide +kernel)
  obtain ⟨-, -, -, -, -, -, -, others, -⟩ := (island (by decide +kernel) (by decide +kernel) rfl).landed
  exact absurd (unsortedEngines_eng.symm.trans (others 3 (by decide +kernel)).2) (by decide +kernel)

end Sys2Proof.Machine
end

section
/-!
SUPPORT. What leaves the package's dies and bridges as they are (chapter 1): one rewriting rule for each operation of the model.
-/

namespace Sys2Proof.Machine

variable {s t : State}

@[simp] theorem State.forN_pkg {n : Nat} {f : Nat → State → State} (hf : ∀ k x, (f k x).pkg = x.pkg) : (s.forN n f).pkg = s.pkg := by
  induction n with
  | zero => rfl
  | succ n ih => exact (hf n _).trans ih

@[simp] theorem State.forAll_pkg {α : Type} {l : List α} {f : α → State → State} (hf : ∀ a x, (f a x).pkg = x.pkg) :
    (s.forAll l f).pkg = s.pkg := by
  induction l generalizing s with
  | nil => rfl
  | cons a l ih => exact ih.trans (hf a s)

@[simp] theorem State.foldl_pkg {α : Type} {l : List α} {f : State → α → State} (hf : ∀ x a, (f x a).pkg = x.pkg) :
    (l.foldl f s).pkg = s.pkg := by
  induction l generalizing s with
  | nil => rfl
  | cons a l ih => exact ih.trans (hf s a)

@[simp] theorem State.ite_pkg {c : Prop} [Decidable c] : (if c then s else t).pkg = if c then s.pkg else t.pkg := apply_ite ..


@[simp] theorem State.queueEvent_pkg {q code a0 a1} : (s.queueEvent q code a0 a1).pkg = s.pkg := by
  simp [State.queueEvent]

@[simp] theorem State.postResult_pkg {code a0 a1 result} : (s.postResult code a0 a1 result).pkg = s.pkg := by
  simp [State.postResult]

@[simp] theorem State.post_pkg {code a0 a1} : (s.post code a0 a1).pkg = s.pkg := by
  simp [State.post]

@[simp] theorem State.postCompletion_pkg {d status result arg} : (s.postCompletion d status result arg).pkg = s.pkg := by
  simp [State.postCompletion]

@[simp] theorem State.placeTrail_pkg {t' a b r} : (s.placeTrail t' a b r).pkg = s.pkg := by
  simp [State.placeTrail]

@[simp] theorem State.nextSeq_pkg {t'} : (s.nextSeq t').pkg = s.pkg := rfl

@[simp] theorem State.refreshTrails_pkg : s.refreshTrails.pkg = s.pkg := rfl

@[simp] theorem State.demote_pkg {t' cause} : (s.demote t' cause).pkg = s.pkg := by
  simp [State.demote]

@[simp] theorem State.readmit_pkg {t' a b cause} : (s.readmit t' a b cause).pkg = s.pkg := by
  unfold State.readmit
  dsimp only
  split <;> simp

@[simp] theorem State.leaveBorders_pkg {i} : (s.leaveBorders i).pkg = s.pkg := by
  unfold State.leaveBorders
  refine (State.modIsland_pkg ..).trans (State.forN_pkg fun k x => ?_)
  dsimp only
  split <;> rfl

@[simp] theorem State.logAdd_pkg {typ info} : (s.logAdd typ info).pkg = s.pkg := rfl

@[simp] theorem State.setRunning_pkg {i k' b} : (s.setRunning i k' b).pkg = s.pkg := rfl

@[simp] theorem State.rampStep_pkg {i k'} : (s.rampStep i k').pkg = s.pkg := by
  simp [State.rampStep]

@[simp] theorem State.showRamp_pkg {i k'} : (s.showRamp i k').pkg = s.pkg := rfl

@[simp] theorem State.retarget_pkg {i k'} : (s.retarget i k').pkg = s.pkg := by
  simp [State.retarget]

@[simp] theorem State.startClock_pkg {i k'} : (s.startClock i k').pkg = s.pkg := by
  simp [State.startClock]

@[simp] theorem State.stopClock_pkg {i k'} : (s.stopClock i k').pkg = s.pkg := rfl

@[simp] theorem State.haltClocks_pkg {i} : (s.haltClocks i).pkg = s.pkg := rfl

@[simp] theorem State.applySetting_pkg {i w} : (s.applySetting i w).pkg = s.pkg := by
  simp [State.applySetting]

@[simp] theorem State.gateClocks_pkg {i rung} : (s.gateClocks i rung).pkg = s.pkg := by
  simp [State.gateClocks]

@[simp] theorem State.showBank_pkg {b} : (s.showBank b).pkg = s.pkg := rfl

@[simp] theorem State.showBanks_pkg : s.showBanks.pkg = s.pkg := State.forN_pkg fun _ _ => rfl

@[simp] theorem State.bankFence_pkg {i} : (s.bankFence i).pkg = s.pkg := by
  unfold State.bankFence
  split <;> rfl

@[simp] theorem State.banksDefault_pkg {d} : (s.banksDefault d).pkg = s.pkg := State.forN_pkg fun _ _ => rfl

@[simp] theorem State.hbmLog_pkg {kind p dpa} : (s.hbmLog kind p dpa).pkg = s.pkg := by
  simp [State.hbmLog]

@[simp] theorem State.retirePc_pkg {p} : (s.retirePc p).pkg = s.pkg := by
  simp [State.retirePc]

@[simp] theorem State.hbmUe_pkg {kind dpa} : (s.hbmUe kind dpa).pkg = s.pkg := by
  simp [State.hbmUe]

@[simp] theorem State.setByte_pkg {a b} : (s.setByte a b).pkg = s.pkg := rfl

@[simp] theorem State.setBytes_pkg {a bs} : (s.setBytes a bs).pkg = s.pkg := by
  induction bs generalizing s a with
  | nil => rfl
  | cons b bs ih => exact ih

@[simp] theorem State.setRawWord_pkg {w v} : (s.setRawWord w v).pkg = s.pkg := rfl

@[simp] theorem State.setCheck_pkg {w c} : (s.setCheck w c).pkg = s.pkg := rfl

@[simp] theorem State.storeWord_pkg {w v} : (s.storeWord w v).pkg = s.pkg := rfl

@[simp] theorem State.setGuard_pkg {k' p q} : (s.setGuard k' p q).pkg = s.pkg := rfl

@[simp] theorem State.reguard_pkg {r} : (s.reguard r).pkg = s.pkg := rfl

@[simp] theorem State.ceCross_pkg {s0 c} : (State.ceCross s0 s c).pkg = s.pkg := by
  simp [State.ceCross]

@[simp] theorem State.logLost_pkg {t'} : (s.logLost t').pkg = s.pkg := by
  simp [State.logLost]

@[simp] theorem State.logEvent_pkg {r w kind syn scrub} : (s.logEvent r w kind syn scrub).pkg = s.pkg := by
  unfold State.logEvent
  simp only [State.ite_pkg, State.logLost_pkg]
  split
  · rfl
  · split <;> simp

@[simp] theorem State.corrected_pkg {r w kind syn scrub} : (s.corrected r w kind syn scrub).pkg = s.pkg := by
  simp [State.corrected]

@[simp] theorem State.guarded_pkg {r w kind scrub} : (s.guarded r w kind scrub).pkg = s.pkg := by
  simp [State.guarded]

@[simp] theorem State.uncorrectable_pkg {r w} : (s.uncorrectable r w).pkg = s.pkg := by
  simp [State.uncorrectable]

@[simp] theorem State.countWord_pkg {r w k' scrub} : (s.countWord r w k' scrub).pkg = s.pkg := by
  unfold State.countWord
  split <;> simp

@[simp] theorem State.countGuard_pkg {r scrub} : (s.countGuard r scrub).pkg = s.pkg := by
  simp [State.countGuard]

@[simp] theorem State.countSet_pkg {r skip scrub} : (s.countSet r skip scrub).pkg = s.pkg := by
  simp [State.countSet]

@[simp] theorem State.rebuildSet_pkg {r scrub} : (s.rebuildSet r scrub).1.pkg = s.pkg := by
  unfold State.rebuildSet
  split <;> simp

@[simp] theorem State.readStored_pkg {r w scrub} : (s.readStored r w scrub).2.2.pkg = s.pkg := by
  unfold State.readStored
  split
  · rfl
  · simp
  · simp
  · dsimp only
    split <;> simp

@[simp] theorem State.readCode_pkg {r w scrub} : (s.readCode r w scrub).2.2.pkg = s.pkg := by
  unfold State.readCode
  dsimp only
  split
  · rfl
  · split
    · split <;> simp
    · simp

@[simp] theorem State.writeCode_pkg {r w v told} : (s.writeCode r w v told).pkg = s.pkg := by
  simp [State.writeCode]

@[simp] theorem State.setMergeList_pkg {unit l} : (s.setMergeList unit l).pkg = s.pkg := rfl

@[simp] theorem State.flushEntry_pkg {r e'} : (s.flushEntry r e').pkg = s.pkg := by
  simp [State.flushEntry]

@[simp] theorem State.flushWord_pkg {r w} : (s.flushWord r w).pkg = s.pkg := by
  unfold State.flushWord
  split <;> simp

@[simp] theorem State.narrowWrite_pkg {r w v mask} : (s.narrowWrite r w v mask).pkg = s.pkg := by
  unfold State.narrowWrite
  dsimp only
  split
  · simp
  · simp only [State.setMergeList_pkg, State.ite_pkg, ite_eq_right_iff]
    intro _
    split <;> simp

@[simp] theorem State.fullWrite_pkg {r w v} : (s.fullWrite r w v).pkg = s.pkg := by
  simp [State.fullWrite]

@[simp] theorem State.readWord_pkg {r w scrub} : (s.readWord r w scrub).2.2.pkg = s.pkg := by
  unfold State.readWord
  dsimp only
  split <;> simp

@[simp] theorem State.loadWord_pkg {w} : (s.loadWord w).2.2.pkg = s.pkg := by
  unfold State.loadWord
  split
  · split <;> simp
  · rfl

@[simp] theorem State.maskWrite_pkg {w v mask} : (s.maskWrite w v mask).pkg = s.pkg := by
  unfold State.maskWrite
  split <;> simp

@[simp] theorem State.loadWords_pkg {w n} : (s.loadWords w n).2.2.pkg = s.pkg := by
  induction n generalizing s w with
  | zero => rfl
  | succ n ih => simp [State.loadWords, ih]

@[simp] theorem State.load_pkg {a len} : (s.load a len).2.2.pkg = s.pkg := by
  unfold State.load
  split <;> simp

@[simp] theorem State.storeN_pkg {a bs n} : (s.storeN a bs n).pkg = s.pkg := by
  induction n generalizing s a bs with
  | zero => rfl
  | succ n ih =>
    unfold State.storeN
    split <;> simp [ih]

@[simp] theorem State.store_pkg {a bs} : (s.store a bs).pkg = s.pkg := by
  simp [State.store]

@[simp] theorem State.zeroRange_pkg {a len} : (s.zeroRange a len).pkg = s.pkg := rfl

@[simp] theorem State.tracePkt_pkg {p} : (s.tracePkt p).pkg = s.pkg := by
  simp [State.tracePkt]

@[simp] theorem State.haltNow_pkg {i why hit pc} : (s.haltNow i why hit pc).pkg = s.pkg := by
  simp [State.haltNow]

@[simp] theorem State.halt_pkg {i why hit pc} : (s.halt i why hit pc).pkg = s.pkg := by
  simp [State.halt]

@[simp] theorem State.serveAll_pkg {i pkt l} : (s.serveAll i pkt l).1.pkg = s.pkg := by
  induction l generalizing s with
  | nil => rfl
  | cons k ks ih => simp [State.serveAll, ih]

@[simp] theorem State.watches_pkg {i svc l} : (s.watches i svc l).1.pkg = s.pkg := by
  simp [State.watches]

@[simp] theorem State.setSlots_pkg {r l} : (s.setSlots r l).pkg = s.pkg := rfl

@[simp] theorem State.setRingState_pkg {r st} : (s.setRingState r st).pkg = s.pkg := rfl

@[simp] theorem State.retire_pkg {r n} : (s.retire r n).pkg = s.pkg := by
  induction n generalizing s with
  | zero => rfl
  | succ n ih =>
    unfold State.retire
    split
    · split <;> simp [ih]
    · rfl

@[simp] theorem State.complDesc_pkg {d status result arg} : (s.complDesc d status result arg).pkg = s.pkg := by
  simp [State.complDesc]

@[simp] theorem State.dropBad_pkg {r n} : (s.dropBad r n).pkg = s.pkg := by
  induction n generalizing s with
  | zero => rfl
  | succ n ih =>
    unfold State.dropBad
    split <;> simp [ih]

@[simp] theorem State.endDesc_pkg {d status result arg} : (s.endDesc d status result arg).pkg = s.pkg := by
  simp [State.endDesc]

@[simp] theorem State.opDone_pkg {d code arg} : (s.opDone d code arg).pkg = s.pkg := by
  simp [State.opDone]

@[simp] theorem State.errCount_pkg {code} : (s.errCount code).pkg = s.pkg := by
  simp [State.errCount]

@[simp] theorem State.record_pkg {who m} : (s.record who m).pkg = s.pkg := rfl

@[simp] theorem State.accept_pkg {who m} : (s.accept who m).pkg = s.pkg := rfl

@[simp] theorem State.setJob_pkg {d j} : (s.setJob d j).pkg = s.pkg := rfl

@[simp] theorem State.jobGo_pkg {d j} : (s.jobGo d j).pkg = s.pkg := by
  unfold State.jobGo
  split
  · rfl
  · split <;> simp

@[simp] theorem State.blur_pkg {wild a bs} : (s.blur wild a bs).2.pkg = s.pkg := by
  induction bs generalizing s a with
  | nil => rfl
  | cons b bs ih => simp [State.blur, ih]

@[simp] theorem State.jobReply_pkg {r} : (s.jobReply r).pkg = s.pkg := by
  unfold State.jobReply
  split <;> simp

@[simp] theorem State.unitReply_pkg {v r} : (s.unitReply v r).pkg = s.pkg := by
  simp [State.unitReply]

@[simp] theorem State.late_pkg : s.late.pkg = s.pkg := rfl

@[simp] theorem State.toPort_pkg {i p m} : (s.toPort i p m).pkg = s.pkg := rfl

@[simp] theorem State.svcTouch_pkg {i l} : (s.svcTouch i l).pkg = s.pkg := by
  unfold State.svcTouch
  dsimp only
  split <;> simp

@[simp] theorem State.modChan_pkg {i c f} : (s.modChan i c f).pkg = s.pkg := rfl

@[simp] theorem State.dmHalt_pkg {i c err code} : (s.dmHalt i c err code).pkg = s.pkg := by
  simp [State.dmHalt]

@[simp] theorem State.dmStore_pkg {i c l} : (s.dmStore i c l).pkg = s.pkg := by
  simp [State.dmStore]

@[simp] theorem State.dmFailed_pkg {i c err code} : (s.dmFailed i c err code).pkg = s.pkg := by
  simp [State.dmFailed]

@[simp] theorem State.dmAnswer_pkg {i c status data} : (s.dmAnswer i c status data).pkg = s.pkg := by
  simp [State.dmAnswer]

@[simp] theorem State.freeTag_pkg {tag} : (s.freeTag tag).pkg = s.pkg := rfl

@[simp] theorem State.complete_pkg {r} : (s.complete r).pkg = s.pkg := by
  unfold State.complete
  dsimp only
  split
  · rfl
  · split
    · split <;> simp
    · split
      · split <;> simp
      · split <;> simp

@[simp] theorem State.failTag_pkg {m status} : (s.failTag m status).pkg = s.pkg := by
  simp [State.failTag]

@[simp] theorem State.failHeld_pkg {p code} : (s.failHeld p code).pkg = s.pkg := by
  simp [State.failHeld]

@[simp] theorem State.closeTrail_pkg {t'} : (s.closeTrail t').pkg = s.pkg := by
  simp [State.closeTrail]

@[simp] theorem State.authAlarm_pkg {line trail} : (s.authAlarm line trail).pkg = s.pkg := by
  simp [State.authAlarm]

@[simp] theorem State.sealedRead_pkg {l} : (s.sealedRead l).2.pkg = s.pkg := by
  induction l generalizing s with
  | nil => rfl
  | cons x l ih =>
    obtain ⟨line, a, k⟩ := x
    refine ih.trans ?_
    split <;> simp

@[simp] theorem State.sealedWrite_pkg {trail bs l} : (s.sealedWrite trail bs l).2.pkg = s.pkg := by
  induction l generalizing s bs with
  | nil => rfl
  | cons x l ih =>
    obtain ⟨line, a, k⟩ := x
    refine ih.trans ?_
    dsimp only
    split
    · split
      · simp
      · repeat' split
        all_goals simp
    · simp

@[simp] theorem State.hostPut_pkg {a l} : (s.hostPut a l).pkg = s.pkg := rfl

@[simp] theorem State.hostWrite_pkg {trail feed bs l} : (s.hostWrite trail feed bs l).2.pkg = s.pkg := by
  induction l generalizing s feed bs with
  | nil => rfl
  | cons x l ih =>
    obtain ⟨line, a, k⟩ := x
    refine ih.trans ?_
    dsimp only
    split
    · repeat' split
      all_goals simp
    · simp

@[simp] theorem State.scrubRestart_pkg {d} : (s.scrubRestart d).pkg = s.pkg := rfl

@[simp] theorem State.storeRead_pkg {a n} : (s.storeRead a n).2.2.pkg = s.pkg := by
  unfold State.storeRead
  split <;> simp

@[simp] theorem State.storeWrite_pkg {a bs} : (s.storeWrite a bs).pkg = s.pkg := by
  simp [State.storeWrite]

@[simp] theorem State.readWords_pkg {l} : (s.readWords l).2.2.pkg = s.pkg := by
  induction l generalizing s with
  | nil => rfl
  | cons w l ih => simp [State.readWords, ih]

@[simp] theorem State.spanRead_pkg {a n} : (s.spanRead a n).2.2.pkg = s.pkg := by
  unfold State.spanRead
  split <;> simp

@[simp] theorem State.spanWrite_pkg {a n t'} : (s.spanWrite a n t').pkg = s.pkg := by
  simp [State.spanWrite]

@[simp] theorem State.modImage_pkg {c v f} : (s.modImage c v f).pkg = s.pkg := rfl

@[simp] theorem State.moveImage_pkg {r inStore a} : (s.moveImage r inStore a).pkg = s.pkg := by
  simp [State.moveImage]

theorem State.makeRoom_pkg {need n r} (e : s.makeRoom need n = some r) : r.2.pkg = s.pkg := by
  induction n generalizing s with
  | zero => cases e
  | succ n ih =>
    unfold State.makeRoom at e
    dsimp only at e
    split at e
    · cases e; rfl
    · split at e
      · cases e
      · split at e
        · cases e
        · simpa using ih e

@[simp] theorem State.fetchImage_pkg {c v} : (s.fetchImage c v).pkg = s.pkg := by
  unfold State.fetchImage
  simp only [State.modImage_pkg, State.onSwb_pkg]
  split
  · split
    · rfl
    · split
      · rename_i hr
        simpa using State.makeRoom_pkg hr
      · rfl
  · rfl

@[simp] theorem State.own_pkg {g' n who} : (s.own g' n who).pkg = s.pkg := rfl

@[simp] theorem State.freeFrame_pkg {loc a z} : (s.freeFrame loc a z).pkg = s.pkg := by
  simp [State.freeFrame]

@[simp] theorem State.zeroSealed_pkg {a n} : (s.zeroSealed a n).pkg = s.pkg := by
  simp [State.zeroSealed]

theorem State.placeTables_pkg {l} (e : s.placeTables l = some t) : t.pkg = s.pkg := by
  induction l generalizing s with
  | nil => cases e; rfl
  | cons k l ih =>
    unfold State.placeTables at e
    dsimp only at e
    split at e
    · cases e
    · simpa using ih e

@[simp] theorem State.writeEntries_pkg {want} : (s.writeEntries want).pkg = s.pkg := by
  simp [State.writeEntries]

theorem State.syncTables_pkg (e : s.syncTables = some t) : t.pkg = s.pkg := by
  unfold State.syncTables at e
  dsimp only at e
  split at e
  · cases e; rfl
  · split at e
    · cases e
    · rename_i hp
      cases e
      have h := State.placeTables_pkg hp
      simpa using h

@[simp] theorem State.syncMaps_pkg : s.syncMaps.pkg = s.pkg := by
  unfold State.syncMaps
  cases e : s.syncTables with
  | none => rfl
  | some t => exact State.syncTables_pkg e

@[simp] theorem State.showMaps_pkg : s.showMaps.pkg = s.pkg := by
  simp [State.showMaps]

@[simp] theorem State.countCtxs_pkg : s.countCtxs.pkg = s.pkg := rfl

@[simp] theorem State.reqDone_pkg {r code} : (s.reqDone r code).pkg = s.pkg := by
  unfold State.reqDone
  dsimp only
  split
  · split <;> simp
  · split <;> simp

@[simp] theorem State.retrail_pkg {cause t'} : (s.retrail cause t').pkg = s.pkg := by
  unfold State.retrail
  dsimp only
  simp only [State.ite_pkg]
  repeat' split
  all_goals simp

@[simp] theorem State.setEntries_pkg {c st cause} : (s.setEntries c st cause).pkg = s.pkg := by
  simp [State.setEntries]

@[simp] theorem State.failFlights_pkg {p code} : (s.failFlights p code).pkg = s.pkg := by
  simp [State.failFlights]

@[simp] theorem State.forget_pkg {is} : (s.forget is).pkg = s.pkg := rfl

@[simp] theorem State.showIsland_pkg {i st c k'} : (s.showIsland i st c k').pkg = s.pkg := rfl

@[simp] theorem State.clearMemories_pkg {i} : (s.clearMemories i).pkg = s.pkg := rfl

@[simp] theorem State.clearIsland_pkg {i} : (s.clearIsland i).pkg = s.pkg := rfl

@[simp] theorem State.addJob_pkg {j} : (s.addJob j).pkg = s.pkg := rfl

@[simp] theorem State.endJob_pkg {j} : (s.endJob j).pkg = s.pkg := rfl

@[simp] theorem State.beginLoad_pkg {r t'} : (s.beginLoad r t').pkg = s.pkg := by
  simp [State.beginLoad]

@[simp] theorem State.raiseQreq_pkg {c} : (s.raiseQreq c).pkg = s.pkg := by
  unfold State.raiseQreq
  dsimp only
  split
  · exact State.forAll_pkg fun _ _ => rfl
  · rfl

@[simp] theorem State.lowerQreq_pkg {c} : (s.lowerQreq c).pkg = s.pkg := State.forAll_pkg fun _ _ => rfl

@[simp] theorem State.unqueue_pkg {c} : (s.unqueue c).pkg = s.pkg := rfl

@[simp] theorem State.enqueue_pkg {r} : (s.enqueue r).pkg = s.pkg := rfl

@[simp] theorem State.releaseVictims_pkg {r} : (s.releaseVictims r).pkg = s.pkg := by
  simp [State.releaseVictims]

@[simp] theorem State.placeReq_pkg {r} : (s.placeReq r).pkg = s.pkg := by
  unfold State.placeReq
  dsimp only
  split <;> simp

@[simp] theorem State.victimGone_pkg {v} : (s.victimGone v).pkg = s.pkg := by
  unfold State.victimGone
  split
  · rfl
  · dsimp only
    split
    · rfl
    · split <;> simp

@[simp] theorem State.freeGranules_pkg {c} : (s.freeGranules c).pkg = s.pkg := rfl

@[simp] theorem State.dropSpace_pkg {c} : (s.dropSpace c).pkg = s.pkg := by
  simp [State.dropSpace]

@[simp] theorem State.dropContext_pkg {c} : (s.dropContext c).pkg = s.pkg := by
  simp [State.dropContext]

@[simp] theorem State.unregister_pkg {r code} : (s.unregister r code).pkg = s.pkg := by
  simp [State.unregister]

@[simp] theorem State.startEvict_pkg {r} : (s.startEvict r).pkg = s.pkg := by
  simp [State.startEvict]

@[simp] theorem State.cancelLoads_pkg {c} : (s.cancelLoads c).pkg = s.pkg := by
  simp [State.cancelLoads]

@[simp] theorem State.withdraw_pkg {c} : (s.withdraw c).pkg = s.pkg := rfl

@[simp] theorem State.applyPolicy_pkg {r} : (s.applyPolicy r).pkg = s.pkg := by
  unfold State.applyPolicy
  split <;> simp

@[simp] theorem State.applyClocks_pkg {r} : (s.applyClocks r).pkg = s.pkg := by
  unfold State.applyClocks
  split <;> simp

@[simp] theorem State.evictNamed_pkg {r} : (s.evictNamed r).pkg = s.pkg := by
  simp [State.evictNamed]

@[simp] theorem State.place_pkg {r} : (s.place r).pkg = s.pkg := by
  simp [State.place]

@[simp] theorem State.handle_pkg {r} : (s.handle r).pkg = s.pkg := by
  unfold State.handle
  dsimp only
  split <;> simp

@[simp] theorem State.takeUp_pkg {c n} : (s.takeUp c n).pkg = s.pkg := by
  induction n generalizing s with
  | zero => rfl
  | succ n ih =>
    unfold State.takeUp
    dsimp only
    split <;> simp [ih]

@[simp] theorem State.request_pkg {r} : (s.request r).pkg = s.pkg := by
  simp [State.request]

@[simp] theorem State.restoreLoad_pkg {c dieOnly} : (s.restoreLoad c dieOnly).pkg = s.pkg := by
  simp [State.restoreLoad]

@[simp] theorem State.followPolicy_pkg {c} : (s.followPolicy c).pkg = s.pkg := by
  simp [State.followPolicy]

@[simp] theorem State.loseLoad_pkg {d r} : (s.loseLoad d r).pkg = s.pkg := by
  simp [State.loseLoad]

@[simp] theorem State.loseCtx_pkg {c} : (s.loseCtx c).pkg = s.pkg := by
  unfold State.loseCtx
  extract_lets x swap is s1 s2 s3 s4 s5 s6 s7 s8
  have h1 : s1.pkg = s.pkg := State.forAll_pkg fun _ _ => by simp
  have h3 : s3.pkg = s.pkg := by simp [s3, s2, h1]
  clear_value s3 swap x
  have h4 : s4.pkg = s.pkg := by
    unfold s4
    split <;> simp [h3]
  have h6 : s6.pkg = s.pkg := by
    unfold s6 s5
    split <;> simp [h4]
  have h7 : s7.pkg = s.pkg := by
    unfold s7
    split
    · simp [h6]
    · exact h6
  have h8 : s8.pkg = s.pkg := by
    unfold s8
    split
    · rw [State.loseLoad_pkg]
      refine Eq.trans (State.foldl_pkg fun _ _ => ?_) h7
      rfl
    · simp [h7]
  simp [h8]

@[simp] theorem State.loseDieCtxs_pkg {d} : (s.loseDieCtxs d).pkg = s.pkg := by
  refine Eq.trans (State.forN_pkg fun _ _ => rfl) ?_
  exact State.forAll_pkg fun _ _ => State.loseCtx_pkg

@[simp] theorem State.retryQueue_pkg : s.retryQueue.pkg = s.pkg := by
  refine State.foldl_pkg fun x r => ?_
  split
  · split <;> simp
  · rfl

@[simp] theorem State.modCkpt_pkg {c f} : (s.modCkpt c f).pkg = s.pkg := rfl

@[simp] theorem State.endCkpt_pkg {c} : (s.endCkpt c).pkg = s.pkg := by
  unfold State.endCkpt
  dsimp only
  split
  · exact State.forAll_pkg fun _ _ => rfl
  · rfl

@[simp] theorem State.modPages_pkg {p f} : (s.modPages p f).pkg = s.pkg := rfl

@[simp] theorem State.abandonMigration_pkg {m} : (s.abandonMigration m).pkg = s.pkg := by
  simp [State.abandonMigration]

@[simp] theorem State.modUnit_pkg {u' f} : (s.modUnit u' f).pkg = s.pkg := rfl

@[simp] theorem State.showBst_pkg : s.showBst.pkg = s.pkg := rfl

@[simp] theorem State.zeroPc_pkg {p} : (s.zeroPc p).pkg = s.pkg := rfl

@[simp] theorem State.clearUnit_pkg {u'} : (s.clearUnit u').pkg = s.pkg := by
  unfold State.clearUnit
  split <;> rfl

@[simp] theorem State.unitBack_pkg {u'} : (s.unitBack u').pkg = s.pkg := by
  unfold State.unitBack
  dsimp only
  split <;> simp

@[simp] theorem State.unitSpared_pkg {u'} : (s.unitSpared u').pkg = s.pkg := by
  unfold State.unitSpared
  dsimp only
  split <;> simp

@[simp] theorem State.unitOff_pkg {u'} : (s.unitOff u').pkg = s.pkg := by
  simp [State.unitOff]

@[simp] theorem State.testEnded_pkg {t' result sig} : (s.testEnded t' result sig).pkg = s.pkg := by
  simp [State.testEnded]

@[simp] theorem State.dropTest_pkg {t'} : (s.dropTest t').pkg = s.pkg := rfl

@[simp] theorem State.abortTest_pkg {t'} : (s.abortTest t').pkg = s.pkg := by
  simp [State.abortTest]

@[simp] theorem State.abortTests_pkg {p} : (s.abortTests p).pkg = s.pkg := by
  simp [State.abortTests]

@[simp] theorem State.banksLost_pkg {d how} : (s.banksLost d how).pkg = s.pkg := State.forN_pkg fun _ _ => rfl

@[simp] theorem State.holdBoot_pkg {c why} : (s.holdBoot c why).pkg = s.pkg := by
  simp [State.holdBoot]

@[simp] theorem State.showRing_pkg : s.showRing.pkg = s.pkg := rfl

@[simp] theorem State.setBits_pkg {off m v} : (s.setBits off m v).pkg = s.pkg := rfl

@[simp] theorem State.clearConfig_pkg : s.clearConfig.pkg = s.pkg := by
  unfold State.clearConfig
  extract_lets undo s1 gone swb pwr cfg s2
  have h2 : s2.pkg = s.pkg := State.forAll_pkg fun _ _ => rfl
  clear_value s2
  rw [State.showBanks_pkg]
  refine Eq.trans (State.forN_pkg fun _ _ => ?_) h2
  rfl

/-- What follows the clearing of the configuration cells names no die or bridge. -/
theorem State.cfgFail_pkg_of_cleared {code} (h : s.clearConfig = t) : (s.cfgFail code).pkg = t.pkg := by
  unfold State.cfgFail
  rw [h]
  simp

@[simp] theorem State.cfgFail_pkg {code} : (s.cfgFail code).pkg = s.pkg :=
  (State.cfgFail_pkg_of_cleared rfl).trans State.clearConfig_pkg

@[simp] theorem State.cfgError_pkg {code} : (s.cfgError code).pkg = s.pkg := by
  simp [State.cfgError]

@[simp] theorem State.failCkpt_pkg {c why} : (s.failCkpt c why).pkg = s.pkg := by
  simp [State.failCkpt]

@[simp] theorem State.postLost_pkg {s0} : (s.postLost s0).pkg = s.pkg := by
  simp [State.postLost]

@[simp] theorem State.showDie_pkg {d} : (s.showDie d).pkg = s.pkg := rfl

@[simp] theorem State.fitBridge_pkg {br cause n} : (s.fitBridge br cause n).pkg = s.pkg := by
  induction n generalizing s with
  | zero => rfl
  | succ n ih =>
    unfold State.fitBridge
    dsimp only
    split
    · rfl
    · split <;> simp [ih]

@[simp] theorem State.cutDie_pkg {d kept} : (s.cutDie d kept).pkg = s.pkg := by
  unfold State.cutDie
  extract_lets into out gone dead s1 s2 s3
  have h2 : s2.pkg = s.pkg := State.forAll_pkg fun _ _ => rfl
  have h3 : s3.pkg = s.pkg := by
    unfold s3
    rw [State.failFlights_pkg]
    refine Eq.trans (State.forAll_pkg fun _ _ => ?_) h2
    rfl
  simp [h3]

@[simp] theorem State.dropMemWork_pkg {d} : (s.dropMemWork d).pkg = s.pkg := rfl

@[simp] theorem State.resolveDeep_pkg {d} : (s.resolveDeep d).pkg = s.pkg := by
  simp [State.resolveDeep]

@[simp] theorem State.islandBack_pkg {i} : (s.islandBack i).pkg = s.pkg := by
  simp [State.islandBack]

@[simp] theorem State.comeBack_pkg {kept c} : (s.comeBack kept c).pkg = s.pkg := by
  unfold State.comeBack
  dsimp only
  have h {l : List (Nat × Nat)} {x : State} {c} : (x.forAll l fun p y => y.showIsland p.2 2 c p.1).pkg = x.pkg :=
    State.forAll_pkg fun _ _ => rfl
  simp [h]

end Sys2Proof.Machine
end

section
/-!
The chain select register (O1).
-/

namespace Sys2Proof.Machine

variable {s : State}

theorem nbit_eq_testBit (x n : Nat) : nbit x n = x.testBit n := by
  rw [nbit, Nat.testBit_eq_decide_div_mod_eq]
  rfl

/-- Of four numbered conditions: bit d of the sum of the powers of two that they pick. -/
theorem nbit_sum_of_picked : ∀ (f : Fin 4 → Bool) (d : Fin 4),
    nbit (((List.range 4).filter (fun k => if h : k < 4 then f ⟨k, h⟩ else false)).map (fun k => 2 ^ k)).sum d.val = f d := by decide

/-- The mask of the lost and isolated dies, bit by bit. -/
theorem State.nbit_goneMask {d : Nat} (hd : d < 4) : nbit s.goneMask d = s.dieGone d := by
  have hf : (List.range 4).filter s.dieGone = (List.range 4).filter (fun k => if _ : k < 4 then s.dieGone k else false) :=
    List.filter_congr fun k hk => by rw [dif_pos (List.mem_range.1 hk)]
  rw [State.goneMask, hf]
  exact nbit_sum_of_picked (fun k => s.dieGone k.val) ⟨d, hd⟩

/-- The chain select register after a change leaves out the lost and isolated dies and those that the change names. -/
theorem State.nbit_bypass_setBypass {m d : Nat} (hd : d < 4) :
    nbit (s.setBypass m).pkg.bypass.toNat d = (nbit m d || s.dieGone d) := by
  rw [← State.nbit_goneMask hd]
  change nbit (BitVec.ofNat 4 (m ||| s.goneMask)).toNat d = (nbit m d || nbit s.goneMask d)
  simp only [nbit_eq_testBit, BitVec.toNat_ofNat, Nat.testBit_mod_two_pow, Nat.testBit_or, hd, decide_true, Bool.true_and]

/-- Where every wrapper holds IDCODE, the chain captures the IDCODE of each of its wrappers, the one nearest TDO first. -/
theorem State.capture_of_idcode (h : s.pkg.ir = Vector.replicate 5 .idcode) :
    s.capture = s.onPkg (fun p => { p with scan := s.chain.reverse.map s.idcode, scanId := p.idBad }) := by
  have hall : s.chain.filter (fun n => s.pkg.ir.toList[n]? == some WrapInstr.idcode) = s.chain := by
    refine List.filter_eq_self.2 fun n hn => ?_
    have h5 : n < 5 := by
      rw [State.chain, List.mem_cons, List.mem_map] at hn
      obtain rfl | ⟨d, hd, rfl⟩ := hn
      · omega
      · have := List.mem_range.1 (List.mem_filter.1 hd).1
        omega
    rw [h]
    clear hn
    revert h5 n
    decide
  rw [State.capture, hall, List.map_reverse]

theorem nbit_clear : ∀ (b : BitVec 4) (d : Fin 4), nbit (b &&& ~~~(BitVec.ofNat 4 (2 ^ d.val))).toNat d.val = false := by decide

theorem nbit_complement : ∀ (b : BitVec 4) (d : Fin 4), nbit (15 - b.toNat) d.val = !nbit b.toNat d.val := by decide

/-- What a re-admission leaves of the package: the die is present, its clock loss is forgotten and its chain select bit is set. -/
theorem execDieReadmit_pkg {d : Fin 4} (hp : s.presence d.val = .rejoining)
    (h : s.returnsRetained d.val = true ∨ s.jobRuns (clearJob d.val) = true) :
    ∃ t, execDieReadmit d s = .next t ∧ t.pkg = { (s.setPresence d.val .present).pkg with
      byClock := s.pkg.byClock.filter (· != d.val), bypass := s.pkg.bypass &&& ~~~(BitVec.ofNat 4 (2 ^ d.val)) } := by
  unfold execDieReadmit
  extract_lets d retained back good frames gone s1 s2 s3 s4 s5 s6 s7
  have h2 : s2.pkg = s1.pkg := State.forN_pkg fun _ _ => State.islandBack_pkg
  have h3 : s3.pkg = s1.pkg := by
    refine Eq.trans (State.forAll_pkg fun _ _ => ?_) h2
    rfl
  have h4 : s4.pkg = s1.pkg := by
    simp only [s4, State.ite_pkg, State.banksDefault_pkg, State.banksLost_pkg, ite_self, h3]
  have h6 : s6.pkg = s5.pkg := (State.forAll_pkg fun _ _ => State.retrail_pkg).trans (State.forAll_pkg fun _ _ => State.setEntries_pkg)
  have h7 : s7.pkg = s5.pkg := (State.forAll_pkg fun _ _ => State.comeBack_pkg).trans h6
  have h1 : s1.pkg = { (s.setPresence d .present).pkg with byClock := s.pkg.byClock.filter (· != d) } :=
    State.scrubRestart_pkg.trans State.resolveDeep_pkg
  refine ⟨_, if_pos (by simpa [d, retained, hp] using h), ?_⟩
  rw [State.showDie_pkg, State.showRing_pkg, State.retryQueue_pkg, h7]
  simp only [s5, State.onPkg_pkg, State.post_pkg, h4, h1]
  rfl

/-- Settles O1: the lost and isolated dies are the bits of the mask that every change of the register takes in; a re-admission
clears the die's bit and marks it present after all that it does elsewhere. -/
theorem testChainSelect : Obligations.TestChainSelect := by
  unfold Obligations.TestChainSelect
  refine ⟨fun s => .intro rfl ⟨?_, fun d hd => ?_⟩, fun s sel => .intro rfl ⟨rfl, fun d hd => ?_⟩, fun s d hp hw h => ?_⟩
  · rw [State.capture_of_idcode rfl]
    rfl
  · exact State.nbit_bypass_setBypass (m := 0) hd |>.trans (by simp [nbit])
  · refine (State.nbit_bypass_setBypass (m := 15 - sel.toNat) hd).trans ?_
    rw [nbit_complement sel ⟨d, hd⟩, Bool.or_comm]
  · obtain ⟨t, e, ht⟩ := execDieReadmit_pkg hp h
    refine .intro e ⟨?_, ?_⟩
    · rw [ht]
      exact nbit_clear _ d
    · rw [State.presence, ht]
      exact Table.peek_poke_same _ _ _ _ hw

end Sys2Proof.Machine
end

section
/-!
Repair of lanes (O2), and what an update of a lane group leaves (O2, O3).
-/

namespace Sys2Proof.Machine

variable {s : State}

/-- A value other than its key's default reads back, whatever the table's form. -/
theorem Table.peek_poke_of_ne {α : Type} [DecidableEq α] {dflt : Nat → α} {t : Table α} {k : Nat} {v : α} (hv : v ≠ dflt k) :
    Table.peek dflt (Table.poke dflt t k v) k = v := by
  induction t with
  | nil => simp [Table.poke, Table.peek, hv]
  | cons p t ih =>
    obtain ⟨j, u⟩ := p
    unfold Table.poke
    split
    · simp [Table.peek]
    · split
      · simp [Table.peek]
      · rename_i hlt hne
        simp only [Table.peek, if_neg hlt, if_neg hne, ih]

/-- A lane group that is given a value other than the one after reset holds it. -/
theorem State.laneGroup_modGroup {g : Nat} {f : LaneGroup → LaneGroup} (h : f (s.laneGroup g) ≠ {}) :
    (s.modGroup g f).laneGroup g = f (s.laneGroup g) := Table.peek_poke_of_ne h

theorem State.laneGroup_congr {t : State} (h : t.pkg = s.pkg) (g : Nat) : t.laneGroup g = s.laneGroup g := by
  rw [State.laneGroup, h]
  rfl

@[simp] theorem State.laneGroup_sawEye {g lane h : Nat} {eye : W32} : (s.sawEye g lane eye).laneGroup h = s.laneGroup h := rfl

/-- The spare that a repair takes is the lowest idle one. -/
theorem LaneGroup.find_idle {x : LaneGroup} (h : x.idle 0 = true ∨ x.idle 1 = true) :
    [(0 : Fin 2), 1].find? x.idle = some (if x.idle 0 then 0 else 1) := by
  by_cases h0 : x.idle 0 = true
  · simp [h0]
  · simp [h0, h.resolve_left h0]

/-- The other spare of a group is the one that a repair takes, where it carries nothing and this one is in use. -/
theorem LaneGroup.find_other {x : LaneGroup} {o sp : Fin 2} (hr : x.repair = none) (ho : o ≠ sp) (h : x.spares[o] = 0)
    (hsp : x.spares[sp] ≠ 0) : [(0 : Fin 2), 1].find? x.idle = some o := by
  have i (k : Fin 2) : x.idle k = (x.spares[k] == 0) := by simp [LaneGroup.idle, hr]
  have hio : x.idle o = true := by rw [i, h]; rfl
  have his : x.idle sp = false := by rw [i, beq_eq_false_iff_ne]; exact hsp
  obtain ⟨rfl, rfl⟩ | ⟨rfl, rfl⟩ : (o = 0 ∧ sp = 1) ∨ (o = 1 ∧ sp = 0) := by omega
  · simp [hio]
  · simp [hio, his]

section
variable {br k dir lane : Nat} {lost kept : List (BitVec 16)}

/-- Behind a running repair a lane is queued. -/
theorem State.replaceLane_queued (h : (s.laneGroup (groupNo br k dir)).repair ≠ none) :
    s.replaceLane br k dir lane lost kept = s.modGroup (groupNo br k dir) (fun x => { x with queue := x.queue ++ [lane] }) :=
  if_pos (Option.isSome_iff_ne_none.2 h)

/-- With none running, the repair to an idle spare begins. -/
theorem State.laneGroup_replaceLane {p : Fin 2} (h : (s.laneGroup (groupNo br k dir)).repair = none)
    (hp : [(0 : Fin 2), 1].find? (s.laneGroup (groupNo br k dir)).idle = some p) :
    (s.replaceLane br k dir lane lost kept).laneGroup (groupNo br k dir)
      = { s.laneGroup (groupNo br k dir) with repair := some (lane, p) } := by
  unfold State.replaceLane
  simp only [h, Option.isSome_none, Bool.false_eq_true, if_false, hp]
  rw [State.laneGroup_congr State.abortTests_pkg]
  exact State.laneGroup_modGroup (by simp)
end

/-- A lane group when its running repair, of a lane to a spare, ends: the spare carries what the lane carried, and a spare
that was replaced is unusable. -/
def LaneGroup.repaired (x : LaneGroup) (lane : Nat) (sp : Fin 2) : LaneGroup :=
  { x with
    repair := none, queue := x.queue.drop 1, repairs := x.repairs + 1
    spares := if lane < 32 then x.spares.set sp (2 + lane)
      else (x.spares.setIfInBounds (lane - 32) 1).set sp (x.spares.toList.getD (lane - 32) 0) }

/-- The state after that: the group in this form, and BRG_LANE_REPAIRED posted. -/
def State.repairEnds (s : State) (br k dir lane : Nat) (sp : Fin 2) : State :=
  (s.modGroup (groupNo br k dir) (fun x => x.repaired lane sp)).post 0x0201 (laneArg br k lane)
    ((s.laneGroup (groupNo br k dir)).repairs + 1)

section
variable {br : Fin 8} {k : Fin 16} {dir sp : Fin 2} {lane : Nat} {cut : Cut}

theorem execLaneRepairComplete_of_nil (h : (s.laneGroup (groupNo br.val k.val dir.val)).repair = some (lane, sp))
    (hq : (s.laneGroup (groupNo br.val k.val dir.val)).queue = []) :
    execLaneRepairComplete br k dir cut s = .next (s.repairEnds br.val k.val dir.val lane sp) := by
  unfold execLaneRepairComplete State.repairEnds State.modGroup LaneGroup.repaired
  by_cases hl : lane < 32 <;> simp only [h, hq, hl, if_true, if_false]

/-- With a lane queued, its repair begins at once. -/
theorem execLaneRepairComplete_of_cons {l : Nat} {rest : List Nat}
    (h : (s.laneGroup (groupNo br.val k.val dir.val)).repair = some (lane, sp))
    (hq : (s.laneGroup (groupNo br.val k.val dir.val)).queue = l :: rest) :
    execLaneRepairComplete br k dir cut s
      = .next ((s.repairEnds br.val k.val dir.val lane sp).replaceLane br.val k.val dir.val l cut.lost cut.kept) := by
  unfold execLaneRepairComplete State.repairEnds State.modGroup LaneGroup.repaired
  by_cases hl : lane < 32 <;> simp only [h, hq, hl, if_true, if_false]
end

theorem State.laneGroup_repairEnds {br k dir lane : Nat} {sp : Fin 2} :
    (s.repairEnds br k dir lane sp).laneGroup (groupNo br k dir) = (s.laneGroup (groupNo br k dir)).repaired lane sp := by
  rw [State.repairEnds, State.laneGroup_congr State.post_pkg]
  exact State.laneGroup_modGroup fun e => absurd (congrArg LaneGroup.repairs e) (Nat.succ_ne_zero _)

/-- Settles O2: a lane that degrades is due for a repair; a repair's end leaves the group with a count other than the one
after reset, so that its record reads back. -/
theorem laneRepair : Obligations.LaneRepair := by
  unfold Obligations.LaneRepair
  refine ⟨?_, ?_, ?_⟩
  · intro s br k dir lane eye cut g x hj hp hu hr hq he
    have due : (x.inUse lane.val && x.repair.map (fun p => p.1) != some lane.val && !x.queue.contains lane.val
        && (eyeBad eye || s.laneErrs g lane.val)) = true := by
      simpa [eyeBad, hu, hr, hq, or_assoc] using he
    have e : exec (.laneDegrading br k dir { lane := lane, eye := eye } cut) s = whenDue _ s
        ((s.sawEye g lane.val eye).replaceLane br.val k.val dir.val lane.val cut.lost cut.kept) :=
      congrArg (whenDue _ s) (if_pos (by rw [hj, hp]; rfl))
    exact ⟨fun h => .due e due (State.replaceLane_queued h),
      fun h hi => .due e due (State.laneGroup_replaceLane (s := s.sawEye g lane.val eye) h (LaneGroup.find_idle hi))⟩
  · intro s br k dir sp lane cut g x hr
    refine ⟨fun hq => .intro (execLaneRepairComplete_of_nil hr hq) ?_,
      fun l rest o hq hl ho hs => .intro (execLaneRepairComplete_of_cons hr hq) ?_⟩
    · simp only [State.repairEnds, LaneGroup.repaired, State.modGroup, hq, List.drop_nil, x, g]
    · have hg : (s.repairEnds br.val k.val dir.val lane sp).laneGroup g = x.repaired lane sp := State.laneGroup_repairEnds
      have hx : x.repaired lane sp = { x with repair := none, queue := rest, repairs := x.repairs + 1, spares := x.spares.set sp (2 + lane) } := by
        simp only [LaneGroup.repaired, hq, hl, if_true, List.drop_one, List.tail_cons]
      have ho' : [(0 : Fin 2), 1].find? (x.repaired lane sp).idle = some o := by
        rw [hx]
        exact LaneGroup.find_other rfl ho (hs ▸ Vector.getElem_set_ne sp.isLt o.isLt (by omega)) (by simp)
      rw [State.laneGroup_replaceLane (p := o) (by rw [hg, hx]) (by rw [hg, ho']), hg, hx]
      exact ⟨rfl, rfl, rfl⟩
  · intro s br k dir sp eye training g d hi he hp hd hm
    refine .due rfl ?_ rfl
    have may : (if training then s.presence d == .rejoining || s.cfg.phase < 4
        else s.flag (HIF_DIE_CAP.SPARE_MON d) && s.presence d == .present) = true := by
      cases training <;> simpa using hm
    have bad : eyeBad eye = true := by simpa [eyeBad] using he
    rw [hi, may, bad, hp, hd]
    rfl

end Sys2Proof.Machine
end

section
/-!
What fencing a die or taking a bridge down leaves of the package (O3, O4), and the retirement of a group pair (O3).
-/

namespace Sys2Proof.Machine

variable {s t u : State}

theorem State.forN_induct {P : State → Prop} {n : Nat} {f : Nat → State → State} (h : P s) (hf : ∀ k x, P x → P (f k x)) :
    P (s.forN n f) := by
  induction n with
  | zero => exact h
  | succ n ih => exact hf n _ ih

/-! ### Dies -/

@[simp] theorem State.dropRepairs_presence {br : Nat} : (s.dropRepairs br).pkg.presence = s.pkg.presence :=
  State.forN_induct (P := fun x => x.pkg.presence = s.pkg.presence) rfl fun _ _ h => h

/-- A fence drops the repairs at both bridges of the die and sets the chain select register afresh; nothing else of the package. -/
theorem State.fenceDie_pkg {d : Nat} {kept : List (BitVec 16)} : ∃ b, (s.fenceDie d kept).pkg
    = (((s.dropRepairs (2 * d)).dropRepairs (2 * d + 1)).onPkg (fun p => { p with bypass := b })).pkg := by
  unfold State.fenceDie
  extract_lets trails s1 s2 onDie s3 s4 s5 s6 s7 s8
  have h2 : s2.pkg = ((s.dropRepairs (2 * d)).dropRepairs (2 * d + 1)).pkg := by
    simp only [s2, s1, State.post_pkg, State.cutDie_pkg, State.dropMemWork_pkg]
  have h3 : s3.pkg = s2.pkg := State.forAll_pkg fun _ _ => State.abandonMigration_pkg
  have h4 : s4.pkg = s3.pkg := State.forAll_pkg fun c x => by
    rw [State.ite_pkg, State.failCkpt_pkg, ite_self]
  have h6 : s6.pkg = s4.pkg := (State.forAll_pkg fun _ _ => State.retrail_pkg).trans State.loseDieCtxs_pkg
  have h8 : s8.pkg = ((s.dropRepairs (2 * d)).dropRepairs (2 * d + 1)).pkg := by
    rw [← h2, ← h3, ← h4, ← h6]
    exact State.abortTests_pkg
  rw [State.showDie_pkg, State.cfgError_pkg]
  exact ⟨BitVec.ofNat 4 (s8.pkg.bypass.toNat ||| s8.goneMask), by rw [State.setBypass, State.onPkg_pkg, State.onPkg_pkg, h8]⟩

theorem State.fenceDie_presence {d : Nat} {kept : List (BitVec 16)} : (s.fenceDie d kept).pkg.presence = s.pkg.presence := by
  obtain ⟨b, h⟩ := State.fenceDie_pkg (s := s) (d := d) (kept := kept)
  rw [h, State.onPkg_pkg]
  simp only [State.dropRepairs_presence]

/-- An isolation sets the die's presence; nothing else of the package. -/
theorem State.isolateDie_pkg {d : Nat} : (s.isolateDie d).pkg = (s.setPresence d .isolated).pkg := by
  rw [State.isolateDie, State.showDie_pkg, State.post_pkg]
  rw [State.forN_pkg fun _ _ => State.put_pkg .., State.forN_pkg fun _ _ => State.put_pkg ..]

/-! ### Lane groups -/

/-- From `s` to `t` no lane group is retired or set to work again, and no repair begins. -/
def State.Drops (s t : State) : Prop :=
  Table.wf (fun _ => ({} : LaneGroup)) s.pkg.groups = true → Table.wf (fun _ => ({} : LaneGroup)) t.pkg.groups = true ∧
    ∀ g, (t.laneGroup g).retired = (s.laneGroup g).retired ∧
      ((s.laneGroup g).repair = none → (t.laneGroup g).repair = none) ∧ ((s.laneGroup g).queue = [] → (t.laneGroup g).queue = [])

theorem State.Drops.of_groups (h : t.pkg.groups = s.pkg.groups) : s.Drops t := by
  have e (g : Nat) : t.laneGroup g = s.laneGroup g := by rw [State.laneGroup, h]; rfl
  exact fun hw => ⟨h ▸ hw, fun g => by rw [e]; exact ⟨rfl, id, id⟩⟩

theorem State.Drops.of_pkg (h : t.pkg = s.pkg) : s.Drops t := .of_groups (congrArg Package.groups h)

theorem State.Drops.trans (h : s.Drops t) (k : t.Drops u) : s.Drops u := fun hw => by
  obtain ⟨ht, h⟩ := h hw
  obtain ⟨hu, k⟩ := k ht
  refine ⟨hu, fun g => ?_⟩
  obtain ⟨hr, hp, hq⟩ := h g
  obtain ⟨kr, kp, kq⟩ := k g
  exact ⟨kr.trans hr, kp ∘ hp, kq ∘ hq⟩

theorem State.laneGroup_modGroup_ite {g h : Nat} {f : LaneGroup → LaneGroup}
    (hw : Table.wf (fun _ => ({} : LaneGroup)) s.pkg.groups = true) :
    (s.modGroup g f).laneGroup h = if h = g then f (s.laneGroup g) else s.laneGroup h := by
  split
  · subst_vars
    exact Table.peek_poke_same _ _ _ _ hw
  · rename_i hh
    exact Table.peek_poke_other _ _ _ hh hw

theorem State.Drops.dropRepairs {br : Nat} : s.Drops (s.dropRepairs br) := by
  refine State.forN_induct (P := s.Drops) (.of_pkg rfl) fun k x h => h.trans fun hw => ?_
  refine ⟨Table.wf_poke _ _ _ _ hw, fun g => ?_⟩
  rw [State.laneGroup_modGroup_ite hw]
  split
  · subst_vars
    exact ⟨rfl, fun _ => rfl, fun _ => rfl⟩
  · exact ⟨rfl, id, id⟩

theorem State.Drops.fenceDie {d : Nat} {kept : List (BitVec 16)} : s.Drops (s.fenceDie d kept) := by
  obtain ⟨b, h⟩ := State.fenceDie_pkg (s := s) (d := d) (kept := kept)
  have hg : (s.fenceDie d kept).pkg.groups = ((s.dropRepairs (2 * d)).dropRepairs (2 * d + 1)).pkg.groups := by
    rw [h, State.onPkg_pkg]
  exact (State.Drops.dropRepairs.trans .dropRepairs).trans (.of_groups hg)

theorem State.Drops.isolateDie {d : Nat} : s.Drops (s.isolateDie d) := .of_groups (by rw [State.isolateDie_pkg]; rfl)

theorem State.Drops.declareLost {d : Nat} {kept : List (BitVec 16)} {isolate : Bool} : s.Drops (s.declareLost d kept isolate) := by
  unfold State.declareLost
  extract_lets l s1 s2
  have h2 : s.Drops s2 := (State.Drops.of_groups (t := s1) rfl).trans .fenceDie
  split
  · exact h2.trans .isolateDie
  · exact h2

theorem State.Drops.bridgeDown {br : Nat} {lost kept : List (BitVec 16)} : s.Drops (s.bridgeDown br lost kept) := by
  unfold State.bridgeDown
  extract_lets d ts s1 s2 mine gone back s3 s4 s5 s6
  have h0 : s1.pkg.groups = (s.dropRepairs br).pkg.groups := by
    simp only [s1, State.post_pkg, State.onNet_pkg, State.onPkg_pkg]
  have h1 : s.Drops s1 := State.Drops.dropRepairs.trans (.of_groups h0)
  have h2 : s2.pkg = s1.pkg := State.forAll_pkg fun _ _ => State.modTrail_pkg ..
  have h3 : s3.pkg = s1.pkg := (State.onNet_pkg ..).trans h2
  have h4 : s4.pkg = s3.pkg := State.forAll_pkg fun _ _ => by rw [State.failTag_pkg, State.modTrail_pkg]
  have h5 : s5.pkg = s4.pkg := State.forAll_pkg fun _ _ => State.failTag_pkg
  have h6 : s.Drops s6 := h1.trans (.of_pkg (by simp only [s6, State.ite_pkg, State.cfgError_pkg, ite_self, h5, h4, h3]))
  clear_value s6
  split
  · exact h6
  · split
    · exact h6.trans ((State.Drops.of_pkg State.banksLost_pkg).trans .declareLost)
    · exact h6.trans .isolateDie

/-- The group of one direction retired, with no repair and no queue. -/
def State.retireGroup (s : State) (g : Nat) : State := s.modGroup g (fun x => { x with retired := true, repair := none, queue := [] })

/-- After a retirement of a pair, its two groups being retired, repairs may only be dropped. -/
theorem State.Drops.retirePair {br k : Nat} {lost kept : List (BitVec 16)} :
    ((s.retireGroup (groupNo br k 0)).retireGroup (groupNo br k 1)).Drops (s.retirePair br k lost kept) := by
  unfold State.retirePair
  extract_lets d gone s1 w s2 s3 s4
  have h3 : s3.pkg = s1.pkg := by simp only [s3, s2, State.fitBridge_pkg, State.post_pkg, State.abortTests_pkg]
  have h4 : s1.Drops s4 := by
    refine (State.Drops.of_pkg h3).trans (.of_groups ?_)
    unfold s4
    split
    · rw [State.post_pkg, State.forN_pkg fun _ _ => State.put_pkg ..]
      rfl
    · rfl
  clear_value s4
  refine State.Drops.trans (t := if w = 0 then s4.bridgeDown br lost kept else s4) ?_ (.of_pkg State.showDie_pkg)
  split
  · exact h4.trans .bridgeDown
  · exact h4

/-- A retirement leaves both groups of the pair retired, and every other pair's as they were. -/
theorem State.retirePair_groups {br k : Nat} {lost kept : List (BitVec 16)}
    (hw : Table.wf (fun _ => ({} : LaneGroup)) s.pkg.groups = true) :
    (∀ e : Fin 2, ((s.retirePair br k lost kept).laneGroup (groupNo br k e.val)).retired = true ∧
      ((s.retirePair br k lost kept).laneGroup (groupNo br k e.val)).repair = none ∧
      ((s.retirePair br k lost kept).laneGroup (groupNo br k e.val)).queue = []) ∧
    (∀ g, g / 2 ≠ 16 * br + k → ((s.retirePair br k lost kept).laneGroup g).retired = (s.laneGroup g).retired) := by
  obtain ⟨-, after⟩ := State.Drops.retirePair (s := s) (br := br) (k := k) (lost := lost) (kept := kept)
    (Table.wf_poke _ _ _ _ (Table.wf_poke _ _ _ _ hw))
  have both (g : Nat) : ((s.retireGroup (groupNo br k 0)).retireGroup (groupNo br k 1)).laneGroup g
      = if g = groupNo br k 1 ∨ g = groupNo br k 0 then { s.laneGroup g with retired := true, repair := none, queue := [] }
        else s.laneGroup g := by
    have hne : groupNo br k 1 ≠ groupNo br k 0 := by simp [groupNo]
    rw [State.retireGroup, State.laneGroup_modGroup_ite (Table.wf_poke _ _ _ _ hw)]
    simp only [State.retireGroup, State.laneGroup_modGroup_ite hw]
    split
    · subst_vars
      simp [hne]
    · split <;> simp [*]
  refine ⟨fun e => ?_, fun g hg => ?_⟩
  · obtain ⟨hr, hp, hq⟩ := after (groupNo br k e.val)
    have he : groupNo br k e.val = groupNo br k 1 ∨ groupNo br k e.val = groupNo br k 0 := by
      simp only [groupNo]; omega
    rw [both, if_pos he] at hr hp hq
    exact ⟨hr, hp rfl, hq rfl⟩
  · obtain ⟨hr, -, -⟩ := after g
    rwa [both, if_neg (by simp only [groupNo]; omega)] at hr

/-! ### Counts -/

/-- A counter of a table advanced by one, up to its greatest value. -/
def Table.countUp (t : Table Nat) (k : Nat) : Table Nat := t.poke (fun _ => 0) k (min (t.peek (fun _ => 0) k + 1) 0xFFFFFFFF)

/-- Counters advanced once each: those that the list names have advanced by one, the others not. -/
theorem Table.peek_foldl_countUp {l : List Nat} {key : Nat → Nat} (hk : Function.Injective key) (hn : l.Nodup) (t : Table Nat)
    (hw : Table.wf (fun _ => 0) t = true) (n : Nat) :
    (l.foldl (fun t l => Table.countUp t (key l)) t).peek (fun _ => 0) (key n)
      = if n ∈ l then min (t.peek (fun _ => 0) (key n) + 1) 0xFFFFFFFF else t.peek (fun _ => 0) (key n) := by
  induction l generalizing t with
  | nil => rfl
  | cons a l ih =>
    obtain ⟨ha, hn⟩ := List.nodup_cons.1 hn
    rw [List.foldl_cons, ih hn (Table.countUp t (key a)) (Table.wf_poke _ _ _ _ hw), Table.countUp]
    by_cases h : n = a
    · subst h
      rw [Table.peek_poke_same _ _ _ _ hw]
      simp [ha]
    · rw [Table.peek_poke_other _ _ _ (hk.ne h) hw]
      simp [h]

/-- Settles O3: what follows a retirement of a pair, down to the loss of its die, can only drop repairs. -/
theorem pairRetirement : Obligations.PairRetirement := by
  unfold Obligations.PairRetirement
  refine ⟨?_, ?_⟩
  · intro s br k dir cut hj hp hw c hc
    have hd : (s.laneGroup (groupNo br.val k.val dir.val)).retired = false := by
      simp only [State.pairWorks, Bool.and_eq_true, Bool.not_eq_true'] at hp
      obtain ⟨h0, h1⟩ := hp
      match dir with
      | 0 => exact h0
      | 1 => exact h1
    have e : exec c s = whenDue (!(s.laneGroup (groupNo br.val k.val dir.val)).retired) s
        (s.retirePair br.val k.val cut.lost cut.kept) := by
      have h : (if s.judged br.val && s.pairWorks br.val k.val then s.retirePair br.val k.val cut.lost cut.kept else s)
          = s.retirePair br.val k.val cut.lost cut.kept := if_pos (by rw [hj, hp]; rfl)
      rw [← h]
      simp only [List.mem_cons, List.not_mem_nil, or_false] at hc
      obtain rfl | rfl := hc <;> rfl
    exact .due e (by rw [hd]; rfl) (State.retirePair_groups hw)
  · intro s br k dir lanes g src hj hp hf hl
    have due : (s.judged br.val && s.pairWorks br.val k.val) = true := by rw [hj, hp]; rfl
    have e : exec (.bridgeFlitCrcError br k dir lanes) s = whenDue (s.judged br.val && s.pairWorks br.val k.val) s _ := rfl
    refine ⟨fun ha => .due e due ?_, fun ha => .due e due ?_⟩
    · simp only [src] at ha
      simp only [ha, Bool.false_eq_true, if_false]
      refine ⟨rfl, Table.peek_poke_same _ _ _ _ hf, fun l => ?_⟩
      have h := Table.peek_foldl_countUp (l := (List.range 34).filter (fun l => nbit lanes.toNat l)) (key := laneKey g)
        (fun a b h => by simpa [laneKey] using h) (List.nodup_range.filter _) _ hl l.val
      exact h.trans (by simp [laneKey, l.isLt])
    · simp only [src] at ha
      simp only [ha, if_true]
      exact ⟨rfl, Table.peek_poke_same _ _ _ _ hf⟩

end Sys2Proof.Machine
end

section
/-!
Loss and rejoin of a die (O4).
-/

namespace Sys2Proof.Machine

variable {s t : State}

theorem State.forAll_eq_foldl {α : Type} {l : List α} {f : α → State → State} : s.forAll l f = l.foldl (fun u a => f a u) s := by
  induction l generalizing s with
  | nil => rfl
  | cons a l ih => exact ih

/-- A die whose presence is set to another than the one after reset has it. -/
theorem State.presence_setPresence {d : Nat} {p : Presence} (h : p ≠ .present) : (s.setPresence d p).presence d = p :=
  Table.peek_poke_of_ne h

theorem State.presence_congr (h : t.pkg.presence = s.pkg.presence) (d : Nat) : t.presence d = s.presence d := by
  rw [State.presence, h]
  rfl

theorem State.presence_isolateDie {d : Nat} : (s.isolateDie d).presence d = .isolated :=
  (State.presence_congr (congrArg Package.presence State.isolateDie_pkg) d).trans (State.presence_setPresence (by decide))

/-- A die that stops while it is present is silent, and recorded as having lost its clocks where it did. -/
theorem State.dieStops_of_present {d : Nat} {clock : Bool} (h : s.presence d = .present) :
    (s.dieStops d clock).presence d = .silent ∧ (s.dieStops d clock).pkg.byClock.contains d = clock := by
  unfold State.dieStops
  rw [h]
  dsimp only
  rw [State.presence, State.banksLost_pkg]
  refine ⟨Table.peek_poke_of_ne (by decide), ?_⟩
  cases clock <;> simp [State.setPresence, State.onPkg]

/-- A die declared lost is isolated where two earlier losses stand within the last 60 s, else lost. -/
theorem State.presence_declareLost {d : Nat} {kept : List (BitVec 16)} : (s.declareLost d kept false).presence d
    = if ((s.pkg.losses.peek (fun _ => []) d).filter (fun a => s.now ≤ a + 60000000000)).length ≥ 2 then .isolated else .lost := by
  unfold State.declareLost
  extract_lets l s1 s2
  have h2 : s2.presence d = .lost :=
    (State.presence_congr State.fenceDie_presence d).trans (State.presence_setPresence (s := s) (by decide))
  have hl : l.length = ((s.pkg.losses.peek (fun _ => []) d).filter (fun a => s.now ≤ a + 60000000000)).length + 1 := by
    rw [List.length_append]
    rfl
  simp only [Bool.false_or, decide_eq_true_eq, hl, Nat.succ_le_succ_iff, ge_iff_le]
  split
  · exact State.presence_isolateDie
  · exact h2

/-- Every other register is as before an update of a field. -/
theorem State.reg_put_other {f : Fld} {v off : Nat} (ho : off ≠ f.addr) (h : s.regsWf) : (s.put f v).reg off = s.reg off :=
  State.reg_setReg_other _ ho h

/-- What a die shows stands in one register. -/
theorem State.reg_showDie {d off : Nat} (h : s.regsWf) (ho : off ≠ 0x40 + 4 * d) : (s.showDie d).reg off = s.reg off := by
  have h1 := State.regsWf_put (HIF_DIE_STAT.NORTH d) (s.working d 0) h
  have h2 := State.regsWf_put (HIF_DIE_STAT.SOUTH d) (s.working d 1) h1
  exact (State.reg_put_other ho h2).trans ((State.reg_put_other ho h1).trans (State.reg_put_other ho h))

/-- Whether a die returns retained stays as it is where neither its record of a clock loss nor its capabilities change. -/
theorem State.returnsRetained_congr {d : Nat} (hp : t.pkg.byClock = s.pkg.byClock) (hr : t.reg (0x30 + 4 * d) = s.reg (0x30 + 4 * d)) :
    t.returnsRetained d = s.returnsRetained d := by
  unfold State.returnsRetained State.flag State.get
  rw [hp]
  exact congrArg (fun v => s.pkg.byClock.contains d && (fieldOf v 1 1 == 1)) hr

/-- A lost die whose record agrees, rejoining; its clearing is queued apart. -/
def State.rejoins (s : State) (d : Nat) : State :=
  (((s.onPkg (fun p => { p with southCopy := p.southCopy.filter (fun k => k / 4 != d) })).judgeAfresh d).setPresence d .rejoining).showDie d

theorem State.presence_rejoins {d : Nat} : (s.rejoins d).presence d = .rejoining :=
  Table.peek_poke_of_ne (by decide)

theorem State.returnsRetained_rejoins {d : Nat} (h : s.regsWf) : (s.rejoins d).returnsRetained d = s.returnsRetained d :=
  State.returnsRetained_congr rfl (State.reg_showDie (s := (State.judgeAfresh _ d).setPresence d .rejoining) h (by omega))

theorem execDieRejoin_of_agrees {d : Fin 4} {record : W64} (h : s.regsWf) (hp : s.presence d.val = .lost)
    (hr : s.pkg.dieReset.contains d.val = false) (hi : record = s.reg (HIF_DIE_ID.RECORD d.val).addr) :
    execDieRejoin d record s
      = .next (if s.returnsRetained d.val then s.rejoins d.val else (s.rejoins d.val).addJob (clearJob d.val)) := by
  rw [← State.returnsRetained_rejoins h]
  exact (if_pos (by rw [hp, hr]; rfl)).trans (congrArg _ (if_neg (not_not_intro hi)))

theorem execDieRejoin_of_differs {d : Fin 4} {record : W64} (hp : s.presence d.val = .lost)
    (hr : s.pkg.dieReset.contains d.val = false) (hi : record ≠ s.reg (HIF_DIE_ID.RECORD d.val).addr) :
    execDieRejoin d record s = .next (s.isolateDie d.val) :=
  (if_pos (by rw [hp, hr]; rfl)).trans (congrArg _ (if_pos hi))

/-- Settles O4: neither a fence nor what a die shows changes a presence. -/
theorem dieLossAndRejoin : Obligations.DieLossAndRejoin := by
  unfold Obligations.DieLossAndRejoin
  refine ⟨fun s d clock h => .intro rfl (State.dieStops_of_present h), ?_, ?_, ?_⟩
  · intro s d kept hp ha
    exact .due rfl (by rw [hp, ha]; rfl) State.presence_declareLost
  · intro s d record hw hp hr
    refine ⟨fun h => .intro (execDieRejoin_of_differs hp hr h) ⟨rfl, State.presence_isolateDie⟩,
      fun h => .intro (execDieRejoin_of_agrees hw hp hr h) ?_⟩
    split
    · exact ⟨State.presence_rejoins, rfl, rfl, rfl⟩
    · refine ⟨?_, rfl, rfl, rfl⟩
      rw [State.presence_congr (congrArg Package.presence State.addJob_pkg), State.presence_rejoins]
  · intro s br hd hr s1 s2
    exact .due rfl (by rw [hd, hr]; rfl) State.forAll_eq_foldl

end Sys2Proof.Machine
end

section
/-!
SUPPORT. Which registers and which of the host interface an operation leaves as they are (chapter 10).
-/

namespace Sys2Proof.Machine

variable {s t u : State}

/-! ### Tables with keys put back -/

/-- A table filtered by its keys: a key that stays reads as before, one that goes reads its default. -/
theorem Table.peek_filter {α : Type} [DecidableEq α] {dflt : Nat → α} (q : Nat → Bool) (t : Table α) (h : Table.wf dflt t = true) (k : Nat) :
    Table.peek dflt (t.filter (fun p => q p.1)) k = if q k then Table.peek dflt t k else dflt k := by
  induction t with
  | nil => simp
  | cons p t ih =>
    obtain ⟨j, u⟩ := p
    simp only [Table.wf, Bool.and_eq_true, decide_eq_true_eq] at h
    obtain ⟨⟨ha, -⟩, hw⟩ := h
    have below {t' : Table α} (h' : Table.above j t' = true) (hk : k ≤ j) : Table.peek dflt t' k = dflt k :=
      Table.peek_of_above dflt _ h' hk
    have hf := Table.above_filter (fun p => q p.1) _ ha
    by_cases hq : q j = true
    · rw [List.filter_cons, if_pos hq, Table.peek, Table.peek, ih hw]
      split
      · simp
      · split
        · subst_vars; simp [hq]
        · rfl
    · rw [List.filter_cons, if_neg hq]
      by_cases hk : k ≤ j
      · rw [below hf hk, Table.peek]
        by_cases he : k = j
        · subst he; simp [hq]
        · simp [show k < j by omega]
      · rw [ih hw, Table.peek, if_neg (show ¬ k < j by omega), if_neg (show ¬ k = j by omega)]

/-! ### Registers -/

/-- From `s` to `t` the registers that `P` names are as before. -/
def State.Regs (P : Nat → Prop) (s t : State) : Prop := s.regsWf → t.regsWf ∧ ∀ off, P off → t.reg off = s.reg off

section
variable {P : Nat → Prop}

theorem State.Regs.refl : s.Regs P s := fun h => ⟨h, fun _ _ => rfl⟩

theorem State.Regs.trans (h : s.Regs P t) (g : t.Regs P u) : s.Regs P u := fun hw => by
  obtain ⟨ht, h⟩ := h hw
  obtain ⟨hu, g⟩ := g ht
  exact ⟨hu, fun off ho => (g off ho).trans (h off ho)⟩

theorem State.Regs.of_regs (h : t.regs = s.regs) : s.Regs P t := fun hw => by
  refine ⟨?_, fun off _ => ?_⟩
  · unfold State.regsWf at *; rwa [h]
  · unfold State.reg; rw [h]

theorem State.Regs.setReg {off : Nat} {v : W64} (h : ¬ P off) : s.Regs P (s.setReg off v) := fun hw =>
  ⟨State.regsWf_setReg _ _ hw, fun _ ho => State.reg_setReg_other _ (fun e => h (e ▸ ho)) hw⟩

theorem State.Regs.put {f : Fld} {v : Nat} (h : ¬ P f.addr) : s.Regs P (s.put f v) := .setReg h

theorem State.Regs.putB {f : Fld} {b : Bool} (h : ¬ P f.addr) : s.Regs P (s.putB f b) := .setReg h

theorem State.Regs.bump {f : Fld} {n : Nat} (h : ¬ P f.addr) : s.Regs P (s.bump f n) := .setReg h

theorem State.Regs.forN {n : Nat} {f : Nat → State → State} (h : ∀ k < n, ∀ x, State.Regs P x (f k x)) : s.Regs P (s.forN n f) := by
  induction n with
  | zero => exact .refl
  | succ n ih => exact (ih fun k hk => h k (by omega)).trans (h n (by omega) _)

theorem State.Regs.forAll {α : Type} {l : List α} {f : α → State → State} (h : ∀ a x, State.Regs P x (f a x)) :
    s.Regs P (s.forAll l f) := by
  induction l generalizing s with
  | nil => exact .refl
  | cons a l ih => exact (h a s).trans ih

theorem State.Regs.ite {c : Prop} [Decidable c] (h : s.Regs P t) (g : s.Regs P u) : s.Regs P (if c then t else u) := by
  split
  · exact h
  · exact g

theorem State.Regs.wf (h : s.Regs P t) (hw : s.regsWf) : t.regsWf := (h hw).1

theorem State.Regs.reg (h : s.Regs P t) (hw : s.regsWf) {off : Nat} (ho : P off) : t.reg off = s.reg off := (h hw).2 off ho

theorem State.Regs.get (h : s.Regs P t) (hw : s.regsWf) {f : Fld} (hf : P f.addr) : t.get f = s.get f := by
  unfold State.get
  rw [h.reg hw hf]

theorem State.Regs.flag (h : s.Regs P t) (hw : s.regsWf) {f : Fld} (hf : P f.addr) : t.flag f = s.flag f := by
  unfold State.flag
  rw [h.get hw hf]
end

theorem State.regsWf_filter {q : Nat → Bool} (h : s.regsWf) : Table.wf regReset (s.regs.filter (fun p => q p.1)) = true :=
  Table.wf_filter _ _ _ h

/-! ### Events -/

theorem State.get_lt (f : Fld) : s.get f < 2 ^ (f.hi + 1 - f.lo) := Nat.mod_lt _ (Nat.two_pow_pos _)

/-- An event's record, or its loss: of the registers only the drop counter and the queues' own change. -/
theorem State.Regs.queueEvent {P : Nat → Prop} {q code : Nat} {a0 a1 : W64} (hd : ¬ P 0xA4) (hq : ¬ P (0x3018 + 0x20 * q)) :
    s.Regs P (s.queueEvent q code a0 a1) := by
  unfold State.queueEvent
  extract_lets r
  exact .ite (.bump hd) (.ite (.of_regs rfl) (.ite (.of_regs rfl) ((State.Regs.bump hq).trans (.of_regs rfl))))

theorem State.Regs.post {P : Nat → Prop} {code a0 a1 : Nat} (hd : ¬ P 0xA4) (hq : ∀ q < 64, ¬ P (0x3018 + 0x20 * q)) :
    s.Regs P (s.post code a0 a1) :=
  .ite (.queueEvent hd (hq _ (State.get_lt _))) (.bump hd)

/-- What an event's post touches besides registers. -/
theorem State.queueEvent_eq {q code : Nat} {a0 a1 : W64} : let t := s.queueEvent q code a0 a1
    t = { s with regs := t.regs, host := { s.host with recs := t.host.recs, lostNow := t.host.lostNow } } := by
  unfold State.queueEvent
  repeat' split
  all_goals rfl

theorem State.post_eq {code a0 a1 : Nat} : let t := s.post code a0 a1
    t = { s with regs := t.regs, host := { s.host with recs := t.host.recs, lostNow := t.host.lostNow } } := by
  unfold State.post
  dsimp only
  split
  · exact State.queueEvent_eq
  · rfl

end Sys2Proof.Machine
end

section
/-!
The link and its loss, and a PLL's (O40).
-/

namespace Sys2Proof.Machine

variable {s t u : State}

/-! ### Reads that the link owed -/

/-- From `s` to `t` only the network and the trail network's counters change. -/
def State.Answers (s t : State) : Prop := t = { s with net := t.net, regs := t.regs } ∧ s.Regs (fun o => o / 0x10000 ≠ 1) t

theorem State.Answers.refl : s.Answers s := ⟨rfl, .refl⟩

theorem State.Answers.trans (h : s.Answers t) (g : t.Answers u) : s.Answers u := by
  obtain ⟨ht, hr⟩ := h
  obtain ⟨hu, gr⟩ := g
  exact ⟨hu.trans (by rw [ht]), hr.trans gr⟩

theorem State.Answers.errCount {code : Nat} : s.Answers (s.errCount code) := by
  unfold State.errCount
  split
  · refine ⟨rfl, .bump ?_⟩
    simp only [TRL_ERR_CNT.COUNT]
    omega
  · exact .refl

theorem State.Answers.respond {q : Msg} {op status : Nat} {data : List Byte} {operand : BitVec 96} {addr : Nat} {prov : Bool} :
    s.Answers (s.respond q op status data operand addr prov) := by
  unfold State.respond
  extract_lets m m' s'
  have h : s.Answers s' := by
    unfold s'
    split
    · exact .errCount
    · exact .refl
  exact h.trans ⟨rfl, .of_regs rfl⟩

theorem State.Answers.forAll {α : Type} {l : List α} {f : α → State → State} (h : ∀ a x, State.Answers x (f a x)) :
    s.Answers (s.forAll l f) := by
  induction l generalizing s with
  | nil => exact .refl
  | cons a l ih => exact (h a s).trans ih

/-- The reads that the link owed are owed no more. -/
theorem State.Answers.failHostReads : (s.onHost (fun h => { h with pending := [] })).Answers s.failHostReads :=
  .forAll fun _ _ => State.Answers.trans (t := State.dropFlight _ _) ⟨rfl, .of_regs rfl⟩ .respond

theorem State.failHostReads_of_none (h : s.host.pending = []) : s.failHostReads = s := by
  have hl : s.net.flight.filter (fun f => s.hostAwaits f.msg.tag.toNat) = [] := by
    simp [State.hostAwaits, h]
  unfold State.failHostReads
  rw [hl]
  exact congrArg (fun l => s.onHost (fun x => { x with pending := l })) h.symm

/-- An answer does not look at the host interface. -/
theorem State.respond_onHost {f : HostIf → HostIf} {q : Msg} {status : Nat} :
    (s.onHost f).respond q opERR status = (s.respond q opERR status).onHost f := by
  have he : (s.onHost f).errCount status = (s.errCount status).onHost f := by
    unfold State.errCount
    split <;> rfl
  unfold State.respond
  simp only [if_true, he]
  rfl

theorem State.failHostReads_of_one {f : Flight} (h : s.net.flight.filter (fun g => s.hostAwaits g.msg.tag.toNat) = [f]) :
    s.failHostReads = ((s.dropFlight f).respond f.msg opERR 0x0E).onHost (fun h => { h with pending := [] }) := by
  unfold State.failHostReads
  rw [h]
  exact State.respond_onHost (s := s.dropFlight f) (f := fun h => { h with pending := [] })

/-! ### The link -/

/-- The link's fault message. -/
def linkFault : FaultMsg := { kind := 0x1A, source := srcSaddle 0, sev := 2, addr := 0 }

/-- The link down, before what it owed ends. -/
def State.linkGone (s : State) : State := s.onHost (fun h => { h with linkUp := false, ptmOut := false })

theorem State.linkDown_of_up (h : s.host.linkUp = true) : s.linkDown = s.linkGone.failHostReads.toCairn 0x1A srcHost sevMajor 0 :=
  if_pos h

theorem State.linkDown_eq (h : s.host.linkUp = true) : let t := s.linkDown
    t = { s with net := t.net, regs := t.regs, host := { s.host with linkUp := false, ptmOut := false, pending := [] },
                 inbox := s.inbox ++ [linkFault] } ∧ s.Regs (fun o => o / 0x10000 ≠ 1) t := by
  intro t
  have e : t = s.linkGone.failHostReads.toCairn 0x1A srcHost sevMajor 0 := State.linkDown_of_up h
  obtain ⟨hf, hr⟩ := State.Answers.failHostReads (s := s.linkGone)
  generalize s.linkGone.failHostReads = x at *
  clear_value t
  subst e
  exact ⟨by rw [hf]; rfl, (State.Regs.of_regs rfl).trans (hr.trans (.of_regs rfl))⟩

theorem State.linkDown_of_down (h : s.host.linkUp = false) : s.linkDown = s := if_neg (by simp [h])

/-- The link's loss, stated as the obligation has it. -/
theorem gives_pcieLinkDown (h : s.host.linkUp = true) :
    Gives .pcieLinkDown s (fun t => t.host.linkUp = false ∧ t.recsHeld = true ∧ t.host.pending = [] ∧
      t.inbox = s.inbox ++ [linkFault] ∧ t.host.recs = s.host.recs ∧ t.host.slots = s.host.slots ∧ t.mem = s.mem ∧
      (s.host.pending = [] → t = { s with host := { s.host with linkUp := false, ptmOut := false }, inbox := s.inbox ++ [linkFault] }) ∧
      (∀ f : Flight, s.net.flight.filter (fun g => s.hostAwaits g.msg.tag.toNat) = [f] →
        t.net = ((s.dropFlight f).respond f.msg 0x8F 0x0E).net)) := by
  obtain ⟨e, -⟩ := State.linkDown_eq h
  refine .due rfl h ?_
  refine ⟨by rw [e], by rw [State.recsHeld, e]; rfl, by rw [e], by rw [e], by rw [e], by rw [e], by rw [e], fun hp => ?_, fun f hf => ?_⟩
  · rw [State.linkDown_of_up h, State.failHostReads_of_none (s := s.linkGone) hp]
    rfl
  · rw [State.linkDown_of_up h, State.failHostReads_of_one (s := s.linkGone) hf, State.toCairn_net, State.onHost_net]
    have e := State.respond_onHost (s := s.dropFlight f) (q := f.msg) (status := 0x0E)
      (f := fun h => { h with linkUp := false, ptmOut := false })
    exact (congrArg State.net e).trans (State.onHost_net ..)

end Sys2Proof.Machine
end

section
/-!
Messages that were held, and D-states (O40).
-/

namespace Sys2Proof.Machine

variable {s t u : State}

/-- Bits after one of them is cleared. -/
theorem nbit_setBit_false (x n m : Nat) : nbit (setBit x n false) m = (nbit x m && m != n) := by
  have hs : setBit x n false = 2 ^ n * (2 * (x / 2 ^ n / 2)) + x % 2 ^ n := by
    have h1 := Nat.div_add_mod x (2 ^ n)
    have h2 := Nat.div_add_mod (x / 2 ^ n) 2
    have h3 : 2 ^ n * (x / 2 ^ n) = 2 ^ n * (2 * (x / 2 ^ n / 2)) + 2 ^ n * (x / 2 ^ n % 2) := by
      rw [← Nat.mul_add, h2]
    simp only [setBit, Bool.false_eq_true, if_false, Nat.add_zero]
    rw [Nat.mul_comm (x / 2 ^ n % 2)]
    omega
  have hx : x = 2 ^ n * (x / 2 ^ n) + x % 2 ^ n := (Nat.div_add_mod ..).symm
  have hlt : x % 2 ^ n < 2 ^ n := Nat.mod_lt _ (Nat.two_pow_pos n)
  rw [nbit_eq_testBit, nbit_eq_testBit, hs]
  conv_rhs => rw [hx]
  rw [Nat.testBit_two_pow_mul_add _ hlt, Nat.testBit_two_pow_mul_add _ hlt]
  by_cases h : m < n
  · simp [h, Nat.ne_of_lt h]
  · obtain ⟨j, rfl⟩ : ∃ j, m = n + j := ⟨m - n, by omega⟩
    cases j with
    | zero => simp
    | succ j =>
      simp only [show ¬ n + (j + 1) < n by omega, if_false, Nat.add_sub_cancel_left, Nat.testBit_succ]
      simp

theorem setBit_false_le (x n : Nat) : setBit x n false ≤ x := Nat.sub_le _ _

/-- From `s` to `t` messages are sent or held: only what is pending and what was sent changes. -/
def State.Signals (s t : State) : Prop :=
  t = { s with regs := t.regs, host := { s.host with msix := t.host.msix } } ∧ s.Regs (fun o => o ≠ 0x9000) t

theorem State.Signals.refl : s.Signals s := ⟨rfl, .refl⟩

theorem State.Signals.trans (h : s.Signals t) (g : t.Signals u) : s.Signals u := by
  obtain ⟨ht, hr⟩ := h
  obtain ⟨hu, gr⟩ := g
  exact ⟨hu.trans (by rw [ht]), hr.trans gr⟩

theorem State.Signals.put {v : Nat} : s.Signals (s.put HIF_MSIX_PBA.PENDING v) := ⟨rfl, .put fun h => h rfl⟩

theorem State.Signals.signal {v : Nat} : s.Signals (s.signal v) := by
  unfold State.signal
  split
  · exact .put
  · exact ⟨rfl, .of_regs rfl⟩

theorem State.Signals.unmasked : s.Signals s.unmasked := by
  unfold State.unmasked
  split
  · exact .refl
  · refine State.forN_induct (P := s.Signals) .refl fun v x h => ?_
    split
    · exact h.trans (State.Signals.put.trans .signal)
    · exact h

/-- What is true after the messages of the first `n` vectors were looked at, of a part that does not hold them. -/
structure State.FlushedTo (s : State) (n : Nat) (t : State) : Prop where
  signals : s.Signals t
  sent : ∀ v < n, nbit (s.get HIF_MSIX_PBA.PENDING) v = true → s.flag (HIF_MSIX_DATA.MASK v) = false → v ∈ t.host.msix
  left : ∀ v, nbit (t.get HIF_MSIX_PBA.PENDING) v
    = (nbit (s.get HIF_MSIX_PBA.PENDING) v && (decide (n ≤ v) || s.flag (HIF_MSIX_DATA.MASK v)))

theorem State.FlushedTo.zero : s.FlushedTo 0 s where
  signals := .refl
  sent := fun v h => absurd h (Nat.not_lt_zero v)
  left := fun v => by simp

/-- One vector more: a message that is pending and not masked goes out. -/
theorem State.FlushedTo.succ {n : Nat} (h : s.FlushedTo n t) (hw : s.regsWf) (held : s.recsHeld = false) :
    s.FlushedTo (n + 1) (if nbit (t.get HIF_MSIX_PBA.PENDING) n && !t.flag (HIF_MSIX_DATA.MASK n) && !t.recsHeld then
      (t.put HIF_MSIX_PBA.PENDING (setBit (t.get HIF_MSIX_PBA.PENDING) n false)).signal n else t) := by
  obtain ⟨⟨same, regs⟩, sent, left⟩ := h
  have hwt : t.regsWf := regs.wf hw
  have hm (v : Nat) : t.flag (HIF_MSIX_DATA.MASK v) = s.flag (HIF_MSIX_DATA.MASK v) :=
    regs.flag hw (f := HIF_MSIX_DATA.MASK v) (by simp only [HIF_MSIX_DATA.MASK]; omega)
  have hh : t.recsHeld = false := by rw [same]; exact held
  have hp := left n
  rw [hm, hh, hp]
  by_cases hb : nbit (s.get HIF_MSIX_PBA.PENDING) n = true ∧ s.flag (HIF_MSIX_DATA.MASK n) = false
  · obtain ⟨hb, hk⟩ := hb
    simp only [hb, hk, Nat.le_refl, decide_true, Bool.true_or, Bool.and_self, Bool.not_false, if_true]
    have ht : (t.put HIF_MSIX_PBA.PENDING (setBit (t.get HIF_MSIX_PBA.PENDING) n false)).flag (HIF_MSIX_DATA.MASK n) = false := by
      rw [← hk, ← hm]
      exact State.Regs.flag (P := fun o => o ≠ 0x9000) (.put (fun h => h rfl)) hwt (by simp only [HIF_MSIX_DATA.MASK]; omega)
    have hh' : (t.put HIF_MSIX_PBA.PENDING (setBit (t.get HIF_MSIX_PBA.PENDING) n false)).recsHeld = false := hh
    rw [State.signal, ht, hh', Bool.or_false, if_neg Bool.false_ne_true]
    refine ⟨State.Signals.trans ⟨same, regs⟩ (State.Signals.put.trans ⟨rfl, .of_regs rfl⟩), fun v hv hb hk => ?_, fun v => ?_⟩
    · simp only [State.onHost_host, State.put_host, List.mem_append, List.mem_singleton]
      by_cases he : v = n
      · exact .inr he
      · exact .inl (sent v (by omega) hb hk)
    · have hg : (State.put t HIF_MSIX_PBA.PENDING (setBit (t.get HIF_MSIX_PBA.PENDING) n false)).get HIF_MSIX_PBA.PENDING
          = setBit (t.get HIF_MSIX_PBA.PENDING) n false := by
        rw [State.get_put_same _ _ ⟨by decide, by decide⟩ hwt]
        exact Nat.mod_eq_of_lt (Nat.lt_of_le_of_lt (setBit_false_le _ _) (State.get_lt _))
      refine (congrArg (nbit · v) hg).trans ?_
      rw [nbit_setBit_false, left]
      by_cases he : v = n
      · subst he; simp [hk]
      · simp [he, show (n ≤ v) = (n + 1 ≤ v) by simp; omega]
  · have hc : (nbit (s.get HIF_MSIX_PBA.PENDING) n && (decide (n ≤ n) || s.flag (HIF_MSIX_DATA.MASK n)) &&
        !s.flag (HIF_MSIX_DATA.MASK n) && !false) = false := by
      revert hb
      cases nbit (s.get HIF_MSIX_PBA.PENDING) n <;> cases s.flag (HIF_MSIX_DATA.MASK n) <;> simp
    rw [hc, if_neg Bool.false_ne_true]
    refine ⟨⟨same, regs⟩, fun v hv hb' hk => ?_, fun v => ?_⟩
    · exact sent v (by
        have : v ≠ n := fun e => hb (e ▸ ⟨hb', hk⟩)
        omega) hb' hk
    · rw [left]
      by_cases he : v = n
      · subst he
        revert hb
        cases nbit (s.get HIF_MSIX_PBA.PENDING) v <;> cases s.flag (HIF_MSIX_DATA.MASK v) <;> simp
      · simp [show (n ≤ v) = (n + 1 ≤ v) by simp; omega]

/-- After the messages of all vectors were looked at, those that are not masked have gone out. -/
theorem State.FlushedTo.unmasked (hw : s.regsWf) (held : s.recsHeld = false) : s.FlushedTo 64 s.unmasked := by
  have all (n : Nat) : s.FlushedTo n (s.forN n fun v s =>
      if nbit (s.get HIF_MSIX_PBA.PENDING) v && !s.flag (HIF_MSIX_DATA.MASK v) && !s.recsHeld then
        (s.put HIF_MSIX_PBA.PENDING (setBit (s.get HIF_MSIX_PBA.PENDING) v false)).signal v else s) := by
    induction n with
    | zero => exact .zero
    | succ n ih => exact ih.succ hw held
  unfold State.unmasked
  split
  · rename_i h
    have hb (v : Nat) : nbit 0 v = false := by simp [nbit]
    exact ⟨.refl, fun v _ hv => (by rw [h, hb] at hv; cases hv), fun v => by rw [h, hb]; rfl⟩
  · exact all 64

theorem State.unmasked_of_none (h : s.get HIF_MSIX_PBA.PENDING = 0) : s.unmasked = s := if_pos h

end Sys2Proof.Machine
end

section
/-!
Link training and the D-states, as the obligation states them (O40).
-/

namespace Sys2Proof.Machine

variable {s t u : State}

/-- The pending messages of `s` that are not masked stand among the sent ones of `t`, and are pending no more. -/
def State.Flushed (s t : State) : Prop := ∀ v < 64, nbit (s.get HIF_MSIX_PBA.PENDING) v = true → s.flag (HIF_MSIX_DATA.MASK v) = false →
  v ∈ t.host.msix ∧ nbit (t.get HIF_MSIX_PBA.PENDING) v = false

/-- The registers that an event, or a change of rung, leaves: neither the drop counter, nor a queue's, nor the rung's. -/
abbrev eventKept (off : Nat) : Prop := off ≠ 0xA4 ∧ off / 0x1000 ≠ 3 ∧ off ≠ 0x80008

theorem eventKept_mask {v : Nat} (hv : v < 64) : eventKept (HIF_MSIX_DATA.MASK v).addr := by
  simp only [eventKept, HIF_MSIX_DATA.MASK]
  omega

/-- From `s` to `t` events are posted, and registers change with them. -/
def State.Events (s t : State) : Prop :=
  t = { s with regs := t.regs, host := { s.host with recs := t.host.recs, lostNow := t.host.lostNow } } ∧ s.Regs eventKept t

theorem State.Events.refl : s.Events s := ⟨rfl, .refl⟩

theorem State.Events.trans (h : s.Events t) (g : t.Events u) : s.Events u := by
  obtain ⟨ht, hr⟩ := h
  obtain ⟨hu, gr⟩ := g
  exact ⟨hu.trans (by rw [ht]), hr.trans gr⟩

theorem State.Events.put {f : Fld} {v : Nat} (h : ¬ eventKept f.addr) : s.Events (s.put f v) := ⟨rfl, .put h⟩

theorem State.Events.post {code a0 a1 : Nat} : s.Events (s.post code a0 a1) :=
  ⟨State.post_eq, .post (by decide) fun q hq => by simp only [eventKept]; omega⟩

theorem State.FlushedTo.flushed (h : s.FlushedTo 64 t) : s.Flushed t := fun v hv hb hk =>
  ⟨h.sent v hv hb hk, by rw [h.left, hk]; simp [show ¬ 64 ≤ v by omega]⟩

/-- Where what is pending and what is masked is as in `s`. -/
theorem State.Flushed.of_regs (hw : s.regsWf) (h : s.Regs eventKept t) (g : t.Flushed u) : s.Flushed u := fun v hv hb hk =>
  g v hv (by rwa [h.get hw (f := HIF_MSIX_PBA.PENDING) (by decide)]) (by rwa [h.flag hw (eventKept_mask hv)])

theorem State.Flushed.events (hw : t.regsWf) (h : s.Flushed t) (hr : t.Regs eventKept u) (hm : u.host.msix = t.host.msix) :
    s.Flushed u := fun v hv hb hk => by
  rw [hm, hr.get hw (f := HIF_MSIX_PBA.PENDING) (by decide)]
  exact h v hv hb hk

/-- The link trained. -/
def State.linkTrained (s : State) : State :=
  let v := s.fresh.toNat
  s.took.onHost (fun h => { h with
    linkUp := true, d3 := false, port := { h.port with rate := Fin.ofNat 6 v, width := Fin.ofNat 4 (v / 8), flit := nbit v 5 || v % 6 == 5 } })

/-- With the event that Lookout owes. -/
def State.trainedAll (s : State) : State :=
  if s.lko.owes then (s.linkTrained.post 0x0A08).onLko (fun l => { l with owes := false }) else s.linkTrained

theorem State.trainedAll_regs : s.Regs eventKept s.trainedAll :=
  .ite (State.Regs.trans (t := s.linkTrained) (.of_regs rfl) (State.Events.post.2.trans (.of_regs rfl))) (.of_regs rfl)

theorem State.trainedAll_host : s.trainedAll.host.linkUp = true ∧ s.trainedAll.recsHeld = false := by
  unfold State.trainedAll State.recsHeld
  split
  · obtain ⟨e, -⟩ := State.Events.post (s := s.linkTrained) (code := 0x0A08) (a0 := 0) (a1 := 0)
    simp only [State.onLko_host]
    rw [e]
    exact ⟨rfl, rfl⟩
  · exact ⟨rfl, rfl⟩

theorem gives_pcieLinkUp (hw : s.regsWf) (hl : s.host.linkUp = false) (hp : s.host.perst = false) (hu : 16 ∉ s.clk.unlocked) :
    Gives .pcieLinkUp s (fun t => t.host.linkUp = true ∧ s.Flushed t ∧ (s.get HIF_MSIX_PBA.PENDING = 0 → t = s.trainedAll)) := by
  refine .due (b := !s.host.linkUp && !s.host.perst && !s.clk.unlocked.contains 16) (t := s.trainedAll.unmasked) rfl (by simpa [hl, hp] using hu) ?_
  obtain ⟨up, held⟩ := State.trainedAll_host (s := s)
  have hf := State.FlushedTo.unmasked (State.trainedAll_regs.wf hw) held
  refine ⟨?_, hf.flushed.of_regs hw State.trainedAll_regs, fun h => State.unmasked_of_none ?_⟩
  · rw [hf.signals.1]
    exact up
  · rw [← h]
    exact State.trainedAll_regs.get hw (by decide)

theorem gives_pcieLinkUp_not (h : s.host.linkUp = true ∨ s.host.perst = true ∨ 16 ∈ s.clk.unlocked) :
    Gives .pcieLinkUp s (fun t => t = s) := by
  refine .notDue rfl ?_ rfl
  obtain h | h | h := h <;> simp [h]

/-! ### Rungs -/

/-- What a request of a rung touches. -/
theorem State.requestRung_eq {r : Nat} : let t := s.requestRung r
    t = { s with regs := t.regs, pwr := t.pwr, host := { s.host with recs := t.host.recs, lostNow := t.host.lostNow } } ∧
    s.Regs eventKept t := by
  unfold State.requestRung
  dsimp only
  split
  · exact ⟨rfl, .refl⟩
  · split
    · have h : s.Events (s.refuseRung r (s.rungWhy r)) := (State.Events.put (by decide)).trans .post
      obtain ⟨e, regs⟩ := h
      exact ⟨e.trans (by rw [e]), regs⟩
    · exact ⟨rfl, (State.Regs.put (by decide)).trans (.of_regs rfl)⟩

/-- A request that is taken is pending, and shown. -/
theorem State.requestRung_taken {r : Nat} (hf : s.pwr.failed = false) (hw : s.rungWhy r = 0) :
    s.requestRung r = (s.put PWR_RUNG.REQ r).onPwr (fun p => { p with want := some r }) := by
  unfold State.requestRung
  simp [hf, hw]

theorem State.requestRung_shown {r : Nat} (hr : r < 8) (hs : s.regsWf) (hf : s.pwr.failed = false) (hw : s.rungWhy r = 0) :
    (s.requestRung r).get PWR_RUNG.REQ = r ∧ (s.requestRung r).pwr.want = some r := by
  rw [State.requestRung_taken hf hw]
  refine ⟨(State.get_put_same PWR_RUNG.REQ r ⟨by decide, by decide⟩ hs).trans (Nat.mod_eq_of_lt hr), rfl⟩

theorem gives_d3hot (hw : s.regsWf) (hl : s.host.linkUp = true) (hd : s.host.d3 = false) :
    let r := if 1 ≤ s.get PWR_CTL.D3_RUNG ∧ s.get PWR_CTL.D3_RUNG ≤ 4 then s.get PWR_CTL.D3_RUNG else 2
    Gives .d3hot s (fun t => t.host.d3 = true ∧ t.barUp = false ∧ t.recsHeld = true ∧ t.mem = s.mem ∧ t.net = s.net ∧ t.host.slots = s.host.slots ∧
      (s.pwr.failed = false → s.rungWhy r = 0 → t.host = { s.host with d3 := true } ∧ t.get PWR_RUNG.REQ = r ∧ t.pwr.want = some r)) := by
  intro r
  have hr : r < 8 := by
    unfold r
    split <;> omega
  refine .due (t := (s.onHost (fun h => { h with d3 := true })).requestRung r) rfl (by rw [hl, hd]; rfl) ?_
  obtain ⟨e, -⟩ := State.requestRung_eq (s := s.onHost (fun h => { h with d3 := true })) (r := r)
  refine ⟨by rw [e]; rfl, ?_, ?_, by rw [e]; rfl, by rw [e]; rfl, by rw [e]; rfl, fun hf hy => ⟨?_, ?_⟩⟩
  · rw [State.barUp, e]
    simp
  · rw [State.recsHeld, e]
    simp
  · rw [State.requestRung_taken (s := s.onHost (fun h => { h with d3 := true })) hf hy]
    rfl
  · exact State.requestRung_shown (s := s.onHost (fun h => { h with d3 := true })) hr hw hf hy

/-- Whether Run may be asked for is a matter of two flags. -/
theorem State.rungWhy_zero_congr (hr : t.flag HIF_STAT.READY = s.flag HIF_STAT.READY) (hp : t.flag FLT_STAT.PARKED = s.flag FLT_STAT.PARKED) :
    t.rungWhy 0 = s.rungWhy 0 := by
  simp [State.rungWhy, hr, hp]

theorem gives_returnToD0 (hw : s.regsWf) (hd : s.host.d3 = true) :
    Gives .returnToD0 s (fun t => t.host.d3 = false ∧ (s.host.linkUp = true → s.Flushed t) ∧
      (s.get HIF_MSIX_PBA.PENDING = 0 → s.flag FLT_STAT.PARKED = true → t = s.onHost (fun h => { h with d3 := false })) ∧
      (s.flag FLT_STAT.PARKED = false → s.pwr.failed = false → s.rungWhy 0 = 0 → t.get PWR_RUNG.REQ = 0 ∧ t.pwr.want = some 0)) := by
  let s0 := s.onHost (fun h => { h with d3 := false })
  refine .due (t := if s.flag FLT_STAT.PARKED then s0.unmasked else s0.unmasked.requestRung 0) rfl hd ?_
  obtain ⟨same, regs⟩ := State.Signals.unmasked (s := s0)
  have hw1 : s0.unmasked.regsWf := regs.wf hw
  have flushed (h : s.host.linkUp = true) : s.Flushed s0.unmasked :=
    (State.FlushedTo.unmasked (s := s0) hw (by simp [State.recsHeld, s0, State.onHost, h])).flushed
  split
  · rename_i hp
    refine ⟨by rw [same]; rfl, flushed, fun h _ => State.unmasked_of_none h, fun h => ?_⟩
    rw [hp] at h
    cases h
  · obtain ⟨e, after⟩ := State.requestRung_eq (s := s0.unmasked) (r := 0)
    refine ⟨by rw [e, same]; rfl, fun h => ?_, fun _ h => absurd h (by assumption), fun _ hf hy => ?_⟩
    · exact (flushed h).events hw1 after (by rw [e])
    · refine State.requestRung_shown (by decide) hw1 (by rw [same]; exact hf) ?_
      refine Eq.trans ?_ hy
      exact State.rungWhy_zero_congr (regs.flag hw (by decide)) (regs.flag hw (by decide))

end Sys2Proof.Machine
end

section
/-!
Resets (O40): PERST_N and D3cold, their end, a hot reset, and the removal of VAUX.
-/

namespace Sys2Proof.Machine

variable {s t u : State}

/-! ### Full reset -/

/-- What a full reset of `s` leaves besides registers, Lookout and Cairn's queue. -/
structure State.ResetTo (s t : State) : Prop where
  fuses : t.fuses = s.fuses
  phase : t.cfg.phase = 6
  linkUp : t.host.linkUp = false
  slots : t.host.slots = []
  recs : t.host.recs = []
  hostMem : t.host.mem = s.host.mem
  net : t.net = State.reset.net
  swb : t.swb = State.reset.swb
  engines : t.engines = State.reset.engines
  isl : t.isl = State.reset.isl
  cry : t.cry = State.reset.cry
  hbm : t.hbm = { record := s.hbm.record }
  pending : t.pending = s.pending

/-- What is put into registers from 0x70000 on, into Lookout and Cairn's queue. -/
def State.Clears (s t : State) : Prop :=
  t = { s with regs := t.regs, lko := t.lko, cairn := t.cairn } ∧ s.Regs (fun o => o < 0x70000) t

theorem State.Clears.refl : s.Clears s := ⟨rfl, .refl⟩

theorem State.Clears.trans (h : s.Clears t) (g : t.Clears u) : s.Clears u := by
  obtain ⟨ht, hr⟩ := h
  obtain ⟨hu, gr⟩ := g
  exact ⟨hu.trans (by rw [ht]), hr.trans gr⟩

theorem State.Clears.put {f : Fld} {v : Nat} (h : 0x70000 ≤ f.addr) : s.Clears (s.put f v) := ⟨rfl, .put (Nat.not_lt.2 h)⟩

theorem State.Clears.forAll {α : Type} {l : List α} {f : α → State → State} (h : ∀ a x, State.Clears x (f a x)) :
    s.Clears (s.forAll l f) := by
  induction l generalizing s with
  | nil => exact .refl
  | cons a l ih => exact (h a s).trans ih

theorem State.Clears.drainFifo : s.Clears s.drainFifo := by
  unfold State.drainFifo
  split
  · refine State.Clears.trans (t := s.onCairn _) ⟨rfl, .of_regs rfl⟩ (.forAll fun p x => ?_)
    split
    · exact ⟨rfl, .of_regs rfl⟩
    · exact .refl
  · exact .refl

theorem State.Clears.lkoFree : s.Clears s.lkoFree := by
  refine State.Clears.trans (t := (s.putB DBG_LKO_CTL.HALTED false).put DBG_LKO_PC.PC 0) ?_ ?_
  · exact State.Clears.trans (State.Clears.put (by decide)) (.put (by decide))
  · exact State.forN_induct (P := State.Clears _) .refl fun k x h => h.trans (.put (by simp only [DBG_LKO_GPR.X]; omega))

theorem State.ResetTo.clears (h : s.ResetTo t) (e : t.Clears u) : s.ResetTo u := by
  obtain ⟨h1, h2, h3, h4, h5, h6, h7, h8, h9, h10, h11, h12, h13⟩ := h
  obtain ⟨e, -⟩ := e
  rw [e]
  exact ⟨h1, h2, h3, h4, h5, h6, h7, h8, h9, h10, h11, h12, h13⟩

/-- A full reset: what it leaves, and of the first registers only those that it keeps. -/
theorem State.fullReset_resets : s.ResetTo s.fullReset ∧
    (s.regsWf → s.fullReset.regsWf ∧ ∀ o < 0x70000, s.fullReset.reg o = if keptReg o then s.reg o else regReset o) := by
  unfold State.fullReset
  extract_lets _ _ _ t t1 t2
  have hc : t.Clears (((t2.lkoFree.put DBG_STAT.OPEN (s.get DBG_STAT.OPEN)).put DBG_STAT.FAILS (s.get DBG_STAT.FAILS)).put DBG_STAT.LOCKOUT
      (s.get DBG_STAT.LOCKOUT)).drainFifo := by
    have h1 : t.Clears t1 := (State.Clears.put (by decide)).trans ((State.Clears.put (by decide)).trans (.put (by decide)))
    have h2 : t1.Clears t2 := (State.Clears.put (by decide)).trans ((State.Clears.put (by decide)).trans (.put (by decide)))
    exact h1.trans (h2.trans (State.Clears.lkoFree.trans ((State.Clears.put (by decide)).trans ((State.Clears.put (by decide)).trans
      ((State.Clears.put (by decide)).trans .drainFifo)))))
  have ht : s.ResetTo t := ⟨rfl, rfl, rfl, rfl, rfl, rfl, rfl, rfl, rfl, rfl, rfl, rfl, rfl⟩
  refine ⟨ht.clears hc, fun hw => ?_⟩
  have hwt : t.regsWf := State.regsWf_filter hw
  refine ⟨hc.2.wf hwt, fun o ho => ?_⟩
  rw [hc.2.reg hwt ho]
  exact Table.peek_filter keptReg s.regs hw o

theorem State.notice_eq {cause : Nat} : let t := s.notice cause
    t = { s with twin := t.twin, cry := t.cry } := by
  unfold State.notice
  dsimp only
  split <;> rfl

/-! ### PERST_N and D3cold -/

theorem State.reg_congr (h : t.regs = s.regs) : t.reg = s.reg := by
  unfold State.reg
  rw [h]

theorem State.ResetTo.of_notice {cause : Nat} (h : (s.notice cause).ResetTo t) : s.ResetTo t := by
  obtain ⟨h1, h2, h3, h4, h5, h6, h7, h8, h9, h10, h11, h12, h13⟩ := h
  rw [State.notice_eq] at h1 h6 h12 h13
  exact ⟨h1, h2, h3, h4, h5, h6, h7, h8, h9, h10, h11, h12, h13⟩

theorem State.ResetTo.perst (h : s.ResetTo t) : s.ResetTo (t.onHost (fun h => { h with perst := true })) := by
  obtain ⟨h1, h2, h3, h4, h5, h6, h7, h8, h9, h10, h11, h12, h13⟩ := h
  exact ⟨h1, h2, h3, h4, h5, h6, h7, h8, h9, h10, h11, h12, h13⟩

/-- PERST_N resets the part after a notice to its partner. -/
theorem State.perstLow_of_started (h0 : s.cfg.phase ≠ 0) (h7 : s.cfg.phase ≠ 7) :
    s.perstLow = ((s.notice 3).fullReset).onHost (fun h => { h with perst := true }) := if_neg (not_or_intro h0 h7)

theorem State.perstLow_resets (h0 : s.cfg.phase ≠ 0) (h7 : s.cfg.phase ≠ 7) : s.ResetTo s.perstLow ∧ s.perstLow.host.perst = true := by
  rw [State.perstLow_of_started h0 h7]
  exact ⟨State.fullReset_resets.1.of_notice.perst, rfl⟩

/-- Of the first registers the reset keeps those of the timebase and of what the device is. -/
theorem State.perstLow_reg (hw : s.regsWf) (h0 : s.cfg.phase ≠ 0) (h7 : s.cfg.phase ≠ 7) {o : Nat} (ho : o < 0x70000) :
    s.perstLow.reg o = if keptReg o then s.reg o else regReset o := by
  have hr : (s.notice 3).regs = s.regs := by rw [State.notice_eq]
  have hwn : (s.notice 3).regsWf := by
    unfold State.regsWf
    rw [hr]
    exact hw
  obtain ⟨-, regs⟩ := State.fullReset_resets.2 hwn
  rw [State.perstLow_of_started h0 h7, ← State.reg_congr hr, ← regs o ho]
  rfl

theorem State.perstLow_now (hw : s.regsWf) (h0 : s.cfg.phase ≠ 0) (h7 : s.cfg.phase ≠ 7) : s.perstLow.now = s.now := by
  unfold State.now State.get
  rw [State.perstLow_reg hw h0 h7 (by decide), if_pos (by decide)]

theorem State.perstLow_ready (hw : s.regsWf) (h0 : s.cfg.phase ≠ 0) (h7 : s.cfg.phase ≠ 7) : s.perstLow.flag HIF_STAT.READY = false := by
  unfold State.flag State.get
  rw [State.perstLow_reg hw h0 h7 (by decide), if_neg (by decide)]
  decide

/-- What both PERST_N and D3cold give, out of the state that they leave. -/
theorem gives_perst {P : State → Prop} (h : s.host.perst = false) (p : P s.perstLow) : Gives .perstN s P ∧ Gives .d3cold s P :=
  ⟨.due rfl (by rw [h]; rfl) p, .due rfl (by rw [h]; rfl) p⟩

theorem gives_perst_not {P : State → Prop} (h : s.host.perst = true) (p : P s) : Gives .perstN s P ∧ Gives .d3cold s P :=
  ⟨.notDue rfl (by rw [h]; rfl) p, .notDue rfl (by rw [h]; rfl) p⟩

theorem State.perstLow_early (h : s.cfg.phase = 0 ∨ s.cfg.phase = 7) :
    s.perstLow = s.onHost (fun h => { h with linkUp := false, perst := true }) := if_pos h

theorem State.beginConfig_eq (hw : s.regsWf) : let t := s.beginConfig
    t = { s with regs := t.regs, cfg := { s.cfg with phase := 1 } } ∧ t.get (HBM_STAT.STATE 0) = 1 ∧ t.get (HBM_STAT.STATE 1) = 1 := by
  have e : s.beginConfig = ((s.onCfg (fun c => { c with phase := 1 })).put (HBM_STAT.STATE 0) 1).put (HBM_STAT.STATE 1) 1 := rfl
  have h0 : ((s.onCfg (fun c => { c with phase := 1 })).put (HBM_STAT.STATE 0) 1).regsWf := State.regsWf_put _ _ hw
  intro t
  have et : t = _ := e
  rw [et]
  refine ⟨rfl, ?_, ?_⟩
  · rw [State.get_put_other _ _ _ ⟨by decide, by decide⟩ (.inl (by decide)) h0]
    exact State.get_put_same _ _ ⟨by decide, by decide⟩ hw
  · exact State.get_put_same _ _ ⟨by decide, by decide⟩ h0

theorem gives_perstNRelease (hw : s.regsWf) (h : s.host.perst = true) :
    ((s.cfg.phase ≠ 6 ∨ s.cfg.progLow = true) → Gives .perstNRelease s (fun t => t = s.onHost (fun h => { h with perst := false }))) ∧
    (s.cfg.phase = 6 → s.cfg.progLow = false → Gives .perstNRelease s (fun t => t.cfg.phase = 1 ∧
      t.get (HBM_STAT.STATE 0) = 1 ∧ t.get (HBM_STAT.STATE 1) = 1 ∧
      t = { s with regs := t.regs, cfg := { s.cfg with phase := 1 }, host := { s.host with perst := false } })) := by
  refine ⟨fun hc => .due rfl h (if_neg ?_), fun h6 hp => ?_⟩
  · rintro ⟨h6, hp⟩
    obtain hc | hc := hc
    · exact hc h6
    · rw [hc] at hp
      cases hp
  · obtain ⟨e, g0, g1⟩ := State.beginConfig_eq (s := s.onHost (fun h => { h with perst := false })) hw
    refine .due (t := (s.onHost (fun h => { h with perst := false })).beginConfig) ?_ h ⟨by rw [e], g0, g1, e⟩
    have hc : s.cfg.phase = 6 ∧ !s.cfg.progLow := ⟨h6, by rw [hp]; rfl⟩
    exact congrArg (whenDue _ s) (if_pos hc)

end Sys2Proof.Machine
end

section
/-!
A hot reset and the removal of VAUX (O40).
-/

namespace Sys2Proof.Machine

variable {s t u : State}

/-- The host interface after a hot reset, before its count of enabled rings is cleared. -/
def State.hotCleared (s : State) : State :=
  { s with
    regs := s.regs.filter (fun (p : Nat × W64) => hotKept p.1)
    host := { mem := s.host.mem, perst := s.host.perst, linkUp := s.host.linkUp, aer := s.host.aer, tbAcc := s.host.tbAcc
              port := { rate := s.host.port.rate, width := s.host.port.width, flit := s.host.port.flit } } }

theorem State.regsWf_hotCleared (h : s.regsWf) : s.hotCleared.regsWf := State.regsWf_filter h

theorem State.reg_hotCleared (h : s.regsWf) (o : Nat) : s.hotCleared.reg o = if hotKept o then s.reg o else regReset o :=
  Table.peek_filter hotKept s.regs h o

/-- Of the registers but HIF_STAT, those that a hot reset keeps are the timebase's and what the device is. -/
theorem hotKept_iff {o : Nat} (h : o ≠ 0x54) : hotKept o = true ↔
    0x10000 ≤ o ∨ (0x100 ≤ o ∧ o < 0x120) ∨ (8 ≤ o ∧ o < 0x50) ∨ o = HIF_GRADE.SPEED.addr := by
  have h' : (o == HIF_STAT.READY.addr) = false := by simpa [HIF_STAT.READY] using h
  simp only [hotKept, h', Bool.or_false, Bool.or_eq_true, Bool.and_eq_true, decide_eq_true_eq, beq_iff_eq]
  omega

theorem gives_hotReset (hw : s.regsWf) (hp : s.host.perst = false) :
    Gives .hotReset s (fun t => t.host = { mem := s.host.mem, linkUp := s.host.linkUp, aer := s.host.aer, tbAcc := s.host.tbAcc, port := { rate := s.host.port.rate, width := s.host.port.width, flit := s.host.port.flit } } ∧
      t.get HIF_STAT.RINGS_ON = 0 ∧ t.flag HIF_STAT.READY = s.flag HIF_STAT.READY ∧ t.mem = s.mem ∧ t.swb = s.swb ∧ t.cry = s.cry ∧ t.hbm = s.hbm ∧
      t.engines = s.engines ∧ t.isl = s.isl ∧
      (s.host.pending = [] → t = { s with regs := t.regs, host := t.host } ∧ ∀ off, off ≠ 0x54 → t.reg off = if 0x10000 ≤ off ∨ (0x100 ≤ off ∧ off < 0x120) ∨ (8 ≤ off ∧ off < 0x50) ∨ off = HIF_GRADE.SPEED.addr
        then s.reg off else regReset off)) := by
  refine .due (t := s.failHostReads.hotCleared.put HIF_STAT.RINGS_ON 0) rfl (by rw [hp]; rfl) ?_
  obtain ⟨e, regs⟩ := State.Answers.failHostReads (s := s)
  have hw1 : s.failHostReads.regsWf := regs.wf hw
  have hw2 := State.regsWf_hotCleared hw1
  have ready : (s.failHostReads.hotCleared.put HIF_STAT.RINGS_ON 0).flag HIF_STAT.READY = s.flag HIF_STAT.READY := by
    unfold State.flag
    rw [State.get_put_other _ _ _ ⟨by decide, by decide⟩ (.inr (.inr (by decide))) hw2]
    unfold State.get
    rw [State.reg_hotCleared hw1, if_pos (by decide), regs.reg hw (by decide)]
    rfl
  have rings := State.get_put_same HIF_STAT.RINGS_ON 0 ⟨by decide, by decide⟩ hw2
  have host : s.failHostReads.host = { s.host with pending := [] } := congrArg State.host e
  refine ⟨?_, rings, ready, ?_, ?_, ?_, ?_, ?_, ?_, fun hn => ⟨?_, fun off ho => ?_⟩⟩
  · simp only [State.put_host, State.hotCleared, host, hp]
  · exact (congrArg State.mem e :)
  · exact (congrArg State.swb e :)
  · exact (congrArg State.cry e :)
  · exact (congrArg State.hbm e :)
  · exact (congrArg State.engines e :)
  · exact (congrArg State.isl e :)
  · rw [State.failHostReads_of_none hn]
    rfl
  · rw [State.reg_put_other ho hw2, State.reg_hotCleared hw1, State.failHostReads_of_none hn]
    simp only [hotKept_iff ho]

/-- Registers that stand in flash or in the test controller: those that VAUX's removal leaves. -/
def vauxKept (o : Nat) : Bool := o == MGT_ARB.COUNT.addr || (0x60040 ≤ o && o < 0x60070) || o == BST_SADDLE_RES.RESULT.addr

theorem State.now_of_vauxKept {v : Nat} (hw : s.regsWf) (h : t.regs = s.regs.filter (fun p => vauxKept p.1)) :
    (t.put DBG_STAT.OPEN v).now = 0 := by
  have hwt : t.regsWf := by
    unfold State.regsWf
    rw [h]
    exact State.regsWf_filter hw
  unfold State.now
  rw [State.get_put_other _ _ _ ⟨by decide, by decide⟩ (.inl (by decide)) hwt]
  unfold State.get State.reg
  rw [h, Table.peek_filter _ _ hw, if_neg (by decide)]
  decide

theorem gives_vauxRemoval (hw : s.regsWf) :
    Gives .vauxRemoval s (fun t => t.fuses = s.fuses ∧ t.now = 0 ∧ t.net = State.reset.net ∧ t.swb = State.reset.swb ∧ t.cfg = State.reset.cfg ∧
      t.mem = State.reset.mem ∧ t.engines = State.reset.engines ∧ t.isl = State.reset.isl ∧ t.cry = State.reset.cry ∧
      t.lko.flash = s.lko.flash ∧ t.host = { mem := s.host.mem } ∧ t.pending = s.pending) := by
  refine ⟨_, rfl, rfl, ?_, rfl, rfl, rfl, rfl, rfl, rfl, rfl, rfl, rfl, rfl⟩
  exact State.now_of_vauxKept hw rfl

end Sys2Proof.Machine
end

section
/-!
Loss of the reference and of a PLL's lock (O40).
-/

namespace Sys2Proof.Machine

variable {s t u : State}

/-! ### A PLL -/

/-- The loss of a PLL that had lock: it is recorded and reported, and the PCIe PLL's takes the link down. -/
theorem State.pllUnlock_eq {k : Nat} (h : k ∉ s.clk.unlocked) : s.pllUnlock k =
    (let x := (s.onClk (fun c => { c with unlocked := c.unlocked ++ [k] })).toCairn 0x08
      (if k = 16 then srcHost else srcSaddle (k - 15)) sevMajor 0
     if k = 16 then x.linkDown else x) := if_neg (by simpa using h)

/-- What a PLL's loss of lock reports. -/
def pllFault (k : Nat) : FaultMsg := { kind := 0x08, source := srcSaddle k, sev := 2, addr := 0 }

theorem gives_pllLossOfLock {k : Fin 3} (h : 16 + k.val ∉ s.clk.unlocked) :
    Gives (.pllLossOfLock k) s (fun t => t.clk = { s.clk with unlocked := s.clk.unlocked ++ [16 + k.val] } ∧ t.mem = s.mem ∧
      (k ≠ 0 → t = { s with clk := t.clk, inbox := s.inbox ++ [pllFault (k.val + 1)] }) ∧
      (k = 0 → t.host.linkUp = false ∧ t.host.pending = (if s.host.linkUp = true then [] else s.host.pending) ∧
        t.inbox = s.inbox ++ pllFault 0 :: if s.host.linkUp = true then [linkFault] else [])) := by
  refine .due (t := s.pllUnlock (16 + k.val)) rfl (by simpa using h) ?_
  rw [State.pllUnlock_eq h]
  by_cases hk : k = 0
  · subst hk
    let x := (s.onClk (fun c => { c with unlocked := c.unlocked ++ [16] })).toCairn 0x08 srcHost sevMajor 0
    change x.linkDown.clk = _ ∧ x.linkDown.mem = _ ∧ (_ → x.linkDown = _) ∧ (_ → x.linkDown.host.linkUp = _ ∧ x.linkDown.host.pending = _ ∧ x.linkDown.inbox = _)
    cases hl : s.host.linkUp
    · rw [State.linkDown_of_down (s := x) hl]
      exact ⟨rfl, rfl, fun hk => absurd rfl hk, fun _ => ⟨hl, rfl, rfl⟩⟩
    · obtain ⟨e, -⟩ := State.linkDown_eq (s := x) hl
      refine ⟨by rw [e]; rfl, by rw [e]; rfl, fun hk => absurd rfl hk, fun _ => ⟨by rw [e], by rw [e]; rfl, ?_⟩⟩
      rw [e]
      exact List.append_assoc ..
  · have h16 : 16 + k.val ≠ 16 := fun h => hk (Fin.ext (by simpa using h))
    simp only [if_neg h16]
    refine ⟨rfl, rfl, fun _ => ?_, fun h => absurd h hk⟩
    rw [show 16 + k.val - 15 = k.val + 1 by omega]
    rfl

theorem gives_privilegedPllRelock {k : Fin 3} (h : s.clk.holdover = 0) (hk : 16 + k.val ∈ s.clk.unlocked) :
    Gives (.privilegedPllRelock k) s (fun t =>
      t = s.onClk (fun c => { c with unlocked := c.unlocked.filter (fun x => x != 16 + k.val) }) ∧ 16 + k.val ∉ t.clk.unlocked) :=
  .due rfl (by simpa [h] using hk) ⟨rfl, by simp [State.onClk]⟩

theorem gives_privilegedPllRelock_not {k : Fin 3} (h : s.clk.holdover ≠ 0) : Gives (.privilegedPllRelock k) s (fun t => t = s) := by
  refine .notDue rfl ?_ rfl
  simp [h]

/-! ### The reference -/

theorem ok_quadLocked (q : Nat) : (IOB_QPLL.LOCKED q).ok := ⟨show 31 ≤ 31 by decide, show 31 < 64 by decide⟩

/-- The registers of the reference's status and of the quad PLLs. -/
abbrev refKept (off : Nat) : Prop := off = 0x70000 ∨ (0xD0000 ≤ off ∧ off < 0xD0040)

/-- From `s` to `t` what the reference's loss has done stands: its status, the quads without lock, what was reported, the link down. -/
structure State.Rides (s t : State) : Prop where
  ref : s.Regs (fun o => o = 0x70000) t
  quads : s.regsWf → ∀ q < 16, s.quadLocked q = false → t.quadLocked q = false
  holdover : t.clk.holdover = s.clk.holdover
  unlocked : ∀ k ∈ s.clk.unlocked, k ∈ t.clk.unlocked
  inbox : ∀ m ∈ s.inbox, m ∈ t.inbox
  link : s.host.linkUp = false → t.host.linkUp = false
  pcie : 16 ∈ t.clk.unlocked → 16 ∈ s.clk.unlocked ∨ t.host.linkUp = false

theorem State.Rides.trans (h : s.Rides t) (g : t.Rides u) : s.Rides u where
  ref := h.ref.trans g.ref
  quads hw q hq hl := g.quads (h.ref.wf hw) q hq (h.quads hw q hq hl)
  holdover := g.holdover.trans h.holdover
  unlocked k hk := g.unlocked k (h.unlocked k hk)
  inbox m hm := g.inbox m (h.inbox m hm)
  link hl := g.link (h.link hl)
  pcie h16 := (g.pcie h16).elim (fun h16 => (h.pcie h16).imp_right g.link) .inr

/-- Where neither these registers nor the clock unit change, nor the link. -/
theorem State.Rides.of (hr : s.Regs refKept t) (hc : t.clk = s.clk) (hi : ∀ m ∈ s.inbox, m ∈ t.inbox)
    (hl : t.host.linkUp = s.host.linkUp) : s.Rides t where
  ref hw := ⟨hr.wf hw, fun _ ho => hr.reg hw (.inl ho)⟩
  quads hw q hq h := by
    unfold State.quadLocked at *
    rwa [hr.flag hw (.inr (by simp only [IOB_QPLL.LOCKED]; omega))]
  holdover := by rw [hc]
  unlocked k hk := by rwa [hc]
  inbox := hi
  link h := hl.trans h
  pcie h := .inl (by rwa [hc] at h)

theorem State.Rides.refl : s.Rides s := .of .refl rfl (fun _ h => h) rfl

theorem State.Rides.elsewhere (hr : t.regs = s.regs) (hc : t.clk = s.clk) (hi : t.inbox = s.inbox) (hl : t.host.linkUp = s.host.linkUp) :
    s.Rides t := .of (.of_regs hr) hc (fun _ h => hi ▸ h) hl

theorem State.Rides.put {f : Fld} {v : Nat} (h : ¬ refKept f.addr) : s.Rides (s.put f v) := .of (.put h) rfl (fun _ h => h) rfl

theorem State.Rides.putB {f : Fld} {b : Bool} (h : ¬ refKept f.addr) : s.Rides (s.putB f b) := .put h

theorem State.Rides.post {code a0 a1 : Nat} : s.Rides (s.post code a0 a1) := by
  obtain ⟨e, -⟩ := State.Events.post (s := s) (code := code) (a0 := a0) (a1 := a1)
  refine .of (.post (by decide) fun q hq => by simp only [refKept]; omega) ?_ ?_ ?_
  · rw [e]
  · rw [e]; exact fun _ h => h
  · rw [e]

theorem State.Rides.toCairn {k n v a : Nat} : s.Rides (s.toCairn k n v a) :=
  .of (.of_regs rfl) rfl (fun _ h => List.mem_append_left _ h) rfl

theorem State.Rides.forN {n : Nat} {f : Nat → State → State} (h : ∀ k x, State.Rides x (f k x)) : s.Rides (s.forN n f) :=
  State.forN_induct (P := s.Rides) .refl fun k x hx => hx.trans (h k x)

theorem State.Rides.ite {c : Prop} [Decidable c] (h : s.Rides t) (g : s.Rides u) : s.Rides (if c then t else u) := by
  split
  · exact h
  · exact g

/-- A PLL other than the PCIe one joins those without lock. -/
theorem State.Rides.unlock {q : Nat} (h : q ≠ 16) :
    s.Rides (s.onClk (fun c => { c with unlocked := (c.unlocked ++ [q]).eraseDups })) where
  ref := .of_regs rfl
  quads _ _ _ h := h
  holdover := rfl
  unlocked k hk := by simp [State.onClk, hk]
  inbox _ h := h
  link h := h
  pcie h16 := .inl (by simpa [State.onClk, Ne.symm h] using h16)

/-- A quad PLL shows that it has no lock. -/
theorem State.Rides.quadOff {q : Nat} (hq : q < 16) : s.Rides (s.putB (IOB_QPLL.LOCKED q) false) where
  ref := .putB (by simp only [IOB_QPLL.LOCKED]; omega)
  quads hw p hp h := by
    unfold State.quadLocked at *
    by_cases e : p = q
    · subst e
      exact State.flag_putB_same _ _ (ok_quadLocked _) hw
    · unfold State.flag at *
      rwa [State.get_putB_other _ _ _ (ok_quadLocked _) (.inl (by simp only [IOB_QPLL.LOCKED]; omega)) hw]
  holdover := rfl
  unlocked _ h := h
  inbox _ h := h
  link h := h
  pcie h := .inl h

theorem State.Rides.setLink {e p : Nat} {up : Bool} : s.Rides (s.setLink e p up) :=
  .ite .refl (State.Rides.trans (t := s.put _ _) (.put (by simp only [refKept, IOB_ETH_STAT.LINK_UP]; omega)) .post)

theorem State.Rides.jesdLost {q : Nat} {b : Bool} : s.Rides (s.jesdLost q b) := by
  unfold State.jesdLost
  extract_lets s1
  have h1 : s.Rides s1 := .ite (.elsewhere rfl rfl rfl rfl) .refl
  refine .ite (h1.trans (State.Rides.trans (t := s1.putB _ _) (.putB ?_) .post)) h1
  simp only [refKept, IOB_JESD_STAT.SYNC]
  omega

theorem State.Rides.dropLinks {p : Nat → Bool} : s.Rides (s.dropLinks p) :=
  State.Rides.trans (t := s.forN 16 _) (.forN fun _ _ => .ite .setLink .refl) (.forN fun _ _ => .ite .jesdLost .refl)

theorem State.Rides.showHalf : s.Rides s.showHalf := .ite (.putB (by decide)) .refl

/-- What follows a quad PLL's loss once it shows it. -/
theorem State.Rides.quadUnlock_after {q : Nat} (hq : q < 16) : (s.putB (IOB_QPLL.LOCKED q) false).Rides (s.quadUnlock q) := by
  unfold State.quadUnlock
  extract_lets s1 s2
  have h1 : (s.putB (IOB_QPLL.LOCKED q) false).Rides s1 := State.Rides.showHalf.trans (.forN fun _ _ => .putB (by
    simp only [refKept, IOB_LANE_STAT.CDR_LOCK]; omega))
  exact (h1.trans (State.Rides.post.trans .toCairn)).trans (State.Rides.dropLinks.trans (.unlock (by omega)))

theorem State.Rides.quadUnlock {q : Nat} (hq : q < 16) : s.Rides (s.quadUnlock q) :=
  (State.Rides.quadOff hq).trans (.quadUnlock_after hq)

theorem State.quadLocked_quadUnlock {q : Nat} (hq : q < 16) (hw : s.regsWf) : (s.quadUnlock q).quadLocked q = false :=
  (State.Rides.quadUnlock_after hq).quads (State.regsWf_putB _ _ hw) q hq (State.flag_putB_same _ _ (ok_quadLocked _) hw)

theorem State.Rides.showBank {b : Nat} : s.Rides (s.showBank b) :=
  State.Rides.trans (t := s.putB _ _) (.putB (by simp only [refKept, IOB_BANK_STAT.SAFE]; omega))
    (.putB (by simp only [refKept, IOB_BANK_STAT.MISMATCH]; omega))

theorem State.Rides.bankUnlock {b : Nat} : s.Rides (s.bankUnlock b) := by
  unfold State.bankUnlock
  extract_lets s1
  have h1 : s.Rides s1 := State.Rides.trans (t := s.putB _ _) (.putB (by simp only [refKept, IOB_BANK_STAT.PLL_LOCK]; omega))
    (.elsewhere rfl rfl rfl rfl)
  exact h1.trans (State.Rides.showBank.trans (State.Rides.post.trans (State.Rides.toCairn.trans (.unlock (by omega)))))

theorem State.Rides.failHostReads : s.Rides s.failHostReads := by
  obtain ⟨e, regs⟩ := State.Answers.failHostReads (s := s)
  have regs : s.Regs refKept s.failHostReads := fun hw => by
    obtain ⟨hw', h⟩ := regs hw
    exact ⟨hw', fun o ho => h o (by simp only [refKept] at ho; omega)⟩
  exact .of regs (congrArg State.clk e :) (fun m hm => (congrArg State.inbox e :) ▸ hm) (congrArg (fun x => x.host.linkUp) e :)

theorem State.Rides.linkDown : s.Rides s.linkDown := by
  unfold State.linkDown
  split
  · rename_i hl
    refine State.Rides.trans (t := s.linkGone) ?_ (State.Rides.failHostReads.trans .toCairn)
    exact ⟨.of_regs rfl, fun _ _ _ h => h, rfl, fun _ h => h, fun _ h => h, fun _ => rfl, .inl⟩
  · exact .refl

theorem State.linkUp_linkDown : s.linkDown.host.linkUp = false := by
  cases h : s.host.linkUp
  · rw [State.linkDown_of_down h, h]
  · rw [(State.linkDown_eq h).1]

/-- A PLL's loss is recorded; the PCIe PLL's only with the link down. -/
theorem State.Rides.pllUnlock {k : Nat} : s.Rides (s.pllUnlock k) ∧ k ∈ (s.pllUnlock k).clk.unlocked := by
  by_cases hk : k ∈ s.clk.unlocked
  · rw [State.pllUnlock, if_pos (by simpa using hk)]
    exact ⟨.refl, hk⟩
  · rw [State.pllUnlock_eq hk]
    extract_lets x
    have hx : k ∈ x.clk.unlocked := List.mem_append_right _ (List.mem_singleton.2 rfl)
    have r : s.Regs (fun o => o = 0x70000) x := .of_regs rfl
    split
    · obtain ⟨g1, g2, g3, g4, g5, g6, g7⟩ := State.Rides.linkDown (s := x)
      refine ⟨⟨r.trans g1, g2, g3, fun n hn => g4 n (List.mem_append_left _ hn), fun m hm => g5 m (List.mem_append_left _ hm), g6,
        fun _ => .inr State.linkUp_linkDown⟩, g4 k hx⟩
    · rename_i h16
      refine ⟨⟨r, fun _ _ _ h => h, rfl, fun n hn => List.mem_append_left _ hn, fun m hm => List.mem_append_left _ hm, fun h => h,
        fun h => .inl ?_⟩, hx⟩
      exact (List.mem_append.1 h).resolve_right fun h => h16 (List.mem_singleton.1 h).symm

/-! ### An attempt that ends -/

/-- With all bits written a register holds the value. -/
theorem State.setBits_all (o v : Nat) : s.setBits o (2 ^ 64 - 1) v = s.setReg o (BitVec.ofNat 64 v) := by
  rw [State.setBits, Nat.and_two_pow_sub_one_eq_mod, Nat.and_two_pow_sub_one_eq_mod, Nat.mod_eq_of_lt (s.reg o).isLt, Nat.sub_self,
    Nat.zero_add]
  exact congrArg _ (BitVec.eq_of_toNat_eq (by simp))

/-- Clearing puts a quad PLL's register back to its reset value, which is without lock. -/
theorem clearsReg_quad : ∀ q < 16, clearsReg (IOB_QPLL.LOCKED q).addr = 2 ^ 64 - 1 ∧ regReset (IOB_QPLL.LOCKED q).addr = 1280 := by
  decide

/-- A register that clearing puts back: never the reference's, and a quad PLL's without lock. -/
theorem State.Rides.setBits {o : Nat} (h : clearsReg o ≠ 0) : s.Rides (s.setBits o (clearsReg o) (regReset o).toNat) where
  ref := .setReg (by rintro rfl; revert h; decide)
  quads hw q hq hl := by
    unfold State.quadLocked State.flag State.get at *
    by_cases e : (IOB_QPLL.LOCKED q).addr = o
    · subst e
      obtain ⟨hc, hr⟩ := clearsReg_quad q hq
      rw [hc, hr, State.setBits_all, State.reg_setReg_same _ _ hw]
      exact (by decide : (fieldOf (BitVec.ofNat 64 (1280 : W64).toNat) 31 31 == 1) = false)
    · rwa [State.setBits, State.reg_setReg_other _ e hw]
  holdover := rfl
  unlocked _ h := h
  inbox _ h := h
  link h := h
  pcie h := .inl h

theorem State.Rides.forAll {α : Type} {l : List α} {f : α → State → State} (h : ∀ a ∈ l, ∀ x, State.Rides x (f a x)) :
    s.Rides (s.forAll l f) := by
  induction l generalizing s with
  | nil => exact .refl
  | cons a l ih => exact (h a (List.mem_cons_self ..) s).trans (ih fun b hb => h b (List.mem_cons_of_mem _ hb))

theorem State.Rides.clearConfig : s.Rides s.clearConfig := by
  unfold State.clearConfig
  extract_lets undo s1 gone swb pwr cfg s2
  have h1 : s.Rides s1 := .forAll fun o ho x => .setBits (by simpa using (List.mem_filter.1 ho).2)
  have r2 : s1.Regs refKept s2 := fun hw => by
    refine ⟨Table.wf_filter regReset (fun p => !gone p.1) s1.regs hw, fun o ho => ?_⟩
    have hg : (!gone o) = true := by
      simp only [refKept] at ho
      simp only [gone, MEM_DEEP_RSV.RSV]
      simp
      omega
    exact (Table.peek_filter (fun o => !gone o) s1.regs hw o).trans (if_pos hg)
  have h2 : s1.Rides s2 := .of r2 rfl (fun _ h => h) rfl
  clear_value s2
  refine (h1.trans h2).trans (State.Rides.trans (t := s2.forN 32 _) (.forN fun b x => ?_) (.forN fun _ _ => .showBank))
  exact State.Rides.trans (t := x.put _ _) (.put (by simp only [refKept, IOB_BANK_STAT.VCLASS]; omega))
    (State.Rides.trans (t := State.put _ _ _) (.put (by simp only [refKept, IOB_BANK_STAT.PLL_LOCK]; omega))
      (.put (by simp only [refKept, IOB_BANK_STAT.CTX]; omega)))

theorem State.Rides.cfgFail_of_cleared {code : Nat} (h : s.Rides t) (e : s.clearConfig = t) : s.Rides (s.cfgFail code) := by
  unfold State.cfgFail
  rw [e]
  exact .ite (h.trans (.elsewhere rfl rfl rfl rfl)) (h.trans (.elsewhere rfl rfl rfl rfl))

theorem State.Rides.cfgFail {code : Nat} : s.Rides (s.cfgFail code) := State.Rides.clearConfig.cfgFail_of_cleared rfl

theorem State.Rides.cfgError {code : Nat} : s.Rides (s.cfgError code) := .ite .cfgFail .refl

/-! ### The loss of the reference -/

/-- The reference's status after its loss, holdover, and the report. -/
def State.refGone (s : State) : State :=
  ((((s.put CLK_REF_STAT.REF_OK 0).put CLK_REF_STAT.HOLDOVER 1).put CLK_REF_STAT.REF_LOST 1).onClk
    (fun c => { c with holdover := 1 })).toCairn 0x07 (srcSaddle 7) sevMajor 0

theorem State.refGone_flags (hw : s.regsWf) : s.refGone.regsWf ∧ s.refGone.flag CLK_REF_STAT.REF_OK = false ∧
    s.refGone.flag CLK_REF_STAT.HOLDOVER = true := by
  have h1 := State.regsWf_put CLK_REF_STAT.REF_OK 0 hw
  have h2 := State.regsWf_put CLK_REF_STAT.HOLDOVER 1 h1
  have ok : CLK_REF_STAT.REF_OK.ok ∧ CLK_REF_STAT.HOLDOVER.ok ∧ CLK_REF_STAT.REF_LOST.ok :=
    ⟨⟨by decide, by decide⟩, ⟨by decide, by decide⟩, ⟨by decide, by decide⟩⟩
  obtain ⟨ok0, ok1, ok2⟩ := ok
  refine ⟨State.regsWf_put CLK_REF_STAT.REF_LOST 1 h2, ?_, ?_⟩
  · have e : s.refGone.get CLK_REF_STAT.REF_OK = 0 :=
      (State.get_put_other _ _ _ ok2 (.inr (.inr (by decide))) h2).trans
        ((State.get_put_other _ _ _ ok1 (.inr (.inr (by decide))) h1).trans (State.get_put_same _ _ ok0 hw))
    rw [State.flag, e]
    rfl
  · have e : s.refGone.get CLK_REF_STAT.HOLDOVER = 1 :=
      (State.get_put_other _ _ _ ok2 (.inr (.inr (by decide))) h2).trans (State.get_put_same _ _ ok1 h1)
    rw [State.flag, e]
    rfl

/-- All quad PLLs lose lock. -/
def State.quadsGone (s : State) (n : Nat) : State := s.forN n (fun q s => if s.quadLocked q then s.quadUnlock q else s)

theorem State.quadsGone_rides (hw : s.regsWf) {n : Nat} (hn : n ≤ 16) :
    s.Rides (s.quadsGone n) ∧ ∀ q < n, (s.quadsGone n).quadLocked q = false := by
  induction n with
  | zero => exact ⟨.refl, fun q hq => absurd hq (Nat.not_lt_zero q)⟩
  | succ n ih =>
    obtain ⟨r, off⟩ := ih (by omega)
    have hwn := r.ref.wf hw
    change s.Rides (if (s.quadsGone n).quadLocked n then (s.quadsGone n).quadUnlock n else s.quadsGone n) ∧ ∀ q < n + 1,
      (if (s.quadsGone n).quadLocked n then (s.quadsGone n).quadUnlock n else s.quadsGone n).quadLocked q = false
    split
    · have u := State.Rides.quadUnlock (s := s.quadsGone n) (q := n) (by omega)
      refine ⟨r.trans u, fun q hq => ?_⟩
      by_cases e : q = n
      · rw [e]
        exact State.quadLocked_quadUnlock (by omega) hwn
      · exact u.quads hwn q (by omega) (off q (by omega))
    · rename_i hl
      refine ⟨r, fun q hq => ?_⟩
      by_cases e : q = n
      · subst e
        simpa using hl
      · exact off q (by omega)

theorem gives_refLost (hw : s.regsWf) (h : s.clk.holdover = 0) :
    Gives .refLost s (fun t => t.flag CLK_REF_STAT.REF_OK = false ∧ t.flag CLK_REF_STAT.HOLDOVER = true ∧
      t.clk.holdover = 1 ∧ (∀ k : Fin 3, 16 + k.val ∈ t.clk.unlocked) ∧ (16 ∉ s.clk.unlocked → t.host.linkUp = false) ∧ (∀ q < 16, t.quadLocked q = false) ∧
      t.inbox.any (fun m => m.kind == 0x07 && m.source == srcSaddle 7) = true) := by
  let s3 := (s.refGone.quadsGone 16).forN 32 (fun b s => if s.flag (IOB_BANK_STAT.PLL_LOCK b) then s.bankUnlock b else s)
  refine .due (t := (((s3.pllUnlock 16).pllUnlock 17).pllUnlock 18).cfgError 21) rfl (by rw [h]; rfl) ?_
  obtain ⟨hw1, ok, hold⟩ := State.refGone_flags hw
  obtain ⟨r2, off⟩ := State.quadsGone_rides hw1 (Nat.le_refl 16)
  obtain ⟨p16, m16⟩ := State.Rides.pllUnlock (s := s3) (k := 16)
  obtain ⟨p17, m17⟩ := State.Rides.pllUnlock (s := s3.pllUnlock 16) (k := 17)
  obtain ⟨p18, m18⟩ := State.Rides.pllUnlock (s := (s3.pllUnlock 16).pllUnlock 17) (k := 18)
  have last := State.Rides.cfgError (s := ((s3.pllUnlock 16).pllUnlock 17).pllUnlock 18) (code := 21)
  have after : (s.refGone.quadsGone 16).Rides ((((s3.pllUnlock 16).pllUnlock 17).pllUnlock 18).cfgError 21) :=
    (State.Rides.forN fun _ _ => .ite .bankUnlock .refl).trans (p16.trans (p17.trans (p18.trans last)))
  generalize (((s3.pllUnlock 16).pllUnlock 17).pllUnlock 18).cfgError 21 = t at last after
  have all := r2.trans after
  have u16 : 16 ∈ t.clk.unlocked := last.unlocked _ (p18.unlocked _ (p17.unlocked _ m16))
  refine ⟨?_, ?_, all.holdover, fun k => ?_, fun h16 => (all.pcie u16).resolve_left h16, fun q hq => ?_, ?_⟩
  · rw [all.ref.flag hw1 rfl, ok]
  · rw [all.ref.flag hw1 rfl, hold]
  · match k with
    | 0 => exact u16
    | 1 => exact last.unlocked _ (p18.unlocked _ m17)
    | 2 => exact last.unlocked _ m18
  · exact after.quads (r2.ref.wf hw1) q hq (off q hq)
  · exact List.any_eq_true.2 ⟨_, all.inbox _ (List.mem_append_right _ (List.mem_singleton.2 rfl)), by decide⟩

end Sys2Proof.Machine
end

section
/-!
An access through BAR4 that stays within one block (R299, O40).
-/

namespace Sys2Proof.Machine

variable {s : State} {a n v : Nat}

/-- A span within one 256-byte block is that block's alone. -/
theorem blocksOf_single {k : Nat} (hn : 0 < n) (h : a % 256 + n ≤ 256) : blocksOf a n (k + 2) = [(a, n)] := by
  have e : min n (256 - a % 256) = n := by omega
  simp only [blocksOf, if_neg (Nat.pos_iff_ne_zero.1 hn), e, Nat.sub_self, if_pos]

/-- A block waits as its endpoint does, and not where it has none. -/
theorem State.bar4Waits_some {write : Bool} (he : endpointOf a = some v) :
    s.bar4Waits [(a, n)] write = s.endWaits {} v a n write := by
  simp only [State.bar4Waits, List.any_cons, List.any_nil, he, Bool.or_false]

theorem State.bar4Waits_none {write : Bool} (he : endpointOf a = none) : s.bar4Waits [(a, n)] write = false := by
  simp only [State.bar4Waits, List.any_cons, List.any_nil, he, Bool.or_false]

/-- One block's read: its endpoint's reply, an error counted. -/
theorem State.readBlocks_some (he : endpointOf a = some v) : let r := s.readEnd {} v a n
    s.readBlocks [(a, n)] = if r.1 ≠ 0 then (r.1, [], r.2.2.errCount r.1) else (0, r.2.1, r.2.2) := by
  simp only [State.readBlocks, he, List.append_nil]

theorem State.readBlocks_none (he : endpointOf a = none) : s.readBlocks [(a, n)] = (3, [], s.errCount 3) := by
  simp only [State.readBlocks, he]
  rfl

/-- One block's write: its endpoint's, an error counted and posted. -/
theorem State.writeBlocks_some {bs : List Byte} (he : endpointOf a = some v) : let w := s.writeEnd {} {} v a bs
    s.writeBlocks bs [(a, bs.length)] = if w.1 = 0 then w.2 else ((w.2.errCount w.1).bump HIF_BAR4_ERR.COUNT).post 0x0103 a w.1 := by
  simp only [State.writeBlocks, he, List.take_length, ite_not]

/-! ### Reads -/

section
variable {off : BitVec 36} {m : Fin 4096} {P : State → Prop}

theorem gives_bar4Read_shut (h : s.barUp = false ∨ s.bar4Ok (s.bar4At off) = false) :
    Gives (.bar4Read off m) s (fun t => t = s.answer [] 0x100) := by
  refine .intro (if_pos ?_) rfl
  simpa using h

/-- A read that BAR4 serves at once. -/
theorem gives_bar4Read (hb : s.barUp = true) (ho : s.bar4Ok (s.bar4At off) = true) (hl : s.bar4At off % 256 + m.val + 1 ≤ 256)
    (hw : s.bar4Waits [(s.bar4At off, m.val + 1)] false = false)
    (p : let r := s.readBlocks [(s.bar4At off, m.val + 1)]
      P (if r.1 = 0 then r.2.2.answer r.2.1 else r.2.2.answer [] (if r.1 = 4 then bar4Poison else bar4Ca))) :
    Gives (.bar4Read off m) s P := by
  refine .intro ?_ p
  change execBar4Read off m s = _
  simp only [execBar4Read, blocksOf_single (k := 16) (Nat.succ_pos m.val) hl, hb, ho, hw]
  rfl

theorem gives_bar4Read_some (hb : s.barUp = true) (ho : s.bar4Ok (s.bar4At off) = true) (hl : s.bar4At off % 256 + m.val + 1 ≤ 256)
    (he : endpointOf (s.bar4At off) = some v) (hw : s.endWaits {} v (s.bar4At off) (m.val + 1) false = false) :
    let r := s.readEnd {} v (s.bar4At off) (m.val + 1)
    Gives (.bar4Read off m) s (fun t => (r.1 = 0 → t = r.2.2.answer r.2.1) ∧ (r.1 = 4 → t = (r.2.2.errCount 4).answer [] 0x102) ∧
      (r.1 ≠ 0 → r.1 ≠ 4 → t = (r.2.2.errCount r.1).answer [] 0x101)) := by
  refine gives_bar4Read hb ho hl ((State.bar4Waits_some he).trans hw) ?_
  rw [State.readBlocks_some he]
  generalize s.readEnd {} v (s.bar4At off) (m.val + 1) = r
  refine ⟨fun h0 => ?_, fun h4 => ?_, fun h0 h4 => ?_⟩
  · simp [h0]
  · simp [h4, bar4Poison]
  · simp [h0, h4, bar4Ca]

theorem gives_bar4Read_none (hb : s.barUp = true) (ho : s.bar4Ok (s.bar4At off) = true) (hl : s.bar4At off % 256 + m.val + 1 ≤ 256)
    (he : endpointOf (s.bar4At off) = none) : Gives (.bar4Read off m) s (fun t => t = (s.errCount 3).answer [] 0x101) := by
  refine gives_bar4Read hb ho hl (State.bar4Waits_none he) ?_
  rw [State.readBlocks_none he]
  rfl
end

/-! ### Writes -/

section
variable {off : BitVec 36} {bs : List Byte}

/-- What a write of the bytes that BAR4 takes answers. -/
theorem exec_bar4Write (hn : bs ≠ []) (hl : bs.length ≤ 4096) :
    exec (.bar4Write off bs) s = if !s.barUp ∨ !s.bar4Ok (s.bar4At off) then .next (s.answer [] bar4Ur)
      else if !s.flag HIF_CTL.BAR4_WR then .next (s.answer [])
      else if s.bar4Waits (blocksOf (s.bar4At off) bs.length 18) true then notDue s
      else .next ((s.writeBlocks bs (blocksOf (s.bar4At off) bs.length 18)).answer []) := by
  have h : ¬ (bs = [] ∨ bs.length > 4096) := not_or.2 ⟨hn, Nat.not_lt.2 hl⟩
  exact if_neg h

theorem gives_bar4Write_shut (hn : bs ≠ []) (hl : bs.length ≤ 4096) (h : s.barUp = false ∨ s.bar4Ok (s.bar4At off) = false) :
    Gives (.bar4Write off bs) s (fun t => t = s.answer [] 0x100) := by
  refine .intro ((exec_bar4Write hn hl).trans (if_pos ?_)) rfl
  simpa using h

theorem gives_bar4Write_dropped (hn : bs ≠ []) (hl : bs.length ≤ 4096) (hb : s.barUp = true) (ho : s.bar4Ok (s.bar4At off) = true)
    (hf : s.flag HIF_CTL.BAR4_WR = false) : Gives (.bar4Write off bs) s (fun t => t = s.answer []) := by
  refine .intro ((exec_bar4Write hn hl).trans ?_) rfl
  simp [hb, ho, hf]

theorem gives_bar4Write_some (hn : bs ≠ []) (hl : bs.length ≤ 4096) (hb : s.barUp = true) (ho : s.bar4Ok (s.bar4At off) = true)
    (hf : s.flag HIF_CTL.BAR4_WR = true) (hs : s.bar4At off % 256 + bs.length ≤ 256) (he : endpointOf (s.bar4At off) = some v)
    (hw : s.endWaits {} v (s.bar4At off) bs.length true = false) :
    let w := s.writeEnd {} {} v (s.bar4At off) bs
    Gives (.bar4Write off bs) s (fun t =>
      t = (if w.1 = 0 then w.2 else ((w.2.errCount w.1).bump HIF_BAR4_ERR.COUNT).post 0x0103 (s.bar4At off) w.1).answer []) := by
  have waits := (State.bar4Waits_some (n := bs.length) he).trans hw
  refine .intro ((exec_bar4Write hn hl).trans ?_) rfl
  rw [blocksOf_single (k := 16) (List.length_pos_iff.2 hn) hs, waits, State.writeBlocks_some he]
  simp [hb, ho, hf]
end

end Sys2Proof.Machine
end

section
/-!
Writes of registers (R14, R293, R297, O40).
-/

namespace Sys2Proof.Machine

variable {s : State}

/-! ### A field's bits as a mask -/

/-- The bits [hi:lo] of a number, in place. -/
theorem and_span (x : Nat) {hi lo : Nat} (h : lo ≤ hi) : x &&& (2 ^ (hi + 1) - 2 ^ lo) = nfield x hi lo * 2 ^ lo := by
  have e : 2 ^ (hi + 1) - 2 ^ lo = (2 ^ (hi + 1 - lo) - 1) * 2 ^ lo := by
    rw [Nat.sub_mul, Nat.one_mul, ← Nat.pow_add, Nat.sub_add_cancel (by omega)]
  apply Nat.eq_of_testBit_eq
  intro j
  rw [e, Nat.testBit_and, Nat.testBit_mul_two_pow, Nat.testBit_mul_two_pow, Nat.testBit_two_pow_sub_one, nfield,
    Nat.testBit_mod_two_pow, Nat.testBit_div_two_pow]
  by_cases hj : lo ≤ j
  · simp [hj, Bool.and_comm]
  · simp [hj]

/-- A number is its bits above a field, the field and those below it. -/
theorem nfield_split (x : Nat) {hi lo : Nat} (h : lo ≤ hi) :
    x / 2 ^ (hi + 1) * 2 ^ (hi + 1) + nfield x hi lo * 2 ^ lo + x % 2 ^ lo = x := by
  have e : 2 ^ (hi + 1) = 2 ^ lo * 2 ^ (hi + 1 - lo) := by rw [← Nat.pow_add]; congr 1; omega
  have upper := Nat.div_add_mod (x / 2 ^ lo) (2 ^ (hi + 1 - lo))
  have lower := Nat.div_add_mod x (2 ^ lo)
  rw [Nat.div_div_eq_div_mul, ← e] at upper
  calc _ = 2 ^ lo * (2 ^ (hi + 1 - lo) * (x / 2 ^ (hi + 1)) + nfield x hi lo) + x % 2 ^ lo := by rw [e]; ring
    _ = x := by rw [nfield, upper, lower]

/-- Taking the bits of one field from a value is a write of the field. -/
theorem State.setBits_span (f : Fld) (v : Nat) (h : f.lo ≤ f.hi) :
    s.setBits f.addr (2 ^ (f.hi + 1) - 2 ^ f.lo) v = s.put f (v / 2 ^ f.lo) := by
  unfold State.setBits State.put setField
  have split := nfield_split (s.reg f.addr).toNat h
  rw [and_span _ h, and_span v h]
  congr 2
  rw [show v / 2 ^ f.lo % 2 ^ (f.hi + 1 - f.lo) = nfield v f.hi f.lo from rfl]
  omega

/-! ### Writes that change no bit -/

/-- A register written with what it holds. -/
theorem State.setReg_self (hw : s.regsWf) (off : Nat) : s.setReg off (s.reg off) = s := by
  have e : s.regs.poke regReset off (s.reg off) = s.regs := by
    refine Table.ext_of_peek regReset _ _ (Table.wf_poke regReset _ _ _ hw) hw fun k => ?_
    by_cases hk : k = off
    · rw [hk]
      exact Table.peek_poke_same regReset _ _ _ hw
    · exact Table.peek_poke_other regReset _ _ hk hw
  unfold State.setReg
  rw [e]

theorem State.setBits_none (hw : s.regsWf) (off v : Nat) : s.setBits off 0 v = s := by
  have e : (BitVec.ofNat 64 ((s.reg off).toNat - ((s.reg off).toNat &&& 0) + (v &&& 0))) = s.reg off := by simp
  unfold State.setBits
  rw [e, State.setReg_self hw]

theorem State.plainWrite_inert {off v mask : Nat} (hw : s.regsWf) (ho : s.openBits off = 0) (h1 : w1cBits off = 0)
    (ha : s.afterWrite off = s) : s.plainWrite off v mask = s := by
  unfold State.plainWrite
  rw [ho, h1, Nat.zero_and, Nat.zero_and, State.setBits_none hw, State.setBits_none hw, ha]

/-! ### Registers of the host interface -/

/-- Nothing follows a write below the other units' registers. -/
theorem State.afterWrite_host {off : Nat} (h : off < 0x10000) : s.afterWrite off = s := by
  unfold State.afterWrite
  rw [if_neg (by omega), if_neg (by omega)]

/-- Registers of the host interface whose writes have no effect of their own: no control register of a ring, no event queue's
configuration, no counter clear. -/
def silentReg (off : Nat) : Bool :=
  off < 0x8000 && !(0x100C ≤ off && (off - 0x100C) % 0x20 == 0 && off < 0x300C) &&
    !(0x3008 ≤ off && (off - 0x3008) % 0x20 == 0 && off < 0x3808) && off != 0xAC

theorem State.ownWrite_silent {go : State → State} {x : WriteAux} {pcie : Bool} {off m w : Nat} (h : silentReg off = true) :
    s.ownWrite go x pcie off m w = s := by
  simp only [silentReg, Bool.and_eq_true, decide_eq_true_eq, Bool.not_eq_true', bne_iff_ne, ne_eq] at h
  obtain ⟨⟨⟨hlt, ring⟩, queue⟩, clear⟩ := h
  have below {a : Nat} (ha : 0x8000 ≤ a) : ¬ off = a := by omega
  have out {a n k : Nat} (ha : 0x8000 ≤ a) :
      ¬ (decide (a ≤ off) && decide (off < a + n * k) && (off - a) % n == 0) = true := by
    simp only [Bool.and_eq_true, decide_eq_true_eq]
    omega
  have notRing : ¬ (decide (0x100C ≤ off) && decide (off < 0x100C + 0x20 * 256) && (off - 0x100C) % 0x20 == 0) = true := by
    simp only [Bool.and_eq_false_iff, Bool.and_eq_true, decide_eq_true_eq, decide_eq_false_iff_not,
      beq_iff_eq, beq_eq_false_iff_ne] at ring ⊢
    omega
  have notQueue : ¬ (decide (0x3008 ≤ off) && decide (off < 0x3008 + 0x20 * 64) && (off - 0x3008) % 0x20 == 0) = true := by
    simp only [Bool.and_eq_false_iff, Bool.and_eq_true, decide_eq_true_eq, decide_eq_false_iff_not,
      beq_iff_eq, beq_eq_false_iff_ne] at queue ⊢
    omega
  have notRegion : ¬ regionReg off = true := by
    have : 0x8000 ≤ SWB_IMG_BASE.BASE.addr := by decide
    simp only [regionReg, Bool.and_eq_true, decide_eq_true_eq]
    omega
  unfold State.ownWrite
  refine Eq.trans (if_neg notRing) ?_
  refine Eq.trans (if_neg notQueue) ?_
  refine Eq.trans (if_neg (out (by decide))) ?_
  refine Eq.trans (if_neg notRegion) ?_
  iterate 5 refine Eq.trans (if_neg (out (by decide))) ?_
  refine Eq.trans (if_neg clear) ?_
  iterate 28 refine Eq.trans (if_neg (below (by decide))) ?_
  rfl

theorem silentReg_lt {off : Nat} (h : silentReg off = true) : off < 0x8000 := by
  simp only [silentReg, Bool.and_eq_true, decide_eq_true_eq] at h
  exact h.1.1.1

/-- Registers of the host interface are shut before READY where they are a ring's or an event queue's, and otherwise open. -/
theorem State.shutReg_host {off : Nat} (h : off < 0x8000) :
    s.shutReg off = (0x1000 ≤ off && off < 0x4000 && !s.flag HIF_STAT.READY) := by
  have region : regionReg off = false := by
    have : 0x8000 ≤ SWB_IMG_BASE.BASE.addr := by decide
    have : decide (SWB_IMG_BASE.BASE.addr ≤ off) = false := decide_eq_false (by omega)
    rw [regionReg, this, Bool.false_and]
  have port : decide ((IOB_ETH_CFG.MODE 0).addr ≤ off) = false := by
    have : 0x8000 ≤ (IOB_ETH_CFG.MODE 0).addr := by decide
    exact decide_eq_false (by omega)
  have debug : decide (0xE0400 ≤ off) = false := decide_eq_false (by omega)
  unfold State.shutReg
  rw [region, port, debug]
  simp only [Bool.false_and, Bool.or_false]

section
variable {go : State → State} {x : WriteAux} {pcie : Bool} {off v mask : Nat}

/-- A write of a register of the host interface that has no effect of its own. -/
theorem State.regWrite_silent (h : silentReg off = true) :
    s.regWrite go x pcie off v mask = if s.shutReg off then s else s.plainWrite off v mask := by
  have hlt := silentReg_lt h
  have trace : ¬ off = DBG_TRC_CTL.EN.addr := Nat.ne_of_lt (Nat.lt_trans hlt (by decide))
  unfold State.regWrite
  extract_lets w old m
  rw [if_neg trace, State.ownWrite_silent h]

theorem State.plainWrite_host (h : off < 0x8000) : s.plainWrite off v mask =
    (s.setBits off (s.openBits off &&& mask) v).setBits off (w1cBits off &&& mask &&& v) 0 :=
  State.afterWrite_host (by omega)

/-- A register without bits that a write changes. -/
theorem State.regWrite_inert (hw : s.regsWf) (h : silentReg off = true) (ho : s.openBits off = 0) (h1 : w1cBits off = 0) :
    s.regWrite go x pcie off v mask = s := by
  rw [State.regWrite_silent h, State.plainWrite_inert hw ho h1 (State.afterWrite_host (Nat.lt_trans (silentReg_lt h) (by decide)))]
  exact ite_self s

/-- Where no register stands a write changes nothing. -/
theorem State.regWrite_absent (hw : s.regsWf) (h : silentReg off = true) (hr : regRow? off = none) :
    s.regWrite go x pcie off v mask = s :=
  State.regWrite_inert hw h (by rw [State.openBits, hr]) (by rw [w1cBits, hr])

/-! ### The bus -/

/-- A write of 4 bytes on the bus. -/
def State.fourWrite (s : State) (go : State → State) (x : WriteAux) (pcie : Bool) (o n : Nat) : State :=
  if o = 0x110 then landed s (tbSet 1 (BitVec.ofNat 64 n) s)
  else if o = 0x114 then landed s (tbSet 2 (BitVec.ofNat 64 n) s)
  else if o % 8 = 4 && wideReg (o - 4) then s.regWrite go x pcie (o - 4) (n * 2 ^ 32) ((2 ^ 32 - 1) * 2 ^ 32)
  else s.regWrite go x pcie o n (2 ^ 32 - 1)

/-- A bus write is one write of 4 bytes, of a 64-bit register, or two of 4 bytes. -/
theorem State.busWrite_eq {wide : Bool} : s.busWrite go x pcie off wide v =
    if off % (if wide then 8 else 4) ≠ 0 then s
    else if !wide then s.fourWrite go x pcie off (v % 2 ^ 32)
    else if off = 0x110 then landed s (tbSet 0 (BitVec.ofNat 64 v) s)
    else if wideReg off then s.regWrite go x pcie off v (2 ^ 64 - 1)
    else (s.fourWrite go x pcie off (v % 2 ^ 32)).fourWrite go x pcie (off + 4) (v / 2 ^ 32) := rfl

/-- A write of 4 bytes that is no half of a 64-bit register. -/
theorem State.fourWrite_narrow (h0 : off ≠ 0x110) (h4 : off ≠ 0x114) (h : (off % 8 = 4 && wideReg (off - 4)) = false) :
    s.fourWrite go x pcie off v = s.regWrite go x pcie off v (2 ^ 32 - 1) := by
  rw [State.fourWrite, if_neg h0, if_neg h4, h, if_neg Bool.false_ne_true]

/-- The 4-byte write of a register of 32 bits at a multiple of 8. -/
theorem State.busWrite_four (hoff : off % 8 = 0) (hn : off ≠ 0x110) :
    s.busWrite go x pcie off false v = s.regWrite go x pcie off (v % 2 ^ 32) (2 ^ 32 - 1) := by
  have aligned : ¬ off % (if false then 8 else 4) ≠ 0 := by simp; omega
  rw [State.busWrite_eq, if_neg aligned, Bool.not_false, if_pos rfl, State.fourWrite_narrow hn (by omega) (by simp [hoff])]

/-- The 8-byte write of a register of 64 bits. -/
theorem State.busWrite_eight (hoff : off % 8 = 0) (hn : off ≠ 0x110) (hwide : wideReg off = true) :
    s.busWrite go x pcie off true v = s.regWrite go x pcie off v (2 ^ 64 - 1) := by
  have aligned : ¬ off % (if true then 8 else 4) ≠ 0 := by simpa using hoff
  rw [State.busWrite_eq, if_neg aligned, Bool.not_true, if_neg Bool.false_ne_true, if_neg hn, if_pos hwide]

/-- A write over two registers of 32 bits that take nothing. -/
theorem State.busWrite_inert {wide : Bool} (hoff : off % 8 = 0) (h0 : off ≠ 0x110) (hwide : wideReg off = false)
    (lower : ∀ n, s.regWrite go x pcie off n (2 ^ 32 - 1) = s) (upper : ∀ n, s.regWrite go x pcie (off + 4) n (2 ^ 32 - 1) = s) :
    s.busWrite go x pcie off wide v = s := by
  cases wide with
  | false => rw [State.busWrite_four hoff h0, lower]
  | true =>
    have aligned : ¬ off % (if true then 8 else 4) ≠ 0 := by simpa using hoff
    rw [State.busWrite_eq, if_neg aligned, Bool.not_true, if_neg Bool.false_ne_true, if_neg h0, hwide, if_neg Bool.false_ne_true,
      State.fourWrite_narrow h0 (by omega) (by simp [hoff]), lower,
      State.fourWrite_narrow (by omega) (by omega) (by simp [hwide]), upper]
end

/-! ### The commands -/

section
variable {x : W64} {wide : Bool} {w : WriteAux} {off : BitVec 24}

/-- Without the host's way in nothing is written. -/
theorem gives_registerWrite_down (h : s.barUp = false) : Gives (.registerWrite (.setup off) x wide w) s (fun t => t = s) :=
  .notDue rfl (by rw [h]; rfl) rfl

/-- A write below or above the debug unit's registers. -/
theorem gives_registerWrite {P : State → Prop} (h : s.barUp = true) (hd : (0xE0000 ≤ off.toNat && off.toNat < 0xF0000) = false)
    (p : P (s.busWrite State.apGo w true off.toNat wide x.toNat)) : Gives (.registerWrite (.setup off) x wide w) s P :=
  .due rfl (by rw [h, hd]; rfl) p

theorem gives_registerWrite_id (hw : s.regsWf) (h : s.barUp = true) :
    Gives (.registerWrite (.setup 0x0000) x wide w) s (fun t => t = s) := by
  refine gives_registerWrite h (by decide) ?_
  refine State.busWrite_inert (by decide) (by decide) (by decide +kernel) (fun n => ?_) (fun n => ?_)
  · exact State.regWrite_inert hw (by decide) rfl (by decide +kernel)
  · exact State.regWrite_absent hw (by decide) (by decide +kernel)

/-- Above the last unit's registers no register stands. -/
theorem State.regWrite_beyond (hw : s.regsWf) {go : State → State} {y : WriteAux} {pcie : Bool} {o v mask : Nat}
    (ho : o = 0xF0000 ∨ o = 0xF0004) : s.regWrite go y pcie o v mask = s := by
  have inert (hr : regRow? o = none) (ha : s.afterWrite o = s) : s.plainWrite o v mask = s :=
    State.plainWrite_inert hw (by rw [State.openBits, hr]) (by rw [w1cBits, hr]) ha
  rcases ho with rfl | rfl
  · change (if s.shutReg 0xF0000 then s else s.plainWrite 0xF0000 v mask) = s
    rw [inert (by decide +kernel) rfl]
    exact ite_self s
  · change (if s.shutReg 0xF0004 then s else s.plainWrite 0xF0004 v mask) = s
    rw [inert (by decide +kernel) rfl]
    exact ite_self s

theorem gives_registerWrite_beyond (hw : s.regsWf) (h : s.barUp = true) :
    Gives (.registerWrite (.setup 0xF0000) x wide w) s (fun t => t = s) := by
  refine gives_registerWrite h (by decide) ?_
  exact State.busWrite_inert (by decide) (by decide) (by decide +kernel) (fun n => State.regWrite_beyond hw (.inl rfl))
    (fun n => State.regWrite_beyond hw (.inr rfl))

theorem gives_registerWrite_unaligned (h : s.barUp = true) :
    Gives (.registerWrite (.setup 0x005A) x wide w) s (fun t => t = s) := by
  refine gives_registerWrite h (by decide) ?_
  rw [State.busWrite_eq]
  refine if_pos ?_
  cases wide <;> decide

/-! #### A plain field, one that a ring's state guards, one that a 1 clears -/

/-- What one field's write leaves: registers alone, the field's new value, and every other register. -/
theorem State.put_field (hw : s.regsWf) {f : Fld} {v : Nat} (hf : f.ok) : s.put f v = { s with regs := (s.put f v).regs } ∧
    (s.put f v).get f = v % 2 ^ (f.hi + 1 - f.lo) ∧ ∀ o, o ≠ f.addr → (s.put f v).reg o = s.reg o :=
  ⟨rfl, State.get_put_same f v hf hw, fun _ ho => State.reg_setReg_other _ ho hw⟩

theorem gives_registerWrite_bar4Base (hw : s.regsWf) (h : s.barUp = true) :
    Gives (.registerWrite (.setup 0x0058) x false w) s (fun t => t = { s with regs := t.regs } ∧
      t.get HIF_BAR4_BASE.BASE = x.toNat % 4096 ∧ ∀ off, off ≠ 0x0058 → t.reg off = s.reg off) := by
  refine gives_registerWrite h (by decide) ?_
  have e : s.busWrite State.apGo w true (0x0058 : BitVec 24).toNat false x.toNat = s.put HIF_BAR4_BASE.BASE (x.toNat % 2 ^ 32) := by
    have shut : s.shutReg 0x58 = false := State.shutReg_host (by decide)
    have rw12 : s.openBits 0x58 &&& (2 ^ 32 - 1) = 2 ^ 12 - 2 ^ 0 := by
      rw [show s.openBits 0x58 = 4095 from rfl]
      decide
    have none : w1cBits 0x58 = 0 := by decide +kernel
    change s.busWrite State.apGo w true 0x58 false x.toNat = _
    rw [State.busWrite_four (by decide) (by decide), State.regWrite_silent (by decide), shut, if_neg Bool.false_ne_true,
      State.plainWrite_host (by decide), rw12, none, Nat.zero_and, Nat.zero_and]
    rw [show s.setBits 0x58 (2 ^ 12 - 2 ^ 0) (x.toNat % 2 ^ 32) = s.put HIF_BAR4_BASE.BASE (x.toNat % 2 ^ 32 / 2 ^ 0) from
      State.setBits_span HIF_BAR4_BASE.BASE _ (by decide)]
    rw [State.setBits_none (State.regsWf_put _ _ hw), Nat.pow_zero, Nat.div_one]
  obtain ⟨rest, value, others⟩ := State.put_field hw (f := HIF_BAR4_BASE.BASE) (v := x.toNat % 2 ^ 32) ⟨by decide, by decide⟩
  rw [e]
  refine ⟨rest, value.trans ?_, others⟩
  exact Nat.mod_mod_of_dvd _ ⟨2 ^ 20, rfl⟩

section
variable {r : Fin 256}

theorem regRow_ringBase : ∀ r : Fin 256, regRow? (0x1000 + 0x20 * r.val) = some ⟨0x1000, 0x20, 256, 0, [(46, 6, .rwOff)]⟩ := by
  decide +kernel

theorem State.openBits_ringBase : s.openBits (0x1000 + 0x20 * r.val) = if s.ringState r.val = 0 then 2 ^ 47 - 2 ^ 6 else 0 := by
  have ring : ringAt (0x1000 + 0x20 * r.val) = r.val := by
    unfold ringAt
    omega
  simp only [State.openBits, regRow_ringBase, ring, RegRow.bitsOf, List.filter_cons, List.filter_nil, beq_iff_eq]
  split <;> rfl

/-- A ring's base is taken while the ring is OFF and the interface READY, and else nothing is. -/
theorem State.busWrite_ringBase (hw : s.regsWf) {go : State → State} {y : WriteAux} {pcie : Bool} {v : Nat} :
    s.busWrite go y pcie (0x1000 + 0x20 * r.val) true v =
      if s.flag HIF_STAT.READY = true ∧ s.ringState r.val = 0 then s.put (HIF_RING_BASE.BASE r.val) (v / 2 ^ 6) else s := by
  have hlt : 0x1000 + 0x20 * r.val < 0x3000 := by omega
  have silent : silentReg (0x1000 + 0x20 * r.val) = true := by
    simp only [silentReg, Bool.and_eq_true, decide_eq_true_eq, Bool.not_eq_true', bne_iff_ne, ne_eq, Bool.and_eq_false_iff,
      decide_eq_false_iff_not, beq_eq_false_iff_ne]
    omega
  have none : w1cBits (0x1000 + 0x20 * r.val) = 0 := by rw [w1cBits, regRow_ringBase]; rfl
  have wide : wideReg (0x1000 + 0x20 * r.val) = true := by rw [wideReg, regRow_ringBase]; rfl
  have lower : decide (0x1000 ≤ 0x1000 + 0x20 * r.val) = true := decide_eq_true (by omega)
  have upper : decide (0x1000 + 0x20 * r.val < 0x4000) = true := decide_eq_true (by omega)
  have shut : s.shutReg (0x1000 + 0x20 * r.val) = !s.flag HIF_STAT.READY := by
    rw [State.shutReg_host (by omega), lower, upper]
    rfl
  rw [State.busWrite_eight (by omega) (by omega) wide, State.regWrite_silent silent, shut, State.plainWrite_host (by omega), none,
    Nat.zero_and, Nat.zero_and, State.openBits_ringBase]
  cases s.flag HIF_STAT.READY with
  | false => rfl
  | true =>
    rw [Bool.not_true, if_neg Bool.false_ne_true]
    by_cases state : s.ringState r.val = 0
    · rw [if_pos state, if_pos ⟨rfl, state⟩, show (2 ^ 47 - 2 ^ 6) &&& (2 ^ 64 - 1) = 2 ^ 47 - 2 ^ 6 by decide,
        show s.setBits (0x1000 + 0x20 * r.val) (2 ^ 47 - 2 ^ 6) v = s.put (HIF_RING_BASE.BASE r.val) (v / 2 ^ 6) from
          State.setBits_span (HIF_RING_BASE.BASE r.val) _ (show 6 ≤ 46 by decide)]
      exact State.setBits_none (State.regsWf_put _ _ hw) _ _
    · rw [if_neg state, if_neg (fun h => state h.2), Nat.zero_and, State.setBits_none hw, State.setBits_none hw]

theorem gives_registerWrite_ringBase (hw : s.regsWf) (h : s.barUp = true) :
    Gives (.registerWrite (.setup (BitVec.ofNat 24 (0x1000 + 0x20 * r.val))) x true w) s (fun t =>
      (s.flag HIF_STAT.READY = true → s.ringState r.val = 0 → t = { s with regs := t.regs } ∧
        t.get (HIF_RING_BASE.BASE r.val) = fieldOf x 46 6 ∧ ∀ off, off ≠ 0x1000 + 0x20 * r.val → t.reg off = s.reg off) ∧
      ((s.flag HIF_STAT.READY = false ∨ s.ringState r.val ≠ 0) → t = s)) := by
  have at24 : (BitVec.ofNat 24 (0x1000 + 0x20 * r.val)).toNat = 0x1000 + 0x20 * r.val := by
    rw [BitVec.toNat_ofNat]
    omega
  refine gives_registerWrite h (by rw [at24, Bool.and_eq_false_iff, decide_eq_false_iff_not]; omega) ?_
  rw [at24, State.busWrite_ringBase hw]
  refine ⟨fun ready state => ?_, fun shut => if_neg ?_⟩
  · rw [if_pos ⟨ready, state⟩]
    exact State.put_field hw (f := HIF_RING_BASE.BASE r.val) ⟨show 6 ≤ 46 by decide, show 46 < 64 by decide⟩
  · rintro ⟨ready, state⟩
    rcases shut with off | on
    · rw [ready] at off
      exact Bool.noConfusion off
    · exact on state
end

section
variable {q : Fin 64}

theorem regRow_eqStat : ∀ q : Fin 64, regRow? (0x3018 + 0x20 * q.val) =
    some ⟨0x3018, 0x20, 64, 0, [(31, 16, .ro), (3, 3, .w1c), (2, 2, .w1c), (1, 1, .ro), (0, 0, .ro)]⟩ := by
  decide +kernel

/-- A 1 in bit 3 clears BAD_BASE. -/
theorem State.busWrite_eqStat (hw : s.regsWf) {go : State → State} {y : WriteAux} {pcie : Bool} (ready : s.flag HIF_STAT.READY = true) :
    s.busWrite go y pcie (0x3018 + 0x20 * q.val) false 8 = s.putB (HIF_EQ_STAT.BAD_BASE q.val) false := by
  have hlt : 0x3018 + 0x20 * q.val < 0x4000 := by omega
  have silent : silentReg (0x3018 + 0x20 * q.val) = true := by
    simp only [silentReg, Bool.and_eq_true, decide_eq_true_eq, Bool.not_eq_true', bne_iff_ne, ne_eq, Bool.and_eq_false_iff,
      decide_eq_false_iff_not, beq_eq_false_iff_ne]
    omega
  have none : s.openBits (0x3018 + 0x20 * q.val) = 0 := by rw [State.openBits, regRow_eqStat]; rfl
  have clears : w1cBits (0x3018 + 0x20 * q.val) &&& (2 ^ 32 - 1) &&& 8 % 2 ^ 32 = 2 ^ 4 - 2 ^ 3 := by rw [w1cBits, regRow_eqStat]; rfl
  rw [State.busWrite_four (by omega) (by omega), State.regWrite_silent silent, State.shutReg_host (by omega), ready, Bool.not_true,
    Bool.and_false, if_neg Bool.false_ne_true, State.plainWrite_host (by omega), clears, none, Nat.zero_and, State.setBits_none hw]
  rw [show s.setBits (0x3018 + 0x20 * q.val) (2 ^ 4 - 2 ^ 3) 0 = s.put (HIF_EQ_STAT.BAD_BASE q.val) (0 / 2 ^ 3) from
    State.setBits_span (HIF_EQ_STAT.BAD_BASE q.val) 0 (Nat.le_refl 3), Nat.zero_div]
  rfl

theorem gives_registerWrite_eqStat (hw : s.regsWf) (h : s.barUp = true) (ready : s.flag HIF_STAT.READY = true) :
    Gives (.registerWrite (.setup (BitVec.ofNat 24 (0x3018 + 0x20 * q.val))) 0x8 false w) s (fun t =>
      t = { s with regs := t.regs } ∧ t.flag (HIF_EQ_STAT.BAD_BASE q.val) = false ∧
      t.flag (HIF_EQ_STAT.BAD_HEAD q.val) = s.flag (HIF_EQ_STAT.BAD_HEAD q.val) ∧
      t.get (HIF_EQ_STAT.LOST q.val) = s.get (HIF_EQ_STAT.LOST q.val)) := by
  have at24 : (BitVec.ofNat 24 (0x3018 + 0x20 * q.val)).toNat = 0x3018 + 0x20 * q.val := by
    rw [BitVec.toNat_ofNat]
    omega
  refine gives_registerWrite h (by rw [at24, Bool.and_eq_false_iff, decide_eq_false_iff_not]; omega) ?_
  have ok : (HIF_EQ_STAT.BAD_BASE q.val).ok := ⟨show 3 ≤ 3 by decide, show 3 < 64 by decide⟩
  rw [at24, show (0x8 : W64).toNat = 8 from rfl, State.busWrite_eqStat hw ready]
  refine ⟨rfl, State.flag_putB_same _ _ ok hw, ?_, ?_⟩
  · rw [State.flag, State.get_putB_other _ _ _ ok (.inr (.inr (show 2 < 3 by decide))) hw, State.flag]
  · exact State.get_putB_other _ _ _ ok (.inr (.inl (show 3 < 16 by decide))) hw
end

/-! #### Registers of an engine -/

section
variable {i : Fin 256} {o : BitVec 12}

theorem gives_registerWrite_engine_off (h : s.islActive i.val = false) : Gives (.registerWrite (.engine i o) x wide w) s (fun t => t = s) :=
  .notDue rfl (by rw [h]; rfl) rfl

theorem gives_registerWrite_engine (h : s.islActive i.val = true) (hout : s.engOut i.val = false)
    (ho : o.toNat % (if wide then 8 else 4) = 0) : Gives (.registerWrite (.engine i o) x wide w) s (fun t =>
      t = s.engBytes i.val o.toNat (toBytes (if wide then 8 else 4) x.toNat)) :=
  .due rfl (by rw [h, hout, ho]; rfl) rfl
end
end

end Sys2Proof.Machine
end

section
/-!
The link, its resets, BAR4 and register writes (O40), from what each command leaves.
-/

namespace Sys2Proof.Machine

variable {s : State}

/-- What PERST_N and D3cold leave out of configuration. -/
theorem gives_perst_started (hw : s.regsWf) (h : s.host.perst = false) (h0 : s.cfg.phase ≠ 0) (h7 : s.cfg.phase ≠ 7) :
    let left (t : State) : Prop := t.fuses = s.fuses ∧ t.cfg.phase = 6 ∧ t.host.perst = true ∧ t.host.linkUp = false ∧ t.host.slots = [] ∧
      t.host.recs = [] ∧ t.host.mem = s.host.mem ∧ t.now = s.now ∧ t.net = State.reset.net ∧ t.swb = State.reset.swb ∧
      t.engines = State.reset.engines ∧ t.isl = State.reset.isl ∧ t.cry = State.reset.cry ∧ t.hbm = { record := s.hbm.record } ∧
      t.flag HIF_STAT.READY = false ∧ t.pending = s.pending
    Gives .perstN s left ∧ Gives .d3cold s left := by
  obtain ⟨r, perst⟩ := State.perstLow_resets h0 h7
  exact gives_perst h ⟨r.fuses, r.phase, perst, r.linkUp, r.slots, r.recs, r.hostMem, State.perstLow_now hw h0 h7, r.net, r.swb, r.engines,
    r.isl, r.cry, r.hbm, State.perstLow_ready hw h0 h7, r.pending⟩

/-- Settles O40: the link, its resets and its power states, the reference and the PLLs, BAR4 and register writes, each as its command
leaves the machine. -/
theorem linkResetsAndWindows : Obligations.LinkResetsAndWindows := by
  unfold Obligations.LinkResetsAndWindows
  intro s hw
  refine ⟨gives_pcieLinkDown, fun h => .notDue rfl h rfl, ⟨gives_pcieLinkUp hw, gives_pcieLinkUp_not⟩,
    ⟨gives_perst_started hw, fun h e => gives_perst h (State.perstLow_early e), fun h => gives_perst_not h rfl⟩,
    gives_perstNRelease hw, gives_hotReset hw, gives_d3hot hw, gives_returnToD0 hw, fun h => .notDue rfl h rfl, gives_vauxRemoval hw,
    gives_refLost hw,
    fun k => ⟨gives_pllLossOfLock, gives_privilegedPllRelock, gives_privilegedPllRelock_not⟩, ?_, ?_⟩
  · intro off n v
    refine ⟨gives_bar4Read_shut, gives_bar4Read_some, gives_bar4Read_none, fun bs hn hl => ⟨gives_bar4Write_shut hn hl,
      gives_bar4Write_dropped hn hl, gives_bar4Write_some hn hl⟩⟩
  · intro x wide r q w
    refine ⟨fun h _ => gives_registerWrite_down h, fun h => ⟨?_, gives_registerWrite_bar4Base hw h, gives_registerWrite_ringBase hw h,
      gives_registerWrite_eqStat hw h⟩, fun _ _ => gives_registerWrite_engine_off, fun _ _ => gives_registerWrite_engine⟩
    simp only [List.forall_mem_cons, List.not_mem_nil, false_implies, implies_true, and_true]
    exact ⟨gives_registerWrite_id hw h, gives_registerWrite_beyond hw h, gives_registerWrite_unaligned h⟩

end Sys2Proof.Machine
end

section
/-!
Cells in CARRY mode set as an adder (R50, R51, R55, R56; O5).
-/

namespace Sys2Proof.Machine

variable {x : Island} {ev : Node → Bool} {c u n a b i m : Nat} {p q : Bool} {sel : Fin 4}

/-- Cell `i` of a carry chain that climbs the tile column `u` from its lowest cell. -/
def chainCell (u i : Nat) : Nat := 16 * (u + 48 * (i / 16)) + i % 16

/-- A cell set as one bit of an adder, with the bits `p` and `q` on A and B. -/
structure CellCfg.Adder (g : CellCfg) (sel : Fin 4) (p q : Bool) : Prop where
  table : g.table = 0x66666666AAAAAAAA
  tmode : g.tmode = 2
  xsum : g.xsum = true
  gsel : g.gsel = 0
  cinsel : g.cinsel = sel
  a : g.a = .const p
  b : g.b = .const q
  c : g.c = .const false
  d : g.d = .const false
  e : g.e = .const false

/-- COUT of the cell below in the tile column, 0 at the lowest. -/
def coutBelow (ev : Node → Bool) (c : Nat) : Bool :=
  if c % 16 = 0 then (if c / 16 < 48 then false else ev (.cout (c - 16 * 48 + 15))) else ev (.cout (c - 1))

/-- Below a cell of the chain, across the tiles of the column, stands the cell before it. -/
theorem coutBelow_succ : coutBelow ev (chainCell u (i + 1)) = ev (.cout (chainCell u i)) := by
  unfold coutBelow
  by_cases hi : (i + 1) % 16 = 0
  · rw [if_pos (by unfold chainCell; omega), if_neg (by unfold chainCell; omega)]
    refine congrArg (fun k => ev (.cout k)) ?_
    unfold chainCell
    omega
  · rw [if_neg (by unfold chainCell; omega)]
    refine congrArg (fun k => ev (.cout k)) ?_
    unfold chainCell
    omega

/-- The upper half of the adder's table is A xor B. -/
theorem nbit_adderTable_high : nbit (0x66666666AAAAAAAA : W64).toNat
    (32 + (16 * bit false + 8 * bit false + 4 * bit false + 2 * bit q + bit p)) = (p != q) := by
  revert p q
  decide

/-- The lower half is A. -/
theorem nbit_adderTable_low : nbit (0x66666666AAAAAAAA : W64).toNat
    (16 * bit false + 8 * bit false + 4 * bit false + 2 * bit q + bit p) = p := by
  revert p q
  decide

/-- The carry into an adder whose CINSEL is ZERO or CHAIN. -/
def carryIn (ev : Node → Bool) (sel : Fin 4) (c : Nat) : Bool := if sel = 0 then false else coutBelow ev c

section
variable (h : (x.cfg.cell c).Adder sel p q) (hs : sel = 0 ∨ sel = 3) (hev : ∀ v, ev (.sig (.const v)) = v)
include h hs hev

/-- X of an adder (R55). -/
theorem Island.node_x_of_adder : x.node ev (.sig (.cell c 0)) = ((p != q) != carryIn ev sel c) := by
  simp only [Island.node, h.table, h.tmode, h.xsum, h.cinsel, h.a, h.b, h.c, h.d, h.e, hev, nbit_adderTable_high]
  obtain rfl | rfl := hs <;> rfl

/-- COUT of an adder (R55). -/
theorem Island.node_cout_of_adder : x.node ev (.cout c) = Bool.atLeastTwo p q (carryIn ev sel c) := by
  have hc : x.node ev (.cout c) = if p != q then carryIn ev sel c else p := by
    simp only [Island.node, h.table, h.tmode, h.gsel, h.cinsel, h.a, h.b, h.c, h.d, h.e, hev, nbit_adderTable_high, nbit_adderTable_low]
    obtain rfl | rfl := hs <;> rfl
  rw [hc]
  cases p <;> cases q <;> simp [Bool.atLeastTwo]
end

/-- A chain of `n` adders up the column `u`, the bits of `a` and `b` on A and B. -/
def Island.AdderChain (x : Island) (u n a b : Nat) : Prop :=
  ∀ i < n, (x.cfg.cell (chainCell u i)).Adder (if i = 0 then 0 else 3) (nbit a i) (nbit b i)

theorem chain_cinsel (i : Nat) : (if i = 0 then 0 else 3 : Fin 4) = 0 ∨ (if i = 0 then 0 else 3 : Fin 4) = 3 := by
  split <;> simp

theorem getLsbD_ofNat_eq_nbit (hi : i < n) : (BitVec.ofNat n a).getLsbD i = nbit a i := by
  rw [BitVec.getLsbD_ofNat, nbit_eq_testBit, decide_eq_true hi, Bool.true_and]

theorem Island.eval_const (v : Bool) : x.eval (m + 1) (.sig (.const v)) = v := rfl

/-- Into cell `i` enters the carry of the `i` bits below it, once the evaluation is that deep. -/
theorem Island.AdderChain.carryIn_eq (h : x.AdderChain u n a b) (hi : i < n) (hm : i ≤ m) :
    carryIn (x.eval (m + 1)) (if i = 0 then 0 else 3) (chainCell u i)
      = BitVec.carry i (BitVec.ofNat n a) (BitVec.ofNat n b) false := by
  induction i generalizing m with
  | zero => exact BitVec.carry_zero.symm
  | succ i ih =>
    obtain ⟨m, rfl⟩ : ∃ k, m = k + 1 := ⟨m - 1, by omega⟩
    calc carryIn (x.eval (m + 1 + 1)) 3 (chainCell u (i + 1))
        = x.node (x.eval (m + 1)) (.cout (chainCell u i)) := coutBelow_succ
      _ = _ := Island.node_cout_of_adder (h i (by omega)) (chain_cinsel i) Island.eval_const
      _ = _ := by rw [ih (by omega) (by omega), BitVec.carry_succ, getLsbD_ofNat_eq_nbit (by omega), getLsbD_ofNat_eq_nbit (by omega)]

/-- X of cell `i` is bit `i` of the sum. -/
theorem Island.AdderChain.value_eq (h : x.AdderChain u n a b) (hn : n ≤ 1024) (hi : i < n) :
    x.value (.cell (chainCell u i) 0) = nbit (a + b) i := by
  obtain ⟨m, hd, hm⟩ : ∃ m, logicDepth = m + 1 + 1 ∧ i ≤ m := ⟨2097150, rfl, by omega⟩
  calc x.value (.cell (chainCell u i) 0)
      = x.node (x.eval (m + 1)) (.sig (.cell (chainCell u i) 0)) := by rw [Island.value, hd]; rfl
    _ = _ := Island.node_x_of_adder (h i hi) (chain_cinsel i) Island.eval_const
    _ = (BitVec.ofNat n a + BitVec.ofNat n b).getLsbD i := by
      rw [h.carryIn_eq hi hm, BitVec.getLsbD_add hi, getLsbD_ofNat_eq_nbit hi, getLsbD_ofNat_eq_nbit hi]
      simp
    _ = nbit (a + b) i := by rw [← BitVec.ofNat_add, getLsbD_ofNat_eq_nbit hi]

/-- Settles O5: by induction up the chain the carry into each cell is that of the addition. -/
theorem carryChainAdds : Obligations.CarryChainAdds := by
  unfold Obligations.CarryChainAdds
  intro x u n a b _ hn hc i hi
  refine Island.AdderChain.value_eq (fun k hk => ?_) hn hi
  obtain ⟨g, hg, table, tmode, xsum, gsel, cinsel, ha, hb, hc, hd, he⟩ := hc k hk
  rw [chainCell, hg]
  exact ⟨table, tmode, xsum, gsel, cinsel, ha, hb, hc, hd, he⟩

end Sys2Proof.Machine
end

section
/-!
Flip-flops and latches (R57, R58, R60; O6).
-/

namespace Sys2Proof.Machine

variable {f : FfCfg} {cs : CtlSet} {level : BitVec 4} {ev : Option Edge} {q d ce sr : Bool}

/-- The moment `ev` is the active edge of a control set's clock. -/
def CtlSet.ActiveAt (cs : CtlSet) (ev : Option Edge) : Prop := ∃ e, ev = some e ∧ cs.clk = some e.clk ∧ e.rising ≠ cs.inv

/-- SR of an edge-triggered flip-flop acts at once. -/
theorem FfCfg.next_async (hl : f.latch = false) (hu : f.sruse = true) (hs : sr = true) (ha : cs.async = true) :
    f.next cs level ev q d ce sr = f.srval := by
  simp [FfCfg.next, hl, hu, hs, ha]

/-- An active edge, where no SR acts at once: SR before CE, CE before D. -/
theorem FfCfg.next_active (hl : f.latch = false) (ha : (f.sruse && sr && cs.async) = false) (hv : cs.ActiveAt ev) :
    f.next cs level ev q d ce sr = if f.sruse && sr then f.srval else if f.ceuse && !ce then q else d := by
  obtain ⟨e, rfl, hk, hr⟩ := hv
  have hce : (!f.ceuse || ce) = !(f.ceuse && !ce) := by cases f.ceuse <;> cases ce <;> rfl
  simp only [FfCfg.next, hl, hk, ha, hce, beq_self_eq_true, bne_iff_ne.2 hr, Bool.and_self, if_true, Bool.false_eq_true, if_false]
  cases f.ceuse && !ce <;> rfl

/-- At any other moment a flip-flop keeps its value. -/
theorem FfCfg.next_inactive (hl : f.latch = false) (ha : (f.sruse && sr && cs.async) = false) (hv : ¬ cs.ActiveAt ev) :
    f.next cs level ev q d ce sr = q := by
  simp only [FfCfg.next, hl, ha, Bool.false_eq_true, if_false]
  match ev, hk : cs.clk with
  | none, _ => rfl
  | some _, none => rfl
  | some e, some k =>
    have hn : (e.clk == k && e.rising != cs.inv) = false := by
      rw [Bool.eq_false_iff, ne_eq, Bool.and_eq_true, beq_iff_eq, bne_iff_ne]
      rintro ⟨rfl, hr⟩
      exact hv ⟨e, rfl, hk, hr⟩
    simp [hn]

/-- A latch without SR is open while its clock's level, after polarity, is 1 and its CE enables it. -/
theorem FfCfg.next_latch {k : Fin 4} (hl : f.latch = true) (hk : cs.clk = some k) (hs : (f.sruse && sr) = false) :
    f.next cs level ev q d ce sr = if nbit level.toNat k.val != cs.inv then (if f.ceuse && !ce then q else d) else q := by
  simp only [FfCfg.next, hl, hk, hs]
  cases nbit level.toNat k.val != cs.inv <;> cases f.ceuse <;> cases ce <;> rfl

/-- Settles O6: the cases of `FfCfg.next` by whether the moment is the active edge, and those of an open latch. -/
theorem flipFlopRules : Obligations.FlipFlopRules := by
  unfold Obligations.FlipFlopRules
  intro f cs level ev q d ce sr
  have hasync (h : ¬ (f.sruse ∧ sr ∧ cs.async)) : (f.sruse && sr && cs.async) = false := by simpa [and_assoc] using h
  refine ⟨FfCfg.next_async, ?_, ?_, fun k hl hk hs => FfCfg.next_latch hl hk hs⟩
  · rintro e k hl hev hk rfl hr ha
    exact FfCfg.next_active hl (hasync ha) ⟨e, hev, hk, hr⟩
  · rintro hl hv ha
    refine FfCfg.next_inactive hl (hasync ha) ?_
    rintro ⟨e, rfl, hk, hr⟩
    obtain h | h | ⟨e', h, hne⟩ := hv
    · exact absurd h (Option.some_ne_none e)
    · exact absurd (hk.symm.trans h) (Option.some_ne_none _)
    · cases h
      exact hne.elim (fun h => h hk) hr

end Sys2Proof.Machine
end

section
/-!
A clock edge, and the words of a handshake group (R57, R60, R85, R86, R89; O7).
-/

namespace Sys2Proof.Machine

variable {s t u : State} {x : Island} {i j k : Nat}

/-! ### Islands and their channels -/

/-- A key written with what it holds. -/
theorem Table.poke_peek {α : Type} [DecidableEq α] {dflt : Nat → α} {t : Table α} (h : Table.wf dflt t = true) (k : Nat) :
    Table.poke dflt t k (Table.peek dflt t k) = t := by
  refine Table.ext_of_peek dflt _ _ (Table.wf_poke dflt _ _ _ h) h fun l => ?_
  by_cases hl : l = k
  · rw [hl, Table.peek_poke_same dflt _ _ _ h]
  · exact Table.peek_poke_other dflt _ _ hl h

theorem State.island_setIsland (h : Table.wf (fun _ => ({} : Island)) s.isl = true) : (s.setIsland i x).island i = x :=
  Table.peek_poke_same _ _ _ _ h

theorem State.setIsland_island (h : Table.wf (fun _ => ({} : Island)) s.isl = true) : s.setIsland i (s.island i) = s := by
  rw [State.setIsland, State.island, Table.poke_peek h]

theorem State.get_setIsland (f : Fld) : (s.setIsland i x).get f = s.get f := rfl

theorem Island.chan_modChan {f : BorderChan → BorderChan} (h : Table.wf (fun _ => ({} : BorderChan)) x.border = true) :
    (x.modChan k f).chan k = f (x.chan k) := Table.peek_poke_same _ _ _ _ h

/-- A channel of an island after its update. -/
theorem State.chan_modIsland {f : BorderChan → BorderChan} (h : Table.wf (fun _ => ({} : Island)) s.isl = true)
    (hb : Table.wf (fun _ => ({} : BorderChan)) (s.island i).border = true) :
    ((s.modIsland i (fun x => x.modChan k f)).island i).chan k = f ((s.island i).chan k) := by
  rw [State.modIsland, State.island_setIsland h, Island.chan_modChan hb]

theorem Island.modChan_gsr {f : BorderChan → BorderChan} : (x.modChan k f).gsr = x.gsr := rfl

/-- What its neighbours do does not take an island out of set/reset. -/
theorem State.facing_gsr : (s.facing i).gsr = (s.island i).gsr := by
  unfold State.facing
  refine List.foldlRecOn (motive := fun x : Island => x.gsr = (s.island i).gsr) _ _ rfl fun x hx p _ => ?_
  extract_lets side live room
  split
  · exact hx
  · split <;> exact hx

/-! ### The edge -/

/-- From `s` to `t` only the fabric, what pins drive and the settle pulses change. -/
def State.Clocked (s t : State) : Prop := t = { s with isl := t.isl, banks := t.banks, net := { s.net with settle := t.net.settle } }

theorem State.Clocked.refl : s.Clocked s := rfl

theorem State.Clocked.trans (h : s.Clocked t) (g : t.Clocked u) : s.Clocked u := by
  unfold State.Clocked at *
  rw [g, h]

theorem State.Clocked.setIsland : s.Clocked (s.setIsland i x) := rfl

theorem State.Clocked.forAll {α : Type} {l : List α} {f : α → State → State} (h : ∀ a x, State.Clocked x (f a x)) :
    s.Clocked (s.forAll l f) := by
  induction l generalizing s with
  | nil => exact .refl
  | cons a l ih => exact (h a s).trans ih

/-- Pins take nothing from the islands. -/
theorem State.drivePads_eq {k : Fin 4} : s.drivePads i k x = { s with banks := (s.drivePads i k x).banks } := by
  unfold State.drivePads
  split
  · rfl
  · extract_lets l
    split <;> rfl

theorem State.endSettle_eq : s.endSettle i = { s with net := { s.net with settle := (s.endSettle i).net.settle } } := by
  unfold State.endSettle
  split <;> rfl

/-- What an edge of clock `k` does at island `i`, from the settled state `s`. -/
def State.edgeAt (s : State) (k : Fin 4) (rising : Bool) (i : Nat) (t : State) : State :=
  let t0 := t.setIsland i (s.islandEdge i k rising)
  let t1 := if rising then t0.drivePads i k (s.island i) else t0
  if rising && nfield (s.get (CLK_ISL_CFG.SETTING i)) 63 62 == k.val then t1.endSettle i else t1

/-- It gives the island its fabric after the edge, pins their output, and ports the end of a settle pulse. -/
theorem State.edgeAt_eq {k : Fin 4} {rising : Bool} : let u := s.edgeAt k rising i t
    u = { t.setIsland i (s.islandEdge i k rising) with banks := u.banks, net := { t.net with settle := u.net.settle } } := by
  unfold State.edgeAt
  extract_lets t0 t1 u
  have h1 : t1 = { t0 with banks := t1.banks } := by
    unfold t1
    split
    · exact State.drivePads_eq
    · rfl
  unfold u
  split
  · rw [State.endSettle_eq, h1]
    rfl
  · rw [h1]
    rfl

theorem State.Clocked.edgeAt {k : Fin 4} {rising : Bool} : t.Clocked (s.edgeAt k rising i t) := by
  unfold State.Clocked
  rw [State.edgeAt_eq]
  rfl

theorem State.island_edgeAt {k : Fin 4} {rising : Bool} (h : Table.wf (fun _ => ({} : Island)) t.isl = true) :
    (s.edgeAt k rising i t).island i = s.islandEdge i k rising := by
  rw [State.edgeAt_eq]
  exact State.island_setIsland h

section
variable {i : Fin 256} {k : Fin 4} {rising : Bool}

/-- A clock edge changes the fabric, what pins drive and the settle pulses. -/
theorem gives_islandClockEdge {is : List (Fin 256)} {ins : List (Nat × Bool)} : Gives (.islandClockEdge is k rising ins) s s.Clocked := by
  refine .intro rfl (.trans (.trans ?_ (.forAll fun _ _ => .setIsland)) (.forAll fun _ _ => .edgeAt))
  split <;> rfl

/-- An edge of a running clock of one island, whose inputs stand: the fabric settles, then takes the edge. -/
theorem gives_islandClockEdge_one {P : State → Prop} (hr : nbit (s.get (CLK_ISL_STAT.RUNNING i.val)) k.val = true)
    (h : Table.wf (fun _ => ({} : Island)) s.isl = true)
    (p : let s1 := s.setIsland i.val (s.facing i.val).settled
      P (s1.edgeAt k rising i.val s1)) : Gives (.islandClockEdge [i] k rising []) s P := by
  have h0 : s.modIsland i.val (fun x => { x with inputs := x.inputs.pokes (fun _ => false) [] }) = s := State.setIsland_island h
  refine .intro ?_ p
  change execIslandClockEdge [i] k rising [] s = _
  simp only [execIslandClockEdge, List.head?_cons, h0, State.forAll, State.get_setIsland, List.filter_cons, hr, if_true, List.filter_nil]
  rfl

/-- The edge of one island's running clock leaves in it what its settled fabric takes. -/
theorem gives_islandClockEdge_island (hr : nbit (s.get (CLK_ISL_STAT.RUNNING i.val)) k.val = true)
    (h : Table.wf (fun _ => ({} : Island)) s.isl = true) : Gives (.islandClockEdge [i] k rising []) s (fun t =>
      t.island i.val = (s.setIsland i.val (s.facing i.val).settled).islandEdge i.val k rising) :=
  gives_islandClockEdge_one hr h (State.island_edgeAt (Table.wf_poke _ _ _ _ h))

theorem nbit_setBit_level : ∀ (l : BitVec 4) (k : Fin 4) (v : Bool), nbit (BitVec.ofNat 4 (setBit l.toNat k.val v)).toNat k.val = v := by
  decide

/-- An island in set/reset takes only the clock's level at an edge. -/
theorem State.islandEdge_of_gsr {i : Nat} (h : (s.island i).gsr = true) :
    s.islandEdge i k rising = { s.island i with level := BitVec.ofNat 4 (setBit (s.island i).level.toNat k.val rising) } := by
  simp only [State.islandEdge, h, if_true]

theorem Island.settled_of_gsr (h : x.gsr = true) : x.settled = x := if_pos h

/-- In one that set/reset holds the edge leaves nothing but the clock's level and the ready lines. -/
theorem gives_islandClockEdge_gsr (hr : nbit (s.get (CLK_ISL_STAT.RUNNING i.val)) k.val = true)
    (h : Table.wf (fun _ => ({} : Island)) s.isl = true) (hg : (s.island i.val).gsr = true) :
    Gives (.islandClockEdge [i] k rising []) s (fun t =>
      t.island i.val = { s.facing i.val with level := (t.island i.val).level } ∧ nbit (t.island i.val).level.toNat k.val = rising) := by
  have hf : (s.facing i.val).gsr = true := State.facing_gsr.trans hg
  have hs : (s.setIsland i.val (s.facing i.val).settled).island i.val = s.facing i.val := by
    rw [State.island_setIsland h, Island.settled_of_gsr hf]
  obtain ⟨t, e, ht⟩ := gives_islandClockEdge_island (rising := rising) hr h
  rw [State.islandEdge_of_gsr (by rw [hs, hf]), hs] at ht
  refine .intro e ?_
  rw [ht]
  exact ⟨rfl, nbit_setBit_level _ k rising⟩
end

/-! ### Handshake words -/

section
variable {i : Fin 256} {side : Fin 4} {g : Fin 16} {w : W32}

/-- A word that the border cells carry, with WR_VALID and WR_READY, is the last of the neighbour's FIFO. -/
theorem gives_handshakeWordWrite {j : Nat} {c : GroupCfg} (hj : neighbour i.val side.val = some j)
    (hx : (s.facing i.val).settled = x) (hc : x.cfg.group (groupKey side.val g.val) = c) (hm : c.mode = 2)
    (hr : (x.chan (groupKey side.val g.val)).ready = true) (hv : x.value c.valid = true)
    (hk : s.groupClocked i.val (groupKey side.val g.val) = true) (h : Table.wf (fun _ => ({} : Island)) s.isl = true)
    (hb : Table.wf (fun _ => ({} : BorderChan)) (s.island j).border = true) :
    let kj := groupKey (oppositeSide side.val) g.val
    (w.toNat = bitsOf x.value c.sigs → Gives (.handshakeWordWrite i side g w) s (fun t => t = { s with isl := t.isl } ∧
      ((t.island j).chan kj).fifo = ((s.island j).chan kj).fifo ++ [w])) ∧
    (w.toNat ≠ bitsOf x.value c.sigs → Gives (.handshakeWordWrite i side g w) s (fun t => t = s)) := by
  intro kj
  have e : exec (.handshakeWordWrite i side g w) s = whenDue (w.toNat == bitsOf x.value c.sigs) s
      (s.modIsland j (fun y => y.modChan kj (fun b => { b with fifo := b.fifo ++ [w] }))) := by
    change execHandshakeWordWrite i side g w s = _
    simp only [execHandshakeWordWrite, hj, hx, hc, hm, hr, hv, hk]
    rfl
  refine ⟨fun hw => .due e (beq_iff_eq.2 hw) ⟨rfl, ?_⟩, fun hw => .notDue e (beq_eq_false_iff_ne.2 hw) rfl⟩
  rw [State.chan_modIsland h hb]

/-- A word in the FIFO that is not yet visible becomes so. -/
theorem gives_handshakeWordArrive : let k := groupKey side.val g.val
    s.groupClocked i.val k = true → Table.wf (fun _ => ({} : Island)) s.isl = true →
    Table.wf (fun _ => ({} : BorderChan)) (s.island i.val).border = true →
    ((s.island i.val).chan k).visible < ((s.island i.val).chan k).fifo.length →
    Gives (.handshakeWordArrive i side g) s (fun t => t = { s with isl := t.isl } ∧
      (t.island i.val).chan k = { (s.island i.val).chan k with visible := ((s.island i.val).chan k).visible + 1 }) := by
  intro k hk h hb hv
  refine .due rfl ?_ ⟨rfl, State.chan_modIsland h hb⟩
  rw [decide_eq_true hv, hk, Bool.and_self]

/-- With RD_READY the oldest visible word is read. -/
theorem gives_handshakeWordRead {rest : List W32} : let k := groupKey side.val g.val
    let x := (s.facing i.val).settled
    s.groupClocked i.val k = true → Table.wf (fun _ => ({} : Island)) s.isl = true →
    Table.wf (fun _ => ({} : BorderChan)) (s.island i.val).border = true →
    ((s.island i.val).chan k).fifo = w :: rest → 0 < ((s.island i.val).chan k).visible →
    (x.cfg.group k).mode = 3 → x.value (x.cfg.group k).valid = true →
    Gives (.handshakeWordRead i side g) s (fun t => t = { s with isl := t.isl } ∧
      ((t.island i.val).chan k).lastRead = w ∧ ((t.island i.val).chan k).fifo = rest ∧
      ((t.island i.val).chan k).visible = ((s.island i.val).chan k).visible - 1) := by
  intro k x hk h hb hf hv hm hr
  refine .due rfl ?_ ⟨rfl, ?_⟩
  · rw [decide_eq_true hv, hk, hm, hr]
    rfl
  · rw [State.chan_modIsland h hb, hf]
    exact ⟨rfl, rfl, rfl⟩
end

/-- Settles O7: the edge from the settled fabric, and a word's write, arrival and read. -/
theorem clockEdgeAndHandshake : Obligations.ClockEdgeAndHandshake := by
  unfold Obligations.ClockEdgeAndHandshake
  refine ⟨fun s is k rising ins => gives_islandClockEdge, fun s i k rising hr h => ⟨gives_islandClockEdge_gsr hr h,
    fun _ => gives_islandClockEdge_island hr h⟩, ?_, ?_⟩
  · intro s i side g j kj x c hj hm hr hv hk h hb w
    exact gives_handshakeWordWrite hj rfl rfl hm hr hv hk h hb
  · intro s i side g k x hk h hb
    exact ⟨gives_handshakeWordArrive hk h hb, fun w rest hf => gives_handshakeWordRead hk h hb hf⟩

end Sys2Proof.Machine
end

section
/-!
Base clocks and clock meters: what writes of a clock register's fields leave in its others (R93, R107, R108; O8, O11).
-/

namespace Sys2Proof.Machine

variable {s : State}

/-! ### Fields written one after the other -/

section
variable {a a' hi lo hi' lo' v : Nat}

theorem State.get_put_self (h : lo ≤ hi) (h64 : hi < 64) (hw : s.regsWf) :
    (s.put ⟨a, hi, lo⟩ v).get ⟨a, hi, lo⟩ = v % 2 ^ (hi + 1 - lo) := State.get_put_same _ _ ⟨h, h64⟩ hw

/-- Another field of the register. -/
theorem State.get_put_beside (h : lo ≤ hi) (h64 : hi < 64) (hd : hi < lo' ∨ hi' < lo) (hw : s.regsWf) :
    (s.put ⟨a, hi, lo⟩ v).get ⟨a, hi', lo'⟩ = s.get ⟨a, hi', lo'⟩ := State.get_put_other _ _ _ ⟨h, h64⟩ (.inr hd) hw

/-- A field of another register. -/
theorem State.get_put_elsewhere (ha : a' ≠ a) (hw : s.regsWf) : (s.put ⟨a, hi, lo⟩ v).get ⟨a', hi', lo'⟩ = s.get ⟨a', hi', lo'⟩ := by
  unfold State.get
  rw [State.put, State.reg_setReg_other _ ha hw]
end

theorem State.regsWf_put_put (f g : Fld) (v w : Nat) (hw : s.regsWf) : ((s.put f v).put g w).regsWf :=
  State.regsWf_put _ _ (State.regsWf_put _ _ hw)

theorem State.regsWf_put_put_put (f g h : Fld) (v w x : Nat) (hw : s.regsWf) : (((s.put f v).put g w).put h x).regsWf :=
  State.regsWf_put _ _ (State.regsWf_put_put _ _ _ _ hw)

theorem State.regsWf_put_put_put_put (f g h k : Fld) (v w x y : Nat) (hw : s.regsWf) :
    ((((s.put f v).put g w).put h x).put k y).regsWf :=
  State.regsWf_put _ _ (State.regsWf_put_put_put _ _ _ _ _ _ hw)

/-! ### Base clocks -/

section
variable {n : Fin 4} {fmul : BitVec 9}

theorem exec_clkBaseWrite_range (h3 : n ≠ 3) (h : fmul.toNat < 64 ∨ 320 < fmul.toNat) :
    exec (.clkBaseWrite n fmul) s = .next (s.put (CLK_BASE.ERR n.val) 1) := (if_neg h3).trans (if_pos h)

theorem exec_clkBaseWrite_inUse (h3 : n ≠ 3) (h : ¬ (fmul.toNat < 64 ∨ fmul.toNat > 320)) (hu : s.baseInUse n.val = true) :
    exec (.clkBaseWrite n fmul) s = .next (s.put (CLK_BASE.ERR n.val) 2) := ((if_neg h3).trans (if_neg h)).trans (if_pos hu)

theorem exec_clkBaseWrite_accepted (h3 : n ≠ 3) (h : ¬ (fmul.toNat < 64 ∨ fmul.toNat > 320)) (hu : s.baseInUse n.val = false) :
    exec (.clkBaseWrite n fmul) s = .next (((s.put (CLK_BASE.ERR n.val) 0).put (CLK_BASE.FMUL n.val) fmul.toNat).put
      (CLK_BASE.LOCKED n.val) 0) :=
  ((if_neg h3).trans (if_neg h)).trans (if_neg (Bool.eq_false_iff.1 hu))
end

/-- An error code leaves the base clock's multiplier and its lock. -/
theorem State.base_putErr {n v : Nat} (hw : s.regsWf) (hv : v < 8) : let t := s.put (CLK_BASE.ERR n) v
    t.get (CLK_BASE.ERR n) = v ∧ t.get (CLK_BASE.FMUL n) = s.get (CLK_BASE.FMUL n) ∧
    t.get (CLK_BASE.LOCKED n) = s.get (CLK_BASE.LOCKED n) := by
  simp [CLK_BASE.ERR, CLK_BASE.FMUL, CLK_BASE.LOCKED, State.get_put_self, State.get_put_beside, hw, Nat.mod_eq_of_lt hv]

/-- Settles O8: an accepted write is three writes of fields, the others one. -/
theorem baseClockWrites : Obligations.BaseClockWrites := by
  unfold Obligations.BaseClockWrites
  intro s n fmul hw
  refine ⟨fun h3 => ?_, fun h3 h => ?_, fun h3 hl hh hu => ?_, fun h3 hl hh hu => ?_, ?_⟩
  · exact .intro (if_pos h3) rfl
  · exact .intro (exec_clkBaseWrite_range h3 h) ⟨rfl, State.base_putErr hw (by decide)⟩
  · exact .intro (exec_clkBaseWrite_inUse h3 (by omega) hu) ⟨rfl, State.base_putErr hw (by decide)⟩
  · refine .intro (exec_clkBaseWrite_accepted h3 (by omega) hu) ⟨rfl, ?_⟩
    have hf : fmul.toNat < 512 := fmul.isLt
    simp [CLK_BASE.ERR, CLK_BASE.FMUL, CLK_BASE.LOCKED, State.get_put_self, State.get_put_beside, State.regsWf_put, State.regsWf_put_put, hw,
      Nat.mod_eq_of_lt hf]
  · exact .intro rfl ⟨rfl, by simp [CLK_BASE.LOCKED, State.get_put_self, hw]⟩

/-! ### Clock meters -/

/-- A meter whose START has been taken: BUSY, and nothing measured yet. -/
def State.meterStarted (s : State) (m : Nat) : State := (s.put (CLK_MTR_CTL.START m) 1).put (CLK_MTR_CTL.BUSY m) 1

section
variable {m : Nat}

theorem State.regsWf_meterStarted (hw : s.regsWf) : (s.meterStarted m).regsWf := State.regsWf_put_put _ _ _ _ hw

theorem State.busy_meterStarted (hw : s.regsWf) : (s.meterStarted m).get (CLK_MTR_CTL.BUSY m) = 1 :=
  State.get_put_self (by decide) (by decide) (State.regsWf_put _ _ hw)

/-- A write of a meter's control leaves its selection. -/
theorem State.meterSel_put {hi lo v : Nat} (hw : s.regsWf) : let t := s.put ⟨0x70100 + 0x10 * m, hi, lo⟩ v
    t.get (CLK_MTR_SEL.SEL_A m) = s.get (CLK_MTR_SEL.SEL_A m) ∧ t.get (CLK_MTR_SEL.SEL_B m) = s.get (CLK_MTR_SEL.SEL_B m) :=
  ⟨State.get_put_elsewhere (by omega) hw, State.get_put_elsewhere (by omega) hw⟩

theorem State.meterSel_meterStarted (hw : s.regsWf) : (s.meterStarted m).get (CLK_MTR_SEL.SEL_A m) = s.get (CLK_MTR_SEL.SEL_A m) ∧
    (s.meterStarted m).get (CLK_MTR_SEL.SEL_B m) = s.get (CLK_MTR_SEL.SEL_B m) := by
  obtain ⟨ha, hb⟩ := State.meterSel_put (m := m) (hi := 31) (lo := 31) (v := 1) hw
  obtain ⟨ha', hb'⟩ := State.meterSel_put (m := m) (hi := 30) (lo := 30) (v := 1) (State.regsWf_put (CLK_MTR_CTL.START m) 1 hw)
  exact ⟨ha'.trans ha, hb'.trans hb⟩

theorem State.get_onClk (f : ClockUnit → ClockUnit) (g : Fld) : (s.onClk f).get g = s.get g := rfl

/-- The meter no longer waits for Lookout. -/
def State.meterTaken (s : State) (m : Nat) : State := s.onClk (fun c => { c with waiting := c.waiting.filter (fun k => k != m) })

theorem State.get_meterTaken (f : Fld) : (s.meterTaken m).get f = s.get f := rfl

theorem State.regsWf_meterTaken (hw : s.regsWf) : (s.meterTaken m).regsWf := hw

/-- A measurement begins, or ends at once, by the sources selected before the meter's control was written. -/
theorem State.meterBegin_eq {t : State} (h : t.get (CLK_MTR_SEL.SEL_A m) = s.get (CLK_MTR_SEL.SEL_A m) ∧
    t.get (CLK_MTR_SEL.SEL_B m) = s.get (CLK_MTR_SEL.SEL_B m)) : t.meterBegin m =
    if meterHas m (s.get (CLK_MTR_SEL.SEL_A m)) && meterHas m (s.get (CLK_MTR_SEL.SEL_B m)) then t.meterTaken m
    else (t.meterTaken m).meterDone m 0 := by
  rw [← h.1, ← h.2]
  rfl

/-- The end of a measurement: its count, DONE and no longer BUSY. -/
theorem State.meterDone_fields {count : Nat} (hw : s.regsWf) (hc : count < 0x100000000) : let t := s.meterDone m count
    t.get (CLK_MTR_CNT.COUNT m) = count ∧ t.get (CLK_MTR_CTL.DONE m) = 1 ∧ t.get (CLK_MTR_CTL.BUSY m) = 0 := by
  simp [State.meterDone, CLK_MTR_CNT.COUNT, CLK_MTR_CTL.DONE, CLK_MTR_CTL.BUSY, CLK_MTR_CTL.START, State.get_put_self,
    State.get_put_beside, State.get_put_elsewhere, State.regsWf_put, State.regsWf_put_put, State.regsWf_put_put_put, hw, Nat.mod_eq_of_lt hc]
end

section
variable {m : Fin 5}

/-- A START of a meter that is not BUSY, while Lookout holds it and while it does not. -/
theorem exec_clkMtrStart_held (hb : s.get (CLK_MTR_CTL.BUSY m.val) = 0) (ho : s.get (CLK_MTR_CTL.OWNER m.val) = 1) :
    exec (.clkMtrStart m) s = .next ((s.meterStarted m.val).onClk (fun c => { c with waiting := c.waiting ++ [m.val] })) :=
  (if_neg (by simp [State.flag, hb])).trans (if_pos (by simp [State.flag, ho]))

theorem exec_clkMtrStart_free (hb : s.get (CLK_MTR_CTL.BUSY m.val) = 0) (ho : s.get (CLK_MTR_CTL.OWNER m.val) = 0) :
    exec (.clkMtrStart m) s = .next ((s.meterStarted m.val).meterBegin m.val) :=
  (if_neg (by simp [State.flag, hb])).trans (if_neg (by simp [State.flag, ho]))

/-- Lookout gives a meter back for which nothing waits, and one on which a measurement of supported sources waits. -/
theorem exec_lookoutClockSupervision_idle (h : s.clk.waiting.contains m.val = false) :
    exec (.lookoutClockSupervision m false) s = .next (s.put (CLK_MTR_CTL.OWNER m.val) 0) :=
  congrArg Host.Outcome.next (if_neg (Bool.eq_false_iff.1 h))

theorem exec_lookoutClockSupervision_waiting (hw : s.regsWf) (h : s.clk.waiting.contains m.val = true)
    (ha : meterHas m.val (s.get (CLK_MTR_SEL.SEL_A m.val)) = true) (hb : meterHas m.val (s.get (CLK_MTR_SEL.SEL_B m.val)) = true) :
    exec (.lookoutClockSupervision m false) s = .next ((s.put (CLK_MTR_CTL.OWNER m.val) 0).meterTaken m.val) := by
  have begins := (State.meterBegin_eq (State.meterSel_put (m := m.val) (hi := 29) (lo := 29) (v := 0) hw)).trans (if_pos (by rw [ha, hb]; rfl))
  exact congrArg Host.Outcome.next ((if_pos h).trans begins)

/-- A measurement that is neither short nor on the reference may be aborted. -/
theorem gives_clkMtrAbort (hw : s.regsWf) (hr : s.meterRuns m.val = true)
    (hl : s.meterWindow m.val > 16 ∨ s.get (CLK_MTR_SEL.SEL_B m.val) ≠ 0) : Gives (.clkMtrAbort m) s (fun t =>
      t = { s with regs := t.regs } ∧ t.get (CLK_MTR_CTL.ABORTED m.val) = 1 ∧ t.get (CLK_MTR_CTL.DONE m.val) = 0 ∧
      t.get (CLK_MTR_CTL.BUSY m.val) = 0 ∧ t.get (CLK_MTR_CTL.OWNER m.val) = 1) := by
  refine .due rfl ?_ ⟨rfl, ?_⟩
  · rw [hr]
    simp only [Bool.true_and, Bool.not_eq_true', Bool.and_eq_false_iff, decide_eq_false_iff_not, beq_eq_false_iff_ne]
    exact hl.imp (by omega) id
  · simp [CLK_MTR_CTL.ABORTED, CLK_MTR_CTL.DONE, CLK_MTR_CTL.BUSY, CLK_MTR_CTL.START, CLK_MTR_CTL.OWNER, State.get_put_self,
      State.get_put_beside, State.regsWf_put, State.regsWf_put_put, State.regsWf_put_put_put, State.regsWf_put_put_put_put, hw]
end

/-- Settles O11: each command writes fields of the meter's control, and a start or a release begins the measurement. -/
theorem clockMeters : Obligations.ClockMeters := by
  unfold Obligations.ClockMeters
  intro s m hw
  refine ⟨fun hb ho => ?_, fun hb ho => ?_, fun count hr hc => ?_, gives_clkMtrAbort hw, fun h16 href => ?_, fun hl hr => ?_, fun hn => ?_,
    fun hn ha hb => ?_⟩
  · exact .intro (exec_clkMtrStart_held hb ho) ⟨rfl, (State.get_onClk _ _).trans (State.busy_meterStarted hw)⟩
  · refine .intro (exec_clkMtrStart_free hb ho) ?_
    rw [State.meterBegin_eq (State.meterSel_meterStarted hw)]
    split
    · exact (State.get_meterTaken _).trans (State.busy_meterStarted hw)
    · obtain ⟨hcount, hdone, hbusy⟩ := State.meterDone_fields (s := (s.meterStarted m.val).meterTaken m.val) (m := m.val) (count := 0)
        (State.regsWf_meterTaken (State.regsWf_meterStarted hw)) (by decide)
      exact ⟨hbusy, hdone, hcount⟩
  · exact .due rfl (by rw [hr, hc]; rfl) ⟨rfl, State.meterDone_fields hw count.isLt⟩
  · exact .notDue rfl (by simp [h16, href]) rfl
  · exact .due rfl (by rw [hl, hr]; rfl) ⟨rfl, State.get_put_self (by decide) (by decide) hw⟩
  · exact .intro (exec_lookoutClockSupervision_idle hn) ⟨rfl, State.get_put_self (by decide) (by decide) hw⟩
  · exact .intro (exec_lookoutClockSupervision_waiting hw hn ha hb) ⟨rfl, State.get_put_self (by decide) (by decide) hw,
      State.get_put_beside (by decide) (by decide) (by decide) hw⟩

end Sys2Proof.Machine
end

section
/-!
Island clocks: their ramps, stretches and stops (R91, R92, R98, R102, R104; O9, O10).
-/

namespace Sys2Proof.Machine

variable {s t : State} {i j k : Nat}

/-! ### A bit of a field of five, one for each clock -/

theorem nbit_setBit_clock : ∀ (x : Fin 32) (k : Fin 5) (b : Bool), nbit (setBit x.val k.val b) k.val = b := by decide

theorem setBit_clock_lt : ∀ (x : Fin 32) (k : Fin 5) (b : Bool), setBit x.val k.val b < 32 := by decide

/-- A clock's bit of a field of five bits reads as it was set. -/
theorem State.nbit_put_clock {a hi lo : Nat} {k : Fin 5} {b : Bool} (h64 : hi < 64) (h5 : hi + 1 - lo = 5) (hw : s.regsWf) :
    nbit ((s.put ⟨a, hi, lo⟩ (setBit (s.get ⟨a, hi, lo⟩) k.val b)).get ⟨a, hi, lo⟩) k.val = b := by
  have hx : s.get ⟨a, hi, lo⟩ < 32 := (State.get_lt _).trans_eq (by rw [h5]; rfl)
  rw [State.get_put_self (by omega) h64 hw, h5, Nat.mod_eq_of_lt (show setBit _ _ _ < 2 ^ 5 from setBit_clock_lt ⟨_, hx⟩ k b)]
  exact nbit_setBit_clock ⟨_, hx⟩ k b

/-! ### Ramps -/

/-- A ramp's step goes toward the target, not past it, and by an eighth of the ratio at most. -/
theorem rampToward_spec (n t : Nat) :
    (n ≤ t → n ≤ rampToward n t ∧ rampToward n t ≤ t ∧ 8 * (rampToward n t - n) ≤ n) ∧
    (t ≤ n → t ≤ rampToward n t ∧ rampToward n t ≤ n ∧ 8 * (n - rampToward n t) ≤ n) := by
  unfold rampToward
  split <;> omega

/-- An island one of whose clocks has made a ramp's step. -/
def Island.ramped (x : Island) (k : Fin 5) : Island := { x with ratio := x.ratio.set k (rampToward x.ratio[k] x.target[k]) }

theorem Island.ramped_ratio (x : Island) (k : Fin 5) : (x.ramped k).ratio[k] = rampToward x.ratio[k] x.target[k] :=
  Vector.getElem_set_self ..

theorem Island.ramped_ratio_other (x : Island) {j k : Fin 5} (h : j ≠ k) : (x.ramped k).ratio[j] = x.ratio[j] :=
  Vector.getElem_set_ne k.isLt j.isLt fun e => h (Fin.ext e.symm)

theorem State.island_put (f : Fld) (v : Nat) : (s.put f v).island i = s.island i := rfl

/-- A clock on the source that its setting selects. -/
theorem State.rampStep_same {k : Fin 5} (h : (s.island i).src[k] = clkSrc (s.setting i) k.val) :
    s.rampStep i k.val = s.setIsland i ((s.island i).ramped k) := by
  have hk : Fin.ofNat 5 k.val = k := Fin.ofNat_val_eq_self k
  unfold State.rampStep
  simp only [hk]
  exact if_pos h

theorem State.showRamp_same {k : Fin 5} (h : (s.island i).src[k] = clkSrc (s.setting i) k.val) :
    s.showRamp i k.val = s.put (CLK_ISL_STAT.RAMPING i) (setBit (s.get (CLK_ISL_STAT.RAMPING i)) k.val
      ((s.island i).ratio[k] != (s.island i).target[k])) := by
  unfold State.showRamp
  simp [h]

/-- Settles O9: the step is `rampToward`, and RAMPING shows whether it has come to the target. -/
theorem rampSteps : Obligations.RampSteps := by
  unfold Obligations.RampSteps
  intro s i k hw hi x hr hb hx hs
  have hy : (s.setIsland i.val (x.ramped k)).island i.val = x.ramped k := State.island_setIsland hi
  have ramp : (s.rampStep i.val k.val).showRamp i.val k.val = (s.setIsland i.val (x.ramped k)).put (CLK_ISL_STAT.RAMPING i.val)
      (setBit (s.get (CLK_ISL_STAT.RAMPING i.val)) k.val ((x.ramped k).ratio[k] != x.target[k])) := by
    rw [State.rampStep_same hs, State.showRamp_same (by rw [hy]; exact hs), hy]
    rfl
  refine .due rfl (by rw [hr, hb, hx]; rfl) ?_
  rw [ramp, State.island_put, hy, x.ramped_ratio]
  exact ⟨rfl, (rampToward_spec _ _).1, (rampToward_spec _ _).2, fun j hj => x.ramped_ratio_other hj,
    State.nbit_put_clock (s := s.setIsland i.val (x.ramped k)) (by decide) (by decide) hw⟩

/-! ### Stretches -/

/-- What holds before a fold over a list and is kept by every element's step holds after it; so does what each step establishes and
no other undoes. -/
theorem State.forAll_induct {α : Type} {P : State → Prop} {Q : α → State → Prop} {l : List α} {f : α → State → State} (hs : P s)
    (hf : ∀ a x, P x → P (f a x) ∧ Q a (f a x)) (hq : ∀ a b x, P x → Q b x → Q b (f a x)) :
    P (s.forAll l f) ∧ ∀ a ∈ l, Q a (s.forAll l f) := by
  have keeps : ∀ (l : List α) (b : α) (x : State), P x → Q b x → Q b (x.forAll l f) := by
    intro l b
    induction l with
    | nil => exact fun _ _ h => h
    | cons a l ih => exact fun x hx h => ih _ (hf a x hx).1 (hq a b x hx h)
  induction l generalizing s with
  | nil => exact ⟨hs, by simp⟩
  | cons a l ih =>
    obtain ⟨hp, hall⟩ := ih (hf a s hs).1
    refine ⟨hp, fun b hb => ?_⟩
    obtain rfl | hb := List.mem_cons.1 hb
    · exact keeps l b _ (hf b s hs).1 (hf b s hs).2
    · exact hall b hb

theorem State.island_setIsland_other {x : Island} (h : Table.wf (fun _ => ({} : Island)) s.isl = true) (hj : j ≠ i) :
    (s.setIsland i x).island j = s.island j := Table.peek_poke_other _ _ _ hj h

/-- From `s` on only islands and registers change, both in canonical form. -/
def State.OnClocks (s t : State) : Prop :=
  t.regsWf ∧ Table.wf (fun _ => ({} : Island)) t.isl = true ∧ t = { s with isl := t.isl, regs := t.regs }

theorem State.OnClocks.refl (hw : s.regsWf) (hi : Table.wf (fun _ => ({} : Island)) s.isl = true) : s.OnClocks s := ⟨hw, hi, rfl⟩

theorem State.OnClocks.modIsland {f : Island → Island} (h : s.OnClocks t) : s.OnClocks (t.modIsland i f) := by
  obtain ⟨hw, hi, he⟩ := h
  refine ⟨hw, Table.wf_poke _ _ _ _ hi, ?_⟩
  conv_lhs => rw [State.modIsland, State.setIsland, he]
  rfl

theorem State.OnClocks.put {f : Fld} {v : Nat} (h : s.OnClocks t) : s.OnClocks (t.put f v) := by
  obtain ⟨hw, hi, he⟩ := h
  refine ⟨State.regsWf_put _ _ hw, hi, ?_⟩
  conv_lhs => rw [State.put, State.setReg, he]
  rfl

/-- What an update gives to any island holds of the one updated and is kept by the others. -/
theorem State.modIsland_keeps {f : Island → Island} {q : Island → Prop} (hf : ∀ x, q (f x)) (hi : Table.wf (fun _ => ({} : Island)) s.isl = true) :
    q ((s.modIsland j f).island j) ∧ (q (s.island k) → q ((s.modIsland j f).island k)) := by
  have same : q ((s.modIsland j f).island j) := by
    rw [State.modIsland, State.island_setIsland hi]
    exact hf _
  refine ⟨same, fun h => ?_⟩
  by_cases hk : k = j
  · rwa [hk]
  · rwa [State.modIsland, State.island_setIsland_other hi hk]

/-- The islands of a list are updated. -/
theorem State.forAll_modIsland {f : Island → Island} {q : Island → Prop} (hf : ∀ x, q (f x)) {l : List Nat} (hw : s.regsWf)
    (hi : Table.wf (fun _ => ({} : Island)) s.isl = true) : let t := s.forAll l (fun j x => x.modIsland j f)
    t = { s with isl := t.isl } ∧ ∀ j ∈ l, q (t.island j) := by
  obtain ⟨⟨h, hr⟩, hq⟩ := State.forAll_induct (P := fun x => s.OnClocks x ∧ x.regs = s.regs) (Q := fun j x => q (x.island j)) (l := l)
    (f := fun j x => x.modIsland j f) ⟨.refl hw hi, rfl⟩ (fun j x h => ⟨⟨h.1.modIsland, h.2⟩, (State.modIsland_keeps hf h.1.2.1 (k := j)).1⟩)
    (fun j k x h hk => (State.modIsland_keeps hf h.1.2.1).2 hk)
  refine ⟨?_, hq⟩
  conv_lhs => rw [h.2.2, hr]

/-- The islands of a list are updated, and STRETCHED shows it. -/
theorem State.forAll_stretch {f : Island → Island} {q : Island → Prop} (hf : ∀ x, q (f x)) {v : Nat} (hv : v < 2) {l : List Nat} (h : s.OnClocks t) :
    let u := t.forAll l (fun j x => (x.modIsland j f).put (CLK_ISL_STAT.STRETCHED j) v)
    s.OnClocks u ∧ ∀ j ∈ l, q (u.island j) ∧ u.get (CLK_ISL_STAT.STRETCHED j) = v := by
  refine State.forAll_induct (Q := fun j x => q (x.island j) ∧ x.get (CLK_ISL_STAT.STRETCHED j) = v) h
    (fun j x h => ⟨h.modIsland.put, (State.modIsland_keeps hf h.2.1 (k := j)).1, ?_⟩) fun j k x h hk => ⟨(State.modIsland_keeps hf h.2.1).2 hk.1, ?_⟩
  · exact (State.get_put_self (by decide) (by decide) h.modIsland.1).trans (Nat.mod_eq_of_lt hv)
  · by_cases hjk : k = j
    · subst hjk
      exact (State.get_put_self (by decide) (by decide) h.modIsland.1).trans (Nat.mod_eq_of_lt hv)
    · exact (State.get_put_elsewhere (by omega) h.modIsland.1).trans hk.2

/-! ### Stops -/

theorem nbit_stopping_cleared : ∀ (x : BitVec 5) (k : Fin 5), nbit (BitVec.ofNat 5 (setBit x.toNat k.val false)).toNat k.val = false := by decide

theorem State.running_setRunning {k : Fin 5} {b : Bool} (hw : s.regsWf) : (s.setRunning i k.val b).running i k.val = b :=
  State.nbit_put_clock (by decide) (by decide) hw

theorem State.stopping_stopClock {k : Fin 5} (hi : Table.wf (fun _ => ({} : Island)) s.isl = true) :
    nbit ((s.stopClock i k.val).island i).stopping.toNat k.val = false := by
  have stopped : (s.stopClock i k.val).island i = { s.island i with
      stopping := BitVec.ofNat 5 (setBit (s.island i).stopping.toNat k.val false) } :=
    State.island_setIsland (s := s.setRunning i k.val false) hi
  rw [stopped]
  exact nbit_stopping_cleared _ k

/-- Settles O10: the copies, holdover and the reference by what the commands write; stretches by a fold over the join group. -/
theorem clockEvents : Obligations.ClockEvents := by
  unfold Obligations.ClockEvents
  refine ⟨fun s d n h => ?_, fun s d n h => ?_, fun s h => ?_, fun s ppm hw => ?_, fun s i hi hw => ?_, fun s i hi hw => ⟨fun h => ?_, fun h => ?_⟩,
    fun s i k hw hi hb => ⟨fun hc => ?_, fun hc => ?_⟩⟩
  · exact .intro (congrArg Host.Outcome.next (if_neg (Bool.eq_false_iff.1 h))) rfl
  · exact .intro (congrArg Host.Outcome.next (if_pos h)) rfl
  · exact .due rfl (beq_iff_eq.2 h) rfl
  · have hp : ppm.toNat < 0x10000 := ppm.isLt
    refine .intro rfl ⟨rfl, ?_⟩
    simp [State.get_onClk, CLK_REF_STAT.PPM_ERR, CLK_REF_STAT.HOLDOVER, CLK_REF_STAT.REF_OK, State.get_put_self, State.get_put_beside,
      State.regsWf_put, State.regsWf_put_put, hw, Nat.mod_eq_of_lt hp]
  · have fired : s.OnClocks ((s.bump (PWR_DROOP_CNT.COUNT (i.val / 64))).modIsland i.val (fun x => { x with droop := true })) :=
      (State.OnClocks.put (.refl hw hi)).modIsland
    obtain ⟨⟨-, -, h⟩, hall⟩ := State.forAll_stretch (f := fun x => { x with stretch := 1 }) (q := fun x => x.stretch = 1) (fun _ => rfl)
      (v := 1) (by decide) (l := s.joined i.val) fired
    exact .intro rfl ⟨h, fun j hj _ => hall j hj⟩
  · exact .due rfl (beq_iff_eq.2 h) (State.forAll_modIsland (q := fun x => x.stretch = 2 ∧ x.droop = false) (fun _ => ⟨rfl, rfl⟩) hw hi)
  · obtain ⟨⟨-, -, e⟩, hall⟩ := State.forAll_stretch (f := fun x => { x with stretch := 0 }) (q := fun x => x.stretch = 0) (fun _ => rfl)
      (v := 0) (by decide) (l := s.joined i.val) (.refl hw hi)
    exact .due rfl (beq_iff_eq.2 h) ⟨e, fun j hj => (hall j hj).1⟩
  · exact .due rfl (by rw [hb, hc]; rfl) ⟨rfl, State.running_setRunning hw, State.stopping_stopClock hi⟩
  · have stopped : (s.stopClock i.val k.val).regsWf := State.regsWf_put _ _ hw
    refine .due rfl (by rw [hb, hc]; rfl) ⟨rfl, ?_, State.get_put_self (by decide) (by decide) stopped⟩
    exact (congrArg (nbit · k.val) (State.get_put_beside (by decide) (by decide) (by decide) stopped)).trans (State.running_setRunning hw)

end Sys2Proof.Machine
end

section
/-!
The engine's state area as bytes (R174): what stands at a register's place, and what bytes written there give.
-/

namespace Sys2Proof.Machine

/-! ### Numbers as bytes -/

@[simp] theorem length_toBytes (n x : Nat) : (toBytes n x).length = n := by
  induction n generalizing x with
  | zero => rfl
  | succ n ih => simp [toBytes, ih]

theorem take_toBytes {m n : Nat} (h : m ≤ n) (x : Nat) : (toBytes n x).take m = toBytes m x := by
  induction m generalizing n x with
  | zero => rfl
  | succ m ih =>
    obtain ⟨n, rfl⟩ : ∃ k, n = k + 1 := ⟨n - 1, by omega⟩
    simp only [toBytes, List.take_succ_cons, ih (Nat.le_of_succ_le_succ h)]

theorem ofBytes_toBytes (n x : Nat) : ofBytes (toBytes n x) = x % 256 ^ n := by
  induction n generalizing x with
  | zero => simp [toBytes, ofBytes, Nat.mod_one]
  | succ n ih =>
    rw [toBytes, ofBytes, ih, Nat.pow_succ', Nat.mod_mul]
    rfl

/-- A word reads back from enough of its bytes. -/
theorem ofNat_ofBytes_toBytes {w n : Nat} (x : BitVec w) (h : 2 ^ w ≤ 256 ^ n) : BitVec.ofNat w (ofBytes (toBytes n x.toNat)) = x := by
  rw [ofBytes_toBytes, Nat.mod_eq_of_lt (Nat.lt_of_lt_of_le x.isLt h), BitVec.ofNat_toNat, BitVec.setWidth_eq]

/-! ### Parts of a list -/

section
variable {α β : Type} {a b l : List β} {o n : Nat}

theorem take_drop_append_left (h : o + n ≤ a.length) : ((a ++ b).drop o).take n = (a.drop o).take n := by
  rw [List.drop_append_of_le_length (by omega), List.take_append_of_le_length (by rw [List.length_drop]; omega)]

theorem take_drop_append_right (h : a.length ≤ o) : ((a ++ b).drop o).take n = (b.drop (o - a.length)).take n := by
  rw [List.drop_append, List.drop_of_length_le h, List.nil_append]

theorem take_drop_take {m : Nat} (h : o + n ≤ m) : ((l.take m).drop o).take n = (l.drop o).take n := by
  rw [List.drop_take, List.take_take, Nat.min_eq_left (by omega)]

/-- A part of one element's bytes, in a list of elements that take `w` bytes each. -/
theorem take_drop_flatMap {f : α → List β} {w : Nat} (hf : ∀ x, (f x).length = w) (hw : o + n ≤ w) (l : List α) {k : Nat} (hk : k < l.length) :
    ((l.flatMap f).drop (w * k + o)).take n = ((f l[k]).drop o).take n := by
  induction l generalizing k with
  | nil => exact absurd hk (Nat.not_lt_zero k)
  | cons x l ih =>
    rw [List.flatMap_cons]
    cases k with
    | zero =>
      rw [Nat.mul_zero, Nat.zero_add, take_drop_append_left (by rw [hf]; exact hw)]
      rfl
    | succ k =>
      rw [take_drop_append_right (by rw [hf, Nat.mul_succ]; omega), hf, Nat.mul_succ, show w * k + w + o - w = w * k + o by omega,
        ih (Nat.lt_of_succ_lt_succ hk)]
      rfl

theorem length_flatMap_const {f : α → List β} {w : Nat} (hf : ∀ x, (f x).length = w) (l : List α) : (l.flatMap f).length = l.length * w := by
  induction l with
  | nil => exact (Nat.zero_mul w).symm
  | cons x l ih => rw [List.flatMap_cons, List.length_append, hf, ih, List.length_cons, Nat.succ_mul, Nat.add_comm]
end

section
variable {l d : List Byte} {off o n : Nat}

theorem overlay_before (hl : off ≤ l.length) (h : o + n ≤ off) : ((overlay l off d).drop o).take n = (l.drop o).take n := by
  rw [overlay, List.append_assoc, take_drop_append_left (by rw [List.length_take]; omega), take_drop_take h]

theorem overlay_at (hl : off ≤ l.length) (hd : d.length = n) : ((overlay l off d).drop off).take n = d := by
  rw [← hd, overlay, List.append_assoc, take_drop_append_right (by rw [List.length_take]; omega), List.length_take, Nat.min_eq_left hl,
    Nat.sub_self, List.drop_zero, List.take_left]

theorem overlay_after (hl : off ≤ l.length) (h : off + d.length ≤ o) : ((overlay l off d).drop o).take n = (l.drop o).take n := by
  have ht : (l.take off ++ d).length = off + d.length := by rw [List.length_append, List.length_take, Nat.min_eq_left hl]
  rw [overlay, take_drop_append_right (by rw [ht]; exact h), ht, List.drop_drop, Nat.add_sub_cancel' h]
end

/-! ### The registers in the state area -/

section
variable (e : Engine)

/-- The vectors, the accumulators, the scalars, 0x78 bytes of other registers, and PC. -/
theorem Engine.area_parts : ∃ mid : List Byte, mid.length = 0x78 ∧ e.area =
    e.v.toList.flatMap (fun v => v.toList.flatMap (fun x => toBytes 4 x.toNat)) ++
    (e.a.toList.flatMap (fun a => a.toList.flatMap (fun x => toBytes 16 x.toNat)) ++
    (e.s.toList.flatMap (fun x => toBytes 4 x.toNat) ++ (mid ++ toBytes 8 e.pc.toNat))) := by
  refine ⟨_ ++ (_ ++ (_ ++ (_ ++ (_ ++ (_ ++ (_ ++ (_ ++ (_ ++ (_ ++ (_ ++ _)))))))))), ?_, by simp only [Engine.area, List.append_assoc]; rfl⟩
  simp

theorem Engine.area_length : e.area.length = 0x4C0 := by
  obtain ⟨mid, hm, h⟩ := e.area_parts
  simp [h, hm, length_flatMap_const (w := 32), length_flatMap_const (w := 128), length_flatMap_const (w := 4), length_flatMap_const (w := 16)]

theorem length_lanes (x : Lanes) : (x.toList.flatMap (fun x => toBytes 4 x.toNat)).length = 32 := by
  simp [length_flatMap_const (w := 4)]

theorem length_accLanes (x : AccLanes) : (x.toList.flatMap (fun x => toBytes 16 x.toNat)).length = 128 := by
  simp [length_flatMap_const (w := 16)]

theorem Engine.area_v (r : Fin 16) (k : Fin 8) : (e.area.drop (32 * r.val + 4 * k.val)).take 4 = toBytes 4 (e.v[r][k]).toNat := by
  obtain ⟨mid, -, h⟩ := e.area_parts
  rw [h, take_drop_append_left (by rw [length_flatMap_const length_lanes, Vector.length_toList]; omega),
    take_drop_flatMap length_lanes (by omega) _ (by simp)]
  exact (take_drop_flatMap (o := 0) (fun _ => length_toBytes ..) (by decide) _ (by simp)).trans (take_toBytes (by decide) _)

/-- The 72 bits of an accumulator's lane. -/
theorem Engine.area_a (r : Fin 4) (k : Fin 8) : (e.area.drop (0x200 + 128 * r.val + 16 * k.val)).take 9 = toBytes 9 (e.a[r][k]).toNat := by
  obtain ⟨mid, -, h⟩ := e.area_parts
  rw [h, take_drop_append_right (by rw [length_flatMap_const length_lanes, Vector.length_toList]; omega),
    length_flatMap_const length_lanes, Vector.length_toList, show 0x200 + 128 * r.val + 16 * k.val - 16 * 32 = 128 * r.val + 16 * k.val by omega,
    take_drop_append_left (by rw [length_flatMap_const length_accLanes, Vector.length_toList]; omega),
    take_drop_flatMap length_accLanes (by omega) _ (by simp)]
  exact (take_drop_flatMap (o := 0) (fun _ => length_toBytes ..) (by decide) _ (by simp)).trans (take_toBytes (by decide) _)

theorem Engine.area_s (r : Fin 16) : (e.area.drop (0x400 + 4 * r.val)).take 4 = toBytes 4 (e.s[r]).toNat := by
  obtain ⟨mid, -, h⟩ := e.area_parts
  rw [h, take_drop_append_right (by rw [length_flatMap_const length_lanes, Vector.length_toList]; omega),
    length_flatMap_const length_lanes, Vector.length_toList,
    take_drop_append_right (by rw [length_flatMap_const length_accLanes, Vector.length_toList]; omega),
    length_flatMap_const length_accLanes, Vector.length_toList, show 0x400 + 4 * r.val - 16 * 32 - 4 * 128 = 4 * r.val + 0 by omega,
    take_drop_append_left (by rw [length_flatMap_const (fun _ => length_toBytes ..), Vector.length_toList]; omega),
    take_drop_flatMap (fun _ => length_toBytes ..) (by decide) _ (by simp)]
  exact take_toBytes (by decide) _

theorem Engine.area_pc : (e.area.drop 0x4B8).take 2 = toBytes 2 e.pc.toNat := by
  obtain ⟨mid, hm, h⟩ := e.area_parts
  have hl : e.area.length = 0x4C0 := e.area_length
  rw [h, ← List.append_assoc, ← List.append_assoc, ← List.append_assoc] at hl ⊢
  rw [List.length_append, length_toBytes] at hl
  rw [take_drop_append_right (by omega), show 0x4B8 - _ = 0 by omega]
  exact take_toBytes (by decide) _
end

/-! ### Writes to the state area -/

section
variable {e : Engine} {l : List Byte}

/-- Bytes in which the accumulators, the vectors and PC stand as the engine holds them. -/
theorem Engine.fromArea_kept (hv : ∀ (r : Fin 16) (k : Fin 8), (l.drop (32 * r.val + 4 * k.val)).take 4 = toBytes 4 (e.v[r][k]).toNat)
    (ha : ∀ (r : Fin 4) (k : Fin 8), (l.drop (0x200 + 128 * r.val + 16 * k.val)).take 9 = toBytes 9 (e.a[r][k]).toNat)
    (hp : (l.drop 0x4B8).take 2 = toBytes 2 e.pc.toNat) :
    (e.fromArea l).v = e.v ∧ (e.fromArea l).a = e.a ∧ (e.fromArea l).pc = e.pc := by
  refine ⟨?_, ?_, ?_⟩
  · ext r hr k hk : 2
    simp only [Engine.fromArea, Vector.getElem_ofFn]
    rw [hv ⟨r, hr⟩ ⟨k, hk⟩]
    exact ofNat_ofBytes_toBytes _ (by decide)
  · ext r hr k hk : 2
    simp only [Engine.fromArea, Vector.getElem_ofFn]
    rw [ha ⟨r, hr⟩ ⟨k, hk⟩]
    exact ofNat_ofBytes_toBytes _ (by decide)
  · simp only [Engine.fromArea, hp]
    exact ofNat_ofBytes_toBytes _ (by decide)

/-- The engine after bytes were written to its state area. -/
def Engine.areaWritten (e : Engine) (off : Nat) (d : List Byte) : Engine := e.fromArea ((overlay e.area off d).take 0x4C0)

/-- Four bytes written at a scalar's place. -/
theorem Engine.areaWritten_scalar (r : Fin 16) {d : List Byte} (hd : d.length = 4) : let e' := e.areaWritten (0x400 + 4 * r.val) d
    e'.s = e.s.set r (BitVec.ofNat 32 (ofBytes d)) ∧ e'.v = e.v ∧ e'.a = e.a ∧ e'.pc = e.pc := by
  have hl : 0x400 + 4 * r.val ≤ e.area.length := by rw [e.area_length]; omega
  have before {o n : Nat} (h : o + n ≤ 0x400 + 4 * r.val) :
      (((overlay e.area (0x400 + 4 * r.val) d).take 0x4C0).drop o).take n = (e.area.drop o).take n := by
    rw [take_drop_take (by omega), overlay_before hl h]
  have after {o n : Nat} (h : 0x404 + 4 * r.val ≤ o) (hn : o + n ≤ 0x4C0) :
      (((overlay e.area (0x400 + 4 * r.val) d).take 0x4C0).drop o).take n = (e.area.drop o).take n := by
    rw [take_drop_take hn, overlay_after hl (by omega)]
  refine ⟨?_, Engine.fromArea_kept (fun q k => ?_) (fun q k => ?_) ?_⟩
  · ext q hq : 1
    simp only [Engine.areaWritten, Engine.fromArea, Vector.getElem_ofFn]
    rw [Vector.getElem_set]
    split
    · next h =>
      subst h
      rw [take_drop_take (by omega), overlay_at hl hd]
    · next h =>
      obtain h | h := Nat.lt_or_gt_of_ne h
      · rw [after (by omega) (by omega), e.area_s ⟨q, hq⟩]
        exact ofNat_ofBytes_toBytes _ (by decide)
      · rw [before (by omega), e.area_s ⟨q, hq⟩]
        exact ofNat_ofBytes_toBytes _ (by decide)
  · rw [before (by omega), e.area_v]
  · rw [before (by omega), e.area_a]
  · rw [after (by omega) (by decide), e.area_pc]
end

end Sys2Proof.Machine
end

section
/-!
An engine's control registers through its window, its watchdog, and its state area (R109, R151, R168, R171, R174, R175; O25).
-/

namespace Sys2Proof.Machine

variable {s : State} {i : Fin 256} {e : Engine}

/-! ### The window -/

theorem State.winWrite_reaches {i : Nat} (h : s.winReaches i = true) (f : State → State) : s.winWrite i f = f s := if_pos h

theorem State.winWrite_missed {i : Nat} (h : s.busSlow i = true) (f : State → State) : s.winWrite i f = s :=
  if_neg (by simp [State.winReaches, h])

theorem State.winReaches_iff {i : Nat} : s.winReaches i = true ↔ s.islActive i = true ∧ s.engOut i = false ∧ s.busSlow i = false := by
  simp [State.winReaches, and_assoc]

theorem State.winStatus_reaches {i : Nat} (h : s.winReaches i = true) : s.winStatus i = 0 := by
  obtain ⟨ha, ho, -⟩ := State.winReaches_iff.1 h
  simp [State.winStatus, ha, ho]

/-- A command that changes the engine by a write through the window leaves it changed. -/
theorem gives_winWrite {c : Instr} {f : Engine → Engine} (h : s.winReaches i.val = true)
    (hc : exec c s = .next (s.winWrite i.val (fun s => s.modEng i.val f))) (he : f (s.eng i.val) = e) :
    Gives c s (fun t => t = s.setEng i.val e) :=
  .intro hc (by rw [State.winWrite_reaches h, State.modEng, he])

/-! ### The state area -/

/-- A RUNNING or STOPPING engine's state area answers ADDR_ERR. -/
theorem gives_stateArea_running {off : Fin 0x4C0} {n : Nat} (h : s.winReaches i.val = true) (hs : (s.eng i.val).state = 2 ∨ (s.eng i.val).state = 4) :
    Gives (.engStateAreaAccess i off (.read n)) s (fun t => t = s.answer [] 3) := by
  have refused : s.stateArea i.val off.val (.read n) = ([], 3, s) := if_pos (by obtain hs | hs := hs <;> simp [hs])
  refine .intro (t := s.answer [] 3) ?_ rfl
  change execEngStateAreaAccess i off (.read n) s = _
  simp [execEngStateAreaAccess, refused, State.winStatus_reaches h]

/-- A STOPPED engine's state area is reached. -/
theorem State.stateArea_read {i off n : Nat} (hs : (s.eng i).state = 1) (hl : off + n ≤ 0x4C0) :
    s.stateArea i off (.read n) = (((s.eng i).area.drop off).take n, 0, s) :=
  if_neg (by simp only [hs, Access.bytes]; simpa using hl)

theorem State.stateArea_write {i off : Nat} {d : List Byte} (hs : (s.eng i).state = 1) (hl : off + d.length ≤ 0x4C0) :
    s.stateArea i off (.write d) = ([], 0, s.setEng i ((s.eng i).areaWritten off d)) :=
  if_neg (by simp only [hs, Access.bytes]; simpa using hl)

theorem gives_stateArea_read {r : Fin 16} {h : 0x400 + 4 * r.val < 0x4C0} (hr : s.winReaches i.val = true) (hs : (s.eng i.val).state = 1)
    (hf : s.busFast i.val = false) : Gives (.engStateAreaAccess i ⟨0x400 + 4 * r.val, h⟩ (.read 4)) s (fun t =>
      t = (s.setEng i.val { s.eng i.val with busData := toBytes 4 ((s.eng i.val).s[r]).toNat }).answer (toBytes 4 ((s.eng i.val).s[r]).toNat)) := by
  have reads : s.stateArea i.val (0x400 + 4 * r.val) (.read 4) = (toBytes 4 ((s.eng i.val).s[r]).toNat, 0, s) := by
    rw [State.stateArea_read hs (by omega), Engine.area_s]
  refine .intro (t := (s.setEng i.val { s.eng i.val with busData := toBytes 4 ((s.eng i.val).s[r]).toNat }).answer _) ?_ rfl
  change execEngStateAreaAccess i _ (.read 4) s = _
  simp [execEngStateAreaAccess, reads, State.winStatus_reaches hr, State.winData, hf, (State.winReaches_iff.1 hr).2.2]
  rfl

theorem gives_stateArea_write {r : Fin 16} {d : List Byte} {h : 0x400 + 4 * r.val < 0x4C0} (hr : s.winReaches i.val = true)
    (hs : (s.eng i.val).state = 1) (hd : d.length = 4) : Gives (.engStateAreaAccess i ⟨0x400 + 4 * r.val, h⟩ (.write d)) s (fun t =>
      t = (s.setEng i.val (t.eng i.val)).answer [] ∧ (t.eng i.val).s = (s.eng i.val).s.set r (BitVec.ofNat 32 (ofBytes d)) ∧
      (t.eng i.val).v = (s.eng i.val).v ∧ (t.eng i.val).a = (s.eng i.val).a ∧ (t.eng i.val).pc = (s.eng i.val).pc) := by
  have run : exec (.engStateAreaAccess i ⟨0x400 + 4 * r.val, h⟩ (.write d)) s =
      .next ((s.setEng i.val ((s.eng i.val).areaWritten (0x400 + 4 * r.val) d)).answer []) := by
    change execEngStateAreaAccess i _ (.write d) s = _
    simp [execEngStateAreaAccess, State.stateArea_write hs (show 0x400 + 4 * r.val + d.length ≤ 0x4C0 by omega), State.winStatus_reaches hr,
      State.winWrite_reaches hr]
  have stored (e' : Engine) (he : e'.state = 1) : ((s.setEng i.val e').answer []).eng i.val = e' :=
    Table.peek_poke_of_ne fun h => absurd ((congrArg Engine.state h).symm.trans he) (by decide)
  refine .intro run ?_
  rw [stored ((s.eng i.val).areaWritten (0x400 + 4 * r.val) d) hs]
  exact ⟨rfl, Engine.areaWritten_scalar r hd⟩

/-! ### The watchdog -/

theorem State.eng_setEng {i : Nat} (h : Table.wf (fun _ => ({} : Engine)) s.engines = true) : (s.setEng i e).eng i = e :=
  Table.peek_poke_same _ _ _ _ h

/-- The later of two writes of an engine stands. -/
theorem State.setEng_setEng {i : Nat} {e' : Engine} (h : Table.wf (fun _ => ({} : Engine)) s.engines = true) :
    (s.setEng i e).setEng i e' = s.setEng i e' := by
  have same : Table.poke (fun _ => ({} : Engine)) (Table.poke (fun _ => {}) s.engines i e) i e' = Table.poke (fun _ => {}) s.engines i e' := by
    refine Table.ext_of_peek (fun _ => ({} : Engine)) _ _ (Table.wf_poke _ _ _ _ (Table.wf_poke _ _ _ _ h)) (Table.wf_poke _ _ _ _ h) fun l => ?_
    by_cases hl : l = i
    · rw [hl, Table.peek_poke_same _ _ _ _ (Table.wf_poke _ _ _ _ h), Table.peek_poke_same _ _ _ _ h]
    · rw [Table.peek_poke_other _ _ _ hl (Table.wf_poke _ _ _ _ h), Table.peek_poke_other _ _ _ hl h, Table.peek_poke_other _ _ _ hl h]
  unfold State.setEng
  rw [same]

/-- A trap that an engine takes with its handler, outside a locked sequence and with no deferred halt. -/
theorem State.trapLow_taken {i cause : Nat} (h : Table.wf (fun _ => ({} : Engine)) s.engines = true) (hd : (s.eng i).dmTraps = false)
    (hl : (s.eng i).locked = false) (hp : (s.eng i).haltPend = 0) (ht : (s.eng i).trapEn = true) (hi : (s.eng i).inTrap = false) :
    s.trapLow i cause = s.setEng i { s.eng i with
      tpc := (s.eng i).pc, trapCause := BitVec.ofNat 8 cause, inTrap := true, pc := (s.eng i).vec, skipHit := false, haltPend := 0 } := by
  have low : s.trapLow i cause = s.trapAt i cause (s.eng i).pc := if_pos (by rw [hd]; rfl)
  rw [low, State.trapAt]
  simp only [hl, hp, ht, hi, Bool.not_false, Bool.and_self, bne_self_eq_false, Bool.false_and, Bool.false_eq_true, if_true, if_false,
    State.modEng, State.eng_setEng h, State.setEng_setEng h]

section
variable (hw : (s.eng i.val).wdogEn = true) (hs : s.issues i.val = true) (hl : (s.eng i.val).locked = false) (hp : (s.eng i.val).haltPend = 0)
include hw hs hl hp

/-- The first expiry reloads the count and traps. -/
theorem gives_watchdogFirstExpiry (h : Table.wf (fun _ => ({} : Engine)) s.engines = true) (hd : (s.eng i.val).dmTraps = false)
    (hx : (s.eng i.val).expired = false) (ht : (s.eng i.val).trapEn = true) (hi : (s.eng i.val).inTrap = false) : let e := s.eng i.val
    Gives (.watchdogFirstExpiry i) s (fun t => t = s.setEng i.val { e with
      expired := true, count := e.load, tpc := e.pc, trapCause := 7, inTrap := true, pc := e.vec, skipHit := false }) := by
  intro e
  have held : (s.modEng i.val (fun e => { e with expired := true, count := e.load })).eng i.val = { e with expired := true, count := e.load } :=
    State.eng_setEng h
  refine .due rfl (by simp [State.wdogCounts, hw, hs, hx]) ?_
  rw [State.trapLow_taken (Table.wf_poke _ _ _ _ h) (by rw [held]; exact hd) (by rw [held]; exact hl) (by rw [held]; exact hp)
    (by rw [held]; exact ht) (by rw [held]; exact hi), held, State.modEng, State.setEng_setEng h, ← hp]
  rfl

/-- The second stops the engine. -/
theorem gives_watchdogHardStop (hx : (s.eng i.val).expired = true) : let e := s.eng i.val
    Gives (.watchdogHardStop i) s (fun t => t =
      (s.setEng i.val { e with state := 1, fault := true, cause := 7, count := 0 }).toCairn 0x14 (srcIsland i.val) sevMajor e.pc.toNat) := by
  refine .due rfl (by simp [State.wdogCounts, hw, hs, hx]) ?_
  simp only [hl, ← hp]
  rfl
end

/-- Settles O25: writes through the window, the state area, a window too slow for the bus, the service port and the watchdog. -/
theorem engineControl : Obligations.EngineControl := by
  unfold Obligations.EngineControl
  intro s i
  refine ⟨fun hr => ⟨fun hs hf => ?_, fun hf => ?_, fun hs => ?_, gives_winWrite hr rfl rfl, fun pc => gives_winWrite hr rfl rfl,
    fun v => gives_winWrite hr rfl rfl, gives_winWrite hr rfl rfl, fun off n hs => gives_stateArea_running hr hs,
    fun hs hf r h => gives_stateArea_read hr hs hf, fun hs r d hd h => gives_stateArea_write hr hs hd⟩, fun _ _ hs => ⟨?_, ?_⟩, fun hk => ?_,
    fun hw hs hl hp hd h => ⟨fun hx ht hi => gives_watchdogFirstExpiry hw hs hl hp h hd hx ht hi, fun hx => gives_watchdogHardStop hw hs hl hp hx⟩⟩
  · exact gives_winWrite hr rfl (if_pos ⟨hs, by rw [hf]; rfl⟩)
  · exact gives_winWrite hr rfl (if_neg fun h => by rw [hf] at h; exact absurd h.2 (by decide))
  · exact gives_winWrite hr rfl (if_pos hs)
  · exact .intro rfl (State.winWrite_missed hs _)
  · exact .intro rfl (State.winWrite_missed hs _)
  · exact .due rfl hk rfl

end Sys2Proof.Machine
end

section
/-!
What the GSR step leaves (O42): a boot island whose handshake group connects with a neighbour that is released already.
-/

namespace Sys2Proof.Machine

/-- The GSR step is due for the boot island 13, whose east group 0 sends; the west group 0 of island 14, which is released and no
boot island, receives and holds a word that has not been read. -/
def liveNeighbour : State :=
  let boot : Island := { cfg := { groups := [(groupKey 1 0, { mode := 2 })] } }
  let near : Island := { cfg := { groups := [(groupKey 3 0, { mode := 3 })] }, gsr := false, border := [(groupKey 3 0, { fifo := [7], visible := 1 })] }
  { ((State.reset.setIsland 13 boot).setIsland 14 near).put (SWB_ISL_STAT.STATE 14) 3 with
    cfg := { phase := 3, startup := 1, boots := [(5, 0, 13, 0, {})] } }

/-- The group connects with its FIFO empty (R89). -/
theorem liveNeighbour_fifo :
    (((landed liveNeighbour (exec .startupGsr liveNeighbour)).island 14).chan (groupKey 3 0)).fifo = [] := by
  decide +kernel

/-- Refutes O42: the release of a boot island empties the FIFO of a neighbour's group that connects with it, where the statement has
every island but the boot islands as it was. -/
theorem not_startupAndReload : ¬ Obligations.StartupAndReload := by
  unfold Obligations.StartupAndReload
  intro h
  obtain ⟨-, -, gsr, -⟩ := h liveNeighbour (by unfold State.regsWf; decide +kernel) rfl (by decide +kernel) rfl
  obtain ⟨-, -, -, others⟩ := (gsr (by decide +kernel) (by decide +kernel) rfl).landed
  have kept : (liveNeighbour.island 14).chan (groupKey 3 0) = { fifo := [7], visible := 1 } := by decide +kernel
  obtain ⟨same, -⟩ := others 14 (by decide +kernel)
  rw [← same] at kept
  exact absurd (liveNeighbour_fifo.symm.trans (congrArg BorderChan.fifo kept)) (by decide)

end Sys2Proof.Machine
end

section
/-!
What a write of ENG_DBG_WR leaves (O55): a memory whose table of bytes does not stand in canonical form.
-/

namespace Sys2Proof.Machine

/-- Island 5's engine runs with its terminal on word 0 of X. The bytes 0 and 1 of that word are listed twice, as 0 and, behind that, as
the bytes of 0x413, a code word with check byte 0. -/
def bytesTwice : State :=
  let a := 8 * xyWord 5 false 0
  { ((State.reset.put (SWB_ISL_STAT.STATE 5) 3).put (CLK_ISL_STAT.RUNNING 5) 31).setEng 5 { state := 2, term := 0x8000000000000000 } with
    mem := { data := [(a, 0), (a, 0x13), (a + 1, 0), (a + 1, 0x04)] } }

/-- A write of 0 takes the first entry of each byte off the table, and the word reads as what stood behind them. -/
theorem bytesTwice_word :
    halfOf ((landed bytesTwice (exec (.engDbgWr 5 0) bytesTwice)).loadWord (xyWord 5 false 0)).1 0 = 0x413 := by
  decide +kernel

/-- Refutes O55: nothing in the statement puts the memories in canonical form, as it does the set-up registers and the table of engines,
and a word written through ENG_DBG_WR then need not read back. -/
theorem not_runControl : ¬ Obligations.RunControl := by
  unfold Obligations.RunControl
  intro h
  obtain ⟨window, -⟩ := h bytesTwice (by unfold State.regsWf; decide +kernel) (by decide +kernel)
  obtain ⟨-, -, -, -, -, -, write, -⟩ := window 5 (by decide +kernel)
  obtain ⟨-, -, stores⟩ := write 0
  obtain ⟨-, store⟩ := stores (by decide +kernel) (by decide +kernel) (by unfold State.quiet; decide +kernel) (by decide +kernel)
  obtain ⟨word, -⟩ := (store (by decide +kernel) (by decide +kernel) rfl rfl).landed
  exact absurd (bytesTwice_word.symm.trans word) (by decide)

end Sys2Proof.Machine
end

section
/-!
SUPPORT. What the operations on coded memories leave of them (chapter 4): counting and logging touch no stored bit, and no access
through the codes touches the merge buffers or the rebuilds under way.
-/

namespace Sys2Proof.Machine

variable {s t u : State}

/-! ### Counting and logging -/

theorem State.post_mem {code a0 a1 : Nat} : (s.post code a0 a1).mem = s.mem := by
  rw [State.post_eq]

theorem State.hbmLog_mem {kind p dpa : Nat} : (s.hbmLog kind p dpa).mem = s.mem := by
  unfold State.hbmLog
  dsimp only
  split
  · split
    · exact State.post_mem
    · rfl
  · rfl

theorem State.retirePc_mem {p : Nat} : (s.retirePc p).mem = s.mem := by
  unfold State.retirePc
  split <;> rfl

theorem State.hbmUe_mem {kind dpa : Nat} : (s.hbmUe kind dpa).mem = s.mem := by
  unfold State.hbmUe
  dsimp only
  split
  · exact State.retirePc_mem.trans State.hbmLog_mem
  · exact State.hbmLog_mem

/-- From `s` to `t` the memories keep all but the times of the log tables' last updates. -/
def State.Logs (s t : State) : Prop := t.mem = { s.mem with logAt := t.mem.logAt }

theorem State.Logs.refl : s.Logs s := rfl

theorem State.Logs.of_mem (h : t.mem = s.mem) : s.Logs t := by
  unfold State.Logs
  rw [h]

theorem State.Logs.trans (h : s.Logs t) (g : t.Logs u) : s.Logs u := by
  unfold State.Logs at *
  rw [g, h]

theorem State.Logs.ite {c : Prop} [Decidable c] (h : s.Logs t) (g : s.Logs u) : s.Logs (if c then t else u) := by
  split
  · exact h
  · exact g

theorem State.Logs.ceCross {c : Nat} : t.Logs (State.ceCross s t c) := by
  unfold State.ceCross
  dsimp only
  split
  · exact .of_mem State.post_mem
  · exact .refl

theorem State.Logs.logLost {k : Nat} : s.Logs (s.logLost k) := by
  unfold State.logLost
  dsimp only
  split
  · exact .of_mem State.post_mem
  · exact .of_mem rfl

theorem State.Logs.logEvent {r : Region} {w kind syn : Nat} {scrub : Bool} : s.Logs (s.logEvent r w kind syn scrub) := by
  unfold State.logEvent
  dsimp only
  split
  · exact .logLost
  · have stamped : s.Logs (s.onMem fun m => { m with logAt := m.logAt.poke (fun _ => 0) r.table (s.now + 1) }) := rfl
    refine stamped.trans ?_
    split
    · exact .of_mem rfl
    · exact .of_mem rfl
    · exact (State.Logs.of_mem rfl).trans .logLost

theorem State.Logs.corrected {r : Region} {w kind syn : Nat} {scrub : Bool} : s.Logs (s.corrected r w kind syn scrub) :=
  (State.Logs.trans (t := s.bump (MEM_CE_CNT.COUNT r.cls)) (.of_mem rfl) .ceCross).trans .logEvent

theorem State.Logs.guarded {r : Region} {w kind : Nat} {scrub : Bool} : s.Logs (s.guarded r w kind scrub) :=
  (State.Logs.trans (t := s.bump (MEM_PG_CNT.COUNT r.cls)) (.of_mem rfl) .ceCross).trans .logEvent

theorem State.Logs.countWord {r : Region} {w : Nat} {k : Decoded} {scrub : Bool} : s.Logs (s.countWord r w k scrub) := by
  cases k with
  | checkBit syn => exact .corrected
  | dataBit syn j => exact .corrected
  | _ => exact .refl

theorem State.Logs.countGuard {r : Region} {scrub : Bool} : s.Logs (s.countGuard r scrub) :=
  State.Logs.countWord.trans .countWord

theorem State.Logs.foldl {α : Type} {l : List α} {f : State → α → State} (h : ∀ x a, State.Logs x (f x a)) : s.Logs (l.foldl f s) := by
  induction l generalizing s with
  | nil => exact .refl
  | cons a l ih => exact (h s a).trans ih

theorem State.Logs.countSet {r : Region} {skip : Nat} {scrub : Bool} : s.Logs (s.countSet r skip scrub) :=
  .foldl fun x i => by
    split
    · exact .refl
    · exact .countWord

/-! ### Merge buffers and rebuilds -/

/-- From `s` to `t` the merge buffers and the rebuilds under way stay as they are. -/
def State.Recodes (s t : State) : Prop := t.mem.merge = s.mem.merge ∧ t.mem.rebuilding = s.mem.rebuilding

theorem State.Recodes.refl : s.Recodes s := ⟨rfl, rfl⟩

theorem State.Recodes.trans (h : s.Recodes t) (g : t.Recodes u) : s.Recodes u := ⟨g.1.trans h.1, g.2.trans h.2⟩

theorem State.Recodes.of_mem (h : t.mem = s.mem) : s.Recodes t := by
  unfold State.Recodes
  rw [h]
  exact ⟨rfl, rfl⟩

theorem State.Logs.recodes (h : s.Logs t) : s.Recodes t := by
  unfold State.Recodes
  rw [h]
  exact ⟨rfl, rfl⟩

theorem State.Recodes.forAll {α : Type} {l : List α} {f : α → State → State} (h : ∀ a x, State.Recodes x (f a x)) :
    s.Recodes (s.forAll l f) := by
  induction l generalizing s with
  | nil => exact .refl
  | cons a l ih => exact (h a s).trans ih

theorem State.Recodes.ite {c : Prop} [Decidable c] (h : s.Recodes t) (g : s.Recodes u) : s.Recodes (if c then t else u) := by
  split
  · exact h
  · exact g

theorem State.Recodes.setBytes {a : Nat} {bs : List Byte} : s.Recodes (s.setBytes a bs) := by
  induction bs generalizing s a with
  | nil => exact .refl
  | cons b bs ih => exact State.Recodes.trans ⟨rfl, rfl⟩ ih

theorem State.Recodes.setCheck {w : Nat} {c : Byte} : s.Recodes (s.setCheck w c) := ⟨rfl, rfl⟩

theorem State.Recodes.storeWord {w : Nat} {v : W64} : s.Recodes (s.storeWord w v) := State.Recodes.setBytes.trans .setCheck

theorem State.Recodes.setDead {f : List Nat → List Nat} : s.Recodes (s.onMem fun m => { m with dead := f m.dead }) := ⟨rfl, rfl⟩

theorem State.Recodes.setGuard {k : Nat} {p q : W64} : s.Recodes (s.setGuard k p q) := ⟨rfl, rfl⟩

theorem State.Recodes.reguard {r : Region} : s.Recodes (s.reguard r) := ⟨rfl, rfl⟩

theorem State.Recodes.rebuildSet {r : Region} {scrub : Bool} : s.Recodes (s.rebuildSet r scrub).1 := by
  unfold State.rebuildSet
  split
  · exact .refl
  · next l _ =>
    have counted : s.Recodes ((s.countSet r (r.member r.n) scrub).countGuard r scrub) :=
      State.Logs.countSet.recodes.trans State.Logs.countGuard.recodes
    have stored := counted.trans (.forAll (l := l) (f := fun p s => (s.storeWord (r.member p.1) p.2).guarded r (r.member p.1) 2 scrub)
      fun _ _ => State.Recodes.storeWord.trans State.Logs.guarded.recodes)
    dsimp only
    split
    · exact stored.trans .reguard
    · exact stored

theorem State.Recodes.readStored {r : Region} {w : Nat} {scrub : Bool} : s.Recodes (s.readStored r w scrub).2.2 := by
  unfold State.readStored
  split
  · exact .refl
  · exact State.Logs.corrected.recodes
  · exact State.Logs.corrected.recodes
  · dsimp only
    split
    · exact .rebuildSet
    · exact .refl

theorem State.Recodes.readCode {r : Region} {w : Nat} {scrub : Bool} : s.Recodes (s.readCode r w scrub).2.2 := by
  have used : s.Recodes (s.useCheck r.source 0).took := .of_mem rfl
  unfold State.readCode
  dsimp only
  split
  · exact .of_mem rfl
  · split
    · split
      · exact used.trans State.Logs.corrected.recodes
      · exact used.trans .readStored
    · exact .readStored

theorem State.Recodes.writeCode {r : Region} {w : Nat} {v : W64} {told : Bool} : s.Recodes (s.writeCode r w v told) := by
  have counted : s.Recodes ((if told then s else s.countWord r w (s.wordState w) false).countGuard r false) :=
    (State.Recodes.ite .refl State.Logs.countWord.recodes).trans State.Logs.countGuard.recodes
  unfold State.writeCode
  dsimp only
  generalize (if told then s else s.countWord r w (s.wordState w) false).countGuard r false = s0 at counted ⊢
  have stored (x : State) (hx : s.Recodes x) :
      s.Recodes ((x.storeWord w v).onMem (fun m => { m with dead := m.dead.filter (fun k => k != w) })) :=
    (hx.trans .storeWord).trans (.setDead (f := fun l => l.filter fun k => k != w))
  generalize (s.wordState w == Decoded.bad || s.pState r.key == Decoded.bad || s.qState r.key == Decoded.bad) = afresh
  cases afresh with
  | false => exact (stored s0 counted).trans .setGuard
  | true => exact (stored _ (counted.trans State.Logs.countSet.recodes)).trans .reguard

theorem State.Recodes.flushEntry {r : Region} {e : MergeEntry} : s.Recodes (s.flushEntry r e) := by
  unfold State.flushEntry
  extract_lets x s1
  have hx : s.Recodes x.2.2 := .readCode
  have h1 : s.Recodes s1 := hx.trans (.of_mem rfl)
  exact .ite .writeCode (.ite (.ite (h1.trans (.of_mem State.hbmUe_mem)) h1) (hx.trans .writeCode))

theorem State.Recodes.rebuildPage {r : Region} : s.Recodes (s.rebuildPage r) := .forAll fun _ _ => .ite .refl .rebuildSet

theorem State.Recodes.setBusy {w : Nat} {on : Bool} : s.Recodes (s.setBusy w on) := by
  unfold State.setBusy
  split
  · exact .ite (.forAll fun _ _ => ⟨rfl, rfl⟩) .refl
  · exact .refl

end Sys2Proof.Machine
end

section
/-!
The inner code (R122, R123; O12): it is linear, so that what a stored word decodes as depends on the inverted bits alone.
-/

namespace Sys2Proof.Machine

/-! ### Bits of an exclusive or -/

theorem nbit_xor (a b n : Nat) : nbit (a ^^^ b) n = (nbit a n != nbit b n) := by
  simp [nbit_eq_testBit]

/-- Parity, from the top bit down. -/
theorem parity_succ (d n : Nat) : parity d (n + 1) = (parity d n != nbit d n) := by
  have top (d n : Nat) : popCount (n + 1) d = popCount n d + d / 2 ^ n % 2 := by
    induction n generalizing d with
    | zero => simp [popCount]
    | succ n ih =>
      rw [popCount, ih, popCount, Nat.div_div_eq_div_mul, ← Nat.pow_succ', Nat.add_assoc]
  unfold parity nbit
  rw [top]
  have hn := Nat.mod_two_eq_zero_or_one (d / 2 ^ n)
  have hp := Nat.mod_two_eq_zero_or_one (popCount n d)
  rw [Nat.add_mod]
  rcases hn with hn | hn <;> rcases hp with hp | hp <;> simp [hn, hp]

theorem parity_xor (a b n : Nat) : parity (a ^^^ b) n = (parity a n != parity b n) := by
  induction n with
  | zero => rfl
  | succ n ih =>
    rw [parity_succ, parity_succ, parity_succ, ih, nbit_xor]
    generalize parity a n = p, parity b n = q, nbit a n = x, nbit b n = y
    revert p q x y
    decide

theorem parity_congr {a b n : Nat} (h : ∀ k < n, nbit a k = nbit b k) : parity a n = parity b n := by
  induction n with
  | zero => rfl
  | succ n ih => rw [parity_succ, parity_succ, ih fun k hk => h k (by omega), h n (by omega)]

theorem parity_eq_foldl (d n : Nat) : parity d n = (List.range n).foldl (fun a j => a != nbit d j) false := by
  induction n with
  | zero => rfl
  | succ n ih => rw [parity_succ, ih, List.range_succ, List.foldl_append]; rfl

theorem posXor_xor (a b n : Nat) : posXor (a ^^^ b) n = posXor a n ^^^ posXor b n := by
  induction n with
  | zero => exact (Nat.xor_self 0).symm
  | succ n ih =>
    simp only [posXor, nbit_xor, ih]
    cases nbit a n <;> cases nbit b n <;> simp [Nat.xor_assoc, Nat.xor_comm, Nat.xor_left_comm]

theorem nbit_posXor (d n k : Nat) :
    nbit (posXor d n) k = (List.range n).foldl (fun a j => a != (nbit (dataPos j) k && nbit d j)) false := by
  induction n with
  | zero => simp [posXor, nbit]
  | succ n ih =>
    rw [List.range_succ, List.foldl_append, ← ih, posXor]
    cases h : nbit d n <;> simp [h, nbit_xor]

theorem dataPos_lt : ∀ j < 64, dataPos j < 128 := by decide

theorem posXor_lt (d : Nat) {n : Nat} (hn : n ≤ 64) : posXor d n < 2 ^ 7 := by
  induction n with
  | zero => exact Nat.two_pow_pos 7
  | succ n ih =>
    rw [posXor]
    split
    · exact Nat.xor_lt_two_pow (ih (by omega)) (dataPos_lt n (by omega))
    · exact ih (by omega)

/-! ### Check bits -/

theorem checkBits_toNat (d : W64) :
    (checkBits d).toNat = posXor d.toNat 64 + 128 * bit (parity d.toNat 64 != parity (posXor d.toNat 64) 7) := by
  have hc := posXor_lt d.toNat (Nat.le_refl 64)
  have hb : bit (parity d.toNat 64 != parity (posXor d.toNat 64) 7) ≤ 1 := by unfold bit; split <;> decide
  unfold checkBits
  dsimp only
  rw [BitVec.toNat_ofNat]
  omega

/-- c0 to c6. -/
theorem nbit_checkBits (d : W64) {k : Nat} (hk : k < 7) : nbit (checkBits d).toNat k = nbit (posXor d.toNat 64) k := by
  have hm : (checkBits d).toNat % 2 ^ 7 = posXor d.toNat 64 := by
    have hc := posXor_lt d.toNat (Nat.le_refl 64)
    rw [checkBits_toNat]
    omega
  rw [← hm, nbit_eq_testBit, nbit_eq_testBit, Nat.testBit_mod_two_pow, decide_eq_true hk, Bool.true_and]

theorem parity_checkBits (d : W64) : parity (checkBits d).toNat 7 = parity (posXor d.toNat 64) 7 :=
  parity_congr fun _ hk => nbit_checkBits d hk

/-- c7. -/
theorem nbit_checkBits_seven (d : W64) :
    nbit (checkBits d).toNat 7 = (parity d.toNat 64 != parity (checkBits d).toNat 7) := by
  have hc := posXor_lt d.toNat (Nat.le_refl 64)
  rw [parity_checkBits, nbit, checkBits_toNat]
  cases parity d.toNat 64 != parity (posXor d.toNat 64) 7 <;> simp only [bit] <;> grind

/-! ### Decoding -/

/-- The syndrome s of R123. -/
def syndrome (d : W64) (c : Byte) : Nat := c.toNat % 128 ^^^ posXor d.toNat 64

/-- Π of R123: whether an odd number of the 72 bits are 1. -/
def oddBits (d : W64) (c : Byte) : Bool := parity d.toNat 64 != parity c.toNat 8

theorem decodeWord_of_even {d : W64} {c : Byte} (h : oddBits d c = false) :
    decodeWord d c = if syndrome d c = 0 then .clean else .bad := by
  unfold oddBits at h
  unfold decodeWord syndrome
  dsimp only
  rw [h]
  rfl

theorem decodeWord_congr {d e : W64} {c f : Byte} (hs : syndrome d c = syndrome e f) (hp : oddBits d c = oddBits e f) :
    decodeWord d c = decodeWord e f := by
  unfold syndrome at hs
  unfold oddBits at hp
  unfold decodeWord
  dsimp only
  rw [hs, hp]

theorem syndrome_xor (d e : W64) (c f : Byte) : syndrome (d ^^^ e) (c ^^^ f) = syndrome d c ^^^ syndrome e f := by
  have hm : (c ^^^ f).toNat % 128 = c.toNat % 128 ^^^ f.toNat % 128 := by
    rw [BitVec.toNat_xor]
    exact Nat.xor_mod_two_pow (n := 7)
  unfold syndrome
  rw [hm, BitVec.toNat_xor, posXor_xor]
  simp only [Nat.xor_assoc, Nat.xor_left_comm]

theorem oddBits_xor (d e : W64) (c f : Byte) : oddBits (d ^^^ e) (c ^^^ f) = (oddBits d c != oddBits e f) := by
  unfold oddBits
  rw [BitVec.toNat_xor, BitVec.toNat_xor, parity_xor, parity_xor]
  generalize parity d.toNat 64 = p, parity e.toNat 64 = q, parity c.toNat 8 = x, parity f.toNat 8 = y
  revert p q x y
  decide

theorem syndrome_checkBits (d : W64) : syndrome d (checkBits d) = 0 := by
  have hc := posXor_lt d.toNat (Nat.le_refl 64)
  have hm : (checkBits d).toNat % 128 = posXor d.toNat 64 := by rw [checkBits_toNat]; omega
  rw [syndrome, hm, Nat.xor_self]

theorem oddBits_checkBits (d : W64) : oddBits d (checkBits d) = false := by
  rw [oddBits, parity_succ (checkBits d).toNat 7, nbit_checkBits_seven]
  generalize parity d.toNat 64 = p, parity (checkBits d).toNat 7 = q
  revert p q
  decide

/-- A word with its check bits, some bits of the two inverted, decodes as the inverted bits alone do. -/
theorem decodeWord_error (d e : W64) (f : Byte) : decodeWord (d ^^^ e) (checkBits d ^^^ f) = decodeWord e f :=
  decodeWord_congr (by rw [syndrome_xor, syndrome_checkBits, Nat.zero_xor])
    (by rw [oddBits_xor, oddBits_checkBits, Bool.false_bne])

theorem decodeWord_checkBits (d : W64) : decodeWord d (checkBits d) = .clean := by
  rw [decodeWord_of_even (oddBits_checkBits d), syndrome_checkBits, if_pos rfl]

/-- Bits of the data inverted. -/
theorem decodeWord_data_error (d e : W64) : decodeWord (d ^^^ e) (checkBits d) = decodeWord e 0#8 := by
  rw [← decodeWord_error d e, BitVec.xor_zero]

/-- Bits of the check byte inverted. -/
theorem decodeWord_check_error (d : W64) (f : Byte) : decodeWord d (checkBits d ^^^ f) = decodeWord 0#64 f := by
  rw [← decodeWord_error d 0#64 f, BitVec.xor_zero]

/-! ### One and two inverted bits -/

/-- The inverted bit number n of the 72: 64 of the data, then 8 of the check byte. -/
def flipped (n : Nat) : W64 × Byte := if n < 64 then (BitVec.ofNat 64 (2 ^ n), 0#8) else (0#64, BitVec.ofNat 8 (2 ^ (n - 64)))

/-- The position of bit number n; c7 has none. -/
def flippedPos (n : Nat) : Nat := if n < 64 then dataPos n else if n < 71 then 2 ^ (n - 64) else 0

theorem flipped_data {n : Nat} (h : n < 64) : flipped n = (BitVec.ofNat 64 (2 ^ n), 0#8) := if_pos h

theorem flipped_check (k : Nat) : flipped (64 + k) = (0#64, BitVec.ofNat 8 (2 ^ k)) := by
  rw [flipped, if_neg (by omega), Nat.add_sub_cancel_left]

theorem flipped_syndrome : ∀ n < 72, syndrome (flipped n).1 (flipped n).2 = flippedPos n := by decide +kernel

theorem flipped_oddBits : ∀ n < 72, oddBits (flipped n).1 (flipped n).2 = true := by decide +kernel

theorem flippedPos_injective : ((List.range 72).map flippedPos).Nodup := by decide +kernel

/-- Of two different bits the positions differ, so that the syndrome is not 0, and the parity is even. -/
theorem decodeWord_two_flipped {m n : Nat} (hmn : m ≠ n) (hm : m < 72) (hn : n < 72) :
    decodeWord ((flipped m).1 ^^^ (flipped n).1) ((flipped m).2 ^^^ (flipped n).2) = .bad := by
  have hpos : flippedPos m ≠ flippedPos n := fun h =>
    hmn (List.inj_on_of_nodup_map flippedPos_injective (List.mem_range.2 hm) (List.mem_range.2 hn) h)
  rw [decodeWord_of_even (by rw [oddBits_xor, flipped_oddBits m hm, flipped_oddBits n hn]; rfl), syndrome_xor, flipped_syndrome m hm,
    flipped_syndrome n hn, if_neg (Nat.xor_ne_zero_iff.2 hpos)]

theorem decodeWord_dataBit_flipped : ∀ j < 64, decodeWord (BitVec.ofNat 64 (2 ^ j)) 0#8 = .dataBit (dataPos j) j := by decide +kernel

theorem decodeWord_checkBit_flipped : ∀ k < 8, decodeWord 0#64 (BitVec.ofNat 8 (2 ^ k)) = .checkBit (if k < 7 then 2 ^ k else 0) := by
  decide +kernel

theorem two_pow_add_eq_xor {n c : Nat} (h : c < 2 ^ n) : 2 ^ n + c = 2 ^ n ^^^ c := by
  refine Nat.eq_of_testBit_eq fun k => ?_
  rw [← Nat.mul_one (2 ^ n), Nat.testBit_two_pow_mul_add _ h, Nat.mul_one, Nat.testBit_xor, Nat.testBit_two_pow]
  split
  · rw [decide_eq_false (by omega : ¬ n = k), Bool.false_xor]
  · have hc : c.testBit k = false := Nat.testBit_lt_two_pow (h.trans_le (Nat.pow_le_pow_right (by decide) (by omega)))
    rw [hc, Bool.xor_false, Bool.eq_iff_iff, Nat.testBit_one_eq_true_iff_self_eq_zero, decide_eq_true_iff]
    omega

/-- Two different bits of a word are an exclusive or. -/
theorem ofNat_two_pow_add {w i j : Nat} (h : i < j) :
    BitVec.ofNat w (2 ^ i + 2 ^ j) = BitVec.ofNat w (2 ^ i) ^^^ BitVec.ofNat w (2 ^ j) := by
  rw [Nat.add_comm, two_pow_add_eq_xor (Nat.pow_lt_pow_right (by decide) h), Nat.xor_comm, BitVec.ofNat_xor]

/-- What a read of a word with one data bit inverted delivers and leaves, no injection being armed. -/
theorem State.readCode_of_dataBit {s : State} {r : Region} {w n j : Nat} (h0 : s.armed r.source 0 = false) (h1 : s.armed r.source 1 = false)
    (h : s.wordState w = .dataBit n j) : (s.readCode r w).1 = s.wordValue w ∧ (s.readCode r w).2.1 = false ∧ s.Logs (s.readCode r w).2.2 := by
  have hread : s.readCode r w = (s.wordValue w, false, s.corrected r w 0 n false) := by
    unfold State.readCode State.readStored
    simp only [h0, h1, h, Bool.false_eq_true, if_false]
  rw [hread]
  dsimp only
  exact ⟨rfl, rfl, .corrected⟩

/-- The positions of the data bits are those that no check bit takes, in ascending order. -/
theorem dataPos_positions :
    (List.range 64).map dataPos = (List.range 72).filter (fun p => !([0, 1, 2, 4, 8, 16, 32, 64].contains p)) := by decide +kernel

/-- Settles O12: each decoding is that of the inverted bits alone, by linearity. -/
theorem innerCodeCorrects : Obligations.InnerCodeCorrects := by
  unfold Obligations.InnerCodeCorrects
  refine ⟨dataPos_positions, fun d => ⟨fun k hk => ?_, ?_, decodeWord_checkBits d, fun j hj => ?_, fun k hk => ?_, fun i j hij hj => ?_,
    fun i k hi hk => ?_, fun i k hik hk => ?_, fun s r w h0 h1 h => ?_⟩⟩
  · rw [nbit_checkBits d hk, nbit_posXor]
  · rw [nbit_checkBits_seven, parity_eq_foldl, parity_eq_foldl]
  · have hd := (decodeWord_data_error d _).trans (decodeWord_dataBit_flipped j hj)
    refine ⟨hd, ?_⟩
    rw [hd, Decoded.value, BitVec.xor_assoc, BitVec.xor_self, BitVec.xor_zero]
  · have hd := (decodeWord_check_error d _).trans (decodeWord_checkBit_flipped k hk)
    exact ⟨hd, by rw [hd]; rfl⟩
  · have two := decodeWord_two_flipped (Nat.ne_of_lt hij) (by omega) (by omega)
    simp only [flipped_data (hij.trans hj), flipped_data hj, BitVec.xor_zero, ← ofNat_two_pow_add hij] at two
    exact (decodeWord_data_error d _).trans two
  · have two := decodeWord_two_flipped (by omega : i ≠ 64 + k) (by omega) (by omega)
    simp only [flipped_data hi, flipped_check, BitVec.xor_zero, BitVec.zero_xor] at two
    exact (decodeWord_error d _ _).trans two
  · have two := decodeWord_two_flipped (by omega : 64 + i ≠ 64 + k) (by omega) (by omega)
    simp only [flipped_check, BitVec.xor_zero, ← ofNat_two_pow_add hik] at two
    exact (decodeWord_check_error d _).trans two
  · obtain ⟨n, j, h⟩ := h
    obtain ⟨hv, hb, hl⟩ := State.readCode_of_dataBit h0 h1 h
    exact ⟨hv, hb, by rw [hl]⟩

end Sys2Proof.Machine
end

section
/-!
The page guard (R124, R128; O13): arithmetic of GF(2^8) on the lanes of a word, sums over a set, and the rebuild of its erased words.
-/

namespace Sys2Proof.Machine

/-! ### Arithmetic of bytes -/

theorem gfDouble_lt : ∀ a < 256, gfDouble a < 256 := by decide +kernel

theorem xor_lt_byte {a b : Nat} (ha : a < 256) (hb : b < 256) : a ^^^ b < 256 := Nat.xor_lt_two_pow (n := 8) ha hb

/-- Doubling a byte: its top bit brings in the field polynomial. -/
theorem gfDouble_eq {a : Nat} (ha : a < 256) : gfDouble a = 2 * a ^^^ if a.testBit 7 then 0x11D else 0 := by
  have ht : a.testBit 7 = decide (a ≥ 128) := by
    rw [Nat.testBit_eq_decide_div_mod_eq]
    exact decide_eq_decide.2 (by omega)
  rw [gfDouble, ht]
  by_cases h : a ≥ 128
  · simp [h]
  · simp [h]

theorem gfDouble_xor {a b : Nat} (ha : a < 256) (hb : b < 256) : gfDouble (a ^^^ b) = gfDouble a ^^^ gfDouble b := by
  have two : 2 * (a ^^^ b) = 2 * a ^^^ 2 * b := by
    simpa [Nat.shiftLeft_eq, Nat.mul_comm] using Nat.shiftLeft_xor_distrib (a := a) (b := b) (i := 1)
  rw [gfDouble_eq ha, gfDouble_eq hb, gfDouble_eq (xor_lt_byte ha hb), two, Nat.testBit_xor]
  cases a.testBit 7 <;> cases b.testBit 7 <;> simp [Nat.xor_assoc, Nat.xor_comm, Nat.xor_left_comm]

theorem gfMulN_lt {a : Nat} (ha : a < 256) (b n : Nat) : gfMulN a b n < 256 := by
  induction n generalizing a b with
  | zero => exact Nat.zero_lt_succ _
  | succ n ih =>
    refine xor_lt_byte ?_ (ih (gfDouble_lt a ha) _)
    split
    · exact ha
    · decide

theorem gfMulN_xor_left {a b : Nat} (ha : a < 256) (hb : b < 256) (c n : Nat) :
    gfMulN (a ^^^ b) c n = gfMulN a c n ^^^ gfMulN b c n := by
  induction n generalizing a b c with
  | zero => exact (Nat.xor_self 0).symm
  | succ n ih =>
    rw [gfMulN, gfMulN, gfMulN, gfDouble_xor ha hb, ih (gfDouble_lt a ha) (gfDouble_lt b hb)]
    split <;> simp [Nat.xor_assoc, Nat.xor_left_comm]

theorem gfMulN_xor_right (a b c n : Nat) : gfMulN a (b ^^^ c) n = gfMulN a b n ^^^ gfMulN a c n := by
  induction n generalizing a b c with
  | zero => exact (Nat.xor_self 0).symm
  | succ n ih =>
    have hd : (b ^^^ c) / 2 = b / 2 ^^^ c / 2 := by simpa [Nat.shiftRight_eq_div_pow] using Nat.shiftRight_xor_distrib (a := b) (b := c) (i := 1)
    rw [gfMulN, gfMulN, gfMulN, hd, ih, Nat.xor_mod_two_eq, Nat.add_mod]
    rcases Nat.mod_two_eq_zero_or_one b with hb | hb <;> rcases Nat.mod_two_eq_zero_or_one c with hc | hc <;>
      simp [hb, hc, Nat.xor_assoc, Nat.xor_left_comm]

theorem gfMul_lt {a : Nat} (ha : a < 256) (b : Nat) : gfMul a b < 256 := gfMulN_lt ha b 8

theorem gfMul_xor_left {a b : Nat} (ha : a < 256) (hb : b < 256) (c : Nat) : gfMul (a ^^^ b) c = gfMul a c ^^^ gfMul b c :=
  gfMulN_xor_left ha hb c 8

theorem gfMul_xor_right (a b c : Nat) : gfMul a (b ^^^ c) = gfMul a b ^^^ gfMul a c := gfMulN_xor_right a b c 8

/-! ### Inverses -/

/-- An additive function that fixes the low bits fixes the numbers that they make up. -/
theorem eq_self_of_additive {f : Nat → Nat} (hf : ∀ x y, f (x ^^^ y) = f x ^^^ f y) {n : Nat} (h : ∀ i < n, f (2 ^ i) = 2 ^ i) {b : Nat}
    (hb : b < 2 ^ n) : f b = b := by
  induction n generalizing b with
  | zero =>
    obtain rfl : b = 0 := by omega
    simpa using hf 0 0
  | succ n ih =>
    have ih {c : Nat} (hc : c < 2 ^ n) : f c = c := ih (fun i hi => h i (by omega)) hc
    by_cases hn : b < 2 ^ n
    · exact ih hn
    · have hlow : b - 2 ^ n < 2 ^ n := by
        rw [Nat.pow_succ] at hb
        omega
      rw [← Nat.add_sub_of_le (Nat.le_of_not_lt hn), two_pow_add_eq_xor hlow, hf, h n (Nat.lt_succ_self n), ih hlow]

/-- The inverse of a byte undoes its product with the bits of a byte. -/
theorem gfMul_gfInv_bit : ∀ g < 256, g ≠ 0 → ∀ i < 8, gfMul (gfInv g) (gfMul g (2 ^ i)) = 2 ^ i := by decide +kernel

theorem gfInv_lt : ∀ g < 256, gfInv g < 256 := by decide +kernel

theorem gfMul_gfInv {g b : Nat} (hg : g < 256) (h0 : g ≠ 0) (hb : b < 256) : gfMul (gfInv g) (gfMul g b) = b :=
  eq_self_of_additive (f := fun x => gfMul (gfInv g) (gfMul g x)) (n := 8) (fun x y => by rw [gfMul_xor_right, gfMul_xor_right]) (gfMul_gfInv_bit g hg h0) hb

theorem gfDouble_eq_zero : ∀ a < 256, gfDouble a = 0 → a = 0 := by decide +kernel

theorem gfAlpha_ne_one : ∀ k < 128, k ≠ 0 → gfAlpha k ≠ 1 := by decide +kernel

theorem gfAlpha_lt (i : Nat) : gfAlpha i < 256 := by
  induction i with
  | zero => decide
  | succ i ih => exact gfDouble_lt _ ih

/-- The powers of α below 128 are different. -/
theorem gfAlpha_ne {j k : Nat} (hjk : j < k) (hk : k < 128) : gfAlpha k ≠ gfAlpha j := by
  induction j generalizing k with
  | zero => exact gfAlpha_ne_one k hk (by omega)
  | succ j ih =>
    obtain ⟨k, rfl⟩ : ∃ m, k = m + 1 := ⟨k - 1, by omega⟩
    intro h
    have hz : gfDouble (gfAlpha k ^^^ gfAlpha j) = 0 := by
      rw [gfDouble_xor (gfAlpha_lt k) (gfAlpha_lt j)]
      exact Nat.xor_eq_zero_iff.2 h
    exact ih (by omega) (by omega) (Nat.xor_eq_zero_iff.1 (gfDouble_eq_zero _ (xor_lt_byte (gfAlpha_lt k) (gfAlpha_lt j)) hz))

/-! ### The lanes of a word -/

theorem lane_xor {a c : Nat} (ha : a < 256) (hc : c < 256) (b d : Nat) :
    (a + 256 * b) ^^^ (c + 256 * d) = (a ^^^ c) + 256 * (b ^^^ d) := by
  have hm := Nat.xor_mod_two_pow (a := a + 256 * b) (b := c + 256 * d) (n := 8)
  have hd := Nat.xor_div_two_pow (a := a + 256 * b) (b := c + 256 * d) (n := 8)
  rw [show (a + 256 * b) % 2 ^ 8 = a by omega, show (c + 256 * d) % 2 ^ 8 = c by omega] at hm
  rw [show (a + 256 * b) / 2 ^ 8 = b by omega, show (c + 256 * d) / 2 ^ 8 = d by omega] at hd
  omega

theorem mulLanes_lt {g : Nat} (hg : g < 256) (w n : Nat) : mulLanes g w n < 256 ^ n := by
  induction n generalizing w with
  | zero => exact Nat.one_pos
  | succ n ih =>
    have hl := gfMul_lt hg (w % 256)
    have hr := ih (w / 256)
    rw [mulLanes, Nat.pow_succ]
    omega

theorem mulLanes_xor_left {g h : Nat} (hg : g < 256) (hh : h < 256) (w n : Nat) :
    mulLanes (g ^^^ h) w n = mulLanes g w n ^^^ mulLanes h w n := by
  induction n generalizing w with
  | zero => exact (Nat.xor_self 0).symm
  | succ n ih =>
    rw [mulLanes, mulLanes, mulLanes, lane_xor (gfMul_lt hg _) (gfMul_lt hh _), gfMul_xor_left hg hh, ih]

theorem mulLanes_xor_right {g : Nat} (hg : g < 256) (v w n : Nat) : mulLanes g (v ^^^ w) n = mulLanes g v n ^^^ mulLanes g w n := by
  induction n generalizing v w with
  | zero => exact (Nat.xor_self 0).symm
  | succ n ih =>
    have hm : (v ^^^ w) % 256 = v % 256 ^^^ w % 256 := Nat.xor_mod_two_pow (n := 8)
    have hd : (v ^^^ w) / 256 = v / 256 ^^^ w / 256 := Nat.xor_div_two_pow (n := 8)
    rw [mulLanes, mulLanes, mulLanes, lane_xor (gfMul_lt hg _) (gfMul_lt hg _), hm, hd, gfMul_xor_right, ih]

theorem mulLanes_gfInv {g : Nat} (hg : g < 256) (h0 : g ≠ 0) (w n : Nat) : mulLanes (gfInv g) (mulLanes g w n) n = w % 256 ^ n := by
  induction n generalizing w with
  | zero => exact (Nat.mod_one w).symm
  | succ n ih =>
    have hl := gfMul_lt hg (w % 256)
    have hm : (gfMul g (w % 256) + 256 * mulLanes g (w / 256) n) % 256 = gfMul g (w % 256) := by omega
    have hd : (gfMul g (w % 256) + 256 * mulLanes g (w / 256) n) / 256 = mulLanes g (w / 256) n := by omega
    rw [mulLanes, mulLanes, hm, hd, gfMul_gfInv hg h0 (Nat.mod_lt _ (by decide)), ih, Nat.pow_succ', Nat.mod_mul]

theorem toNat_mulWord {g : Nat} (hg : g < 256) (x : W64) : (mulWord g x).toNat = mulLanes g x.toNat 8 := by
  rw [mulWord, BitVec.toNat_ofNat]
  exact Nat.mod_eq_of_lt (mulLanes_lt hg _ 8)

theorem mulWord_xor_left {g h : Nat} (hg : g < 256) (hh : h < 256) (x : W64) : mulWord (g ^^^ h) x = mulWord g x ^^^ mulWord h x := by
  refine BitVec.eq_of_toNat_eq ?_
  rw [BitVec.toNat_xor, toNat_mulWord (xor_lt_byte hg hh), toNat_mulWord hg, toNat_mulWord hh, mulLanes_xor_left hg hh]

theorem mulWord_xor_right {g : Nat} (hg : g < 256) (x y : W64) : mulWord g (x ^^^ y) = mulWord g x ^^^ mulWord g y := by
  refine BitVec.eq_of_toNat_eq ?_
  rw [BitVec.toNat_xor, toNat_mulWord hg, toNat_mulWord hg, toNat_mulWord hg, BitVec.toNat_xor, mulLanes_xor_right hg]

theorem mulWord_gfInv {g : Nat} (hg : g < 256) (h0 : g ≠ 0) (x : W64) : mulWord (gfInv g) (mulWord g x) = x := by
  refine BitVec.eq_of_toNat_eq ?_
  rw [toNat_mulWord (gfInv_lt g hg), toNat_mulWord hg, mulLanes_gfInv hg h0]
  exact Nat.mod_eq_of_lt x.isLt

/-- R128: the first of two erased words, from what both leave of the sums P and Q. -/
theorem mulWord_solve {j k : Nat} (hjk : j < k) (hk : k < 128) (x y : W64) :
    mulWord (gfInv (gfAlpha k ^^^ gfAlpha j)) (mulWord (gfAlpha k) (x ^^^ y) ^^^ (mulWord (gfAlpha j) x ^^^ mulWord (gfAlpha k) y)) = x := by
  have hne : gfAlpha k ^^^ gfAlpha j ≠ 0 := Nat.xor_ne_zero_iff.2 (gfAlpha_ne hjk hk)
  have hsum : mulWord (gfAlpha k) (x ^^^ y) ^^^ (mulWord (gfAlpha j) x ^^^ mulWord (gfAlpha k) y)
      = mulWord (gfAlpha k ^^^ gfAlpha j) x := by
    rw [mulWord_xor_right (gfAlpha_lt k), mulWord_xor_left (gfAlpha_lt k) (gfAlpha_lt j)]
    generalize mulWord (gfAlpha k) x = a, mulWord (gfAlpha k) y = b, mulWord (gfAlpha j) x = c
    rw [BitVec.xor_comm c b, BitVec.xor_assoc, ← BitVec.xor_assoc b b c, BitVec.xor_self, BitVec.zero_xor]
  rw [hsum, mulWord_gfInv (xor_lt_byte (gfAlpha_lt k) (gfAlpha_lt j)) hne]

/-! ### Sums over a set -/

/-- The exclusive or of the words that a list of indices names. -/
def xorOver (f : Nat → W64) (l : List Nat) : W64 := l.foldl (fun a i => a ^^^ f i) 0

theorem xorOver_append_one (f : Nat → W64) (l : List Nat) (i : Nat) : xorOver f (l ++ [i]) = xorOver f l ^^^ f i := by
  rw [xorOver, List.foldl_append]
  rfl

theorem xorOver_congr {f g : Nat → W64} {l : List Nat} (h : ∀ i ∈ l, f i = g i) : xorOver f l = xorOver g l :=
  List.foldl_ext _ _ _ fun a i hi => by rw [h i hi]

/-- A sum is that of the indices with a property and that of the others. -/
theorem xorOver_split (f : Nat → W64) (p : Nat → Bool) (n : Nat) :
    xorOver f (List.range n) = xorOver f ((List.range n).filter p) ^^^ xorOver f ((List.range n).filter fun i => !p i) := by
  induction n with
  | zero => exact BitVec.xor_self.symm
  | succ n ih =>
    rw [List.range_succ, List.filter_append, List.filter_append, xorOver_append_one, ih]
    cases h : p n
    · simp [h, xorOver_append_one, BitVec.xor_assoc]
    · simp only [List.filter_cons, h, List.filter_nil, xorOver_append_one, List.append_nil, Bool.not_true, Bool.false_eq_true, if_true,
        if_false, BitVec.xor_assoc]
      rw [BitVec.xor_comm (f n)]

variable {s : State} {r : Region}

/-- The sums that a rebuild takes over the words it uses. -/
theorem State.setSums_eq (use : Nat → Bool) (n : Nat) : s.setSums r use n =
    (xorOver (fun i => s.wordValue (r.member i)) ((List.range n).filter use),
      xorOver (fun i => mulWord (gfAlpha i) (s.wordValue (r.member i))) ((List.range n).filter use)) := by
  induction n with
  | zero => rfl
  | succ n ih =>
    rw [State.setSums, ih, List.range_succ, List.filter_append]
    cases h : use n <;> simp [h, xorOver_append_one]

theorem State.erased_eq (n : Nat) :
    s.erased r n = (List.range n).filter (fun i => decide (s.wordState (r.member i) = .bad ∧ !s.isDead (r.member i))) := by
  induction n with
  | zero => rfl
  | succ n ih =>
    rw [State.erased, ih, List.range_succ, List.filter_append, List.filter_singleton]
    split
    · next h => rw [decide_eq_true h]; rfl
    · next h => rw [decide_eq_false h]; exact (List.append_nil _).symm

theorem State.erased_sublist : (s.erased r r.n).Sublist (List.range r.n) := by
  rw [State.erased_eq]
  exact List.filter_sublist

/-- The erased words are those of the set that the list of them names. -/
theorem State.filter_erased : (List.range r.n).filter (s.erased r r.n).contains = s.erased r r.n := by
  conv_rhs => rw [State.erased_eq]
  refine List.filter_congr fun i hi => ?_
  rw [State.erased_eq, Bool.eq_iff_iff, List.contains_iff_mem, List.mem_filter]
  exact and_iff_right hi

/-! ### The rebuild -/

/-- What the sums over the words that are not erased leave of the set's own sums: those over the erased words. -/
theorem State.xor_setSums {D : Nat → W64} (h : ∀ i < r.n, i ∉ s.erased r r.n → s.wordValue (r.member i) = D i) :
    let sums := s.setSums r (fun i => !(s.erased r r.n).contains i) r.n
    xorOver D (List.range r.n) ^^^ sums.1 = xorOver D (s.erased r r.n) ∧
    xorOver (fun i => mulWord (gfAlpha i) (D i)) (List.range r.n) ^^^ sums.2
      = xorOver (fun i => mulWord (gfAlpha i) (D i)) (s.erased r r.n) := by
  have left (f : Nat → W64) : xorOver f (List.range r.n) ^^^ xorOver f ((List.range r.n).filter fun i => !(s.erased r r.n).contains i)
      = xorOver f (s.erased r r.n) := by
    rw [xorOver_split f (s.erased r r.n).contains, State.filter_erased, BitVec.xor_assoc, BitVec.xor_self, BitVec.xor_zero]
  have kept : ∀ i ∈ (List.range r.n).filter (fun i => !(s.erased r r.n).contains i), s.wordValue (r.member i) = D i := fun i hi => by
    obtain ⟨hn, he⟩ := List.mem_filter.1 hi
    exact h i (List.mem_range.1 hn) (by simpa using he)
  rw [State.setSums_eq]
  dsimp only
  rw [xorOver_congr kept, xorOver_congr fun i hi => congrArg (mulWord (gfAlpha i)) (kept i hi), left]
  exact ⟨rfl, left _⟩

theorem Decoded.value_clean (d : W64) : Decoded.clean.value d = d := rfl

/-- Settles O13: one erased word is what is left of P; of two, the first solves the equations that P and Q leave. -/
theorem pageGuardRebuilds : Obligations.PageGuardRebuilds := by
  unfold Obligations.PageGuardRebuilds
  intro s r D hn hP hQ hp hq hD hlen
  obtain ⟨leftP, leftQ⟩ := State.xor_setSums hD
  have hP : s.guardP r.key = xorOver D (List.range r.n) := hP
  have hQ : s.guardQ r.key = xorOver (fun i => mulWord (gfAlpha i) (D i)) (List.range r.n) := hQ
  have sub := s.erased_sublist (r := r)
  unfold State.rebuilt
  rw [hp, hq, Decoded.value_clean, Decoded.value_clean, hP, hQ]
  dsimp only
  rw [leftP, leftQ]
  generalize s.erased r r.n = er at hlen sub ⊢
  match er with
  | [] => rfl
  | [j] => simp [xorOver]
  | [j, k] =>
    have hjk : j < k := by simpa using List.pairwise_lt_range.sublist sub
    have hk : k < r.n := List.mem_range.1 (sub.subset (by simp))
    have hj := mulWord_solve hjk (by omega) (D j) (D k)
    simp [hj, xorOver]
  | _ :: _ :: _ :: _ => simp at hlen

end Sys2Proof.Machine
end

section
/-!
SUPPORT. Words of deep memory as a requester on the network reaches them (R119, R120), the merge buffers, and what a full write stores.
-/

namespace Sys2Proof.Machine

variable {s t : State} {r : Region} {w a n : Nat}

/-! ### Where a word of deep memory lies -/

/-- The bank of an address within its die (R119). -/
def deepBank (a : Nat) : Nat := (a - deepBase) / 0x200000 % 32

/-- The region of an address in deep memory (R125). -/
def deepRegion (a : Nat) : Region :=
  pageOf64 1 (a / 8 - a / 8 % 0x40000) (a / 8) (deepDie a) (srcBank (deepDie a) ((a - deepBase) % 0x4000000 / 0x200000))

theorem inDeep_iff : inDeep a = true ↔ 0x100000000000 ≤ a ∧ a < 0x100010000000 := by
  unfold inDeep deepBase
  rw [Bool.and_eq_true, decide_eq_true_iff, decide_eq_true_iff]

theorem regionOf_of_inDeep (h : inDeep a = true) : regionOf a = some (deepRegion a) := by
  have hb : inHbm a = false := by
    rw [inDeep_iff] at h
    simp only [inHbm, Bool.and_eq_false_iff, decide_eq_false_iff_not]
    omega
  unfold regionOf
  dsimp only
  rw [hb, h]
  rfl

/-- An address and its word lie in one region. -/
theorem deepRegion_word (h : inDeep a = true) : deepRegion a = deepRegion (8 * (a / 8)) := by
  rw [inDeep_iff] at h
  have hw : 8 * (a / 8) / 8 = a / 8 := by omega
  have hd : deepDie a = deepDie (8 * (a / 8)) := by simp only [deepDie, deepBase]; omega
  have ho : (a - deepBase) % 0x4000000 / 0x200000 = (8 * (a / 8) - deepBase) % 0x4000000 / 0x200000 := by
    simp only [deepBase]
    omega
  unfold deepRegion
  rw [hw, ← hd, ho]

theorem inDeep_word (h : inDeep a = true) : inDeep (8 * (a / 8)) = true := by
  rw [inDeep_iff] at *
  omega

theorem deepDie_lt (h : inDeep a = true) : deepDie a < 4 := by
  rw [inDeep_iff] at h
  simp only [deepDie, deepBase]
  omega

theorem endpointOf_of_inDeep (h : inDeep a = true) :
    ∃ v, endpointOf a = some v ∧ vpClass v = 4 + deepDie a ∧ vpInst v = deepBank a := by
  have hd := deepDie_lt h
  have hb : deepBank a < 32 := Nat.mod_lt _ (by decide)
  refine ⟨0x0400 + 0x100 * deepDie a + deepBank a, ?_, ?_, ?_⟩
  · have hlow : ¬ a < 0xC00000000 := by
      rw [inDeep_iff] at h
      omega
    unfold endpointOf
    rw [if_neg hlow, if_pos h]
    rfl
  · unfold vpClass
    omega
  · unfold vpInst
    omega

theorem State.rowAt_of_inDeep (h : inDeep a = true) : s.rowAt a = false := by
  have hw : windowOf a = none := by
    rw [inDeep_iff] at h
    exact if_neg (by simp only [windowBase]; omega)
  unfold State.rowAt
  rw [hw]

/-! ### The endpoints of deep memory -/

section
variable {d v : Nat} {write : Bool} {x : WriteAux} {bs : List Byte} {c : Caller}

theorem State.memCode_deep (hd : d < 4) (hv : vpClass v = 4 + d) : s.memCode v a n write = s.deepCode {} d (vpInst v) a n := by
  unfold State.memCode
  rw [hv, Nat.add_sub_cancel_left]
  interval_cases d <;> rfl

theorem State.endBusy_deep (hd : d < 4) (hv : vpClass v = 4 + d) : s.endBusy c v a n write = false := by
  unfold State.endBusy
  rw [hv]
  interval_cases d <;> rfl

theorem State.readEnd_deep (hd : d < 4) (hv : vpClass v = 4 + d) (h : s.deepCode c d (vpInst v) a n = 0) :
    s.readEnd c v a n = (let l := s.load a n; (if l.2.1 then 4 else 0, if l.2.1 then [] else l.1, l.2.2)) := by
  unfold State.readEnd
  rw [hv, Nat.add_sub_cancel_left, h]
  interval_cases d <;> rfl

theorem State.writeEnd_deep (hd : d < 4) (hv : vpClass v = 4 + d) (h : s.deepCode c d (vpInst v) a bs.length = 0) :
    s.writeEnd c x v a bs = (0, s.store a bs) := by
  unfold State.writeEnd
  rw [hv, Nat.add_sub_cancel_left, h]
  interval_cases d <;> rfl
end

/-! ### Merge buffers -/

section
variable {unit : Nat} {l : List MergeEntry}

theorem State.mergeList_setMergeList (h : Table.wf (fun _ => ([] : List MergeEntry)) s.mem.merge = true) :
    (s.setMergeList unit l).mergeList unit = l := Table.peek_poke_same _ _ _ _ h

/-- The later of two changes of a merge buffer stands. -/
theorem State.setMergeList_setMergeList {l' : List MergeEntry} (h : Table.wf (fun _ => ([] : List MergeEntry)) s.mem.merge = true) :
    (s.setMergeList unit l).setMergeList unit l' = s.setMergeList unit l' := by
  have same : Table.poke (fun _ => ([] : List MergeEntry)) (Table.poke (fun _ => []) s.mem.merge unit l) unit l' =
      Table.poke (fun _ => []) s.mem.merge unit l' := by
    refine Table.ext_of_peek (fun _ => ([] : List MergeEntry)) _ _ (Table.wf_poke _ _ _ _ (Table.wf_poke _ _ _ _ h)) (Table.wf_poke _ _ _ _ h) fun k => ?_
    by_cases hk : k = unit
    · rw [hk, Table.peek_poke_same _ _ _ _ (Table.wf_poke _ _ _ _ h), Table.peek_poke_same _ _ _ _ h]
    · rw [Table.peek_poke_other _ _ _ hk (Table.wf_poke _ _ _ _ h), Table.peek_poke_other _ _ _ hk h, Table.peek_poke_other _ _ _ hk h]
  unfold State.setMergeList State.onMem
  dsimp only
  rw [same]

theorem State.setMergeList_mergeList (h : Table.wf (fun _ => ([] : List MergeEntry)) s.mem.merge = true) :
    s.setMergeList unit (s.mergeList unit) = s := by
  unfold State.setMergeList State.onMem State.mergeList
  dsimp only
  rw [Table.poke_peek h]

theorem State.flushWord_of_none (h : (s.mergeList r.unit).find? (fun e => e.word == w) = none) : s.flushWord r w = s := by
  unfold State.flushWord
  rw [h]
end

/-! ### Reads of clean words -/

theorem State.rebuildFor_of_none (h : s.mem.rebuilding = []) : s.rebuildFor r = none := by
  rw [State.rebuildFor, h]
  rfl

theorem State.armed_of_none {source chk : Nat} (h : s.cairn.checks = []) : s.armed source chk = false := by
  rw [State.armed, h]
  rfl

theorem State.readCode_of_clean {scrub : Bool} (hc : s.cairn.checks = []) (h : s.wordState w = .clean) :
    s.readCode r w scrub = (s.rawWord w, false, s) := by
  unfold State.readCode State.readStored
  simp only [State.armed_of_none hc, h, Bool.false_eq_true, if_false]

/-- A read of a clean word with no merge entry. -/
theorem State.loadWord_of_clean (hr : regionOf (8 * w) = some r) (hcls : r.cls ≠ 0) (hc : s.cairn.checks = []) (h : s.wordState w = .clean)
    (hm : (s.mergeList r.unit).find? (fun e => e.word == w) = none) : s.loadWord w = (s.rawWord w, false, s) := by
  have hcoded : s.coded r (8 * w) = true := by simp [State.coded, hcls]
  unfold State.loadWord
  rw [hr]
  dsimp only
  rw [if_pos hcoded, State.readWord, State.flushWord_of_none hm, State.readCode_of_clean hc h]
  rfl

theorem State.load_word : s.load (8 * w) 8 = (let t := s.loadWord w; (toBytes 8 t.1.toNat, t.2.1, t.2.2)) := by
  have h0 : 8 * w / 8 = w := by omega
  have h1 : (8 * w + 8 - 1) / 8 - w + 1 = 1 := by omega
  have h2 : 8 * w % 8 = 0 := by omega
  unfold State.load
  rw [if_neg (by decide)]
  dsimp only
  rw [h0, h1, h2]
  simp only [State.loadWords, List.flatMap_cons, List.flatMap_nil, List.append_nil, List.drop_zero, Bool.or_false]
  rw [take_toBytes (Nat.le_refl 8)]

/-! ### Full writes -/

/-- The bytes of a word stand as they were stored, and no byte of another word changes. -/
theorem State.setRawWord_bytes {v : W64} (h : s.mem.wf = true) :
    (s.setRawWord w v).rawWord w = v ∧ ∀ a, a / 8 ≠ w → (s.setRawWord w v).byteAt a = s.byteAt a := by
  unfold State.setRawWord
  refine ⟨?_, fun a ha => ?_⟩
  · have hbytes : (List.range 8).map (fun k => (s.setBytes (8 * w) (toBytes 8 v.toNat)).byteAt (8 * w + k)) = toBytes 8 v.toNat := by
      refine List.ext_getElem (by simp) fun k hk hk' => ?_
      rw [length_toBytes] at hk'
      rw [List.getElem_map, List.getElem_range, State.byteAt_setBytes _ h, length_toBytes, if_pos (by omega), Nat.add_sub_cancel_left]
      exact List.getD_eq_getElem ..
    unfold State.rawWord
    rw [hbytes]
    exact ofNat_ofBytes_toBytes v (by decide)
  · rw [State.byteAt_setBytes _ h, length_toBytes, if_neg (by omega)]

theorem State.mem_wf_setBytes {bs : List Byte} (h : s.mem.wf = true) : (s.setBytes a bs).mem.wf = true := by
  induction bs generalizing s a with
  | nil => exact h
  | cons b bs ih => exact ih (State.mem_wf_setByte h a b)

/-- In `t` a word stands with its check bits, and every other byte is as in `s`. -/
def State.Stores (s t : State) (w : Nat) (v : W64) : Prop :=
  t.rawWord w = v ∧ t.checkAt w = checkBits v ∧ ∀ a, a / 8 ≠ w → t.byteAt a = s.byteAt a

theorem State.Stores.storeWord {v : W64} (h : s.mem.wf = true) : s.Stores (s.storeWord w v) w v := by
  obtain ⟨hv, ho⟩ := s.setRawWord_bytes (w := w) (v := v) h
  exact ⟨hv, (State.checkAt_setCheck (State.mem_wf_setBytes h) w w _).trans (if_pos rfl), ho⟩

/-- What is stored is a matter of the data and the check bits. -/
theorem State.Stores.congr {s' t' : State} {v : W64} (h : s.Stores t w v) (hs : s'.mem.data = s.mem.data) (hd : t'.mem.data = t.mem.data)
    (hc : t'.mem.check = t.mem.check) : s'.Stores t' w v := by
  simp only [State.Stores, State.rawWord, State.checkAt, State.byteAt] at *
  rw [hs, hd, hc]
  exact h

theorem State.Stores.setDead {v : W64} {f : List Nat → List Nat} (h : s.Stores t w v) :
    s.Stores (t.onMem fun m => { m with dead := f m.dead }) w v := h.congr rfl rfl rfl

theorem State.Stores.setGuard {v p q : W64} {k : Nat} (h : s.Stores t w v) : s.Stores (t.setGuard k p q) w v := h.congr rfl rfl rfl

theorem State.Stores.reguard {v : W64} (h : s.Stores t w v) : s.Stores (t.reguard r) w v := h.congr rfl rfl rfl

theorem State.Stores.answer {v : W64} {d : List Byte} {c : Nat} (h : s.Stores t w v) : s.Stores (t.answer d c) w v := h.congr rfl rfl rfl

/-- A write through the codes stores the word: beside the counters and logs, only guard words and the list of dead words follow. -/
theorem State.Stores.writeCode {v : W64} {told : Bool} (h : s.mem.wf = true) : s.Stores (s.writeCode r w v told) w v := by
  have counted : s.Logs ((if told then s else s.countWord r w (s.wordState w) false).countGuard r false) :=
    (State.Logs.ite .refl .countWord).trans .countGuard
  have stored {x : State} (hx : s.Logs x) :
      s.Stores ((x.storeWord w v).onMem fun m => { m with dead := m.dead.filter (fun k => k != w) }) w v :=
    have hw : x.mem.wf = true := by rw [hx]; exact h
    have hd : s.mem.data = x.mem.data := by rw [hx]
    .setDead (f := fun l => l.filter fun k => k != w) ((State.Stores.storeWord hw).congr hd rfl rfl)
  unfold State.writeCode
  dsimp only
  generalize (if told then s else s.countWord r w (s.wordState w) false).countGuard r false = s0 at counted ⊢
  generalize (s.wordState w == Decoded.bad || s.pState r.key == Decoded.bad || s.qState r.key == Decoded.bad) = afresh
  cases afresh with
  | false => exact (stored counted).setGuard
  | true => exact (stored (counted.trans .countSet)).reguard

theorem State.Stores.fullWrite {v : W64} (h : s.mem.wf = true) : s.Stores (s.fullWrite r w v) w v := by
  unfold State.fullWrite
  have hl : (s.setMergeList r.unit ((s.mergeList r.unit).filter fun e => e.word != w)).mem.data = s.mem.data := rfl
  have hw : (s.setMergeList r.unit ((s.mergeList r.unit).filter fun e => e.word != w)).mem.wf = true := h
  generalize s.setMergeList r.unit ((s.mergeList r.unit).filter fun e => e.word != w) = x at hl hw ⊢
  exact (State.Stores.writeCode hw).congr hl.symm rfl rfl

end Sys2Proof.Machine
end

section
/-!
Accesses of a requester on the network to a word of deep memory, and a merge-buffer entry that reaches its age (R123, R127, R130,
R131; O14).
-/

namespace Sys2Proof.Machine

variable {s t : State} {r : Region} {w unit : Nat} {addr : BitVec 48}

/-! ### Bytes of a word -/

theorem drop_toBytes {n p : Nat} (h : p ≤ n) (x : Nat) : (toBytes n x).drop p = toBytes (n - p) (x / 256 ^ p) := by
  induction p generalizing n x with
  | zero => simp
  | succ p ih =>
    obtain ⟨n, rfl⟩ : ∃ k, n = k + 1 := ⟨n - 1, by omega⟩
    rw [toBytes, List.drop_succ_cons, ih (by omega), Nat.succ_sub_succ, Nat.pow_succ', Nat.div_div_eq_div_mul]

theorem ofBytes_part {n p k : Nat} (h : p + k ≤ n) (x : Nat) : ofBytes (((toBytes n x).drop p).take k) = x / 256 ^ p % 256 ^ k := by
  rw [drop_toBytes (by omega), take_toBytes (by omega), ofBytes_toBytes]

/-- Bits of the number that bytes make up, byte by byte. -/
theorem testBit_ofBytes (l : List Byte) (i : Nat) : (ofBytes l).testBit i = (l.getD (i / 8) 0).toNat.testBit (i % 8) := by
  induction l generalizing i with
  | nil => simp [ofBytes]
  | cons b l ih =>
    have hb := b.isLt
    rw [ofBytes, Nat.add_comm, show 256 = 2 ^ 8 from rfl, Nat.testBit_two_pow_mul_add _ hb, ih]
    split
    · next hi => rw [Nat.div_eq_of_lt hi, Nat.mod_eq_of_lt hi]; rfl
    · next hi =>
      rw [show i / 8 = (i - 8) / 8 + 1 by omega, show i % 8 = (i - 8) % 8 by omega]
      rfl

/-- A merged word's bits come from the new word in the bytes that the mask names, from the old one in the others. -/
theorem getLsbD_mergeWord (old new : W64) (mask : Byte) {i : Nat} (hi : i < 64) :
    (mergeWord old new mask).getLsbD i = if nbit mask.toNat (i / 8) then new.getLsbD i else old.getLsbD i := by
  have hb : i / 8 < 8 := by omega
  have byte (x : Nat) : (x / 256 ^ (i / 8)).testBit (i % 8) = x.testBit i := by
    rw [show 256 = 2 ^ 8 from rfl, ← Nat.pow_mul, Nat.testBit_div_two_pow, Nat.mod_add_div]
  rw [mergeWord, BitVec.getLsbD_ofNat, decide_eq_true hi, Bool.true_and, testBit_ofBytes, List.getD_eq_getElem _ _ (by simpa using hb),
    List.getElem_map, List.getElem_range, BitVec.toNat_ofNat, Nat.testBit_mod_two_pow, decide_eq_true (by omega), Bool.true_and, byte]
  split <;> rfl

/-! ### Writes of a run of bytes -/

/-- The mask of a run of bytes: place and length. -/
def runMask (q : Nat × Nat) : Byte := BitVec.ofNat 8 ((2 ^ q.2 - 1) * 2 ^ q.1)

/-- The data of a run of bytes of a word, at their places. -/
def runData (v : W64) (q : Nat × Nat) : W64 := BitVec.ofNat 64 (v.toNat / 256 ^ q.1 % 256 ^ q.2 * 256 ^ q.1)

/-- The runs of a mask lie in the word, are not empty, and make up the mask. -/
theorem maskRuns_spec : ∀ mask : Byte, (∀ q ∈ maskRuns mask.toNat 8, 0 < q.2 ∧ q.1 + q.2 ≤ 8) ∧
    (maskRuns mask.toNat 8).foldl (fun m q => m ||| runMask q) 0#8 = mask := by decide +kernel

theorem nbit_runMask : ∀ p < 9, ∀ k < 9, p + k ≤ 8 → ∀ b < 8, nbit (runMask (p, k)).toNat b = decide (p ≤ b ∧ b < p + k) := by decide +kernel

theorem getLsbD_runData {v : W64} {q : Nat × Nat} {i : Nat} (hi : i < 64) (hq : q.1 + q.2 ≤ 8) (hb : nbit (runMask q).toNat (i / 8) = true) :
    (runData v q).getLsbD i = v.getLsbD i := by
  obtain ⟨p, k⟩ := q
  dsimp only at hq
  rw [nbit_runMask p (by omega) k (by omega) hq _ (by omega), decide_eq_true_iff] at hb
  unfold runData
  dsimp only
  rw [BitVec.getLsbD_ofNat, decide_eq_true hi, Bool.true_and, show 256 = 2 ^ 8 from rfl, ← Nat.pow_mul, ← Nat.pow_mul,
    Nat.testBit_mul_two_pow, Nat.testBit_mod_two_pow, Nat.testBit_div_two_pow, decide_eq_true (by omega : 8 * p ≤ i),
    decide_eq_true (by omega : i - 8 * p < 8 * k), Bool.true_and, Bool.true_and, Nat.sub_add_cancel (by omega)]
  rfl

theorem mergeWord_zero (old new : W64) : mergeWord old new 0#8 = old := by
  refine BitVec.eq_of_getLsbD_eq fun i hi => ?_
  rw [getLsbD_mergeWord _ _ _ hi, BitVec.toNat_ofNat]
  simp [nbit]

/-- Merging a further run into what was merged. -/
theorem mergeWord_run {v : W64} {m : Byte} {q : Nat × Nat} (hq : q.1 + q.2 ≤ 8) :
    mergeWord (mergeWord 0 v m) (runData v q) (runMask q) = mergeWord 0 v (m ||| runMask q) := by
  refine BitVec.eq_of_getLsbD_eq fun i hi => ?_
  rw [getLsbD_mergeWord _ _ _ hi, getLsbD_mergeWord _ _ _ hi, getLsbD_mergeWord _ _ _ hi, BitVec.toNat_or]
  simp only [nbit_eq_testBit, Nat.testBit_or, Bool.or_eq_true]
  by_cases hb : (runMask q).toNat.testBit (i / 8) = true
  · rw [if_pos hb, if_pos (.inr hb), getLsbD_runData hi hq (by rwa [nbit_eq_testBit])]
  · simp [hb]

/-- Bytes that lie in one word are stored by one masked write. -/
theorem State.store_within {a : Nat} {bs : List Byte} (h0 : bs ≠ []) (h : a % 8 + bs.length ≤ 8) :
    s.store a bs = s.maskWrite (a / 8) (BitVec.ofNat 64 (ofBytes bs * 256 ^ (a % 8))) (BitVec.ofNat 8 ((2 ^ bs.length - 1) * 2 ^ (a % 8))) := by
  obtain ⟨b, l, rfl⟩ := List.exists_cons_of_ne_nil h0
  have hk : min (8 - a % 8) (b :: l).length = (b :: l).length := by omega
  rw [State.store, State.storeN]
  · rw [hk, List.take_length, List.drop_length, List.length_cons, State.storeN]
  · exact h0

theorem State.store_run {v : W64} {q : Nat × Nat} (h0 : 0 < q.2) (hq : q.1 + q.2 ≤ 8) :
    s.store (8 * w + q.1) (((toBytes 9 v.toNat).drop q.1).take q.2) = s.maskWrite w (runData v q) (runMask q) := by
  have hl : (((toBytes 9 v.toNat).drop q.1).take q.2).length = q.2 := by
    rw [List.length_take, List.length_drop, length_toBytes]
    omega
  rw [State.store_within (List.ne_nil_of_length_pos (by omega)) (by omega), hl, ofBytes_part (by omega),
    show (8 * w + q.1) / 8 = w by omega, show (8 * w + q.1) % 8 = q.1 by omega]
  rfl

/-! ### A word of deep memory over the network -/

/-- A part of a word is served where the word is. -/
theorem State.deepCode_part {c : Caller} {d b p k : Nat} (hin : inDeep (8 * w) = true) (h : s.deepCode c d b (8 * w) 8 = 0) (h0 : 0 < k)
    (hk : p + k ≤ 8) : s.deepCode c d b (8 * w + p) k = 0 := by
  rw [inDeep_iff] at hin
  have hfirst : (8 * w + p - deepBase) / 4096 = (8 * w - deepBase) / 4096 := by simp only [deepBase]; omega
  have hlast : (8 * w + p + k - 1 - deepBase) / 4096 = (8 * w + 8 - 1 - deepBase) / 4096 := by simp only [deepBase]; omega
  unfold State.deepCode at *
  dsimp only at *
  rw [hfirst, hlast]
  generalize deepBase + d * 0x4000000 + b * 0x200000 = lo at h ⊢
  by_cases hd : s.dieGone d = true
  · rw [if_pos hd] at h
    exact absurd h (by decide)
  by_cases hb : 8 * w < lo ∨ 8 * w + 8 > lo + 0x200000
  · rw [if_neg hd, if_pos hb] at h
    exact absurd h (by decide)
  rw [if_neg hd, if_neg hb] at h
  rw [if_neg hd, if_neg (by omega), h]

section
variable {acc : MemAccess} (hin : inDeep (8 * w) = true) (hc : s.deepCode {} (deepDie (8 * w)) (deepBank (8 * w)) (8 * w) 8 = 0)
include hin hc

/-- With no rebuild under way an access to a word that is served is performed, unless it is a read that starts a rebuild. -/
theorem State.memAccess_deep (hs : s.accessSpan acc = (8 * w, 8)) (hp : acc.port = none) (hr : acc.who.remote = true)
    (hb : s.mem.rebuilding = []) (hm : (acc.isRead && s.mustRebuild (deepRegion (8 * w)) w) = false) :
    s.memAccess acc = .next (s.accessNow acc) := by
  obtain ⟨v, hv, hvc, hvi⟩ := endpointOf_of_inDeep hin
  have hd := deepDie_lt hin
  have hw : 8 * w / 8 = w := by omega
  have hcode : s.memCode v (8 * w) 8 (!acc.isRead) = 0 := by rw [State.memCode_deep hd hvc, hvi, hc]
  have hgo : s.memGo acc = s.accessNow acc := by
    unfold State.memGo
    simp only [hp, hs, hw, regionOf_of_inDeep hin, State.rebuildFor_of_none hb, hm, Bool.false_eq_true, if_false]
  unfold State.memAccess State.memTry
  simp only [hp, hs, hr, hv, hcode, State.endBusy_deep hd hvc, hgo, Option.isSome_none, Bool.false_eq_true, if_true, if_false, ne_eq, not_true]

theorem State.readEnd_word (hl : s.loadWord w = (s.rawWord w, false, s)) :
    s.readEnd {} ((endpointOf (8 * w)).getD 0) (8 * w) 8 = (0, toBytes 8 (s.rawWord w).toNat, s) := by
  obtain ⟨v, hv, hvc, hvi⟩ := endpointOf_of_inDeep hin
  rw [hv, Option.getD_some, State.readEnd_deep (deepDie_lt hin) hvc (by rw [hvi, hc]), State.load_word, hl]
  rfl

theorem State.writeEnd_run {v : W64} {q : Nat × Nat} (h0 : 0 < q.2) (hq : q.1 + q.2 ≤ 8) :
    s.writeEnd {} {} ((endpointOf (8 * w)).getD 0) (8 * w + q.1) (((toBytes 9 v.toNat).drop q.1).take q.2) =
      (0, s.maskWrite w (runData v q) (runMask q)) := by
  obtain ⟨e, he, hec, hei⟩ := endpointOf_of_inDeep hin
  have hl : (((toBytes 9 v.toNat).drop q.1).take q.2).length = q.2 := by
    rw [List.length_take, List.length_drop, length_toBytes]
    omega
  rw [he, Option.getD_some, State.writeEnd_deep (deepDie_lt hin) hec (by rw [hei, hl, State.deepCode_part hin hc h0 hq]), State.store_run h0 hq]
end

/-- A masked write of a word of deep memory. -/
theorem State.maskWrite_deep {v : W64} {mask : Byte} (hin : inDeep (8 * w) = true) (h : mask ≠ 0xFF#8) :
    s.maskWrite w v mask = s.narrowWrite (deepRegion (8 * w)) w v mask := by
  unfold State.maskWrite
  rw [regionOf_of_inDeep hin]
  exact (if_pos rfl).trans (if_neg h)

theorem State.maskWrite_deep_full {v : W64} (hin : inDeep (8 * w) = true) : s.maskWrite w v 0xFF#8 = s.fullWrite (deepRegion (8 * w)) w v := by
  unfold State.maskWrite
  rw [regionOf_of_inDeep hin]
  exact (if_pos rfl).trans (if_pos rfl)

/-- What a run of a write does at the endpoint after those before it, with the code that the access ends with. -/
def writeRuns (w : Nat) (v : W64) (x : Nat × State) (q : Nat × Nat) : Nat × State :=
  let y := x.2.writeEnd {} {} ((endpointOf (8 * w)).getD 0) (8 * w + q.1) (((toBytes 9 v.toNat).drop q.1).take q.2)
  (if x.1 = 0 then y.1 else x.1, y.2)

theorem writeRuns_served {v : W64} {q : Nat × Nat} (hin : inDeep (8 * w) = true)
    (hc : s.deepCode {} (deepDie (8 * w)) (deepBank (8 * w)) (8 * w) 8 = 0) (h0 : 0 < q.2) (hq : q.1 + q.2 ≤ 8) :
    writeRuns w v (0, s) q = (0, s.maskWrite w (runData v q) (runMask q)) := by
  rw [writeRuns]
  dsimp only
  rw [State.writeEnd_run hin hc h0 hq]
  generalize s.maskWrite w (runData v q) (runMask q) = t
  rfl

/-! ### Narrow writes -/

/-- A narrow write with no entry for the word and one free (R131). -/
theorem State.narrowWrite_new {v : W64} {mask : Byte} (h : (s.mergeList r.unit).find? (fun e => e.word == w) = none)
    (hl : (s.mergeList r.unit).length < 8) : s.narrowWrite r w v mask =
      s.setMergeList r.unit (s.mergeList r.unit ++ [{ word := w, data := mergeWord 0 v mask, mask := mask }]) := by
  unfold State.narrowWrite
  dsimp only
  rw [h]
  dsimp only
  rw [if_neg (by omega)]

/-- A narrow write that hits an entry and leaves bytes of it missing (R131). -/
theorem State.narrowWrite_hit {v : W64} {mask : Byte} {e : MergeEntry} (h : (s.mergeList r.unit).find? (fun e => e.word == w) = some e)
    (hp : e.mask ||| mask ≠ 0xFF) : s.narrowWrite r w v mask = s.setMergeList r.unit ((s.mergeList r.unit).map fun x =>
      if x.word == w then { e with data := mergeWord e.data v mask, mask := e.mask ||| mask } else x) := by
  unfold State.narrowWrite
  dsimp only
  rw [h]
  dsimp only
  rw [if_neg hp]

/-- What a merge buffer holds of a word once the bytes of `v` that a mask names were written narrowly. -/
def pendingEntry (w : Nat) (v : W64) (mask : Byte) : List MergeEntry :=
  if mask = 0#8 then [] else [{ word := w, data := mergeWord 0 v mask, mask := mask }]

theorem pendingEntry_zero {v : W64} : pendingEntry w v 0#8 = [] := rfl

theorem pendingEntry_of_ne {v : W64} {mask : Byte} (h : mask ≠ 0#8) :
    pendingEntry w v mask = [{ word := w, data := mergeWord 0 v mask, mask := mask }] := if_neg h

section
variable {l : List MergeEntry} {v : W64} {m : Byte} {q : Nat × Nat}

theorem runMask_ne_zero (h0 : 0 < q.2) (hq : q.1 + q.2 ≤ 8) : runMask q ≠ 0#8 := fun h => by
  have hb := nbit_runMask q.1 (by omega) q.2 (by omega) hq q.1 (by omega)
  rw [h, decide_eq_true (by omega)] at hb
  simp [nbit] at hb

theorem or_runMask_ne_zero (h0 : 0 < q.2) (hq : q.1 + q.2 ≤ 8) : m ||| runMask q ≠ 0#8 := fun h =>
  runMask_ne_zero h0 hq (BitVec.or_eq_zero_iff.1 h).2

/-- A further run joins what the buffer holds of its word, while bytes are missing. -/
theorem State.narrowWrite_pending (hm : Table.wf (fun _ => ([] : List MergeEntry)) s.mem.merge = true)
    (hnone : l.find? (fun e => e.word == w) = none) (hlen : l.length < 8) (h0 : 0 < q.2) (hq : q.1 + q.2 ≤ 8) (hpart : m ||| runMask q ≠ 0xFF) :
    (s.setMergeList r.unit (l ++ pendingEntry w v m)).narrowWrite r w (runData v q) (runMask q) =
      s.setMergeList r.unit (l ++ pendingEntry w v (m ||| runMask q)) := by
  have hdata := mergeWord_run (v := v) (m := m) hq
  have hl := s.mergeList_setMergeList (unit := r.unit) (l := l ++ pendingEntry w v m) hm
  rw [pendingEntry_of_ne (or_runMask_ne_zero h0 hq)]
  by_cases hz : m = 0#8
  · subst hz
    rw [mergeWord_zero, BitVec.zero_or] at hdata
    rw [pendingEntry_zero, List.append_nil] at hl ⊢
    rw [State.narrowWrite_new (by rw [hl, hnone]) (by rw [hl]; exact hlen), hl, State.setMergeList_setMergeList hm, hdata, BitVec.zero_or]
  · rw [pendingEntry_of_ne hz] at hl ⊢
    have hothers (e : MergeEntry) : l.map (fun x => if x.word == w then e else x) = l :=
      (List.map_congr_left (g := id) fun x hx => if_neg (List.find?_eq_none.1 hnone x hx)).trans (List.map_id l)
    rw [State.narrowWrite_hit (e := { word := w, data := mergeWord 0 v m, mask := m }) (by rw [hl]; simp [List.find?_append, hnone]) hpart, hl,
      State.setMergeList_setMergeList hm, hdata, List.map_append, hothers]
    simp

theorem full_or : ∀ x : Byte, 0xFF#8 ||| x = 0xFF#8 := by decide

/-- A full mask stays full. -/
theorem foldl_or_full (runs : List (Nat × Nat)) : runs.foldl (fun m q => m ||| runMask q) 0xFF#8 = 0xFF#8 := by
  induction runs with
  | nil => rfl
  | cons q runs ih => rw [List.foldl_cons, full_or, ih]

theorem writeRuns_pending {runs : List (Nat × Nat)} (hin : inDeep (8 * w) = true)
    (hc : s.deepCode {} (deepDie (8 * w)) (deepBank (8 * w)) (8 * w) 8 = 0)
    (hm : Table.wf (fun _ => ([] : List MergeEntry)) s.mem.merge = true)
    (hnone : l.find? (fun e => e.word == w) = none) (hlen : l.length < 8) (hruns : ∀ q ∈ runs, 0 < q.2 ∧ q.1 + q.2 ≤ 8)
    (hpart : runs.foldl (fun m q => m ||| runMask q) m ≠ 0xFF#8) :
    runs.foldl (writeRuns w v) (0, s.setMergeList (deepRegion (8 * w)).unit (l ++ pendingEntry w v m)) =
      (0, s.setMergeList (deepRegion (8 * w)).unit (l ++ pendingEntry w v (runs.foldl (fun m q => m ||| runMask q) m))) := by
  induction runs generalizing m with
  | nil => rfl
  | cons q runs ih =>
    obtain ⟨h0, hq⟩ := hruns q (List.mem_cons_self ..)
    rw [List.foldl_cons] at hpart ⊢
    have hne : m ||| runMask q ≠ 0xFF#8 := fun h => hpart (by rw [h, foldl_or_full])
    have hrun : runMask q ≠ 0xFF#8 := fun h => hne (by rw [h, BitVec.or_comm, full_or])
    have hstep : writeRuns w v (0, s.setMergeList (deepRegion (8 * w)).unit (l ++ pendingEntry w v m)) q =
        (0, s.setMergeList (deepRegion (8 * w)).unit (l ++ pendingEntry w v (m ||| runMask q))) := by
      rw [writeRuns_served (s := s.setMergeList (deepRegion (8 * w)).unit (l ++ pendingEntry w v m)) hin hc h0 hq,
        State.maskWrite_deep hin hrun, State.narrowWrite_pending hm hnone hlen h0 hq hne]
    rw [hstep]
    exact ih (fun q hq => hruns q (List.mem_cons_of_mem _ hq)) hpart

end

/-! ### The accesses -/

theorem State.accessSpan_deep {acc : MemAccess} {v : BitVec 72} {en : Byte} (hin : inDeep (8 * w) = true) (hw : addr.toNat / 8 = w)
    (h : acc = .read .network addr ∨ acc = .write .network addr v en) : s.accessSpan acc = (8 * w, 8) := by
  have ha : addr.toNat / 8 * 8 = 8 * w := by omega
  obtain rfl | rfl := h <;> simp [State.accessSpan, ha, State.rowAt_of_inDeep hin]

theorem State.accessNow_read_deep (hs : s.accessSpan (.read .network addr) = (8 * w, 8))
    (hr : s.readEnd {} ((endpointOf (8 * w)).getD 0) (8 * w) 8 = (0, toBytes 8 (s.rawWord w).toNat, s)) :
    s.accessNow (.read .network addr) = s.answer (toBytes 8 (s.rawWord w).toNat) := by
  unfold State.accessNow
  rw [hs]
  dsimp only
  rw [hr]
  rfl

theorem State.accessNow_write_deep {v : W64} {en : Byte} (hs : s.accessSpan (.write .network addr (v.setWidth 72) en) = (8 * w, 8)) :
    s.accessNow (.write .network addr (v.setWidth 72) en) =
      (let x := (maskRuns en.toNat 8).foldl (writeRuns w v) (0, s); x.2.answer [] x.1) := by
  unfold State.accessNow
  rw [hs]
  dsimp only
  rw [BitVec.toNat_setWidth_of_le (by decide)]
  rfl

section
variable (hin : inDeep (8 * w) = true) (hw : addr.toNat / 8 = w)
  (hc : s.deepCode {} (deepDie (8 * w)) (deepBank (8 * w)) (8 * w) 8 = 0) (hb : s.mem.rebuilding = [])
include hin hw hc hb

theorem gives_memoryRead_deep (hn : (s.mergeList (deepRegion (8 * w)).unit).find? (fun e => e.word == w) = none) (hk : s.cairn.checks = [])
    (h : s.wordState w = .clean) : Gives (.memoryRead .network addr) s (fun t => t = s.answer (toBytes 8 (s.rawWord w).toNat)) := by
  have hs := State.accessSpan_deep (s := s) (v := 0) (en := 0) hin hw (.inl rfl)
  have hclean : s.mustRebuild (deepRegion (8 * w)) w = false := by
    unfold State.mustRebuild
    dsimp only
    rw [State.flushWord_of_none hn, h]
    simp
  have hload := State.loadWord_of_clean (regionOf_of_inDeep hin) (by decide : (1 : Nat) ≠ 0) hk h hn
  refine .intro (t := s.accessNow (.read .network addr)) ?_ (State.accessNow_read_deep hs (State.readEnd_word hin hc hload))
  exact State.memAccess_deep hin hc hs rfl rfl hb (by rw [hclean, Bool.and_false])

/-- A write is performed at once. -/
theorem memAccess_write_deep {v : W64} {en : Byte} : s.memAccess (.write .network addr (v.setWidth 72) en) =
    .next (let x := (maskRuns en.toNat 8).foldl (writeRuns w v) (0, s); x.2.answer [] x.1) := by
  have hs := State.accessSpan_deep (s := s) (v := v.setWidth 72) (en := en) hin hw (.inr rfl)
  rw [State.memAccess_deep hin hc hs rfl rfl hb rfl, State.accessNow_write_deep hs]

theorem gives_memoryWrite_deep {v : W64} (hm : s.mem.wf = true) :
    Gives (.memoryWrite .network addr (v.setWidth 72) 0xFF none) s (fun t => s.Stores t w v) := by
  have hrun : writeRuns w v (0, s) (0, 8) = (0, s.fullWrite (deepRegion (8 * w)) w v) := by
    have hdata : runData v (0, 8) = v := by
      refine BitVec.eq_of_getLsbD_eq fun i hi => getLsbD_runData hi (by decide) ?_
      rw [nbit_runMask 0 (by decide) 8 (by decide) (by decide) _ (by omega)]
      exact decide_eq_true (by omega)
    have hmask : runMask (0, 8) = 0xFF#8 := by decide
    rw [writeRuns_served hin hc (by decide) (by decide), hdata, hmask, State.maskWrite_deep_full hin]
  have hruns : maskRuns (0xFF : Byte).toNat 8 = [(0, 8)] := by decide
  have he := memAccess_write_deep hin hw hc hb (v := v) (en := 0xFF)
  rw [hruns, List.foldl_cons, hrun, List.foldl_nil] at he
  have stored : s.Stores (s.fullWrite (deepRegion (8 * w)) w v) w v := .fullWrite hm
  generalize s.fullWrite (deepRegion (8 * w)) w v = t at he stored
  exact .intro he stored.answer

theorem gives_narrowWrite_deep {v : W64} {mask : Byte} (hn : (s.mergeList (deepRegion (8 * w)).unit).find? (fun e => e.word == w) = none)
    (hm : Table.wf (fun _ => ([] : List MergeEntry)) s.mem.merge = true) (h0 : mask ≠ 0#8) (hf : mask ≠ 0xFF#8)
    (hl : (s.mergeList (deepRegion (8 * w)).unit).length < 8) : Gives (.narrowWrite .network addr v mask) s (fun t =>
      t.mergeList (deepRegion (8 * w)).unit = s.mergeList (deepRegion (8 * w)).unit ++ [{ word := w, data := mergeWord 0 v mask, mask := mask }] ∧
      t.mem.data = s.mem.data) := by
  obtain ⟨hruns, hor⟩ := maskRuns_spec mask
  have hfold := writeRuns_pending (s := s) (m := 0#8) (v := v) hin hc hm hn hl hruns (by rw [hor]; exact hf)
  rw [hor, pendingEntry_zero, List.append_nil, State.setMergeList_mergeList hm, pendingEntry_of_ne h0] at hfold
  have he := memAccess_write_deep hin hw hc hb (v := v) (en := mask)
  rw [hfold] at he
  exact .intro he ⟨State.mergeList_setMergeList hm, rfl⟩

theorem gives_narrowWrite_none {v : W64} : Gives (.narrowWrite .network addr v 0) s (fun t => t = s.answer []) :=
  .intro (memAccess_write_deep hin hw hc hb) rfl
end

theorem gives_mergeFlushAge {e : MergeEntry} (hr : regionOf addr.toNat = some r) (hm : Table.wf (fun _ => ([] : List MergeEntry)) s.mem.merge = true)
    (he : e.word = addr.toNat / 8) : Gives (.mergeFlushAge addr) (s.setMergeList r.unit [e]) (fun t =>
      (t.mergeList r.unit).find? (fun x => x.word == addr.toNat / 8) = none) := by
  have hl := s.mergeList_setMergeList (unit := r.unit) (l := [e]) hm
  have hflush : (s.setMergeList r.unit [e]).flushWord r (addr.toNat / 8) = (s.setMergeList r.unit []).flushEntry r e := by
    unfold State.flushWord
    rw [hl, ← he]
    simp [State.setMergeList_setMergeList hm]
  have run : exec (.mergeFlushAge addr) (s.setMergeList r.unit [e]) = .next ((s.setMergeList r.unit []).flushEntry r e) := by
    change execMergeFlushAge addr _ = _
    unfold execMergeFlushAge
    rw [hr]
    dsimp only
    rw [hl, hflush, ← he]
    simp [whenDue]
  obtain ⟨kept, -⟩ := State.Recodes.flushEntry (s := s.setMergeList r.unit []) (r := r) (e := e)
  have hempty := s.mergeList_setMergeList (unit := r.unit) (l := []) hm
  refine .intro run ?_
  rw [State.mergeList, kept, ← State.mergeList, hempty]
  rfl

/-- Settles O14. -/
theorem memoryAccesses : Obligations.MemoryAccesses := by
  unfold Obligations.MemoryAccesses
  intro s addr r hs hd w o hr hb hk hc hn hm
  have hin : inDeep (8 * w) = true := inDeep_word hd
  obtain rfl : deepRegion (8 * w) = r := Option.some_inj.1 ((regionOf_of_inDeep hin).symm.trans hr)
  have haddr : regionOf addr.toNat = some (deepRegion (8 * w)) := by rw [regionOf_of_inDeep hd, deepRegion_word hd]
  exact ⟨gives_memoryRead_deep hin rfl hc hb hn hk, fun v => gives_memoryWrite_deep hin rfl hc hb hs.2,
    fun v mask h0 hf hl => gives_narrowWrite_deep hin rfl hc hb hn hm h0 hf hl, fun v => gives_narrowWrite_none hin rfl hc hb,
    fun e he => gives_mergeFlushAge haddr hm he⟩

end Sys2Proof.Machine
end

section
/-!
The end of a rebuild, and the scrubber's walk over deep memory (R128, R129, R132–R134; O15).
-/

namespace Sys2Proof.Machine

variable {s : State} {r : Region} {w n : Nat}

/-! ### The end of a rebuild -/

/-- Where one page is under rebuild and no access waits, its end leaves none. -/
theorem gives_pageRebuildComplete {page : BitVec 45} (hr : regionOf (8 * page.toNat) = some r) (hb : s.mem.rebuilding = [(page.toNat, [])]) :
    Gives (.pageRebuildComplete page) s (fun t => t.mem.rebuilding = []) := by
  have run : exec (.pageRebuildComplete page) s =
      .next (((s.onMem fun m => { m with rebuilding := [] }).rebuildPage r).setBusy page.toNat false) := by
    change execPageRebuildComplete page s = _
    unfold execPageRebuildComplete
    rw [hb, hr]
    simp [hb, State.onMem, State.forAll]
  obtain ⟨-, kept⟩ := State.Recodes.rebuildPage.trans (State.Recodes.setBusy (s := (s.onMem fun m => { m with rebuilding := [] }).rebuildPage r)
    (w := page.toNat) (on := false))
  exact .intro run kept

/-! ### The scrubber -/

theorem gives_scrubWord_paused {cls : Fin 6} {unit : Fin 4} (h : s.scrubPaused cls.val unit.val = true) :
    Gives (.scrubWord cls unit) s (fun t => t = s) := .intro (if_pos h) rfl

/-- The deep memory words in a scrubber's order: the word at a place lies at that place of its die, and in its page at that place's
remainder by 64. -/
theorem scrubWordAt_deep {d : Fin 4} (hn : n < scrubWords 1) :
    inDeep (8 * scrubWordAt 1 d.val n) = true ∧ (deepRegion (8 * scrubWordAt 1 d.val n)).idx = n % 64 := by
  have hw : scrubWordAt 1 d.val n = (0x100000000000 + d.val * 0x4000000) / 8 + n := rfl
  have hd := d.isLt
  have hn : n < 0x4000000 / 8 := hn
  rw [hw, inDeep_iff]
  refine ⟨by omega, ?_⟩
  change 8 * ((0x100000000000 + d.val * 0x4000000) / 8 + n) / 8 % 64 = n % 64
  omega

/-- No word of deep memory is skipped. -/
theorem State.scrubNext_deep {unit fuel : Nat} (hn : n < scrubWords 1) : s.scrubNext 1 unit n (fuel + 1) = some n := if_neg (Nat.not_le.2 hn)

/-- A scrubber at a clean word that does not end its set or its walk, with nothing outstanding, moves on by one. -/
theorem exec_scrubWord_clean {cls : Fin 6} {unit : Fin 4} (hp : s.scrubPaused cls.val unit.val = false)
    (hnext : s.scrubNext cls.val unit.val (s.mem.scrub.peek (fun _ => 0) (cls.val * 8 + unit.val)) 8192 = some n)
    (hw : scrubWordAt cls.val unit.val n = w) (hr : regionOf (8 * w) = some r) (hb : s.mem.rebuilding = [])
    (hm : (s.mergeList r.unit).find? (fun e => e.word == w) = none) (hc : s.cairn.checks = []) (h : s.wordState w = .clean)
    (hset : r.idx + 1 ≠ r.n) (hlast : ¬ n + 1 ≥ scrubWords cls.val) :
    exec (.scrubWord cls unit) s =
      .next (s.onMem fun m => { m with scrub := m.scrub.poke (fun _ => 0) (cls.val * 8 + unit.val) (n + 1) }) := by
  change execScrubWord cls unit s = _
  unfold execScrubWord
  simp only [hp, hnext, hw, hr, State.rebuildFor_of_none hb, State.flushWord_of_none hm, State.readCode_of_clean hc h, h, hset, hlast,
    Option.isSome_none, beq_self_eq_true, Bool.true_or, Bool.false_eq_true, if_true, if_false]

/-- Settles O15. -/
theorem rebuildAndScrub : Obligations.RebuildAndScrub := by
  unfold Obligations.RebuildAndScrub
  refine ⟨fun s page r hr hb => gives_pageRebuildComplete hr hb, fun s cls unit h => gives_scrubWord_paused h, ?_⟩
  intro s d hp hc hb hw n hlt hend h hm
  obtain ⟨hin, hidx⟩ := scrubWordAt_deep (d := d) hlt
  have hset : (deepRegion (8 * scrubWordAt 1 d.val n)).idx + 1 ≠ 64 := by omega
  have hlast : ¬ n + 1 ≥ 0x4000000 / 8 := by omega
  have hnone : (s.mergeList (deepRegion (8 * scrubWordAt 1 d.val n)).unit).find? (fun e => e.word == scrubWordAt 1 d.val n) = none := by
    rw [State.mergeList, hm]
    rfl
  refine .intro (exec_scrubWord_clean (cls := 1) hp (State.scrubNext_deep (fuel := 8191) hlt) rfl (regionOf_of_inDeep hin) hb hnone hc h hset hlast)
    ⟨rfl, ?_⟩
  exact Table.peek_poke_same _ _ _ _ hw

end Sys2Proof.Machine
end

section
/-!
Rounding to binary32 (R160; O24): what the fields of a word stand for, and how near a rounded number lies.
-/

namespace Sys2Proof.Machine

variable {n k q b p mag pow off : Nat} {s zs : Bool} {v W : Int}

/-! ### Rounding half to even -/

/-- A rounded quotient is off by at most half, and even where it is off by half. -/
theorem roundNat_spec (n k : Nat) :
    2 * ((roundNat n k : Int) * 2 ^ k - n).natAbs ≤ 2 ^ k ∧ (2 * ((roundNat n k : Int) * 2 ^ k - n).natAbs = 2 ^ k → roundNat n k % 2 = 0) := by
  have parts : ((2 ^ k : Nat) : Int) * ((n / 2 ^ k : Nat) : Int) + ((n % 2 ^ k : Nat) : Int) = n := by exact_mod_cast Nat.div_add_mod n (2 ^ k)
  have small : n % 2 ^ k < 2 ^ k := Nat.mod_lt _ (Nat.two_pow_pos k)
  have down : ((n / 2 ^ k : Nat) : Int) * 2 ^ k - n = -((n % 2 ^ k : Nat) : Int) := by push_cast at parts ⊢; linarith
  have up : ((n / 2 ^ k + 1 : Nat) : Int) * 2 ^ k - n = ((2 ^ k : Nat) : Int) - ((n % 2 ^ k : Nat) : Int) := by push_cast at parts ⊢; linarith
  unfold roundNat
  dsimp only
  split_ifs with low high even
  · rw [down]; omega
  · rw [up]; omega
  · rw [down]; omega
  · rw [up]; omega

theorem roundNat_le {m : Nat} (h : n < (m + 1) * 2 ^ k) : roundNat n k ≤ m + 1 := by
  have : n / 2 ^ k < m + 1 := Nat.div_lt_of_lt_mul (by rwa [Nat.mul_comm])
  unfold roundNat
  dsimp only
  split_ifs <;> omega

theorem le_roundNat {m : Nat} (h : m * 2 ^ k ≤ n) : m ≤ roundNat n k := by
  have : m ≤ n / 2 ^ k := (Nat.le_div_iff_mul_le (Nat.two_pow_pos k)).2 h
  unfold roundNat
  dsimp only
  split_ifs <;> omega

/-! ### The fields of a word -/

theorem fFrac_lt (x : W32) : fFrac x < 2 ^ 23 := Nat.mod_lt _ (by decide)

theorem signBit_eq (s : Bool) : signBit s = 2 ^ 31 * s.toNat := by cases s <;> rfl

section
variable (s) (h : n < 2 ^ 31)
include h

theorem toNat_word : (BitVec.ofNat 32 (signBit s + n)).toNat = signBit s + n := by
  rw [BitVec.toNat_ofNat, Nat.mod_eq_of_lt]
  cases s <;> simp only [signBit, Bool.false_eq_true, if_true, if_false] <;> omega

theorem fSign_word : fSign (BitVec.ofNat 32 (signBit s + n)) = s := by
  rw [fSign, toNat_word s h, nbit]
  cases s <;> simp only [signBit, Bool.false_eq_true, if_true, if_false] <;> simp <;> omega

theorem fExp_word : fExp (BitVec.ofNat 32 (signBit s + n)) = n / 2 ^ 23 := by
  rw [fExp, toNat_word s h, nfield]
  cases s <;> simp only [signBit, Bool.false_eq_true, if_true, if_false] <;> omega

theorem fFrac_word : fFrac (BitVec.ofNat 32 (signBit s + n)) = n % 2 ^ 23 := by
  rw [fFrac, toNat_word s h, nfield]
  cases s <;> simp only [signBit, Bool.false_eq_true, if_true, if_false] <;> omega
end

/-- A finite number in units of 2^-149. -/
def fUnits (x : W32) : Int := fInt x * 2 ^ fPow x

theorem fMant_lt (x : W32) : fMant x < 2 ^ 24 := by
  have := fFrac_lt x
  unfold fMant
  split <;> omega

theorem natAbs_fUnits (x : W32) : (fUnits x).natAbs = fMant x * 2 ^ fPow x := by
  rw [fUnits, Int.natAbs_mul, Int.natAbs_pow, fInt]
  split <;> simp

/-- Exponent and fraction of a packed number: the hidden bit adds to the exponent, and so does the carry that rounding up to 2^24 makes. -/
theorem packed_value (hn : n ≤ 2 ^ 24) (hq : q = 0 ∨ 2 ^ 23 ≤ n) :
    (if (q * 2 ^ 23 + n) / 2 ^ 23 = 0 then (q * 2 ^ 23 + n) % 2 ^ 23 else 2 ^ 23 + (q * 2 ^ 23 + n) % 2 ^ 23) *
      2 ^ (if (q * 2 ^ 23 + n) / 2 ^ 23 = 0 then 0 else (q * 2 ^ 23 + n) / 2 ^ 23 - 1) = n * 2 ^ q := by
  obtain sub | normal | carry : n < 2 ^ 23 ∨ (2 ^ 23 ≤ n ∧ n < 2 ^ 24) ∨ n = 2 ^ 24 := by omega
  · obtain rfl : q = 0 := by omega
    have e : (0 * 2 ^ 23 + n) / 2 ^ 23 = 0 := by omega
    have f : (0 * 2 ^ 23 + n) % 2 ^ 23 = n := by omega
    rw [e, f, if_pos rfl, if_pos rfl]
  · have e : (q * 2 ^ 23 + n) / 2 ^ 23 = q + 1 := by omega
    have f : 2 ^ 23 + (q * 2 ^ 23 + n) % 2 ^ 23 = n := by omega
    rw [e, f, if_neg q.succ_ne_zero, if_neg q.succ_ne_zero, Nat.add_sub_cancel]
  · have e : (q * 2 ^ 23 + n) / 2 ^ 23 = q + 1 + 1 := by omega
    have f : (q * 2 ^ 23 + n) % 2 ^ 23 = 0 := by omega
    rw [e, f, if_neg (Nat.succ_ne_zero _), if_neg (Nat.succ_ne_zero _), Nat.add_sub_cancel, carry]
    ring

/-- The significand `n` at the power `q`, packed as a word. -/
theorem fUnits_word (h : q * 2 ^ 23 + n < 255 * 2 ^ 23) (hn : n ≤ 2 ^ 24) (hq : q = 0 ∨ 2 ^ 23 ≤ n) :
    fUnits (BitVec.ofNat 32 (signBit s + (q * 2 ^ 23 + n))) = if s then -((n : Int) * 2 ^ q) else (n : Int) * 2 ^ q := by
  have lt : q * 2 ^ 23 + n < 2 ^ 31 := by omega
  have sign := fSign_word s lt
  have exponent := fExp_word s lt
  have fraction := fFrac_word s lt
  generalize BitVec.ofNat 32 (signBit s + (q * 2 ^ 23 + n)) = r at *
  have units : fMant r * 2 ^ fPow r = n * 2 ^ q := by
    rw [fMant, fPow, exponent, fraction]
    exact packed_value hn hq
  have cast : (fMant r : Int) * 2 ^ fPow r = n * 2 ^ q := by exact_mod_cast units
  rw [fUnits, fInt, sign]
  cases s
  · simp only [Bool.false_eq_true, if_false, cast]
  · simp only [if_true, neg_mul, cast]

/-! ### The word that a number rounds to -/

/-- `n` units of 2^q are a number nearest to `V` of them, and `n` is even where `V` lies halfway between two. -/
def Rounded (n q V : Nat) : Prop :=
  2 * ((n : Int) * 2 ^ q - V).natAbs ≤ 2 ^ q ∧ (2 * ((n : Int) * 2 ^ q - V).natAbs = 2 ^ q → n % 2 = 0)

theorem Rounded.of_eq {V : Nat} (h : n * 2 ^ q = V) : Rounded n q V := by
  have zero : (n : Int) * 2 ^ q - V = 0 := by rw [← h]; push_cast; exact sub_self _
  have pos := Nat.two_pow_pos q
  unfold Rounded
  rw [zero]
  omega

theorem Rounded.roundNat (n k p : Nat) : Rounded (roundNat n k) (k + p) (n * 2 ^ p) := by
  obtain ⟨near, tie⟩ := roundNat_spec n k
  have scaled : 2 * ((Machine.roundNat n k : Int) * 2 ^ (k + p) - (n * 2 ^ p : Nat)).natAbs =
      2 * ((Machine.roundNat n k : Int) * 2 ^ k - n).natAbs * 2 ^ p := by
    have : (Machine.roundNat n k : Int) * 2 ^ (k + p) - (n * 2 ^ p : Nat) = ((Machine.roundNat n k : Int) * 2 ^ k - n) * 2 ^ p := by
      push_cast; ring
    rw [this, Int.natAbs_mul, Int.natAbs_pow, Nat.mul_assoc]
    rfl
  unfold Rounded
  rw [scaled, Nat.pow_add]
  exact ⟨Nat.mul_le_mul_right _ near, fun h => tie (Nat.eq_of_mul_eq_mul_right (Nat.two_pow_pos p) h)⟩

/-- `mag` times 2^`pow` in units of 2^e, rounded where that is coarser. -/
def significand (mag pow e : Nat) : Nat := if e ≤ pow then mag * 2 ^ (pow - e) else roundNat mag (e - pow)

theorem rounded_significand (mag pow e : Nat) : Rounded (significand mag pow e) e (mag * 2 ^ pow) := by
  unfold significand
  split
  · next hle => exact .of_eq (by rw [Nat.mul_assoc, ← Nat.pow_add, Nat.sub_add_cancel hle])
  · next hlt =>
    have near := Rounded.roundNat mag (e - pow) pow
    rwa [Nat.sub_add_cancel (by omega)] at near

/-- A number below 2^24 units rounds to at most 2^24 of them. -/
theorem significand_le {e : Nat} (h : mag * 2 ^ pow < 2 ^ 24 * 2 ^ e) : significand mag pow e ≤ 2 ^ 24 := by
  unfold significand
  split
  · next hle =>
    obtain ⟨k, rfl⟩ : ∃ k, pow = e + k := ⟨pow - e, by omega⟩
    rw [Nat.add_sub_cancel_left]
    rw [Nat.add_comm e, Nat.pow_add, ← Nat.mul_assoc] at h
    exact (Nat.lt_of_mul_lt_mul_right h).le
  · next hlt =>
    obtain ⟨k, rfl⟩ : ∃ k, e = k + pow := ⟨e - pow, by omega⟩
    rw [Nat.add_sub_cancel]
    rw [Nat.pow_add, ← Nat.mul_assoc] at h
    exact roundNat_le (m := 2 ^ 24 - 1) (Nat.lt_of_mul_lt_mul_right h)

/-- A number of at least 2^23 units rounds to at least 2^23 of them. -/
theorem le_significand {e : Nat} (h : 2 ^ (e + 23) ≤ mag * 2 ^ pow) : 2 ^ 23 ≤ significand mag pow e := by
  rw [Nat.add_comm, Nat.pow_add] at h
  unfold significand
  split
  · next hle =>
    obtain ⟨k, rfl⟩ : ∃ k, pow = e + k := ⟨pow - e, by omega⟩
    rw [Nat.add_sub_cancel_left]
    rw [Nat.add_comm e, Nat.pow_add, ← Nat.mul_assoc] at h
    exact Nat.le_of_mul_le_mul_right h (Nat.two_pow_pos e)
  · next hlt =>
    obtain ⟨k, rfl⟩ : ∃ k, e = k + pow := ⟨e - pow, by omega⟩
    rw [Nat.add_sub_cancel]
    rw [Nat.pow_add, ← Nat.mul_assoc] at h
    exact le_roundNat (Nat.le_of_mul_le_mul_right h (Nat.two_pow_pos pow))

/-- The word that a number other than 0 is rounded to, from its significand in units of the least bit. -/
theorem roundF_fst (hm : mag ≠ 0) (hq : max (mag.log2 + pow - 23) (off - 149) = q + (off - 149)) :
    let n := significand mag pow (q + (off - 149))
    (roundF s mag pow off).1 =
      if q * 2 ^ 23 + n ≥ 255 * 2 ^ 23 then infOf s else BitVec.ofNat 32 (signBit s + (q * 2 ^ 23 + n)) := by
  intro n
  have word (f g : FlagSet) : (if q * 2 ^ 23 + n ≥ 255 * 2 ^ 23 then (BitVec.ofNat 32 (signBit s + 255 * 2 ^ 23), f)
      else (BitVec.ofNat 32 (signBit s + (q * 2 ^ 23 + n)), g)).1 =
      if q * 2 ^ 23 + n ≥ 255 * 2 ^ 23 then infOf s else BitVec.ofNat 32 (signBit s + (q * 2 ^ 23 + n)) := by
    split <;> rfl
  simp only [roundF, hm, if_false, hq, Nat.add_sub_cancel]
  exact word _ _

/-- The significand and the power that a number is rounded to, and the word that they make. -/
theorem roundF_spec (hm : mag ≠ 0) (s : Bool) (pow off : Nat) : ∃ n q, (roundF s mag pow off).1 =
      (if q * 2 ^ 23 + n ≥ 255 * 2 ^ 23 then infOf s else BitVec.ofNat 32 (signBit s + (q * 2 ^ 23 + n))) ∧
    n ≤ 2 ^ 24 ∧ (q = 0 ∨ (2 ^ 23 ≤ n ∧ 2 ^ (q + (off - 149) + 23) ≤ mag * 2 ^ pow)) ∧ Rounded n (q + (off - 149)) (mag * 2 ^ pow) := by
  have low : 2 ^ mag.log2 ≤ mag := Nat.log2_self_le hm
  have high : mag < 2 ^ (mag.log2 + 1) := Nat.lt_log2_self
  obtain ⟨q, hq⟩ : ∃ q, max (mag.log2 + pow - 23) (off - 149) = q + (off - 149) := ⟨_, (Nat.sub_add_cancel (le_max_right _ _)).symm⟩
  have least : q = 0 ∨ mag.log2 + pow = q + (off - 149) + 23 := by omega
  have above : q = 0 ∨ 2 ^ (q + (off - 149) + 23) ≤ mag * 2 ^ pow := least.imp_right fun h => by
    rw [← h, Nat.pow_add]
    exact Nat.mul_le_mul_right _ low
  have below : mag * 2 ^ pow < 2 ^ 24 * 2 ^ (q + (off - 149)) := by
    rw [← Nat.pow_add]
    refine Nat.lt_of_lt_of_le (Nat.mul_lt_mul_of_pos_right high (Nat.two_pow_pos _)) ?_
    rw [← Nat.pow_add]
    exact Nat.pow_le_pow_right (by decide) (by omega)
  exact ⟨_, q, roundF_fst hm hq, significand_le below, above.imp_right fun h => ⟨le_significand h, h⟩, rounded_significand ..⟩

/-- No number of a significand below 2^24 lies nearer to `V` than what it is rounded to, and where one lies as near, that is even. -/
theorem Rounded.nearest {V m : Nat} (h : Rounded n (q + b) V) (hq : q = 0 ∨ 2 ^ (q + b + 23) ≤ V) (hm : m < 2 ^ 24)
    (hW : W.natAbs = m * 2 ^ p * 2 ^ b) :
    ((n : Int) * 2 ^ (q + b) - V).natAbs ≤ (W - V).natAbs ∧
      (W ≠ (n : Int) * 2 ^ (q + b) → ((n : Int) * 2 ^ (q + b) - V).natAbs = (W - V).natAbs → n % 2 = 0) := by
  obtain ⟨near, tie⟩ := h
  by_cases hp : q ≤ p
  · -- on the grid of the result, another number lies a whole unit away
    have grid : ((2 ^ (q + b) : Nat) : Int) ∣ W - (n : Int) * 2 ^ (q + b) := by
      refine Int.dvd_sub (Int.natCast_dvd.2 ⟨m * 2 ^ (p - q), ?_⟩) ⟨n, by push_cast; ring⟩
      rw [hW]
      obtain ⟨k, rfl⟩ : ∃ k, p = q + k := ⟨p - q, by omega⟩
      rw [Nat.add_sub_cancel_left]
      ring
    have apart : W ≠ (n : Int) * 2 ^ (q + b) → 2 ^ (q + b) ≤ (W - (n : Int) * 2 ^ (q + b)).natAbs := fun hne =>
      Nat.le_of_dvd (by omega) (Int.natCast_dvd.1 grid)
    generalize (n : Int) * 2 ^ (q + b) = R at *
    generalize 2 ^ (q + b) = N at *
    by_cases hne : W = R
    · exact ⟨by rw [hne], fun h => absurd hne h⟩
    · have := apart hne
      exact ⟨by omega, fun _ h => tie (by omega)⟩
  · -- a finer number lies below the binade of `V`
    have bound : m * 2 ^ p * 2 ^ b ≤ (2 ^ 24 - 1) * 2 ^ (q + b - 1) := by
      rw [Nat.mul_assoc, ← Nat.pow_add]
      exact Nat.mul_le_mul (by omega) (Nat.pow_le_pow_right (by decide) (by omega))
    have far := hq.resolve_left (by omega)
    rw [← hW] at bound
    generalize (n : Int) * 2 ^ (q + b) = R at *
    obtain ⟨e, he⟩ : ∃ e, q + b = e + 1 := ⟨q + b - 1, by omega⟩
    rw [he, Nat.add_sub_cancel] at bound
    rw [he, Nat.pow_succ] at near tie
    rw [he, show e + 1 + 23 = 24 + e by omega, Nat.pow_add] at far
    generalize 2 ^ e = N at *
    exact ⟨by omega, fun _ h => tie (by omega)⟩

theorem fExp_infOf (s : Bool) : fExp (infOf s) = 255 := by cases s <;> decide

theorem fUnits_zero (s : Bool) : fUnits (BitVec.ofNat 32 (signBit s)) = 0 := by cases s <;> decide

/-- The sign that `fInt` and `roundFInt` give a number. -/
def signOf (s : Bool) : Int := if s then -1 else 1

theorem signOf_mul_self (s : Bool) : signOf s * signOf s = 1 := by cases s <;> rfl

theorem natAbs_signOf_mul (s : Bool) (v : Int) : (signOf s * v).natAbs = v.natAbs := by
  cases s <;> simp [signOf]

theorem signOf_mul_natAbs (v : Int) : signOf (decide (v < 0)) * v.natAbs = v := by
  by_cases h : v < 0 <;> simp only [signOf, h, decide_true, decide_false, Bool.false_eq_true, if_true, if_false] <;> omega

/-- A number other than 0 whose rounded value is finite. -/
theorem roundFInt_spec (h0 : v ≠ 0) (hf : fExp (roundFInt v pow off zs).1 ≠ 255) : ∃ n q : Nat,
    let r := (roundFInt v pow off zs).1
    fUnits r = signOf (decide (v < 0)) * (n * 2 ^ q) ∧ nbit r.toNat 0 = decide (n % 2 = 1) ∧
    (q = 0 ∨ 2 ^ (q + (off - 149) + 23) ≤ v.natAbs * 2 ^ pow) ∧ Rounded n (q + (off - 149)) (v.natAbs * 2 ^ pow) := by
  obtain ⟨n, q, word, hn, hq, near⟩ := roundF_spec (Int.natAbs_ne_zero.2 h0) (decide (v < 0)) pow off
  have eq : roundFInt v pow off zs = roundF (decide (v < 0)) v.natAbs pow off := if_neg h0
  rw [eq, word] at hf
  rw [eq, word]
  have lt : q * 2 ^ 23 + n < 255 * 2 ^ 23 := by
    by_contra hge
    exact hf (by rw [if_pos (Nat.le_of_not_lt hge), fExp_infOf])
  rw [if_neg (Nat.not_le.2 lt)]
  refine ⟨n, q, ?_, ?_, hq.imp_right And.right, near⟩
  · rw [fUnits_word lt hn (hq.imp_right And.left)]
    cases decide (v < 0) <;> simp [signOf]
  · rw [toNat_word _ (by omega), nbit, signBit_eq]
    exact decide_eq_decide.2 (by omega)

/-- No word stands for a number nearer to `u` units of 2^-(149 + b) than `r` does, and where another one lies as near the last fraction bit
of `r` is 0. -/
def Nearest (r : W32) (b : Nat) (u : Int) : Prop :=
  ∀ w : W32, (fUnits r * 2 ^ b - u).natAbs ≤ (fUnits w * 2 ^ b - u).natAbs ∧
    (fUnits w ≠ fUnits r → (fUnits r * 2 ^ b - u).natAbs = (fUnits w * 2 ^ b - u).natAbs → nbit r.toNat 0 = false)

theorem roundFInt_nearest (hf : fExp (roundFInt v pow off zs).1 ≠ 255) :
    Nearest (roundFInt v pow off zs).1 (off - 149) (v * 2 ^ pow) := by
  intro w
  generalize hr : (roundFInt v pow off zs).1 = r
  have pos : (2 : Int) ^ (off - 149) ≠ 0 := by positivity
  by_cases h0 : v = 0
  · have zero : fUnits r = 0 := by
      have eq : roundFInt v pow off zs = (BitVec.ofNat 32 (signBit zs), {}) := if_pos h0
      rw [← hr, eq, fUnits_zero]
    simp only [zero, h0, zero_mul, sub_zero, Int.natAbs_zero]
    refine ⟨Nat.zero_le _, fun hne h => ?_⟩
    exact absurd (Int.natAbs_eq_zero.1 h.symm) (mul_ne_zero hne pos)
  obtain ⟨n, q, units, even, hq, near⟩ := roundFInt_spec h0 hf
  have sq := signOf_mul_self (decide (v < 0))
  have hv := signOf_mul_natAbs v
  have abs (x : Int) := natAbs_signOf_mul (decide (v < 0)) x
  rw [hr] at units even
  generalize signOf (decide (v < 0)) = g at *
  generalize v.natAbs = mag at *
  have hW : (g * fUnits w * 2 ^ (off - 149)).natAbs = fMant w * 2 ^ fPow w * 2 ^ (off - 149) := by
    rw [Int.natAbs_mul, abs, natAbs_fUnits, Int.natAbs_pow]
    rfl
  obtain ⟨least, tie⟩ := near.nearest hq (fMant_lt w) hW
  have result : fUnits r * 2 ^ (off - 149) - v * 2 ^ pow = g * (n * 2 ^ (q + (off - 149)) - (mag * 2 ^ pow : Nat)) := by
    rw [units]
    push_cast
    linear_combination (2 ^ pow : Int) * hv
  have other : fUnits w * 2 ^ (off - 149) - v * 2 ^ pow = g * (g * fUnits w * 2 ^ (off - 149) - (mag * 2 ^ pow : Nat)) := by
    push_cast
    linear_combination (2 ^ pow : Int) * hv - fUnits w * 2 ^ (off - 149) * sq
  rw [result, other, abs, abs]
  refine ⟨least, fun hne h => ?_⟩
  rw [even, tie (fun same => hne ?_) h]
  · rfl
  · have : g * fUnits w = n * 2 ^ q := mul_right_cancel₀ pos (by rw [same, pow_add]; ring)
    rw [units, ← this, ← mul_assoc, sq, one_mul]

end Sys2Proof.Machine
end

section
/-!
Sums, products and fused multiply-adds of binary32 (R160; O24).
-/

namespace Sys2Proof.Machine

variable {x y z w : W32} {v : Int} {pow off : Nat} {zs mx : Bool}

/-! ### Finite operands -/

theorem isNaN_of_finite (h : fExp x ≠ 255) : isNaN x = false := by simp [isNaN, h]

theorem isInf_of_finite (h : fExp x ≠ 255) : isInf x = false := by simp [isInf, h]

theorem fAdd_of_finite (hx : fExp x ≠ 255) (hy : fExp y ≠ 255) : fAdd x y = addFinite x y := by
  simp [fAdd, isNaN_of_finite, isInf_of_finite, hx, hy]

theorem fMul_of_finite (hx : fExp x ≠ 255) (hy : fExp y ≠ 255) :
    fMul x y = roundFInt (fInt x * fInt y) (fPow x + fPow y) 298 (fSign x != fSign y) := by
  simp [fMul, isNaN_of_finite, isInf_of_finite, hx, hy]

/-- Two numbers of units brought to the lower of their powers. -/
theorem aligned_sum (a b : Int) (p q : Nat) :
    (a * 2 ^ (p - min p q) + b * 2 ^ (q - min p q)) * 2 ^ min p q = a * 2 ^ p + b * 2 ^ q := by
  rw [add_mul, mul_assoc, mul_assoc, ← pow_add, ← pow_add, Nat.sub_add_cancel (min_le_left p q), Nat.sub_add_cancel (min_le_right p q)]

theorem fFma_of_finite (hx : fExp x ≠ 255) (hy : fExp y ≠ 255) (hz : fExp z ≠ 255) :
    let p := min (fPow x + fPow y) (fPow z + 149)
    fFma x y z = roundFInt (fInt x * fInt y * 2 ^ (fPow x + fPow y - p) + fInt z * 2 ^ (fPow z + 149 - p)) p 298
      ((fSign x != fSign y) && fSign z) := by
  simp [fFma, isNaN_of_finite, isInf_of_finite, hx, hy, hz]

theorem fAdd_nearest (hx : fExp x ≠ 255) (hy : fExp y ≠ 255) (h : fExp (fAdd x y).1 ≠ 255) :
    Nearest (fAdd x y).1 0 (fUnits x + fUnits y) := by
  rw [fAdd_of_finite hx hy, addFinite] at h ⊢
  exact aligned_sum (fInt x) (fInt y) (fPow x) (fPow y) ▸ roundFInt_nearest h

theorem fMul_nearest (hx : fExp x ≠ 255) (hy : fExp y ≠ 255) (h : fExp (fMul x y).1 ≠ 255) :
    Nearest (fMul x y).1 149 (fUnits x * fUnits y) := by
  rw [fMul_of_finite hx hy] at h ⊢
  rw [fUnits, fUnits, mul_mul_mul_comm, ← pow_add]
  exact roundFInt_nearest h

theorem fFma_nearest (hx : fExp x ≠ 255) (hy : fExp y ≠ 255) (hz : fExp z ≠ 255) (h : fExp (fFma x y z).1 ≠ 255) :
    Nearest (fFma x y z).1 149 (fUnits x * fUnits y + fUnits z * 2 ^ 149) := by
  rw [fFma_of_finite hx hy hz] at h ⊢
  rw [fUnits, fUnits, fUnits, mul_mul_mul_comm, mul_assoc (fInt z), ← pow_add, ← pow_add]
  exact aligned_sum (fInt x * fInt y) (fInt z) (fPow x + fPow y) (fPow z + 149) ▸ roundFInt_nearest h

/-! ### NaN results -/

theorem isNaN_roundFInt : isNaN (roundFInt v pow off zs).1 = false := by
  by_cases h0 : v = 0
  · rw [roundFInt, if_pos h0]
    cases zs <;> decide
  rw [roundFInt, if_neg h0]
  obtain ⟨n, q, word, -⟩ := roundF_spec (Int.natAbs_ne_zero.2 h0) (decide (v < 0)) pow off
  rw [word]
  split
  · cases decide (v < 0) <;> decide
  · refine isNaN_of_finite ?_
    rw [fExp_word _ (by omega)]
    omega

theorem nfield_xor (a b hi lo : Nat) : nfield (a ^^^ b) hi lo = nfield a hi lo ^^^ nfield b hi lo := by
  rw [nfield, Nat.xor_div_two_pow, Nat.xor_mod_two_pow]
  rfl

theorem nfield_and (a b hi lo : Nat) : nfield (a &&& b) hi lo = nfield a hi lo &&& nfield b hi lo := by
  rw [nfield, Nat.and_div_two_pow, Nat.and_mod_two_pow]
  rfl

/-- A change of sign keeps exponent and fraction. -/
theorem isNaN_fNeg (x : W32) : isNaN (fNeg x) = isNaN x := by
  have e : fExp (fNeg x) = fExp x := by
    rw [fExp, fNeg, BitVec.toNat_xor, nfield_xor]
    exact Nat.xor_zero _
  have f : fFrac (fNeg x) = fFrac x := by
    rw [fFrac, fNeg, BitVec.toNat_xor, nfield_xor]
    exact Nat.xor_zero _
  rw [isNaN, isNaN, e, f]

theorem isNaN_abs (x : W32) : isNaN (x &&& 0x7FFFFFFF) = isNaN x := by
  have e : fExp (x &&& 0x7FFFFFFF) = fExp x := by
    rw [fExp, BitVec.toNat_and, nfield_and]
    exact (Nat.and_two_pow_sub_one_eq_mod _ 8).trans (Nat.mod_mod _ _)
  have f : fFrac (x &&& 0x7FFFFFFF) = fFrac x := by
    rw [fFrac, BitVec.toNat_and, nfield_and]
    exact (Nat.and_two_pow_sub_one_eq_mod _ 23).trans (Nat.mod_mod _ _)
  rw [isNaN, isNaN, e, f]

theorem isNaN_of_isSNaN (h : isSNaN x = true) : isNaN x = true := ((Bool.and_eq_true _ _).mp h).1

theorem isNaN_infOf (s : Bool) : isNaN (infOf s) = false := by cases s <;> decide

/-- A result that is the canonical NaN if it is one at all. -/
def NaNCanonical (r : W32 × FlagSet) : Prop := isNaN r.1 = true → r.1 = qNaN

theorem nanCanonical_qNaN (f : FlagSet) : NaNCanonical (qNaN, f) := fun _ => rfl

theorem nanCanonical_of_number {r : W32 × FlagSet} (h : isNaN r.1 = false) : NaNCanonical r := fun g => absurd (h.symm.trans g) (by decide)

theorem fAdd_nan (x y : W32) : NaNCanonical (fAdd x y) := by
  unfold fAdd
  split
  · exact nanCanonical_qNaN _
  next h =>
  simp only [Bool.or_eq_true, not_or, Bool.not_eq_true] at h
  split
  · split
    · exact nanCanonical_qNaN _
    · exact nanCanonical_of_number h.1
  · split
    · exact nanCanonical_of_number h.2
    · exact nanCanonical_of_number isNaN_roundFInt

theorem fSub_nan (x y : W32) : NaNCanonical (fSub x y) := by
  unfold fSub
  split
  · exact nanCanonical_qNaN _
  · exact fAdd_nan x (fNeg y)

theorem fMul_nan (x y : W32) : NaNCanonical (fMul x y) := by
  unfold fMul
  dsimp only
  split
  · exact nanCanonical_qNaN _
  · split
    · split
      · exact nanCanonical_qNaN _
      · exact nanCanonical_of_number (isNaN_infOf _)
    · exact nanCanonical_of_number isNaN_roundFInt

theorem fFma_nan (x y z : W32) : NaNCanonical (fFma x y z) := by
  unfold fFma
  dsimp only
  split
  · exact nanCanonical_qNaN _
  split
  · exact nanCanonical_qNaN _
  next hz =>
  split
  · exact nanCanonical_qNaN _
  · split
    · split
      · exact nanCanonical_qNaN _
      · exact nanCanonical_of_number (isNaN_infOf _)
    · split
      · exact nanCanonical_of_number (eq_false_of_ne_true hz)
      · exact nanCanonical_of_number isNaN_roundFInt

theorem fMinMax_nan (mx : Bool) (x y : W32) : NaNCanonical (fMinMax mx x y) := by
  unfold fMinMax
  dsimp only
  by_cases hx : isNaN x = true <;> by_cases hy : isNaN y = true
  · rw [if_pos hx, if_pos hy]
    exact nanCanonical_qNaN _
  · rw [if_pos hx, if_neg hy]
    exact nanCanonical_of_number (eq_false_of_ne_true hy)
  · rw [if_neg hx, if_pos hy]
    exact nanCanonical_of_number (eq_false_of_ne_true hx)
  · rw [if_neg hx, if_neg hy]
    refine nanCanonical_of_number ?_
    have one (c : Prop) [Decidable c] : isNaN (if c then x else y) = false := by
      split
      · exact eq_false_of_ne_true hx
      · exact eq_false_of_ne_true hy
    exact one _

theorem fAbs_nan (x : W32) : NaNCanonical (fAbs x) := by
  unfold fAbs
  split
  · exact nanCanonical_qNaN _
  · next h => exact nanCanonical_of_number ((isNaN_abs x).trans (eq_false_of_ne_true h))

theorem fNegOp_nan (x : W32) : NaNCanonical (fNegOp x) := by
  unfold fNegOp
  split
  · exact nanCanonical_qNaN _
  · next h => exact nanCanonical_of_number ((isNaN_fNeg x).trans (eq_false_of_ne_true h))

/-! ### Signalling NaN operands -/

section
variable (h : isSNaN x = true ∨ isSNaN y = true)
include h

theorem nan_of_signalling : (isNaN x || isNaN y) = true := by
  rw [Bool.or_eq_true]
  exact h.imp isNaN_of_isSNaN isNaN_of_isSNaN

theorem fAdd_fi : (fAdd x y).2.fi = true := by
  rw [fAdd, if_pos (nan_of_signalling h)]
  exact (Bool.or_eq_true _ _).mpr h

theorem fSub_fi : (fSub x y).2.fi = true := by
  unfold fSub
  split
  · exact (Bool.or_eq_true _ _).mpr h
  · next hy => exact fAdd_fi (.inl (h.resolve_right fun g => hy (isNaN_of_isSNaN g)))

theorem fMul_fi : (fMul x y).2.fi = true := by
  have nan : fMul x y = (qNaN, { fi := isSNaN x || isSNaN y }) := if_pos (nan_of_signalling h)
  rw [nan]
  exact (Bool.or_eq_true _ _).mpr h

theorem fFma_fi : (fFma x y z).2.fi = true := by
  have nan : fFma x y z = (qNaN, { fi := isSNaN x || isSNaN y || isSNaN z }) := if_pos (nan_of_signalling h)
  rw [nan]
  exact (Bool.or_eq_true _ _).mpr (.inl ((Bool.or_eq_true _ _).mpr h))

theorem fMinMax_fi : (fMinMax mx x y).2.fi = true := by
  have raised : (fMinMax mx x y).2 = { fi := isSNaN x || isSNaN y } := by
    unfold fMinMax
    dsimp only
    split
    · rfl
    · split <;> rfl
  rw [raised]
  exact (Bool.or_eq_true _ _).mpr h
end

/-- Settles O24: each result rounds an exact integer of units once (`roundFInt_nearest`), and a NaN comes from `qNaN` alone. -/
theorem binary32Nearest : Obligations.Binary32Nearest := by
  unfold Obligations.Binary32Nearest
  intro fin F
  refine ⟨fun x y w hx hy _ => ⟨fun h => ?_, fun h => fMul_nearest hx hy h w⟩, fun x y z w hx hy hz _ h => (fFma_nearest hx hy hz h w).1,
    fun x y z => ?_, fun x y z h => ?_⟩
  · have near := fAdd_nearest hx hy h w
    rwa [pow_zero, mul_one, mul_one] at near
  · simp only [List.forall_mem_cons, List.not_mem_nil, false_implies, implies_true, and_true]
    exact ⟨fAdd_nan x y, fSub_nan x y, fMul_nan x y, fFma_nan x y z, fMinMax_nan false x y, fMinMax_nan true x y, fAbs_nan x, fNegOp_nan x⟩
  · simp only [List.forall_mem_cons, List.not_mem_nil, false_implies, implies_true, and_true]
    exact ⟨fAdd_fi h, fSub_fi h, fMul_fi h, fFma_fi h, fMinMax_fi h, fMinMax_fi h⟩

end Sys2Proof.Machine
end

section
/-!
SUPPORT. The issue of a ready bundle (R177): what stands in its way, and how it ends outside locked sequences and loop ends.
-/

namespace Sys2Proof.Machine

variable {s : State} {i : Nat} {e : Engine} {b : Bundle} {want : Bundle → Bool}

/-! ### Comparators -/

/-- A comparator asks the engine for its register only. -/
theorem State.cmpOn_setEng (h : Table.wf (fun _ => ({} : Engine)) s.engines = true) (hc : e.comp = (s.eng i).comp) (k : Nat) :
    (s.setEng i e).cmpOn i k = s.cmpOn i k := by
  unfold State.cmpOn
  rw [State.eng_setEng h, hc]
  rfl

theorem State.ibrkHits_of_off (hc : ∀ k < 6, s.cmpOn i k = false) : s.ibrkHits i = [] := by
  have none_ : (List.range 4).filter (fun k => s.cmpOn i k && decide (nfield ((s.eng i).comp[k]!).toNat 34 24 ≤ (s.eng i).pc.toNat ∧
      (s.eng i).pc.toNat ≤ nfield ((s.eng i).comp[k]!).toNat 45 35)) = [] := by
    refine List.filter_eq_nil_iff.2 fun k hk => ?_
    have lt := List.mem_range.1 hk
    simp [hc k (by omega)]
  exact (congrArg (ite _ []) none_).trans (ite_self _)

theorem State.watches_of_off (hc : ∀ k < 6, s.cmpOn i k = false) (svc : Bool) (l : List Touch) : s.watches i svc l = (s, none) := by
  simp [State.watches, hc 4 (by decide), hc 5 (by decide), State.serveAll]

theorem State.watches_setEng (h : Table.wf (fun _ => ({} : Engine)) s.engines = true) (hc : ∀ k < 6, s.cmpOn i k = false)
    (he : e.comp = (s.eng i).comp) (svc : Bool) (l : List Touch) : (s.setEng i e).watches i svc l = (s.setEng i e, none) :=
  State.watches_of_off (fun k hk => (State.cmpOn_setEng h he k).trans (hc k hk)) svc l

/-! ### Issue -/

/-- What is fetched quietly is delivered as stored. -/
theorem State.ready.fetch (h : s.ready i b) :
    s.fetch i = (s.rawWord (progWord i (s.eng i).pc.toNat), s.rawWord (progWord i (s.eng i).pc.toNat + 1), false, s) := by
  obtain ⟨-, -, -, -, -, -, low, high, -⟩ := h
  simp only [State.quiet] at low high
  simp [State.fetch, low, high]

/-- A ready bundle that the command names, that neither traps nor waits and is no BREAK, is performed. -/
theorem State.ready.issue (h : s.ready i b) (hw : want b = true) (ht : (s.eng i).trapOf b = 0) (hq : ((s.eng i).ctlOut b.c).wait = false)
    (hb : b.c ≠ .brk) : s.issue i want = s.perform i b := by
  have fetched := h.fetch
  obtain ⟨-, hs, hk, hd, -, hc, -, -, page, held, decoded⟩ := h
  have performed : s.issueBundle i b = s.perform i b := by
    simp [State.issueBundle, ht, hq, held, State.ibrkHits_of_off hc, State.serveAll, hb]
  simp [State.issue, State.issues, hs, hk, page, fetched, decoded, hw, hd, performed]

/-- Outside locked sequences and loop ends a bundle without a transfer goes on to the next. -/
theorem State.finish_straight (h : Table.wf (fun _ => ({} : Engine)) s.engines = true) (hs : (s.eng i).straight) (hr : (s.eng i).state = 2)
    (hp : (s.eng i).haltPend = 0) :
    s.finish i {} none false = s.setEng i { s.eng i with pc := (s.eng i).pc + 1, skipHit := false } := by
  obtain ⟨unlocked, -, loops⟩ := hs
  have on : (s.eng i).endLoop (s.eng i).pc 5 = (s.eng i, (s.eng i).pc + 1) := by
    rw [Engine.endLoop]
    split
    · rfl
    · next hd => exact if_pos (bne_iff_ne.2 (loops.resolve_left hd))
  rw [Engine.locked] at unlocked
  simp [State.finish, on, Engine.locked, unlocked, State.eng_setEng h, hr, hp]

end Sys2Proof.Machine
end

section
/-!
The issue of a bundle that holds a vector slot alone (R177, R189, R190; O22).
-/

namespace Sys2Proof.Machine

variable {s : State} {i : Nat} {e : Engine} {v : Vec}

/-! ### The bundle -/

/-- A field of a word written with what it holds, or with the greatest value of its range if that is less. -/
theorem setField_min {w : Nat} (x : BitVec w) {hi lo : Nat} (hl : lo ≤ hi) (hw : hi < w) :
    setField x hi lo (min (2 ^ (hi + 1 - lo) - 1) (nfield x.toNat hi lo)) = x := by
  have lt : nfield x.toNat hi lo < 2 ^ (hi + 1 - lo) := fieldOf_lt x hi lo
  rw [Nat.min_eq_right (by omega)]
  refine BitVec.eq_of_toNat_eq (Nat.eq_of_testBit_eq fun j => ?_)
  have bits := testBit_fieldOf x hi lo (j - lo)
  rw [testBit_setField x _ j hl hw, show nfield x.toNat hi lo = fieldOf x hi lo from rfl, bits]
  split
  · rfl
  · split
    · rw [decide_eq_true (by omega), Bool.true_and, Nat.add_sub_cancel' (by omega)]
    · rfl

/-- ORing flags into ESR leaves IN_LOCK as it is. -/
theorem orFlags_locked (x : W32) (f : FlagSet) : nbit (orFlags x f).toNat 22 = nbit x.toNat 22 := by
  rw [nbit_eq_testBit, nbit_eq_testBit, orFlags, BitVec.toNat_or, Nat.testBit_or]
  have : ∀ a b c d g h : Bool, (BitVec.ofNat 32 (bit a * 2 ^ 19 + bit b * 2 ^ 14 + bit c * 2 ^ 13 + bit d * 2 ^ 12 + bit g * 2 ^ 11
      + bit h * 2 ^ 10)).toNat.testBit 22 = false := by decide
  rw [this, Bool.or_false]

/-- A bundle with a vector slot alone raises no trap outside locked sequences. -/
theorem Engine.trapOf_vec (h : e.locked = false) : e.trapOf { v := v } = 0 := by
  simp [Engine.trapOf, Engine.ctlOut, Engine.moveOut, MoveOut.claims, CtlOut.claims, h, clash]

@[simp] theorem FlagSet.or_none (f : FlagSet) : f.or {} = f := by
  simp [FlagSet.or]

theorem set_getElem_zero {α : Type} (x : Vector α 2) : x.set! 0 x[0] = x := by
  ext k hk
  rw [Vector.set!_eq_setIfInBounds, Vector.getElem_setIfInBounds]
  split
  · next h => subst h; rfl
  · rfl

theorem State.writeIdx_nil (y : Bool) : s.writeIdx i y [] = s := by
  simp [State.writeIdx, State.writeNow, State.forAll]

/-- A vector slot that writes one register and measures nothing: it and the flags are all that the bundle changes. -/
theorem State.perform_vec {o : SlotOut} {w : Vector Lanes 16} {a : Vector AccLanes 4} (hr : s.ready i { v := v }) (hs : (s.eng i).straight)
    (ho : (s.eng i).vecOut v s.fresh = o) (hf : o.free = false) (hd : o.red = 31)
    (hw : (s.eng i).writes o.writes = { s.eng i with v := w, a := a }) :
    s.perform i { v := v } =
      s.setEng i { s.eng i with v := w, a := a, esr := orFlags (s.eng i).esr o.flags, pc := (s.eng i).pc + 1, skipHit := false } := by
  obtain ⟨he, hrun, -, -, hp, hc, -⟩ := hr
  have kept : setField (s.eng i).esr 27 23 (min 31 (nfield (s.eng i).esr.toNat 27 23)) = (s.eng i).esr :=
    setField_min _ (by decide) (by decide)
  have issued : s.perform i { v := v } =
      (s.setEng i { s.eng i with v := w, a := a, esr := orFlags (s.eng i).esr o.flags }).finish i {} none false := by
    simp [State.perform, Engine.ctlOut, Engine.moveOut, settleStores, State.readIdx, ho, hf, hw, hd, kept, State.writeIdx_nil,
      FlagSet.or_none, set_getElem_zero, State.watches_setEng he hc]
  have straight : ({ s.eng i with v := w, a := a, esr := orFlags (s.eng i).esr o.flags } : Engine).straight :=
    ⟨(orFlags_locked _ _).trans hs.1, hs.2⟩
  rw [issued, State.finish_straight (Table.wf_poke _ _ _ _ he), State.eng_setEng he, State.setEng_setEng he] <;> rw [State.eng_setEng he]
  · exact straight
  · exact hrun
  · exact hp

/-! ### One row -/

@[simp] theorem orFlags_none (x : W32) : orFlags x {} = x := BitVec.or_zero

section
variable {c : Instr} {i : Fin 256} (hc : exec c s = issueVec i v s) (hs : (s.eng i.val).straight)
include hc hs

/-- A command of a vector slot whose effect is one register and flags. -/
theorem issuesTo_vec {o : SlotOut} {w : Vector Lanes 16} {a : Vector AccLanes 4} (ho : ∀ fr, (s.eng i.val).vecOut v fr = o)
    (hf : o.free = false) (hd : o.red = 31) (hw : (s.eng i.val).writes o.writes = { s.eng i.val with v := w, a := a }) :
    s.issuesTo c i.val { v := v } { s.eng i.val with v := w, a := a, esr := orFlags (s.eng i.val).esr o.flags } ((s.eng i.val).pc + 1) :=
  fun hr => by
    have issued := hr.issue (want := fun b => b.v == v) (beq_self_eq_true v) (Engine.trapOf_vec hs.1) rfl Ctl.noConfusion
    exact .intro (hc.trans (congrArg Host.Outcome.next (issued.trans (State.perform_vec hr hs (ho _) hf hd hw)))) rfl

/-- One that writes a register of V. -/
theorem issuesTo_vecWrite {d : Fin 16} {x : Lanes} {f : FlagSet}
    (ho : ∀ fr, (s.eng i.val).vecOut v fr = { writes := [.vec d x], flags := f }) :
    s.issuesTo c i.val { v := v } { s.eng i.val with v := (s.eng i.val).v.set d x, esr := orFlags (s.eng i.val).esr f }
      ((s.eng i.val).pc + 1) :=
  issuesTo_vec (o := { writes := [.vec d x], flags := f }) hc hs ho rfl rfl rfl

/-- One that writes an accumulator. -/
theorem issuesTo_accWrite {d : Fin 4} {x : AccLanes} {f : FlagSet}
    (ho : ∀ fr, (s.eng i.val).vecOut v fr = { writes := [.acc d x], flags := f }) :
    s.issuesTo c i.val { v := v } { s.eng i.val with a := (s.eng i.val).a.set d x, esr := orFlags (s.eng i.val).esr f }
      ((s.eng i.val).pc + 1) :=
  issuesTo_vec (o := { writes := [.acc d x], flags := f }) hc hs ho rfl rfl rfl
end

end Sys2Proof.Machine
end

section
/-!
The rows of the vector slot, one by one (R158–R161, R189, R190; O22).
-/

namespace Sys2Proof.Machine

variable {s : State} {i : Fin 256} {e : Engine} {c : Instr} {op : VecOp} {d a : Fin 4} {x y : Fin 16} {wm : BitVec 8}

/-! ### Values of lanes -/

theorem ofInt_min (x y : W32) : BitVec.ofInt 32 (min x.toInt y.toInt) = if x.toInt ≤ y.toInt then x else y := by
  rw [min_def]
  split <;> exact BitVec.ofInt_toInt

theorem ofInt_max (x y : W32) : BitVec.ofInt 32 (max x.toInt y.toInt) = if x.toInt ≥ y.toInt then x else y := by
  rw [max_comm, max_def]
  split <;> exact BitVec.ofInt_toInt

theorem signedOf_setWidth : ∀ n : BitVec 6, signedOf 6 (n.setWidth 18).toNat = n.toInt := by decide

/-- VSHQ by a six-bit number: to the left with saturation, to the right with rounding, −32 acting as −31. -/
theorem qShift_setWidth (x : W32) (n : BitVec 6) : qShift x (n.setWidth 18).toNat =
    if 0 ≤ n.toInt then satQ (x.toInt * 2 ^ n.toInt.toNat) else BitVec.ofInt 32 (rhe x.toInt (min 31 (-n.toInt).toNat)) := by
  rw [qShift, signedOf_setWidth]
  by_cases h : 0 ≤ n.toInt
  · have left : max n.toInt (-31) = n.toInt := by omega
    simp only [left, h, if_true]
  · have right : (-(max n.toInt (-31))).toNat = min 31 (-n.toInt).toNat := by omega
    have neg : ¬ max n.toInt (-31) ≥ 0 := by omega
    simp only [right, neg, h, if_false]

theorem getElem_ofNat (x : Lanes) (k : Nat) : x[(Fin.ofNat 8 k : Fin 8)] = x[k % 8]! :=
  (getElem!_pos x (k % 8) (Nat.mod_lt _ (by decide))).symm

theorem ofNat_castLE (d : Fin 4) (h : 4 ≤ 16) : Fin.ofNat 4 (d.castLE h).val = d := Fin.ext (Nat.mod_eq_of_lt d.isLt)

/-- A move out of an accumulator: saturated, and flagged where the rounded value lies outside. -/
theorem moveOut_eq (acc : BitVec 72) (sc : BitVec 5) : let r := rhe acc.toInt (31 - max sc.toInt (-15)).toNat
    moveOut acc sc = (satQ r, { sat := decide (r < -(2 ^ 31) ∨ 2 ^ 31 - 1 < r) }) := by
  intro r
  have outside : max (min r (2 ^ 31 - 1)) (-(2 ^ 31)) ≠ r ↔ r < -(2 ^ 31) ∨ 2 ^ 31 - 1 < r := by omega
  exact Prod.ext rfl (congrArg (fun b => ({ sat := b } : FlagSet)) (decide_eq_decide.2 outside))

/-! ### Reductions -/

theorem ofFn_replicate {α : Type} {n : Nat} (c : α) : Vector.ofFn (fun _ : Fin n => c) = Vector.replicate n c := by
  ext k hk
  rw [Vector.getElem_ofFn, Vector.getElem_replicate]

theorem foldl_selected (p : Fin 8 → Bool) (f : Fin 8 → Int) (l : List (Fin 8)) (z : Int) :
    l.foldl (fun t k => if p k then t + f k else t) z = z + (l.map (fun k => if p k then f k else 0)).sum := by
  induction l generalizing z with
  | nil => exact (Int.add_zero z).symm
  | cons k l ih =>
    rw [List.foldl_cons, ih, List.map_cons, List.sum_cons]
    split <;> omega

theorem FlagSet.none_or (f : FlagSet) : FlagSet.or {} f = f := by
  simp [FlagSet.or]

/-- The flags of a tree of sums are those of its sums, in any order. -/
theorem FlagSet.or_tree (p q r t u v : FlagSet) :
    ((p.or q).or u).or ((r.or t).or v) = ((((p.or q).or r).or t).or u).or v := by
  simp only [FlagSet.or, FlagSet.mk.injEq]
  and_intros <;> ac_rfl

/-! ### Rows -/

/-- A row whose written lanes of a register of V hold `g`. -/
theorem issuesTo_lanes {v : Vec} (hc : exec c s = issueVec i v s) (hs : (s.eng i.val).straight) {f g : Fin 8 → W32 × FlagSet}
    (ho : let e := s.eng i.val
      ∀ fr, e.vecOut v fr =
        { writes := [.vec v.d (lanesOf (fun l => if v.on l then (f l).1 else (e.v[v.d])[l]))], flags := v.flagsOf (fun l => (f l).2) })
    (hg : ∀ l, f l = g l) :
    let e := s.eng i.val
    s.issuesTo c i.val { v := v }
      { e with
        v := e.v.set v.d (Vector.ofFn (fun l => if v.on l then (g l).1 else (e.v[v.d])[l]))
        esr := orFlags e.esr (v.flagsOf (fun l => (g l).2)) } (e.pc + 1) := by
  obtain rfl : f = g := funext hg
  exact issuesTo_vecWrite hc hs ho

/-- The accumulator rows write the lanes of one accumulator. -/
theorem Engine.vecOut_accLanes (hop : op ∈ [.mpyq, .macq, .msuq, .aldq, .aadd, .aclr]) (fr : W64) :
    let v : Vec := { op := op, d := d.castLE (by decide), a := x, b := y, wm := wm }
    let r (l : Fin 8) := v.accLane (e.a[d])[l] (e.a[(Fin.ofNat 4 x.val : Fin 4)])[l] (e.v[x])[l] (e.v[y])[l]
    e.vecOut v fr =
      { writes := [.acc d (accLanesOf (fun l => if v.on l then (r l).1 else (e.a[d])[l]))], flags := v.flagsOf (fun l => (r l).2) } := by
  simp only [List.mem_cons, List.not_mem_nil, or_false] at hop
  obtain rfl | rfl | rfl | rfl | rfl | rfl := hop <;> simp only [Engine.vecOut, ofNat_castLE]

/-- A move out in which no block is open measures nothing. -/
theorem Engine.vecOut_amov (hb : nbit e.esr.toNat 31 = false) (fr : W64) :
    let v : Vec := { op := .amov, d := x, a := a.castLE (by decide), wm := wm }
    let m (l : Fin 8) := Machine.moveOut (e.a[a])[l] e.sc
    e.vecOut v fr = { writes := [.vec x (lanesOf (fun l => if v.on l then (m l).1 else (e.v[x])[l]))], flags := v.flagsOf (fun l => (m l).2) } := by
  simp only [Engine.vecOut, ofNat_castLE, hb, Bool.false_eq_true, if_false]

/-- The lanes that the mask selects, summed. -/
theorem Engine.vecOut_aredq (fr : W64) :
    let v : Vec := { op := .aredq, d := d.castLE (by decide), a := a.castLE (by decide), wm := wm }
    let r := accWrap ((List.finRange 8).map (fun l => if v.on l then ((e.a[a])[l]).toInt else 0)).sum
    e.vecOut v fr = { writes := [.acc d (Vector.replicate 8 r.1)], flags := r.2 } := by
  simp only [Engine.vecOut, ofNat_castLE, foldl_selected, Int.zero_add, accLanesOf, ofFn_replicate]

theorem addTo_eq (p q : W32 × FlagSet) : addTo p q = ((fAdd p.1 q.1).1, (p.2.or q.2).or (fAdd p.1 q.1).2) := rfl

/-- The sum of eight binary32 numbers as VREDF takes it: a tree of seven sums, with the flags of them all. -/
def treeSum (z : Fin 8 → W32) : W32 × FlagSet :=
  addTo (addTo (addTo (plain (z 0)) (plain (z 1))) (addTo (plain (z 2)) (plain (z 3))))
    (addTo (addTo (plain (z 4)) (plain (z 5))) (addTo (plain (z 6)) (plain (z 7))))

theorem treeSum_eq {z : Fin 8 → W32} {r01 r23 r45 r67 lo hi r : W32 × FlagSet} (h01 : fAdd (z 0) (z 1) = r01) (h23 : fAdd (z 2) (z 3) = r23)
    (h45 : fAdd (z 4) (z 5) = r45) (h67 : fAdd (z 6) (z 7) = r67) (hlo : fAdd r01.1 r23.1 = lo) (hhi : fAdd r45.1 r67.1 = hi)
    (hr : fAdd lo.1 hi.1 = r) : treeSum z = (r.1, [r01, r23, r45, r67, lo, hi, r].foldl (fun f p => f.or p.2) {}) := by
  simp only [treeSum, addTo_eq, plain, h01, h23, h45, h67, hlo, hhi, hr, FlagSet.or_none, FlagSet.none_or, FlagSet.or_tree,
    List.foldl_cons, List.foldl_nil]

/-- The lanes summed in a tree, −0 standing for those that the mask leaves out. -/
theorem Engine.vecOut_vredf {z : Fin 8 → W32} {r : W32 × FlagSet}
    (hz : z = fun k => if ({ op := .vredf, d := x, a := y, wm := wm } : Vec).on k then (e.v[y])[k] else 0x80000000) (hr : treeSum z = r)
    (fr : W64) : e.vecOut { op := .vredf, d := x, a := y, wm := wm } fr = { writes := [.vec x (Vector.replicate 8 r.1)], flags := r.2 } := by
  subst hz hr
  rw [← ofFn_replicate (treeSum _).1]
  rfl

/-- A row whose lanes of an accumulator are `f` modulo 2^72. -/
theorem issuesTo_accLanes (hop : op ∈ [.mpyq, .macq, .msuq, .aldq, .aadd, .aclr])
    (hc : exec c s = issueVec i { op := op, d := d.castLE (by decide), a := x, b := y, wm := wm } s) (hs : (s.eng i.val).straight)
    {f : Fin 8 → Int} (hf : let e := s.eng i.val
      ∀ l : Fin 8, ({ op := op, d := d.castLE (by decide), a := x, b := y, wm := wm } : Vec).accLane (e.a[d])[l]
        (e.a[(Fin.ofNat 4 x.val : Fin 4)])[l] (e.v[x])[l] (e.v[y])[l] = accWrap (f l)) :
    let e := s.eng i.val
    let v : Vec := { op := op, d := d.castLE (by decide), a := x, b := y, wm := wm }
    s.issuesTo c i.val { v := v }
      { e with
        a := e.a.set d (Vector.ofFn (fun l => if v.on l then BitVec.ofInt 72 (f l) else (e.a[d])[l]))
        esr := orFlags e.esr (v.flagsOf (fun l => { aov := decide (f l < -(2 ^ 71) ∨ 2 ^ 71 - 1 < f l) })) } (e.pc + 1) :=
  issuesTo_accWrite hc hs fun fr => (Engine.vecOut_accLanes hop fr).trans (by simp only [hf]; rfl)

/-- The sum of two accumulators. -/
theorem issuesTo_aadd (hs : (s.eng i.val).straight) :
    let e := s.eng i.val
    let v : Vec := { op := .aadd, d := d.castLE (by decide), a := a.castLE (by decide), wm := wm }
    let sum (l : Fin 8) : Int := ((e.a[d])[l]).toInt + ((e.a[a])[l]).toInt
    s.issuesTo (.aadd i d a wm) i.val { v := v }
      { e with
        a := e.a.set d (Vector.ofFn (fun l => if v.on l then BitVec.ofInt 72 (sum l) else (e.a[d])[l]))
        esr := orFlags e.esr (v.flagsOf (fun l => { aov := decide (sum l < -(2 ^ 71) ∨ 2 ^ 71 - 1 < sum l) })) } (e.pc + 1) :=
  issuesTo_accLanes (by decide) rfl hs fun l => by simp only [ofNat_castLE]; rfl

/-- The empty slot changes nothing. -/
theorem issuesTo_vnop (hs : (s.eng i.val).straight) : s.issuesTo (.vnop i) i.val {} (s.eng i.val) ((s.eng i.val).pc + 1) := by
  have issued := issuesTo_vec (c := .vnop i) (v := {}) (o := {}) (w := (s.eng i.val).v) (a := (s.eng i.val).a) rfl hs (fun _ => rfl) rfl rfl rfl
  rwa [orFlags_none] at issued

/-- Settles O22, row by row. -/
theorem vectorSlots : Obligations.VectorSlots := by
  unfold Obligations.VectorSlots
  intro s i wm e next on sat flags vreg lanes float accs up hs
  refine ⟨issuesTo_vnop hs, fun d a b c => ⟨?_, ?_, ?_, ?_, ?_, ?minq, ?maxq, ?_, ?_, ?_, ?_, ?_, ?_, ?_, ?_, ?_, ?_, ?_, ?_, ?_, ?_, ?_⟩,
    fun d a imm => ?_, fun d a n => ?shift, fun d a n => ⟨?broadcast, ?rotate⟩, fun d imm => ?index,
    fun d a b => ⟨?multiply, ?accumulate, ?subtract, ?load, ?clear⟩, fun d a => ⟨issuesTo_aadd hs, ?reduce⟩, fun d a hb => ?moveOut,
    fun d a => ?tree⟩
  case minq => exact issuesTo_lanes rfl hs (fun _ => rfl) fun _ => congrArg plain (ofInt_min _ _).symm
  case maxq => exact issuesTo_lanes rfl hs (fun _ => rfl) fun _ => congrArg plain (ofInt_max _ _).symm
  case shift => exact issuesTo_lanes rfl hs (fun _ => rfl) fun _ => congrArg plain (qShift_setWidth _ _)
  case broadcast =>
    refine issuesTo_lanes rfl hs (fun _ => rfl) fun _ => congrArg plain ?_
    rw [getElem_ofNat, BitVec.toNat_setWidth_of_le (by decide), Nat.mod_eq_of_lt n.isLt]
  case rotate =>
    refine issuesTo_lanes rfl hs (fun _ => rfl) fun _ => congrArg plain ?_
    rw [getElem_ofNat, BitVec.toNat_setWidth_of_le (by decide)]
  case index =>
    refine issuesTo_lanes rfl hs (fun _ => rfl) fun _ => congrArg plain ?_
    rw [BitVec.toNat_setWidth_of_le (by decide), Nat.mod_eq_of_lt imm.isLt]
  case multiply => exact issuesTo_accLanes (by decide) rfl hs fun _ => rfl
  case accumulate => exact issuesTo_accLanes (by decide) rfl hs fun _ => rfl
  case subtract => exact issuesTo_accLanes (by decide) rfl hs fun _ => rfl
  case load => exact issuesTo_accLanes (by decide) rfl hs fun _ => rfl
  case clear => exact issuesTo_accLanes (by decide) rfl hs fun _ => rfl
  case reduce => exact issuesTo_accWrite rfl hs Engine.vecOut_aredq
  case moveOut => exact issuesTo_lanes rfl hs (Engine.vecOut_amov hb) fun _ => moveOut_eq _ _
  case tree => exact issuesTo_vecWrite rfl hs (Engine.vecOut_vredf rfl (treeSum_eq rfl rfl rfl rfl rfl rfl rfl))
  -- the other rows of V: the model gives a lane what R190 does
  all_goals exact issuesTo_vecWrite rfl hs fun _ => rfl

end Sys2Proof.Machine
end

section
/-!
What a store and the end of a locked sequence leave (O19, O21): a memory whose table of bytes does not stand in canonical form.
-/

namespace Sys2Proof.Machine

/-- `bytesTwice` with engine `e` in island 5, whose bundle 0 is of the high word `hi`. -/
def fetchingTwice (hi : W64) (e : Engine) : State :=
  (bytesTwice.setEng 5 { e with state := 2 }).onMem fun m => { m with
    data := m.data ++ (toBytes 8 hi.toNat).zipIdx.map (fun b => (8 * (progWord 5 0 + 1) + b.2, b.1))
    check := [(progWord 5 0 + 1, checkBits hi)] }

/-- The engine of island 5 stores S0 at word 0 of X. -/
def storingTwice : State := fetchingTwice 0x40000000 {}

/-- The engine of island 5 leaves a locked sequence that has buffered a 0 for the words 0 and 1 of X. -/
def unlockingTwice : State :=
  fetchingTwice 0xB400000000000000 { esr := 0x00400000, lockBundles := 1, lockBuf := [⟨false, 0, 0⟩, ⟨false, 1, 0⟩] }

theorem storingTwice_ready : storingTwice.ready 5 { x := .op .sts 0 0 (.reg 0) } := by
  unfold State.ready State.quiet; and_intros <;> decide +kernel

theorem unlockingTwice_ready : unlockingTwice.ready 5 { c := .unlk } := by
  unfold State.ready State.quiet; and_intros <;> decide +kernel

/-- The 0 that is stored takes the first entry of each byte off the table, and the word reads as what stood behind them. -/
theorem storingTwice_word :
    halfOf ((landed storingTwice (exec (.sts 5 false 0 0 (.reg 0)) storingTwice)).loadWord (xyWord 5 false 0)).1 0 = 0x413 := by
  decide +kernel

theorem unlockingTwice_word :
    (landed unlockingTwice (exec (.unlk 5) unlockingTwice)).rawWord (xyWord 5 false 0) = 0x413 := by
  decide +kernel

/-- Refutes O19: nothing in the statement puts the memories in canonical form, and the words that UNLK commits then need not read back. -/
theorem not_trapsAndLocks : ¬ Obligations.TrapsAndLocks := by
  unfold Obligations.TrapsAndLocks
  intro h
  obtain ⟨-, -, -, inside, -⟩ := h unlockingTwice 5
  obtain ⟨-, -, commits, -⟩ := inside (by decide +kernel) (by decide +kernel) (by decide +kernel)
  obtain ⟨word, -⟩ := (commits 0 0 0 (by decide) (by decide +kernel) (by decide +kernel) unlockingTwice_ready).landed
  exact absurd (unlockingTwice_word.symm.trans word) (by decide)

/-- Refutes O21: nothing in the statement puts the memories in canonical form, and a scalar that STS stores then need not read back. -/
theorem not_moveSlots : ¬ Obligations.MoveSlots := by
  unfold Obligations.MoveSlots
  intro h
  obtain ⟨-, -, -, -, sts, -⟩ := h storingTwice 5 false 0 (by unfold Engine.straight; decide +kernel) (by decide +kernel)
  obtain ⟨-, -, back⟩ := (sts 0 (.reg 0) storingTwice_ready).landed
  have word := back (by decide +kernel) _ rfl (by unfold State.quiet; decide +kernel)
  exact absurd (storingTwice_word.symm.trans word) (by decide +kernel)

end Sys2Proof.Machine
end

section
/-!
SUPPORT. The issue of a bundle that holds a control slot alone (R177, R183, R195): the traps it can raise, what it writes, and how it ends,
inside locked sequences and loops too.
-/

namespace Sys2Proof.Machine

-- One proof at a time, as in the tests: side by side with those before they exceed the memory that the check allows.
set_option Elab.async false

variable {s : State} {i : Nat} {e x y : Engine} {ctl : Ctl} {o : CtlOut} {w : List RegWrite} {r : Option W32} {g : Option (BitVec 11)}
  {n t k : Bool}

/-! ### Traps -/

/-- A bundle with a control slot alone writes no register twice. -/
theorem Engine.trapOf_ctl (ho : e.ctlOut ctl = o) : e.trapOf { c := ctl } =
    if o.illegal then 2 else if o.loopOvf then 4 else if e.locked && decide (e.lockBundles ≥ 64) then 5 else 0 := by
  simp [Engine.trapOf, ho, Engine.moveOut, MoveOut.claims, Engine.vecOut, clash, Engine.needsBuffer]

theorem Engine.trapOf_ctl_zero (ho : e.ctlOut ctl = o) (hi : o.illegal = false) (hv : o.loopOvf = false)
    (hl : e.locked = false ∨ e.lockBundles < 64) : e.trapOf { c := ctl } = 0 := by
  have counted : (e.locked && decide (e.lockBundles ≥ 64)) = false := by
    obtain hl | hl := hl
    · rw [hl, Bool.false_and]
    · rw [decide_eq_false (by omega), Bool.and_false]
  rw [Engine.trapOf_ctl ho, hi, hv, counted]
  rfl

/-- A ready bundle that the command names and that traps does nothing else. -/
theorem State.ready.trap {b : Bundle} {want : Bundle → Bool} (h : s.ready i b) (hw : want b = true) (ht : (s.eng i).trapOf b ≠ 0) :
    s.issue i want = s.trap i ((s.eng i).trapOf b) := by
  have fetched := h.fetch
  obtain ⟨-, hs, hk, hd, -, hc, -, -, page, -, decoded⟩ := h
  have trapped : s.issueBundle i b = s.trap i ((s.eng i).trapOf b) := by
    simp [State.issueBundle, ht, State.ibrkHits_of_off hc, State.serveAll]
  simp [State.issue, State.issues, hs, hk, page, fetched, decoded, hw, hd, trapped]

/-- The engine at a trap: a locked sequence breaks (R170). -/
def Engine.cut (e : Engine) : Engine := if e.locked then e.broken else e

/-- The bundle that a trap at PC retries: in a locked sequence its LOCK (R170). -/
def Engine.retry (e : Engine) : BitVec 11 := if e.locked then e.lockPc else e.pc

theorem Engine.cut_eq (hr : e.state = 2) :
    (if e.locked then { e.broken with state := if e.state = 4 then 1 else e.state } else e) = e.cut := by
  rw [Engine.cut, hr]
  split
  · exact congrArg (fun m => { e.broken with state := m }) hr.symm
  · rfl

theorem Engine.cut_haltPend : e.cut.haltPend = e.haltPend := by
  unfold Engine.cut
  split <;> rfl

section
variable {cause : Nat} (h : Table.wf (fun _ => ({} : Engine)) s.engines = true) (hr : (s.eng i).state = 2) (hp : (s.eng i).haltPend = 0)
include h hr hp

/-- A RUNNING engine without a deferred halt takes a trap with its handler. -/
theorem State.trap_taken (ht : (s.eng i).trapEn = true) (hi : (s.eng i).inTrap = false) :
    s.trap i cause = s.setEng i { (s.eng i).cut with
      tpc := (s.eng i).retry, trapCause := BitVec.ofNat 8 cause, inTrap := true, pc := (s.eng i).vec, skipHit := false } := by
  unfold State.trap State.trapAt
  simp only [Engine.cut_eq hr, ht, hi, hp, Bool.not_false, Bool.and_self, if_true, bne_self_eq_false, Bool.false_and, Bool.false_eq_true,
    if_false, State.modEng, State.eng_setEng h, State.setEng_setEng h]
  rw [← hp, ← Engine.cut_haltPend]
  rfl
end

/-- With traps off, or a handler running, the engine stops with FAULT instead (R166). -/
theorem State.trap_faults {cause : Nat} (hr : (s.eng i).state = 2) (hp : (s.eng i).haltPend = 0)
    (ht : (s.eng i).trapEn = false ∨ (s.eng i).inTrap = true) :
    s.trap i cause = (s.setEng i { (s.eng i).cut with
      pc := (s.eng i).retry, state := 1, fault := true, cause := BitVec.ofNat 8 cause }).toCairn 0x13 (srcIsland i) sevMajor
        (s.eng i).retry.toNat := by
  have off : ((s.eng i).trapEn && !(s.eng i).inTrap) = false := by
    obtain ht | ht := ht <;> simp [ht]
  unfold State.trap State.trapAt
  simp only [Engine.cut_eq hr, off, Bool.false_eq_true, if_false]
  rw [← hp, ← Engine.cut_haltPend]
  rfl

/-! ### Registers -/

/-- A control register is one of a file of its kind, or one that stands alone; a write of it changes that alone (R184, R185). -/
theorem Engine.setCtl_cases {P : Engine → Prop} {c : Fin 57} {v : Nat}
    (xa : c.val < 8 → P { e with xa := e.xa.set! c.val (BitVec.ofNat 14 v) })
    (ya : 8 ≤ c.val → c.val < 16 → P { e with ya := e.ya.set! (c.val - 8) (BitVec.ofNat 14 v) })
    (xm : 16 ≤ c.val → c.val < 20 → P { e with xm := e.xm.set! (c.val - 16) (BitVec.ofNat 16 v) })
    (ym : 20 ≤ c.val → c.val < 24 → P { e with ym := e.ym.set! (c.val - 20) (BitVec.ofNat 16 v) })
    (xb : 24 ≤ c.val → c.val < 28 → P { e with xb := e.xb.set! (c.val - 24) (BitVec.ofNat 14 v) })
    (yb : 28 ≤ c.val → c.val < 32 → P { e with yb := e.yb.set! (c.val - 28) (BitVec.ofNat 14 v) })
    (xl : 32 ≤ c.val → c.val < 36 → P { e with xl := e.xl.set! (c.val - 32) (BitVec.ofNat 14 v) })
    (yl : 36 ≤ c.val → c.val < 40 → P { e with yl := e.yl.set! (c.val - 36) (BitVec.ofNat 14 v) })
    (amode : c.val = 40 → P { e with amode := BitVec.ofNat 32 v })
    (sc : c.val = 41 → P { e with sc := BitVec.ofNat 5 v })
    (bexp : c.val = 42 → P { e with bexp := BitVec.ofNat 16 v })
    (esr : c.val = 43 → P { e with esr := esrWrite e.esr v })
    (lc : 44 ≤ c.val → c.val < 48 → P { e with lc := e.lc.set! (c.val - 44) (BitVec.ofNat 16 v) })
    (ls : 48 ≤ c.val → c.val < 52 → P { e with ls := e.ls.set! (c.val - 48) (BitVec.ofNat 11 v) })
    (le : 52 ≤ c.val → c.val < 56 → P { e with le := e.le.set! (c.val - 52) (BitVec.ofNat 11 v) })
    (ldepth : c.val = 56 → P { e with ldepth := BitVec.ofNat 3 v }) : P (e.setCtl c v) := by
  refine iteInduction xa fun h => iteInduction (ya (not_lt.1 h)) fun h => iteInduction (xm (not_lt.1 h)) fun h =>
    iteInduction (ym (not_lt.1 h)) fun h => iteInduction (xb (not_lt.1 h)) fun h => iteInduction (yb (not_lt.1 h)) fun h =>
    iteInduction (xl (not_lt.1 h)) fun h => iteInduction (yl (not_lt.1 h)) fun h => iteInduction amode fun h40 => iteInduction sc fun h41 =>
    iteInduction bexp fun h42 => iteInduction esr fun h43 => iteInduction (lc (by omega)) fun h => iteInduction (ls (not_lt.1 h)) fun h =>
    iteInduction (le (not_lt.1 h)) fun h => ldepth (by omega)

/-- `x` differs from `e` in nothing that the end of a bundle asks for but its loops and its lock. -/
def Engine.RunsAs (e x : Engine) : Prop := x.pc = e.pc ∧ x.state = e.state ∧ x.haltPend = e.haltPend ∧ x.comp = e.comp

theorem Engine.RunsAs.trans {y : Engine} (h : e.RunsAs x) (g : x.RunsAs y) : e.RunsAs y :=
  ⟨g.1.trans h.1, g.2.1.trans h.2.1, g.2.2.1.trans h.2.2.1, g.2.2.2.trans h.2.2.2⟩

theorem Engine.RunsAs.setCtl (c : Fin 57) (v : Nat) : e.RunsAs (e.setCtl c v) := by
  apply Engine.setCtl_cases <;> intros <;> exact ⟨rfl, rfl, rfl, rfl⟩

theorem Engine.RunsAs.write (m : RegWrite) : e.RunsAs (e.write m) := by
  cases m with
  | ctl c v => exact .setCtl c v
  | _ => exact ⟨rfl, rfl, rfl, rfl⟩

theorem Engine.RunsAs.writes (w : List RegWrite) : e.RunsAs (e.writes w) := by
  induction w generalizing e with
  | nil => exact ⟨rfl, rfl, rfl, rfl⟩
  | cons m w ih => exact (Engine.RunsAs.write m).trans ih

/-- The registers after a control slot that writes `w`, gives ESR `r` and kicks the watchdog if `k`. -/
def Engine.slotted (e : Engine) (w : List RegWrite) (r : Option W32) (k : Bool) : Engine :=
  let x := { e.writes w with esr := r.getD (e.writes w).esr }
  if k then x.kick else x

theorem Engine.RunsAs.slotted : e.RunsAs (e.slotted w r k) := by
  obtain ⟨hpc, hstate, hpend, hcomp⟩ := Engine.RunsAs.writes (e := e) w
  unfold Engine.slotted
  dsimp only
  split
  · exact ⟨hpc, hstate, hpend, hcomp⟩
  · exact ⟨hpc, hstate, hpend, hcomp⟩

/-! ### The end of the bundle -/

/-- Where a bundle goes on: the engine after end-of-loop processing, and PC. -/
def Engine.leave (e : Engine) (g : Option (BitVec 11)) (n : Bool) : Engine × BitVec 11 :=
  match g with
  | some pc => (e, pc)
  | none => if n then (e, e.pc + 1) else e.endLoop e.pc 5

/-- Inside a locked sequence every bundle counts (R170). -/
def Engine.counted (e : Engine) : Engine := if e.locked then { e with lockBundles := e.lockBundles + 1 } else e

theorem Engine.counted_eq : e.counted = { e with lockBundles := if e.locked then e.lockBundles + 1 else e.lockBundles } := by
  unfold Engine.counted
  split <;> rfl

theorem Engine.counted_unlocked (h : e.locked = false) : e.counted = e := if_neg (by rw [h]; decide)

/-- The engine after the end of a bundle that neither opens nor closes a locked sequence; `t` says whether it leaves a handler. -/
def Engine.ended (e : Engine) (g : Option (BitVec 11)) (n t : Bool) : Engine :=
  let x : Engine := { (e.leave g n).1 with pc := (e.leave g n).2, skipHit := false }
  Engine.counted (if t then { x with inTrap := false } else x)

theorem Engine.RunsAs.endLoop (pc : BitVec 11) (m : Nat) : e.RunsAs (e.endLoop pc m).1 := by
  induction m generalizing e with
  | zero => exact ⟨rfl, rfl, rfl, rfl⟩
  | succ m ih =>
    unfold Engine.endLoop
    dsimp only
    split_ifs
    · exact ⟨rfl, rfl, rfl, rfl⟩
    · exact ⟨rfl, rfl, rfl, rfl⟩
    · exact Engine.RunsAs.trans ⟨rfl, rfl, rfl, rfl⟩ ih
    · exact ⟨rfl, rfl, rfl, rfl⟩

/-- Where no loop ends, the bundle goes on to the next. -/
theorem Engine.endLoop_none {pc : BitVec 11} (h : e.depth = 0 ∨ e.le[e.depth - 1]! ≠ pc) (m : Nat) : e.endLoop pc (m + 1) = (e, pc + 1) := by
  rw [Engine.endLoop]
  split
  · rfl
  · next hd => exact if_pos (bne_iff_ne.2 (h.resolve_left hd))

theorem Engine.RunsAs.leave : e.RunsAs (e.leave g n).1 := by
  unfold Engine.leave
  split
  · exact ⟨rfl, rfl, rfl, rfl⟩
  · split
    · exact ⟨rfl, rfl, rfl, rfl⟩
    · exact .endLoop _ _

/-- Nothing is left to do at the end of a bundle for a RUNNING engine without a deferred halt. -/
theorem Engine.RunsAs.ended (hr : e.state = 2) (hp : e.haltPend = 0) : (e.ended g n t).state = 2 ∧ (e.ended g n t).haltPend = 0 := by
  obtain ⟨-, state, pend, -⟩ := Engine.RunsAs.leave (e := e) (g := g) (n := n)
  unfold Engine.ended
  rw [Engine.counted_eq]
  cases t
  · exact ⟨state.trans hr, pend.trans hp⟩
  · exact ⟨state.trans hr, pend.trans hp⟩

/-- A control slot that neither opens nor closes a locked sequence ends a RUNNING engine's bundle. -/
theorem State.finish_ctl (h : Table.wf (fun _ => ({} : Engine)) s.engines = true) (hr : (s.eng i).state = 2) (hp : (s.eng i).haltPend = 0) :
    s.finish i { writes := w, esr := r, go := g, noEnd := n, rti := t, kick := k } none false = s.setEng i ((s.eng i).ended g n t) := by
  obtain ⟨run, still⟩ := Engine.RunsAs.ended (g := g) (n := n) (t := t) hr hp
  generalize hz : (s.eng i).ended g n t = z at run still
  have ended : s.finish i { writes := w, esr := r, go := g, noEnd := n, rti := t, kick := k } none false =
      let u := s.setEng i z
      if (u.eng i).state == 2 || (u.eng i).state == 4 then
        if (u.eng i).locked then u
        else if (u.eng i).haltPend != 0 then u.haltNow i (u.eng i).haltPend (u.eng i).hit (u.eng i).pc
        else if (u.eng i).state = 4 then u.setEng i { u.eng i with state := 1 } else u
      else u := by
    rw [← hz]
    cases g <;> rfl
  rw [ended]
  simp [State.eng_setEng h, run, still]

/-- What a control slot alone does to the engine, where it traps not, waits for nothing and pushes and takes no word. -/
theorem State.perform_ctl (h : s.ready i { c := ctl })
    (ho : (s.eng i).ctlOut ctl = { writes := w, esr := r, go := g, noEnd := n, rti := t, kick := k }) :
    s.perform i { c := ctl } = s.setEng i (((s.eng i).slotted w r k).ended g n t) := by
  obtain ⟨he, hrun, -, -, hp, hc, -⟩ := h
  obtain ⟨-, state, pend, -⟩ := Engine.RunsAs.slotted (e := s.eng i) (w := w) (r := r) (k := k)
  have performed : s.perform i { c := ctl } = (s.setEng i ((s.eng i).slotted w r k)).finish i
      { writes := w, esr := r, go := g, noEnd := n, rti := t, kick := k } none false := by
    have kept (x : W32) : setField x 27 23 (min 31 (nfield x.toNat 27 23)) = x := setField_min x (by decide) (by decide)
    obtain ⟨-, -, -, comp⟩ := Engine.RunsAs.writes (e := s.eng i) w
    cases r <;> cases k <;>
      simp [State.perform, ho, Engine.moveOut, settleStores, State.readIdx, Engine.vecOut, State.writeIdx_nil, kept, set_getElem_zero,
        FlagSet.or_none, State.watches_setEng he hc, comp, Engine.slotted, Engine.kick]
  rw [performed, State.finish_ctl (Table.wf_poke _ _ _ _ he) (by rw [State.eng_setEng he]; exact state.trans hrun)
    (by rw [State.eng_setEng he]; exact pend.trans hp), State.eng_setEng he, State.setEng_setEng he]

section
variable {c : Instr} {i : Fin 256} {w : List RegWrite} {r : Option W32} {g : Option (BitVec 11)} {n t k : Bool}
  (hc : exec c s = issueCtl i ctl s)
include hc

/-- The command of such a slot. -/
theorem issuesTo_ctl (ho : (s.eng i.val).ctlOut ctl = { writes := w, esr := r, go := g, noEnd := n, rti := t, kick := k })
    (hl : (s.eng i.val).locked = false ∨ (s.eng i.val).lockBundles < 64) (hx : (s.eng i.val).slotted w r k = x) {pc : BitVec 11}
    (hy : (x.ended g n t) = { y with pc := pc, skipHit := false }) : s.issuesTo c i.val { c := ctl } y pc := fun h => by
  have goes : ((s.eng i.val).ctlOut ctl).wait = false := by rw [ho]
  have on : ctl ≠ .brk := by
    rintro rfl
    exact Bool.noConfusion (congrArg CtlOut.brk ho : true = false)
  have issued := h.issue (want := fun b => b.c == ctl) (beq_self_eq_true ctl) (Engine.trapOf_ctl_zero ho rfl rfl hl) goes on
  have performed := State.perform_ctl h ho
  rw [hx, hy] at performed
  exact .intro (hc.trans (congrArg Host.Outcome.next (issued.trans performed))) rfl
end

end Sys2Proof.Machine
end

section
/-!
SUPPORT. Control registers read back (R184, R185), and the rows of the control slot outside locked sequences and loop ends (R183; O17).
-/

namespace Sys2Proof.Machine

-- One proof at a time, as in the tests: side by side with those before they exceed the memory that the check allows.
set_option Elab.async false

variable {s : State} {e x : Engine} {ctl : Ctl} {w : List RegWrite} {r : Option W32} {k : Bool}

/-! ### Control registers -/

theorem set!_get!_other {α : Type} [Inhabited α] {n : Nat} (x : Vector α n) {i j : Nat} (a : α) (h : i ≠ j) : (x.set! i a)[j]! = x[j]! := by
  simp [getElem!_def, h]

/-- What MOVFC reads of a control register depends on its own entry alone. -/
theorem Engine.getCtl_congr {c : Fin 57}
    (xa : c.val < 8 → x.xa[c.val]! = e.xa[c.val]! := by intros; rfl)
    (ya : 8 ≤ c.val → c.val < 16 → x.ya[c.val - 8]! = e.ya[c.val - 8]! := by intros; rfl)
    (xm : 16 ≤ c.val → c.val < 20 → x.xm[c.val - 16]! = e.xm[c.val - 16]! := by intros; rfl)
    (ym : 20 ≤ c.val → c.val < 24 → x.ym[c.val - 20]! = e.ym[c.val - 20]! := by intros; rfl)
    (xb : 24 ≤ c.val → c.val < 28 → x.xb[c.val - 24]! = e.xb[c.val - 24]! := by intros; rfl)
    (yb : 28 ≤ c.val → c.val < 32 → x.yb[c.val - 28]! = e.yb[c.val - 28]! := by intros; rfl)
    (xl : 32 ≤ c.val → c.val < 36 → x.xl[c.val - 32]! = e.xl[c.val - 32]! := by intros; rfl)
    (yl : 36 ≤ c.val → c.val < 40 → x.yl[c.val - 36]! = e.yl[c.val - 36]! := by intros; rfl)
    (amode : c.val = 40 → x.amode = e.amode := by intros; rfl)
    (sc : c.val = 41 → x.sc = e.sc := by intros; rfl)
    (bexp : c.val = 42 → x.bexp = e.bexp := by intros; rfl)
    (esr : c.val = 43 → x.esr = e.esr := by intros; rfl)
    (lc : 44 ≤ c.val → c.val < 48 → x.lc[c.val - 44]! = e.lc[c.val - 44]! := by intros; rfl)
    (ls : 48 ≤ c.val → c.val < 52 → x.ls[c.val - 48]! = e.ls[c.val - 48]! := by intros; rfl)
    (le : 52 ≤ c.val → c.val < 56 → x.le[c.val - 52]! = e.le[c.val - 52]! := by intros; rfl)
    (ldepth : c.val = 56 → x.ldepth = e.ldepth := by intros; rfl) : x.getCtl c = e.getCtl c := by
  refine ite_congr rfl (fun g => congrArg _ (xa g)) fun h => ite_congr rfl (fun g => congrArg _ (ya (not_lt.1 h) g)) fun h =>
    ite_congr rfl (fun g => congrArg _ (xm (not_lt.1 h) g)) fun h => ite_congr rfl (fun g => congrArg _ (ym (not_lt.1 h) g)) fun h =>
    ite_congr rfl (fun g => congrArg _ (xb (not_lt.1 h) g)) fun h => ite_congr rfl (fun g => congrArg _ (yb (not_lt.1 h) g)) fun h =>
    ite_congr rfl (fun g => congrArg _ (xl (not_lt.1 h) g)) fun h => ite_congr rfl (fun g => congrArg _ (yl (not_lt.1 h) g)) fun h =>
    ite_congr rfl amode fun h40 => ite_congr rfl (fun g => congrArg _ (sc g)) fun h41 => ite_congr rfl (fun g => congrArg _ (bexp g)) fun h42 =>
    ite_congr rfl esr fun h43 => ite_congr rfl (fun g => congrArg _ (lc (by omega) g)) fun h =>
    ite_congr rfl (fun g => congrArg _ (ls (not_lt.1 h) g)) fun h => ite_congr rfl (fun g => congrArg _ (le (not_lt.1 h) g)) fun h =>
    congrArg _ (ldepth (by omega))

/-- A write of a control register leaves the others as they are. -/
theorem Engine.getCtl_setCtl_other {c c' : Fin 57} (h : c' ≠ c) (v : Nat) : (e.setCtl c v).getCtl c' = e.getCtl c' := by
  have ne : c.val ≠ c'.val := fun g => h (Fin.ext g.symm)
  apply Engine.setCtl_cases (P := fun x => x.getCtl c' = e.getCtl c')
  case xa => exact fun _ => Engine.getCtl_congr (xa := fun _ => set!_get!_other _ _ ne)
  case ya => exact fun _ _ => Engine.getCtl_congr (ya := fun _ _ => set!_get!_other _ _ (by omega))
  case xm => exact fun _ _ => Engine.getCtl_congr (xm := fun _ _ => set!_get!_other _ _ (by omega))
  case ym => exact fun _ _ => Engine.getCtl_congr (ym := fun _ _ => set!_get!_other _ _ (by omega))
  case xb => exact fun _ _ => Engine.getCtl_congr (xb := fun _ _ => set!_get!_other _ _ (by omega))
  case yb => exact fun _ _ => Engine.getCtl_congr (yb := fun _ _ => set!_get!_other _ _ (by omega))
  case xl => exact fun _ _ => Engine.getCtl_congr (xl := fun _ _ => set!_get!_other _ _ (by omega))
  case yl => exact fun _ _ => Engine.getCtl_congr (yl := fun _ _ => set!_get!_other _ _ (by omega))
  case amode => exact fun g => Engine.getCtl_congr (amode := fun g' => absurd (g.trans g'.symm) ne)
  case sc => exact fun g => Engine.getCtl_congr (sc := fun g' => absurd (g.trans g'.symm) ne)
  case bexp => exact fun g => Engine.getCtl_congr (bexp := fun g' => absurd (g.trans g'.symm) ne)
  case esr => exact fun g => Engine.getCtl_congr (esr := fun g' => absurd (g.trans g'.symm) ne)
  case lc => exact fun _ _ => Engine.getCtl_congr (lc := fun _ _ => set!_get!_other _ _ (by omega))
  case ls => exact fun _ _ => Engine.getCtl_congr (ls := fun _ _ => set!_get!_other _ _ (by omega))
  case le => exact fun _ _ => Engine.getCtl_congr (le := fun _ _ => set!_get!_other _ _ (by omega))
  case ldepth => exact fun g => Engine.getCtl_congr (ldepth := fun g' => absurd (g.trans g'.symm) ne)

theorem set!_get!_same {α : Type} [Inhabited α] {n : Nat} (x : Vector α n) {i : Nat} (a : α) (h : i < n) : (x.set! i a)[i]! = a := by
  simp [h]

/-- Bits of a control register. -/
def ctlWidth (c : Nat) : Nat :=
  if c < 16 then 14 else if c < 24 then 16 else if c < 40 then 14 else if c = 40 then 32
  else if c = 41 then 5 else if c < 48 then 16 else if c < 56 then 11 else 3

/-- Whether MOVFC reads a control register as a signed value (R185). -/
def ctlSigned (c : Nat) : Prop := (16 ≤ c ∧ c < 24) ∨ c = 41 ∨ c = 42

/-- `y` is what MOVFC reads of control register `c` when `v` was written: the low bits that fit, extended. -/
def ReadsBack (c v : Nat) (y : W32) : Prop :=
  (¬ ctlSigned c → y = (BitVec.ofNat (ctlWidth c) v).zeroExtend 32) ∧ (ctlSigned c → y = (BitVec.ofNat (ctlWidth c) v).signExtend 32)

theorem ReadsBack.unsigned {c v n : Nat} {x : BitVec n} (hx : x = BitVec.ofNat n v) (hn : ctlWidth c = n := by grind [ctlWidth])
    (hs : ¬ ctlSigned c := by unfold ctlSigned; omega) : ReadsBack c v (x.setWidth 32) := by
  subst hn hx
  exact ⟨fun _ => rfl, fun h => absurd h hs⟩

theorem ReadsBack.signed {c v n : Nat} {x : BitVec n} (hx : x = BitVec.ofNat n v) (hn : ctlWidth c = n := by grind [ctlWidth])
    (hs : ctlSigned c := by unfold ctlSigned; omega) : ReadsBack c v (x.signExtend 32) := by
  subst hn hx
  exact ⟨fun h => absurd hs h, fun _ => rfl⟩

/-- AMODE takes all bits. -/
theorem ReadsBack.whole {c v : Nat} (hc : c = 40) : ReadsBack c v (BitVec.ofNat 32 v) := by
  subst hc
  exact ⟨fun _ => (BitVec.setWidth_eq _).symm, fun h => absurd h (by unfold ctlSigned; decide)⟩

/-- A control register other than ESR reads as what was written. -/
theorem Engine.getCtl_setCtl_same {c : Fin 57} (h : c.val ≠ 43) (v : Nat) : ReadsBack c.val v ((e.setCtl c v).getCtl c) := by
  apply Engine.setCtl_cases (P := fun x => ReadsBack c.val v (x.getCtl c))
  case esr => exact fun g => absurd g h
  case amode =>
    intro g
    simp (disch := omega) only [Engine.getCtl, if_pos, if_neg]
    exact .whole g
  all_goals
    intros
    simp (disch := omega) only [Engine.getCtl, if_pos, if_neg, set!_get!_same]
  case xm | ym | sc | bexp => exact .signed rfl
  all_goals exact .unsigned rfl

/-- MOVTC keeps IN_LOCK (R154). -/
theorem esrWrite_locked (x : W32) (v : Nat) : nbit (esrWrite x v).toNat 22 = nbit x.toNat 22 := by
  have mask : (0xFFB87C00 : W32).toNat.testBit 22 = false := by decide
  have own : (0x00400000 : W32).toNat.testBit 22 = true := by decide
  rw [nbit_eq_testBit, nbit_eq_testBit, esrWrite, BitVec.toNat_or, BitVec.toNat_and, BitVec.toNat_and, Nat.testBit_or, Nat.testBit_and,
    Nat.testBit_and, mask, own, Bool.and_true, Bool.and_false, Bool.or_false]

/-! ### Values -/

theorem mul_ofNat (x y : W32) : BitVec.ofNat 32 (x.toNat * y.toNat) = x * y :=
  BitVec.eq_of_toNat_eq (by rw [BitVec.toNat_ofNat, BitVec.toNat_mul])

/-- The upper half of the product of 64 bits is the product's quotient by 2^32. -/
theorem mulh_extract (x y : W32) :
    (x.signExtend 64 * y.signExtend 64).extractLsb' 32 32 = BitVec.ofInt 32 (x.toInt * y.toInt / 2 ^ 32) := by
  have prod : x.signExtend 64 * y.signExtend 64 = BitVec.ofInt 64 (x.toInt * y.toInt) := by
    rw [BitVec.signExtend, BitVec.signExtend, BitVec.ofInt_mul]
  rw [prod]
  refine BitVec.eq_of_toNat_eq ?_
  simp only [BitVec.extractLsb'_toNat, BitVec.toNat_ofInt, Nat.shiftRight_eq_div_pow]
  omega

theorem ite_toInt_le (x y : W32) : (if x.toInt ≤ y.toInt then x else y) = if y.toInt < x.toInt then y else x :=
  (if_congr not_lt.symm rfl rfl).trans (ite_not _ _ _)

theorem ite_toInt_ge (x y : W32) : (if x.toInt ≥ y.toInt then x else y) = if x.toInt < y.toInt then y else x :=
  (if_congr not_lt.symm rfl rfl).trans (ite_not _ _ _)

theorem toNat_setWidth_mod (n : BitVec 5) : (n.setWidth 18).toNat % 32 = n.toNat := by
  rw [BitVec.toNat_setWidth_of_le (by decide), Nat.mod_eq_of_lt n.isLt]

theorem condHolds_iff (c : Fin 7) (x : W32) : condHolds c x = true ↔ c = 0 ∨ (c = 1 ∧ x.toInt = 0) ∨ (c = 2 ∧ x.toInt ≠ 0) ∨
    (c = 3 ∧ x.toInt < 0) ∨ (c = 4 ∧ 0 ≤ x.toInt) ∨ (c = 5 ∧ 0 < x.toInt) ∨ (c = 6 ∧ x.toInt ≤ 0) := by
  have zero : x = 0#32 ↔ x.toInt = 0 := BitVec.toInt_inj.symm
  fin_cases c <;> simp [condHolds, zero]

theorem lui_append (x : W32) (imm : BitVec 16) : imm.setWidth 32 <<< 16 ||| (x &&& 0xFFFF) = imm ++ x.setWidth 16 := by
  have high : (imm.setWidth 32 <<< 16).toNat = imm.toNat <<< 16 := by
    have := imm.isLt
    rw [BitVec.toNat_shiftLeft, BitVec.toNat_setWidth_of_le (by decide), Nat.shiftLeft_eq]
    exact Nat.mod_eq_of_lt (by omega)
  have low : (x &&& 0xFFFF).toNat = (x.setWidth 16).toNat := by
    rw [BitVec.toNat_and, BitVec.toNat_setWidth]
    exact Nat.and_two_pow_sub_one_eq_mod x.toNat 16
  exact BitVec.eq_of_toNat_eq (by rw [BitVec.toNat_or, high, low, BitVec.toNat_append])

/-- What BFOPEN leaves of ESR: the bits below the block's fields. -/
theorem bfopen_esr (x : W32) (g : Fin 8) : (x &&& 0x007FFFFF) ||| BitVec.ofNat 32 (2 ^ 31 + g.val * 2 ^ 28 + 31 * 2 ^ 23) =
    setField (setField (setField x 31 31 1) 30 28 g.val) 27 23 31 := by
  have low : (x &&& 0x007FFFFF).toNat = x.toNat % 2 ^ 23 := by
    rw [BitVec.toNat_and]
    exact Nat.and_two_pow_sub_one_eq_mod x.toNat 23
  have high : (BitVec.ofNat 32 (2 ^ 31 + g.val * 2 ^ 28 + 31 * 2 ^ 23)).toNat = 2 ^ 23 * (2 ^ 8 + g.val * 2 ^ 5 + 31) := by
    rw [BitVec.toNat_ofNat]
    omega
  have on : (setField x 31 31 1).toNat = 2 ^ 31 + x.toNat % 2 ^ 31 := by
    rw [setField, BitVec.toNat_ofNat]
    omega
  have guard : (setField (setField x 31 31 1) 30 28 g.val).toNat = 2 ^ 31 + g.val * 2 ^ 28 + x.toNat % 2 ^ 28 := by
    rw [setField, BitVec.toNat_ofNat, on]
    omega
  have least : (setField (setField (setField x 31 31 1) 30 28 g.val) 27 23 31).toNat =
      2 ^ 31 + g.val * 2 ^ 28 + 31 * 2 ^ 23 + x.toNat % 2 ^ 23 := by
    rw [setField, BitVec.toNat_ofNat, guard]
    omega
  refine BitVec.eq_of_toNat_eq ?_
  rw [BitVec.toNat_or, low, high, Nat.or_comm, ← Nat.two_pow_add_eq_or_of_lt (Nat.mod_lt _ (by decide)), least]
  omega

theorem setField_locked (x : W32) {hi lo : Nat} (v : Nat) (hl : lo ≤ hi) (hw : hi < 32) (h : 22 < lo) :
    nbit (setField x hi lo v).toNat 22 = nbit x.toNat 22 := by
  rw [nbit_eq_testBit, nbit_eq_testBit, testBit_setField x v 22 hl hw, if_pos h]

theorem ofNat_stat (c : Chan) : BitVec.ofNat 32 c.stat = BitVec.ofNat 32 c.statLow := by
  refine BitVec.eq_of_toNat_eq ?_
  rw [BitVec.toNat_ofNat, BitVec.toNat_ofNat, Chan.stat]
  omega

/-! ### The end of the bundle -/

theorem Engine.straight.setScalars (h : e.straight) (t : Vector W32 16) : ({ e with s := t } : Engine).straight := h
theorem Engine.straight.setVectors (h : e.straight) (t : Vector Lanes 16) : ({ e with v := t } : Engine).straight := h
theorem Engine.straight.kick (h : e.straight) : e.kick.straight := h
theorem Engine.straight.setEsr (h : e.straight) {v : W32} (hv : nbit v.toNat 22 = nbit e.esr.toNat 22) :
    ({ e with esr := v } : Engine).straight := ⟨hv.trans h.1, h.2⟩
theorem Engine.straight.setBlock (h : e.straight) (sc : BitVec 5) (bexp : BitVec 16) : ({ e with sc := sc, bexp := bexp } : Engine).straight := h

/-- Outside locked sequences and loop ends the bundle goes on to the next. -/
theorem Engine.ended_straight (h : x.straight) : x.ended none false false = { x with pc := x.pc + 1, skipHit := false } := by
  obtain ⟨unlocked, -, loops⟩ := h
  have left : x.leave none false = (x, x.pc + 1) := Engine.endLoop_none loops 4
  rw [Engine.ended, left]
  exact Engine.counted_unlocked unlocked

/-- A transfer goes where it says. -/
theorem Engine.ended_jump (h : x.locked = false) {pc : BitVec 11} : x.ended (some pc) false false = { x with pc := pc, skipHit := false } :=
  Engine.counted_unlocked h

/-- So does the return from a handler, which ends. -/
theorem Engine.ended_return (h : x.locked = false) {pc : BitVec 11} :
    x.ended (some pc) false true = { x with inTrap := false, pc := pc, skipHit := false } :=
  Engine.counted_unlocked h

/-! ### Rows -/

section
variable {c : Instr} {i : Fin 256} (hc : exec c s = issueCtl i ctl s) (hs : (s.eng i.val).straight)
include hc hs

/-- A row that writes registers, ESR or the watchdog. -/
theorem issuesTo_straight (ho : (s.eng i.val).ctlOut ctl = { writes := w, esr := r, kick := k }) (hx : (s.eng i.val).slotted w r k = x)
    (hst : x.straight) : s.issuesTo c i.val { c := ctl } x ((s.eng i.val).pc + 1) := by
  have pc : x.pc = (s.eng i.val).pc := hx ▸ Engine.RunsAs.slotted.1
  exact issuesTo_ctl hc ho (.inl hs.1) hx (by rw [Engine.ended_straight hst, pc])

/-- A row that writes a scalar. -/
theorem issuesTo_scalar {d : Fin 16} {v v' : W32} (ho : (s.eng i.val).ctlOut ctl = { writes := [.sca d v'] }) (hv : v' = v) :
    s.issuesTo c i.val { c := ctl } { s.eng i.val with s := (s.eng i.val).s.set d v } ((s.eng i.val).pc + 1) :=
  issuesTo_straight (r := none) (k := false) hc hs ho (by rw [hv]; rfl) (hs.setScalars _)

/-- A row that transfers. -/
theorem issuesTo_jump {pc : BitVec 11} (ho : (s.eng i.val).ctlOut ctl = { writes := w, go := some pc })
    (hx : (s.eng i.val).slotted w none false = x) (hl : x.locked = false) : s.issuesTo c i.val { c := ctl } x pc :=
  issuesTo_ctl hc ho (.inl hs.1) hx (Engine.ended_jump hl)
end

section
variable {i : Fin 256} (hs : (s.eng i.val).straight)
include hs

theorem issuesTo_br {c : Fin 7} {a : Fin 16} {target pc : BitVec 11}
    (hp : pc = if condHolds c (s.eng i.val).s[a] then target else (s.eng i.val).pc + 1) :
    s.issuesTo (.br i c a target) i.val { c := .br c a target } (s.eng i.val) pc := by
  subst hp
  by_cases h : condHolds c (s.eng i.val).s[a] = true
  · rw [if_pos h]
    exact issuesTo_jump rfl hs (if_pos h) rfl hs.1
  · rw [if_neg h]
    exact issuesTo_straight rfl hs (if_neg h) rfl hs

theorem issuesTo_rti : let e := s.eng i.val
    s.issuesTo (.rti i) i.val { c := .rti } { e with inTrap := false } (if e.inTrap then e.tpc else e.pc + 1) := by
  intro e
  cases h : e.inTrap with
  | true => exact issuesTo_ctl (ctl := .rti) (t := true) rfl (if_pos h) (.inl hs.1) rfl (Engine.ended_return hs.1)
  | false =>
    have same : ({ e with inTrap := false } : Engine) = e := by rw [← h]
    rw [same]
    exact issuesTo_straight rfl hs (if_neg (by rw [h]; decide)) rfl hs

theorem issuesTo_bfopen (g : Fin 8) : let e := s.eng i.val
    s.issuesTo (.bfopen i g) i.val { c := .bfopen g }
      { e with esr := setField (setField (setField e.esr 31 31 1) 30 28 g.val) 27 23 31 } (e.pc + 1) := by
  intro e
  have unlocked : nbit (setField (setField (setField e.esr 31 31 1) 30 28 g.val) 27 23 31).toNat 22 = nbit e.esr.toNat 22 := by
    rw [setField_locked _ _ (by decide) (by decide) (by decide), setField_locked _ _ (by decide) (by decide) (by decide),
      setField_locked _ _ (by decide) (by decide) (by decide)]
  have slot : e.ctlOut (.bfopen g) = { esr := some (setField (setField (setField e.esr 31 31 1) 30 28 g.val) 27 23 31) } :=
    congrArg (fun v => ({ esr := some v } : CtlOut)) (bfopen_esr e.esr g)
  exact issuesTo_straight rfl hs slot rfl (hs.setEsr unlocked)

theorem issuesTo_bfclose : let e := s.eng i.val
    let sc : Int := min 15 (max (-15) ((nfield e.esr.toNat 27 23 : Int) - nfield e.esr.toNat 30 28))
    s.issuesTo (.bfclose i) i.val { c := .bfclose }
      { e with
        sc := BitVec.ofInt 5 sc, bexp := BitVec.ofInt 16 (max (min (e.bexp.toInt - sc) 32767) (-32768))
        esr := setField e.esr 27 23 31 } (e.pc + 1) := by
  intro e sc
  have unlocked : nbit (setField e.esr 27 23 31).toNat 22 = nbit e.esr.toNat 22 :=
    setField_locked _ _ (by decide) (by decide) (by decide)
  have slot : e.ctlOut .bfclose = {
      writes := [.ctl 41 (BitVec.ofInt 5 sc).toNat, .ctl 42 (BitVec.ofInt 16 (max (min (e.bexp.toInt - sc) 32767) (-32768))).toNat]
      esr := some (setField e.esr 27 23 31) } := rfl
  have written (p : BitVec 5) (q : BitVec 16) (v : W32) :
      e.slotted [.ctl 41 p.toNat, .ctl 42 q.toNat] (some v) false = { e with sc := p, bexp := q, esr := v } := by
    have block : e.writes [.ctl 41 p.toNat, .ctl 42 q.toNat] = { e with sc := BitVec.ofNat 5 p.toNat, bexp := BitVec.ofNat 16 q.toNat } := rfl
    rw [Engine.slotted, block, BitVec.ofNat_toNat, BitVec.ofNat_toNat, BitVec.setWidth_eq, BitVec.setWidth_eq]
    rfl
  exact issuesTo_straight rfl hs slot (written _ _ _) ((hs.setBlock _ _).setEsr unlocked)
end

/-- Settles O17, row by row. -/
theorem scalarSlots : Obligations.ScalarSlots := by
  unfold Obligations.ScalarSlots
  intro s i e next go sca hs
  have scalar {c : Instr} {ctl : Ctl} {d : Fin 16} {v v' : W32} (hc : exec c s = issueCtl i ctl s)
      (ho : e.ctlOut ctl = { writes := [.sca d v'] }) (hv : v' = v) : sca c ctl d v := issuesTo_scalar hc hs ho hv
  refine ⟨issuesTo_straight rfl hs rfl rfl hs, fun d a b => ?alu, fun d a imm => ?alui, fun d a n => ?shift,
    fun d imm => scalar rfl rfl rfl, fun d imm => scalar rfl rfl (lui_append _ _), fun d a l => ⟨scalar rfl rfl rfl, ?vins⟩,
    fun q c => ⟨fun hx => ?movtc, scalar rfl rfl rfl⟩, fun c c' v h => Engine.getCtl_setCtl_other h v, fun c v h => ?same,
    fun v => esrWrite_locked e.esr v, fun c a target => ?br, fun target => ?call, ?ret, issuesTo_rti hs, ?wdk,
    fun d ch => scalar rfl rfl (ofNat_stat _).symm, issuesTo_bfopen hs, issuesTo_bfclose hs⟩
  case alu =>
    exact ⟨scalar rfl rfl rfl, scalar rfl rfl rfl, scalar rfl rfl rfl, scalar rfl rfl rfl, scalar rfl rfl rfl, scalar rfl rfl rfl,
      scalar rfl rfl rfl, scalar rfl rfl rfl, scalar rfl rfl (mul_ofNat _ _).symm, scalar rfl rfl (mulh_extract _ _).symm, scalar rfl rfl rfl,
      scalar rfl rfl rfl, scalar rfl rfl (ite_toInt_le _ _), scalar rfl rfl (ite_toInt_ge _ _)⟩
  case alui => exact ⟨scalar rfl rfl rfl, scalar rfl rfl rfl, scalar rfl rfl rfl⟩
  case shift =>
    exact ⟨scalar rfl rfl (congrArg (e.s[a] <<< ·) (toNat_setWidth_mod n)), scalar rfl rfl (congrArg (e.s[a] >>> ·) (toNat_setWidth_mod n)),
      scalar rfl rfl (congrArg e.s[a].sshiftRight (toNat_setWidth_mod n))⟩
  case vins => exact issuesTo_straight rfl hs rfl rfl (hs.setVectors _)
  case movtc => exact issuesTo_straight rfl hs rfl rfl hx
  case same =>
    obtain ⟨unsigned, signed⟩ := Engine.getCtl_setCtl_same (e := e) h v
    exact iteInduction (motive := fun y => (e.setCtl c v).getCtl c = y) signed unsigned
  case br => exact issuesTo_br hs (if_congr (condHolds_iff c e.s[a]).symm rfl rfl)
  case call => exact issuesTo_jump rfl hs rfl rfl hs.1
  case ret => exact issuesTo_jump rfl hs rfl rfl hs.1
  case wdk => exact issuesTo_straight rfl hs rfl rfl hs.kick

end Sys2Proof.Machine
end

section
/-!
Hardware loops (R157, R194, R195; O18): what a push leaves, the trap at depth 4, and the end of a body.
-/

namespace Sys2Proof.Machine

-- One proof at a time, as in the tests: side by side with those before they exceed the memory that the check allows.
set_option Elab.async false

variable {s : State} {e x y : Engine} {ctl : Ctl} {w : List RegWrite} {pc : BitVec 11}

/-! ### Pushes and LEXIT -/

section
variable {d : Nat} (hd : d < 4) (v : Nat)
include hd

theorem Engine.setCtl_lc : e.setCtl (Fin.ofNat 57 (44 + d)) v = { e with lc := e.lc.set! d (BitVec.ofNat 16 v) } := by
  interval_cases d <;> rfl

theorem Engine.setCtl_ls : e.setCtl (Fin.ofNat 57 (48 + d)) v = { e with ls := e.ls.set! d (BitVec.ofNat 11 v) } := by
  interval_cases d <;> rfl

theorem Engine.setCtl_le : e.setCtl (Fin.ofNat 57 (52 + d)) v = { e with le := e.le.set! d (BitVec.ofNat 11 v) } := by
  interval_cases d <;> rfl
end

/-- The engine with a loop pushed: its count, its first and its last bundle, and the depth (R194). -/
def Engine.pushed (e : Engine) (n : BitVec 16) (len : BitVec 10) : Engine :=
  { e with
    lc := e.lc.set! e.depth n
    ls := e.ls.set! e.depth (e.pc + 1)
    le := e.le.set! e.depth (e.pc + 1 + len.zeroExtend 11)
    ldepth := BitVec.ofNat 3 (e.depth + 1) }

theorem ofNat_next (pc : BitVec 11) : BitVec.ofNat 11 (pc.toNat + 1) = pc + 1 :=
  BitVec.eq_of_toNat_eq (by rw [BitVec.toNat_ofNat, BitVec.toNat_add]; rfl)

theorem ofNat_last (pc : BitVec 11) (len : BitVec 10) : BitVec.ofNat 11 (pc.toNat + 1 + len.toNat) = pc + 1 + len.zeroExtend 11 := by
  rw [BitVec.ofNat_add, ofNat_next]
  exact congrArg (pc + 1 + ·) (BitVec.eq_of_toNat_eq (by rw [BitVec.toNat_ofNat]; exact (BitVec.toNat_setWidth ..).symm))

/-- The registers that a push writes. -/
def Engine.pushWrites (e : Engine) (n : BitVec 16) (len : BitVec 10) : List RegWrite :=
  [.ctl (Fin.ofNat 57 (44 + e.depth)) n.toNat, .ctl (Fin.ofNat 57 (48 + e.depth)) (e.pc.toNat + 1),
    .ctl (Fin.ofNat 57 (52 + e.depth)) (e.pc.toNat + 1 + len.toNat), .ctl 56 (e.depth + 1)]

theorem Engine.pushLoop_below (h : e.depth < 4) (n : BitVec 16) (len : BitVec 10) :
    e.pushLoop n len = { writes := e.pushWrites n len, noEnd := true } :=
  if_neg (Nat.ne_of_lt h)

theorem Engine.pushLoop_full (h : e.depth = 4) (n : BitVec 16) (len : BitVec 10) : e.pushLoop n len = { loopOvf := true } := if_pos h

theorem Engine.slotted_push (h : e.depth < 4) (n : BitVec 16) (len : BitVec 10) :
    e.slotted (e.pushWrites n len) none false = e.pushed n len := by
  have written : e.writes (e.pushWrites n len) = e.pushed n len := by
    simp only [Engine.pushWrites, Engine.writes, List.foldl_cons, List.foldl_nil, Engine.write, Engine.setCtl_lc h, Engine.setCtl_ls h,
      Engine.setCtl_le h, BitVec.ofNat_toNat, BitVec.setWidth_eq, ofNat_next, ofNat_last]
    rfl
  rw [Engine.slotted, written]
  rfl

/-- A popped loop leaves the next lower one innermost. -/
theorem Engine.depth_popped : ({ e with ldepth := BitVec.ofNat 3 (e.depth - 1) } : Engine).depth = e.depth - 1 := by
  have le : e.depth ≤ 4 := Nat.min_le_left _ _
  rw [Engine.depth, BitVec.toNat_ofNat]
  omega

/-! ### The end of a body -/

section
variable (hd : 0 < e.depth) (hp : e.le[e.depth - 1]! = pc) (m : Nat)
include hd hp

/-- A count other than 1, 0 among them, is decremented and the body begins again. -/
theorem Engine.endLoop_again (hl : e.lc[e.depth - 1]! ≠ 1) :
    e.endLoop pc (m + 1) = ({ e with lc := e.lc.set! (e.depth - 1) (e.lc[e.depth - 1]! - 1) }, e.ls[e.depth - 1]!) :=
  (if_neg hd.ne').trans ((if_neg (by simp [hp])).trans (if_neg hl))

/-- A count of 1 ends the loop, and the next is looked at. -/
theorem Engine.endLoop_last (hl : e.lc[e.depth - 1]! = 1) :
    e.endLoop pc (m + 1) = ({ e with ldepth := BitVec.ofNat 3 (e.depth - 1) } : Engine).endLoop pc m :=
  (if_neg hd.ne').trans ((if_neg (by simp [hp])).trans (if_pos hl))
end

/-! ### The commands -/

/-- The engine `x` that a bundle of `e` leaves, with the bundle counted inside a locked sequence. -/
def Engine.tally (e x : Engine) : Engine := { x with lockBundles := if e.locked then e.lockBundles + 1 else e.lockBundles }

/-- A loop instruction or LEXIT goes on to the next bundle without a look at the loops (R195). -/
theorem Engine.ended_noEnd (hl : x.locked = e.locked) (hb : x.lockBundles = e.lockBundles) :
    x.ended none true false = { e.tally x with pc := x.pc + 1, skipHit := false } := by
  have counted : x.ended none true false = Engine.counted { x with pc := x.pc + 1, skipHit := false } := rfl
  rw [counted, Engine.counted_eq, Engine.tally, ← hl, ← hb]
  rfl

/-- Another bundle goes on where the loops that end at it say. -/
theorem Engine.ended_loops (h : e.endLoop e.pc 5 = (x, pc)) (hl : x.locked = e.locked) (hb : x.lockBundles = e.lockBundles) :
    e.ended none false false = { e.tally x with pc := pc, skipHit := false } := by
  have left : e.leave none false = (x, pc) := h
  rw [Engine.ended, left, Engine.counted_eq, Engine.tally, ← hl, ← hb]
  rfl

section
variable {c : Instr} {i : Fin 256} (hc : exec c s = issueCtl i ctl s)
  (hl : (s.eng i.val).locked = false ∨ (s.eng i.val).lockBundles < 64)
include hc hl

theorem issuesTo_noEnd (ho : (s.eng i.val).ctlOut ctl = { writes := w, noEnd := true }) (hx : (s.eng i.val).slotted w none false = x)
    (hk : x.locked = (s.eng i.val).locked) (hb : x.lockBundles = (s.eng i.val).lockBundles) :
    s.issuesTo c i.val { c := ctl } ((s.eng i.val).tally x) ((s.eng i.val).pc + 1) := by
  have pc : x.pc = (s.eng i.val).pc := hx ▸ Engine.RunsAs.slotted.1
  exact issuesTo_ctl hc ho hl hx (by rw [Engine.ended_noEnd hk hb, pc])

/-- A push below depth 4. -/
theorem issuesTo_push {n : BitVec 16} {len : BitVec 10} (hd : (s.eng i.val).depth < 4)
    (ho : (s.eng i.val).ctlOut ctl = (s.eng i.val).pushLoop n len) :
    s.issuesTo c i.val { c := ctl } ((s.eng i.val).tally ((s.eng i.val).pushed n len)) ((s.eng i.val).pc + 1) :=
  issuesTo_noEnd hc hl (ho.trans (Engine.pushLoop_below hd n len)) (Engine.slotted_push hd n len) rfl rfl
end

section
variable {i : Fin 256} (hl : (s.eng i.val).locked = false ∨ (s.eng i.val).lockBundles < 64)
include hl

theorem issuesTo_lexit (hd : 0 < (s.eng i.val).depth) : let e := s.eng i.val
    s.issuesTo (.lexit i) i.val { c := .lexit } (e.tally { e with ldepth := BitVec.ofNat 3 (e.depth - 1) }) (e.pc + 1) :=
  issuesTo_noEnd rfl hl (if_neg hd.ne') rfl rfl rfl

theorem issuesTo_lexit_empty (hd : (s.eng i.val).depth = 0) :
    s.issuesTo (.lexit i) i.val { c := .lexit } ((s.eng i.val).tally (s.eng i.val)) ((s.eng i.val).pc + 1) :=
  issuesTo_noEnd (w := []) rfl hl (if_pos hd) rfl rfl rfl

/-- An empty bundle shows the end of a body alone. -/
theorem issuesTo_nop_loops (h : (s.eng i.val).endLoop (s.eng i.val).pc 5 = (x, pc)) (hk : x.locked = (s.eng i.val).locked)
    (hb : x.lockBundles = (s.eng i.val).lockBundles) : s.issuesTo (.nop i) i.val {} ((s.eng i.val).tally x) pc :=
  issuesTo_ctl (w := []) (r := none) (k := false) rfl rfl hl rfl (Engine.ended_loops h hk hb)
end

/-! ### The trap -/

section
variable {c : Instr} {i : Fin 256} {n : BitVec 16} {len : BitVec 10} (hc : exec c s = issueCtl i ctl s) (hd : (s.eng i.val).depth = 4)
  (ho : (s.eng i.val).ctlOut ctl = (s.eng i.val).pushLoop n len)
include hc hd ho

/-- At depth 4 a push traps LOOP_OVF and does nothing else. -/
theorem exec_push_full (h : s.ready i.val { c := ctl }) : exec c s = .next (s.trap i.val 4) := by
  have overflow : (s.eng i.val).trapOf { c := ctl } = 4 := Engine.trapOf_ctl (ho.trans (Engine.pushLoop_full hd n len))
  have trapped := h.trap (want := fun b => b.c == ctl) (beq_self_eq_true ctl) (by rw [overflow]; decide)
  rw [overflow] at trapped
  exact hc.trans (congrArg Host.Outcome.next trapped)

theorem issuesTo_overflow (ht : (s.eng i.val).trapEn = true) (hi : (s.eng i.val).inTrap = false) :
    s.issuesTo c i.val { c := ctl } { (s.eng i.val).cut with tpc := (s.eng i.val).retry, trapCause := 4, inTrap := true } (s.eng i.val).vec :=
  fun h => .intro (exec_push_full hc hd ho h) (by
    obtain ⟨he, hr, -, -, hp, -⟩ := h
    exact State.trap_taken he hr hp ht hi)

theorem gives_overflow_fault (ht : (s.eng i.val).trapEn = false ∨ (s.eng i.val).inTrap = true) (h : s.ready i.val { c := ctl }) :
    Gives c s (fun t => t = (s.setEng i.val { (s.eng i.val).cut with
      pc := (s.eng i.val).retry, state := 1, fault := true, cause := 4 }).toCairn 0x13 (srcIsland i.val) sevMajor (s.eng i.val).retry.toNat) :=
  .intro (exec_push_full hc hd ho h) (by
    obtain ⟨-, hr, -, -, hp, -⟩ := h
    exact State.trap_faults hr hp ht)
end

/-- Settles O18: the trap at depth 4, pushes, LEXIT, and the end of a body by the counts of the innermost loops. -/
theorem loopSlots : Obligations.LoopSlots := by
  unfold Obligations.LoopSlots
  intro s i e counted push inner at_ cut overflows
  refine ⟨fun hd n a len => ⟨⟨fun ht hi => issuesTo_overflow rfl hd rfl ht hi, fun ht h => gives_overflow_fault rfl hd rfl ht h⟩,
    fun ht hi => issuesTo_overflow rfl hd rfl ht hi, fun ht h => gives_overflow_fault rfl hd rfl ht h⟩,
    fun hl => ⟨fun hd n a len => ⟨issuesTo_push rfl hl hd rfl, issuesTo_push rfl hl hd rfl⟩, issuesTo_lexit hl, issuesTo_lexit_empty hl,
      fun hd hp => ⟨fun h1 => ?again, fun h1 hn => ?last, fun h1 hi hn h2 => ?outer⟩⟩, rfl⟩
  case again => exact issuesTo_nop_loops hl (Engine.endLoop_again hd hp 4 h1) rfl rfl
  case last =>
    have popped := (Engine.endLoop_last hd hp 4 h1).trans (Engine.endLoop_none (by rwa [Engine.depth_popped]) 3)
    exact issuesTo_nop_loops hl popped rfl rfl
  case outer =>
    have popped := (Engine.endLoop_last hd hp 4 h1).trans
      (Engine.endLoop_again (by rwa [Engine.depth_popped]) (by rwa [Engine.depth_popped]) 3 (by rwa [Engine.depth_popped]))
    rw [Engine.depth_popped] at popped
    exact issuesTo_nop_loops hl popped rfl rfl

end Sys2Proof.Machine
end

section
/-!
What a search step leaves (O23): a lane that holds a NaN under an index that is not 0xFFFF, as no search leaves one but a load can.
-/

namespace Sys2Proof.Machine

-- One proof at a time, as in the tests: side by side with those before they exceed the memory that the check allows.
set_option Elab.async false

/-- The engine of island 5 stands before VSRCH V0, V2, V1 of lane 0, a binary32 minimum search. Lane 0 holds a NaN with index 0; the
candidate is +0 with index 0. -/
def searchingNaN : State :=
  (((State.reset.put (SWB_ISL_STAT.STATE 5) 3).put (CLK_ISL_STAT.RUNNING 5) 31).setEng 5
    { state := 2, v := (Vector.replicate 16 (Vector.replicate 8 0)).set 0 (Vector.replicate 8 qNaN) }).storeWord (progWord 5 0) 0xC40840040001

theorem searchingNaN_ready : searchingNaN.ready 5 { v := { op := .vsrch, d := 0, a := 2, b := 1, wm := 1, imm := 1 } } := by
  unfold State.ready State.quiet; and_intros <;> decide +kernel

/-- Nothing is better than a NaN or equal to it (R191), and the lane keeps it. -/
theorem searchingNaN_lane : ((landed searchingNaN (exec (.vsrch 5 0 2 1 1 1) searchingNaN)).eng 5).v[0][0] = qNaN := by
  decide +kernel

/-- Refutes O23: the statement compares a candidate with a NaN by `fLt`, an order of numbers that are no NaN, which has +0 below it, and
nothing in the statement keeps a NaN out of the lanes that VSRCH searches. -/
theorem not_searchSlots : ¬ Obligations.SearchSlots := by
  unfold Obligations.SearchSlots
  intro h
  obtain ⟨-, search, -⟩ := h searchingNaN 5 1 1 0 (by unfold Engine.straight; decide +kernel)
  obtain ⟨-, -, -, -, -, lanes, -⟩ := (search 2 1 searchingNaN_ready).landed
  obtain ⟨value, -⟩ := lanes 0
  exact absurd (searchingNaN_lane.symm.trans value) (by decide +kernel)

end Sys2Proof.Machine
end
